-- ==== Sys2Proof/Word.lean ====
section
/-!
DEFINITION. The word types of the model: bytes, masks, and sparse maps in one canonical form.

Audio words (H-format, R111) and coefficients (C-format, R112) are integers held in their ranges by the
saturating operations of Machine/Fixed.lean; quantities the manual evaluates in binary32 or binary64 are
rationals rounded by Machine/Real.lean.
-/
namespace Sys2Proof

/-- One byte of a record or a payload (R5: little-endian in Efvex records). -/
abbrev Byte := BitVec 8

/-- A payload or a record as the host writes it. -/
abbrev Bytes := List Byte

/-- A sparse table: keys strictly rising, no entry equal to what an unlisted key reads as. -/
abbrev SMap (α : Type) := List (Nat × α)

end Sys2Proof
end

