-- ==== Sys2Proof/Types/Io.lean ====
section
/-!
DEFINITION. Local input and output types (chapter 15) and pad groups (Table 16.10).
-/
namespace Sys2Proof

/-- Analogue input, Table 15.2. `want` is a gain accepted and not yet switched (R405). -/
structure AnaIn where
  gain    : Nat := 0
  want    : Option Nat := none
  phantom : Bool := false
  /-- P12 is rising or falling (R405) -/
  ramping : Bool := false
  channel : Nat := 65535
  /-- a binding waiting for the block boundary -/
  newChannel : Option Nat := none
  /-- bindings by the stamp they hold from, newest first -/
  binds   : List (Nat × Nat) := []
  clips   : Nat := 0
  peak    : Int := -14400
  overload : Bool := false
  fault   : Bool := false
  /-- samples presented and not yet caught, by stamp -/
  samples : SMap Int := []
deriving DecidableEq, Repr

/-- What the companion die does to an output (R408, R409), at a number of 384 kHz samples from its start: a span change goes down
in 5 ms, holds zero for 2 ms and comes back in 5 ms (Table 15.4); a current limit goes down in 1 ms and stays; a return comes back
in 5 ms. -/
inductive DieRamp where
  | steady
  | span (t : Nat)
  | limit (t : Nat)
  | back (t : Nat)
deriving DecidableEq, Repr

/-- Weight of the j-th sample from now, as a fraction. -/
def DieRamp.weight (r : DieRamp) (j : Nat) : Nat × Nat :=
  match r with
  | .steady => (1, 1)
  | .span t =>
    let t := t + j
    if t < 1920 then (1920 - t, 1920) else if t < 2688 then (0, 1) else if t < 4608 then (t - 2688, 1920) else (1, 1)
  | .limit t => if t + j < 384 then (384 - (t + j), 384) else (0, 1)
  | .back t => if t + j < 1920 then (t + j, 1920) else (1, 1)

/-- The ramp after n more samples. -/
def DieRamp.on (r : DieRamp) (n : Nat) : DieRamp :=
  match r with
  | .steady => .steady
  | .span t => .span (t + n)
  | .limit t => .limit (t + n)
  | .back t => if 1920 ≤ t + n then .steady else .back (t + n)

/-- A word under the ramp. -/
def DieRamp.word (r : DieRamp) (j : Nat) (w : Int) : Int := w * ((r.weight j).1 : Int) / ((r.weight j).2 : Int)

/-- Analogue output, Table 15.3. -/
structure AnaOut where
  span     : Nat := 0
  hold     : Bool := false
  clamps   : Nat := 0
  spanNow  : Nat := 0
  /-- the span a running change goes to, and the one waiting behind it (R408) -/
  change   : Option Nat := none
  waiting  : Option Nat := none
  limit    : Bool := false
  supply   : Bool := false
  ramp     : DieRamp := .steady
  /-- the span has been written once (R407) -/
  written  : Bool := false
  /-- the rendered signal of the present block in H-format, and the DAC words of the block at 384 kHz, oldest first -/
  heart    : List Int := []
  words    : List Int := []
  /-- sum of its short-path routes over the samples taken last, at 384 kHz (R168) -/
  short    : List Int := []
deriving DecidableEq, Repr

/-- Current loop, Table 15.5; `out` is the present output in µA, counters in milliseconds (R411). -/
structure Loop where
  mode     : Nat := 0
  condMask : Nat := 26
  value    : Nat := 0
  step     : Nat := 1000
  interval : Nat := 10
  okUa     : Nat := 16000
  warnUa   : Nat := 8000
  configured : Bool := false
  target   : Nat := 0
  out      : Nat := 0
  nowUa    : Nat := 0
  volts    : Nat := 0
  openF    : Bool := false
  compliance : Bool := false
  shortF   : Bool := false
  latched  : Bool := false
  count    : Nat := 0
  openMs   : Nat := 0
  shortMs  : Nat := 0
  compMs   : Nat := 0
  clearMs  : Nat := 0
  /-- step of the fall in SAFE (R410) -/
  fall     : Nat := 0
deriving DecidableEq, Repr

/-- TDM port, Table 15.6. -/
structure Tdm where
  role    : Nat := 0
  slots   : Nat := 8
  top     : Bool := false
  format  : Nat := 0
  inFirst : Nat := 65535
  newFirst : Option Nat := none
  binds   : List (Nat × Nat) := []
  syncErr : Nat := 0
  clamps  : Nat := 0
  /-- index of the last local fault raised for the port (at most one a second, R414) -/
  lastFault : Option Nat := none
  starved : Bool := false
  samples : SMap (List Int) := []
  words   : List (List Int) := []
deriving DecidableEq, Repr

/-- GPIO pin, Table 15.7 kind 0, and the level at the pin. -/
structure Pin where
  function : Nat := 0
  alarm    : Nat := 0
  level    : Bool := false
  pull     : Nat := 2
  drive    : Nat := 5
  filter   : Nat := 0
  pinLevel : Bool := false
  /-- an alarm input that its last change left asserted (R416) -/
  asserted : Bool := false
deriving DecidableEq, Repr

/-- Alarm plan, Table 15.7 kind 1. -/
structure AlarmPlan where
  assertP  : Bytes := []
  releaseP : Bytes := []
deriving DecidableEq, Repr

/-- UART setting, Table 15.7 kind 2. -/
structure Uart where
  baud : Nat := 115200
  use  : Nat := 0
deriving DecidableEq, Repr

/-- A measurement of one loop by the die (R411): headroom and terminal voltage in mV, current in µA. -/
structure LoopSense where
  headroom : Nat
  volts    : Nat
  current  : Nat
deriving DecidableEq, Repr

end Sys2Proof
end

