-- ==== Sys2Proof/Types/Host.lean ====
section
/-!
DEFINITION. The types of the control interface: requests, answers, the command catalogue (chapter 11).
-/
namespace Sys2Proof

/-- Status codes, Table 11.15 (R337). -/
inductive Status where
  | ok | deferred | superseded
  | owned | refusedMode | badParam | noResource | busy | authFail | notFound
deriving DecidableEq, Repr

/-- The opcodes of Table 11.19 (R342); `storeTransfer` and `echo` are the entry kinds 1 and 2 (Table 11.10). -/
inductive Opcode where
  | sysInfo | sysModeSet | sysModeGet | sysReset | sysLogRead
  | objSet | objGet | objBind | objClaim | spkSet | spkGet | zoneSet | airSet | peerSet
  | chainSet | accordLoad | accordSwap | routeSet | bridgeSet | silenceSet
  | portCfg | berthOpen | berthClose | berthStat | filterSet
  | timeCfg | timeStat | trigSet | captRead
  | noseCfg | pairSet | markSet | policySet | estRead | proposalRead | proposalApply | sweepRun | healthRead
  | twinCfg | twinStat | twinWarp | twinSwitch | witnessSet
  | pwrPolicy | pwrStat
  | testLoop | postReport | fwStage | fwCommit
  | anaInCfg | anaOutCfg | loopCfg | tdmCfg | shortSet | gpioSet
  | storeTransfer | echo
deriving DecidableEq, Repr

/-- How a request carries its payload (Table 11.10, pkind). -/
inductive PKind where
  | inline | bulk | crane
deriving DecidableEq, Repr

/-- Crane descriptor, Table 11.12. -/
structure CraneDesc where
  via     : Nat := 0
  length  : Nat := 0
  address : Nat := 0
  digest  : Bytes := []
deriving DecidableEq, Repr

/-- Store header of a store transfer (R324). -/
structure StoreHdr where
  store  : Nat := 0
  dir    : Nat := 0
  offset : Nat := 0
  length : Nat := 0
deriving DecidableEq, Repr

/-- A request entry (Table 11.10) as the Quaymaster has copied it, with its inline or bulk payload (R320). `raw` holds the
entry's 256 bytes where it was read from a ring: the tag covers them, used or not (R330). -/
structure Req where
  master  : Fin 8
  rank    : Nat := 0
  heart   : Nat := 0
  seq     : Nat := 0
  apply   : Nat := 0
  strict  : Bool := false
  pkind   : PKind := .inline
  poff    : Nat := 0
  payload : Bytes := []
  crane   : CraneDesc := {}
  ret     : Option CraneDesc := none
  tag     : Bytes := []
  raw     : Bytes := []
deriving DecidableEq, Repr

/-- A response entry (Table 11.11). `seq`, `apply` and `accepted` are as the table gives them. -/
structure Response where
  opcode   : Nat
  master   : Nat
  status   : Status
  seq      : Nat
  apply    : Nat := 0
  accepted : Nat := 0
  crane    : Bool := false
  repeated : Bool := false
  body     : Bytes := []
deriving DecidableEq, Repr

/-- The peer of a network session (R327): address and UDP port, or the UART (R397). On port 4471 `psk` holds the identity byte
and the key of the DTLS session (R328); on port 4470 there is none. -/
structure Peer where
  ip   : Nat
  port : Nat
  psk  : Option (Nat × Bytes) := none
  uart : Bool := false
deriving DecidableEq, Repr

/-- Peer came in over DTLS. -/
def Peer.dtls (p : Peer) : Bool := p.psk.isSome

/-- What a received Efvex datagram's header holds beside its kind, master and offset (R326), and the Ethernet port it came in
by. -/
structure DgramHdr where
  eth      : Nat := 0
  magic    : Nat := 0x4576
  dseq     : Nat := 0
  length   : Nat := 0
  reserved : Nat := 0
deriving DecidableEq, Repr

/-- The header fits data of a length (R326). -/
def DgramHdr.ok (h : DgramHdr) (n : Nat) : Bool := h.magic == 0x4576 && h.reserved == 0 && h.length == n && h.eth < 3

/-- What a network datagram comes with: its sender, and its header (R326). -/
structure Arrival where
  peer : Peer
  hdr  : DgramHdr := {}
deriving DecidableEq, Repr

/-- What an access of the host window carries (R315, R316): a word, however transported, or a transaction of the quad SPI target:
its instruction and its data as the 4-bit groups that the lines carry. -/
inductive Carried where
  | word (v : BitVec 32)
  | spi (instruction : Nat) (nibbles : List (BitVec 4))
deriving DecidableEq, Repr

/-- Which table of boundaries a command's effect is counted on (R33, R126, R169). -/
inductive Timing where
  | tick | block
deriving DecidableEq, Repr

/-- A unit of state for arbitration (R335): a field group of a record or the unit its chapter names. -/
structure UnitKey where
  op    : Opcode
  item  : Nat
  group : Nat
deriving DecidableEq, Repr

/-- Who sent a change: a host master, the Nose (ranks below every host, R34), the device itself (an alarm
plan, R416, which wins every collision) or a scene-bus publisher (R55). -/
inductive Origin where
  | master (m : Nat)
  | nose
  | device
  | bus (node : Nat)
deriving DecidableEq, Repr

/-- A command accepted and not yet in effect (R334), or a scene-bus or Nose change waiting for its tick. -/
structure Cmd where
  id       : Nat
  op       : Opcode
  origin   : Origin
  rank     : Nat
  seq      : Nat
  timing   : Timing
  apply    : Nat
  effect   : Nat
  accepted : Nat
  payload  : Bytes
  /-- the units of state it sets (R335) -/
  units    : List UnitKey
  /-- whether the lost body is a select mask (R335) -/
  select   : Bool
  settled  : Bool := false
  answered : Bool := false
  /-- its effect is in force -/
  applied  : Bool := false
  /-- units or flags left unchanged for a reason other than arbitration (R347) -/
  lost     : List UnitKey := []
  deferred : Bool := false
  /-- proposal id of a Nose change, 0 otherwise (R204) -/
  proposal : Nat := 0
  /-- first excitation stamp of a SWEEP_RUN that waits, settled when it is accepted (R210) -/
  excite   : Nat := 0
  resend   : Bool := false
  /-- forward sequence of the record that brought it to a standby (R285) -/
  fseq     : Option Nat := none
deriving DecidableEq, Repr

/-- A claim on an object or a zone (R336). -/
structure Claim where
  zone   : Bool
  id     : Nat
  master : Nat
  rank   : Nat
deriving DecidableEq, Repr

/-- A log entry, Table 11.17 (R341). -/
structure LogEntry where
  lseq   : Nat
  index  : Nat
  cause  : Nat
  sub    : Nat
  source : Nat
  args   : List Nat
deriving DecidableEq, Repr

/-- A datagram the device sends (Table 11.13). -/
structure Datagram where
  master : Nat
  kind   : Nat
  dseq   : Nat
  offset : Nat := 0
  data   : Bytes := []
  /-- the address, where it is not the session's peer -/
  peer   : Option Peer := none
deriving DecidableEq, Repr

/-- A crane transfer (R322): the request it serves, its direction, and its channel once it has one. -/
structure Transfer where
  id       : Nat
  op       : Opcode
  req      : Req
  accepted : Nat
  store    : StoreHdr := {}
  /-- the device sends data -/
  out      : Bool
  via      : Nat
  length   : Nat
  data     : Bytes := []
  channel  : Option Nat := none
  /-- chunks moved (R323) -/
  sent     : Nat := 0
  /-- the apply period settled at acceptance (R332); none where it refuses a timed command -/
  apply    : Option Nat := none
deriving DecidableEq, Repr

/-- An answer a command owes at the end of its drain or of its work (R333). -/
structure Owed where
  id       : Nat
  op       : Opcode
  master   : Nat
  seq      : Nat
  apply    : Nat
  accepted : Nat
  /-- what it waits for: the unit its chapter names -/
  key      : Nat := 0
  payload  : Bytes := []
  /-- the master's ring has been reset: the answer is discarded (R325) -/
  dropped  : Bool := false
deriving DecidableEq, Repr

/-- One master's ring, session and credentials (R319, R327, R330, R331). -/
structure Master where
  reqHead  : Nat := 0
  reqTail  : Nat := 0
  rspHead  : Nat := 0
  rspTail  : Nat := 0
  chkDev   : Nat := 0
  chkHost  : Nat := 0
  ready    : Bool := false
  ringErr  : Bool := false
  resetting : Bool := false
  /-- commands consumed and not yet answered -/
  unanswered : Nat := 0
  /-- entries consumed in the present block (R320) and that block -/
  taken    : Nat := 0
  /-- seqs of the last 64 accepted requests, newest first (R331) -/
  seqs     : List Nat := []
  /-- answers written to those requests -/
  answers  : List Response := []
  /-- answers held while the response ring is full (R319) -/
  held     : List Response := []
  /-- response bulk space in use: response index, offset, length (R321) -/
  bulk     : List (Nat × Nat × Nat) := []
  failRun  : Nat := 0
  peer     : Option Peer := none
  /-- Ethernet port of the session's last datagram, and that datagram's number (R326) -/
  eth      : Nat := 0
  dseqIn   : Nat := 0
  lastHeard : Nat := 0
  eventMask : Nat := 0
  dseq     : Nat := 0
  /-- causes of the event mask raised since the last block boundary (R327) -/
  dueCauses : List Nat := []
  /-- the transfer id of the chunk stream in progress (R323) -/
  chunk    : Option Nat := none
  chunkData : Bytes := []
  /-- a doorbell has announced entries that are not all consumed (R320) -/
  rung     : Bool := false
deriving DecidableEq, Repr

/-- Credential of one master (R329). -/
structure Cred where
  key     : Bytes := []
  maxRank : Nat := 7
  enabled : Bool := true
deriving DecidableEq, Repr

/-- The credential block (R329). -/
structure CredBlock where
  version  : Nat
  enforce  : Bool
  dtlsOnly : Bool
  creds    : List Cred
deriving DecidableEq, Repr

end Sys2Proof
end

