-- ==== Sys2Proof/Types/Scene.lean ====
section
/-!
DEFINITION. The scene records of chapter 2 and the tap records of chapter 3.
-/
namespace Sys2Proof

/-- A position in millimetres (R29). -/
structure Pos where
  x : Int := 0
  y : Int := 0
  z : Int := 0
deriving DecidableEq, Repr

/-- Object record, Table 2.2. -/
structure ObjRec where
  law       : Nat := 0
  motion    : Nat := 0
  pos       : Pos := {}
  spread    : Nat := 0
  gain      : Int := 0
  zoneMask  : BitVec 64 := 0
  distModel : Nat := 1
  rolloff   : Nat := 60
  flags     : Nat := 1
  ambiBed   : Nat := 0
  refDist   : Nat := 1000
  objDelay  : Nat := 0
  direct    : List (Nat × Int) := []
deriving DecidableEq, Repr

/-- A catalogue entry (R37): the record, and the apply period of the value in force of each field group (R57). -/
structure ObjEntry where
  cfg     : ObjRec := {}
  applied : List Nat := []
deriving DecidableEq, Repr

/-- A pending change of an object's binding: the block at which it takes effect is the block of its tick (R42). -/
structure BindFade where
  old   : Option Nat
  block : Nat
deriving DecidableEq, Repr

/-- What the device keeps of an object beside its record: slot, binding, status counters (Table 2.3). -/
structure ObjStat where
  slot     : Option Nat := none
  bind     : Option Nat := none
  fade     : Option BindFade := none
  taps     : Nat := 0
  present  : Bool := false
  pressure : Bool := false
  clamped  : Bool := false
  dropped  : Nat := 0
  clamps   : Nat := 0
  gainSat  : Nat := 0
deriving DecidableEq, Repr

/-- Loudspeaker record, Table 2.4. -/
structure SpkRec where
  directivity : Nat := 0
  zone        : Nat := 0
  pos         : Pos := {}
  aimAz       : Int := 0
  aimEl       : Int := 0
  delayOffset : Nat := 0
  trim        : Int := 0
  health      : Nat := 0
  flags       : Nat := 2
  outKind     : Nat := 0
  outIndex    : Nat := 0
deriving DecidableEq, Repr

/-- Zone record, Table 2.5. -/
structure ZoneRec where
  flags     : Nat := 0
  gain      : Int := 0
  delayTrim : Int := 0
  precLead  : Nat := 960
deriving DecidableEq, Repr

/-- Air record, Table 2.6. -/
structure AirRec where
  temp     : Int := 2000
  humidity : Nat := 5000
  source   : Nat := 0
deriving DecidableEq, Repr

/-- Peer record, Table 2.7. -/
structure PeerRec where
  roles       : Nat := 0
  rank        : Nat := 0
  nodeId      : Nat := 0
  ipv4        : Nat := 0
  sceneDomain : Nat := 0
  busLead     : Nat := 8
deriving DecidableEq, Repr

/-- Peer status, Table 2.8, with the last pub_seq seen (R225). -/
structure PeerStat where
  state      : Nat := 0
  mismatch   : Nat := 0
  lastHeard  : Nat := 0
  late       : Nat := 0
  lost       : Nat := 0
  superseded : Nat := 0
  lastSeq    : Option Nat := none
deriving DecidableEq, Repr

/-- A scene-bus record queued for the Quaymaster (Table 8.8): an update (kinds 1 and 2). -/
structure BusUpdate where
  air     : Bool
  resend  : Bool
  node    : Nat
  apply   : Nat
  rank    : Nat
  pubSeq  : Nat
  arrived : Nat
  body    : Bytes
deriving DecidableEq, Repr

/-- A scene-bus announcement (Table 8.8, kind 0). -/
structure Announcement where
  node      : Nat
  domain    : Nat
  heart     : Nat
  ptpDomain : Nat
  catchOff  : Nat
  gm        : Nat
  arrived   : Nat
deriving DecidableEq, Repr

/-- An update published on the scene bus (R53, R57, Table 8.8). Its publisher's node identifier stands in the header of the
frame that carries it. -/
structure Published where
  air     : Bool
  resend  : Bool
  apply   : Nat
  rank    : Nat
  domain  : Nat
  pubSeq  : Nat
  body    : Bytes
deriving DecidableEq, Repr

/-- Tap record, Table 3.6; gains are C-format, delays in 1/65,536 period. The air states y of the new and the
old read belong to the tap (R77, R80); `muted` marks a record hit by an uncorrectable error (Table 13.6). -/
structure Tap where
  gainA    : Int := 0
  gainB    : Int := 0
  delayA   : Nat := 0
  delayB   : Nat := 0
  delayH   : Nat := 0
  airA     : Nat := 0
  airB     : Nat := 0
  fadeLen  : Nat := 0
  fadeIdx  : Nat := 0
  hop      : Bool := false
  fadingOut : Bool := false
  isNew    : Bool := false
  clamped  : Bool := false
  y        : Int := 0
  yOld     : Int := 0
  /-- ticks in which the main read and the old read began: what tells one read of a pair from another (R96) -/
  start    : Nat := 0
  startOld : Nat := 0
deriving DecidableEq, Repr

/-- A long-line read of a tap (R96): granules in its window, the late-fade weight state (R98). -/
structure ReadWin where
  granules : List Nat := []
  silent   : Bool := false
deriving DecidableEq, Repr

/-- A fetch of a granule (R94): the reads that await it, each with the last block for which it asked. -/
structure Fetch where
  granule : Nat
  reads   : List (Nat × Nat) := []
deriving DecidableEq, Repr

/-- Air-path and per-tick solver values (R47, R59): u as a binary32 value, inferred temperature. -/
structure AirState where
  noseU    : Option Rat := none
  noseTemp : Rat := 0
  uEst     : Option Rat := none
  rMax     : Rat := 0
deriving DecidableEq, Repr

end Sys2Proof
end

