-- ==== Sys2Proof/Types/Net.lean ====
section
/-!
DEFINITION. Frames, ports, filters, berths, jitter buffers, descriptor rings and transmit queues (chapter 8).
-/
namespace Sys2Proof

/-- The IPv4 part of a received frame: the protocol it carries, and that protocol's payload. -/
structure Ipv4 where
  src     : Nat
  dst     : Nat
  udp     : Bool := true
  tcp     : Bool := false
  igmp    : Bool := false
  frag    : Bool := false
  sport   : Nat := 0
  dport   : Nat := 0
  /-- the UDP checksum is zero or right (R222); the checksum of TCP is right -/
  sumOk   : Bool := true
  payload : Bytes := []
deriving DecidableEq, Repr

/-- A frame received on a port: `len` counts from the destination address to the FCS; `time` is the receive time in
nanoseconds since the PTP epoch; `tci` is the VLAN tag's control field. -/
structure Frame where
  fcsOk : Bool := true
  len   : Nat := 64
  da    : Nat
  sa    : Nat := 0
  etype : Nat := 0x0800
  tci   : Option Nat := none
  ip    : Option Ipv4 := none
  time  : Nat := 0
  /-- the IPv4 header checksum is right, and the bytes after the Ethernet header, as a receive ring takes them -/
  ipSum : Bool := true
  bytes : Bytes := []
  /-- FEC codewords corrected, and not correctable, since the frame before it (Table 8.3) -/
  fecCorr : Nat := 0
  fecUncorr : Nat := 0
deriving DecidableEq, Repr

/-- Port record, Table 8.2. -/
structure PortRec where
  speed     : Nat := 0
  fec       : Nat := 0
  flags     : Nat := 5
  ipv4      : Nat := 0
  prefixLen : Nat := 24
  dscpMedia : Nat := 34
  dscpPtp   : Nat := 46
  vlan      : Nat := 0
  gateway   : Nat := 0
  idleA     : Nat := 5000000
  idleB     : Nat := 1000000
deriving DecidableEq, Repr

/-- Port status, Table 8.3 (the station address is fuse data). -/
structure PortStat where
  link      : Nat := 0
  speedNow  : Nat := 0
  linkDowns : Nat := 0
  rxFrames  : Nat := 0
  rxBytes   : Nat := 0
  rxBad     : Nat := 0
  rxPause   : Nat := 0
  rxDaDrop  : Nat := 0
  rxMcast   : Nat := 0
  noBuffer  : List Nat := [0, 0, 0, 0]
  exhausted : List Nat := [0, 0, 0, 0]
  txFrames  : Nat := 0
  txBytes   : Nat := 0
  lsoErr    : Nat := 0
  fecCorr   : Nat := 0
  fecUncorr : Nat := 0
  sbAccepted  : Nat := 0
  sbDiscarded : Nat := 0
  sbFiltered  : Nat := 0
  digestErr : Nat := 0
  dupNode   : Nat := 0
deriving DecidableEq, Repr

/-- Filter record, Table 8.5; entry 0 (the station address) is fuse data and not held here. -/
structure FilterRec where
  flags   : Nat := 1
  valid   : Nat := 15
  entries : SMap Nat := [(1, 0x011B19000000), (2, 0x01005E000181), (3, 0x01005E00006B)]
deriving DecidableEq, Repr

/-- Receive berth record, Table 8.9. -/
structure RxRec where
  format    : Nat := 0
  ports     : Nat := 1
  channels  : Nat := 0
  flags     : Nat := 2
  group     : Nat := 0
  udpPort   : Nat := 0
  vlan      : Nat := 65535
  source    : Nat := 0
  first     : Nat := 0
  rtpOffset : Nat := 0
deriving DecidableEq, Repr

/-- Receive counters, Table 8.10. -/
structure RxStat where
  pktsA     : Nat := 0
  pktsB     : Nat := 0
  lostA     : Nat := 0
  lostB     : Nat := 0
  lostBoth  : Nat := 0
  dup       : Nat := 0
  late      : Nat := 0
  early     : Nat := 0
  concealed : Nat := 0
  malformed : Nat := 0
  digestErr : Nat := 0
  fixed     : Nat := 0
  resync    : Nat := 0
  repairMiss : Nat := 0
  lastIndex : Nat := 0
deriving DecidableEq, Repr

/-- Sequence tracking of one port of a berth (R231), in numbers that do not wrap: the next one expected, and the ranges (first,
first after) of those missing, newest first. -/
structure SeqTrack where
  next    : Option Nat := none
  missing : List (Nat × Nat) := []
deriving DecidableEq, Repr

/-- A receive berth (R226, R233, R235). `state`: 0 closed, 1 open, 2 draining, from block `closeAt`. -/
structure RxBerth where
  cfg     : RxRec := {}
  stat    : RxStat := {}
  state   : Nat := 1
  openAt  : Nat := 0
  closeAt : Nat := 0
  /-- per sender (0 on media berths): the sequence numbers of port A and of port B -/
  tracks  : SMap (SeqTrack × SeqTrack) := []
  /-- FREE flow (R233): next expected sequence number, write pointer, samples of the previous packet -/
  freeSeq : Option Nat := none
  freePtr : Nat := 0
  freeLen : Nat := 0
  /-- sequence numbers written in the present block, and those recently written -/
  written : List Nat := []
  recent  : List Nat := []
  /-- the lowest flow index the catch has not decided (R229) -/
  decided : Option Nat := none
  /-- packets of a FREE flow that a standby holds until the manifest lists them (R234) -/
  held    : List (Nat × List (List Int)) := []
deriving DecidableEq, Repr

/-- State of a jitter-buffer slot (R229); an unlisted slot is absent. -/
structure Slot where
  value     : Int := 0
  concealed : Bool := false
deriving DecidableEq, Repr

/-- A transmit berth record, Table 8.11. -/
structure TxRec where
  format    : Nat := 0
  ports     : Nat := 1
  channels  : Nat := 0
  top       : Bool := false
  dst       : Nat := 0
  dstPort   : Nat := 0
  srcPort   : Nat := 5004
  src       : Nat := 0
  first     : Nat := 0
  ptime     : Nat := 2
  queue     : Nat := 6
  ssrc      : Nat := 0
  rtpOffset : Nat := 0
  pt        : Nat := 98
  ttl       : Nat := 16
deriving DecidableEq, Repr

/-- A transmit berth: record, counters (Table 8.10), state, and the frames of the packet being formed (R238). -/
structure TxBerth where
  cfg     : TxRec := {}
  pktsA   : Nat := 0
  pktsB   : Nat := 0
  clamps  : Nat := 0
  dropped : Nat := 0
  lastStamp : Nat := 0
  state   : Nat := 1
  openAt  : Nat := 0
  closeAt : Nat := 0
  /-- samples of the packet in progress, oldest period first, and the index of the first -/
  part    : List (List Int) := []
  partAt  : Nat := 0
deriving DecidableEq, Repr

/-- A packet or frame waiting in a transmit queue (R238, R240). `wire` counts preamble, gap and FCS. -/
structure TxPkt where
  queue   : Nat
  berth   : Option Nat := none
  stamp   : Nat := 0
  /-- index just past the last sample -/
  upto    : Nat := 0
  wire    : Nat
  /-- media cycle at which a media packet joined its queue (R240) -/
  since   : Nat := 0
  data    : Bytes := []
  src     : Nat := 0
  dst     : Nat := 0
  sport   : Nat := 0
  dport   : Nat := 0
  ttl     : Nat := 0
  dscp    : Nat := 0
  /-- control field of its VLAN tag (Table 8.2) -/
  tci     : Option Nat := none
  tag     : Option Nat := none
  /-- a PTP event message the Quaymaster sends -/
  ptp     : Bool := false
  /-- the frame of a descriptor ring: the ring and the number of the send -/
  chain   : Option (Nat × Nat) := none
deriving DecidableEq, Repr

/-- A receive descriptor (Table 8.12) with the bytes in its buffer: `place` is its place in the ring. -/
structure RxDesc where
  place   : Nat := 0
  buf     : Nat := 0
  len     : Nat := 0
  owned   : Bool := false
  first   : Bool := false
  last    : Bool := false
  discard : Bool := false
  ipGood  : Bool := false
  l4Good  : Bool := false
  stamp   : Option Nat := none
  vlan    : Option Nat := none
  frameLen : Nat := 0
  data    : Bytes := []
deriving DecidableEq, Repr

/-- A receive ring (R243): enabled, the place of the next descriptor, and the descriptors returned and not yet given back. -/
structure RxRing where
  enabled  : Bool := true
  next     : Nat := 0
  returned : List RxDesc := []
deriving DecidableEq, Repr

/-- A transmit descriptor (Table 8.13) with the bytes of its buffer. -/
structure TxDesc where
  data     : Bytes
  owned    : Bool := true
  first    : Bool := false
  last     : Bool := false
  segment  : Bool := false
  udp      : Bool := true
  ipSum    : Bool := false
  l4Sum    : Bool := false
  reqStamp : Bool := false
  done     : Bool := false
  error    : Bool := false
  hdrLen   : Nat := 42
  mss      : Nat := 64
  total    : Nat := 1
  stampTag : Nat := 0
deriving DecidableEq, Repr

/-- A send of a transmit ring: its descriptors, whether the MAC has taken it up, and the frames of it that have not left. -/
structure TxSend where
  id    : Nat
  descs : List TxDesc
  taken : Bool := false
  left  : Nat := 0
deriving DecidableEq, Repr

/-- A transmit ring (R243): enabled, the number of sends offered so far, and the sends whose descriptors it holds, oldest first. -/
structure TxRing where
  enabled : Bool := true
  sends   : Nat := 0
  ring    : List TxSend := []
deriving DecidableEq, Repr

/-- One media access controller: record, status, filter, rings, queues and shaper credit in bits (R240). -/
structure Port where
  cfg     : PortRec := {}
  stat    : PortStat := {}
  filter  : FilterRec := {}
  rx      : List RxRing := [{}, {}, {}, {}]
  tx      : List TxRing := [{}, {}, {}, {}, {}, {}]
  queued  : List TxPkt := []
  credit6 : Rat := 0
  credit7 : Rat := 0
  /-- queue of the frame sent last, and the nanoseconds it took, until the credits count them (R240) -/
  lastQueue : Nat := 0
  lastNs  : Rat := 0
  /-- rings disabled and still draining (R247) -/
  draining : Bool := false
deriving DecidableEq, Repr

/-- A multicast membership the Quaymaster keeps on a port (R221). -/
structure Member where
  port   : Nat
  group  : Nat
  source : Option Nat
deriving DecidableEq, Repr

end Sys2Proof
end

