-- ==== Sys2Proof/Types/Render.lean ====
section
/-!
DEFINITION. The types of the render path: biquads, chains, bridges (chapter 5), accords, mutes, the router, silence
detectors and the short path (chapter 6).
-/
namespace Sys2Proof

/-- Biquad coefficient record, Table 5.4 (C-format words). -/
structure Biquad where
  b0    : Int := 1073741824
  b1    : Int := 0
  b2    : Int := 0
  a1    : Int := 0
  a2    : Int := 0
  shift : Nat := 15
deriving DecidableEq, Repr

/-- Running state of one biquad (R125): two inputs, two outputs and the residue. -/
structure BqState where
  x1 : Int := 0
  x2 : Int := 0
  y1 : Int := 0
  y2 : Int := 0
  e  : Int := 0
deriving DecidableEq, Repr

/-- Input chain: record (Table 5.5, kind 1), running states and counters (Table 5.10, kind 1). -/
structure InChain where
  trim     : Int := 0
  bqEnable : Nat := 0
  biquads  : SMap Biquad := []
  bqState  : SMap BqState := []
  satTrim  : Nat := 0
  satBq    : SMap Nat := []
deriving DecidableEq, Repr

/-- Bridge of a flow: record and status (Table 5.3) and its loop state (R121). A pending change takes effect at a
block boundary with a fade (R123). `fadeOut` and `fadeIn` mark the present block. -/
structure Bridge where
  mode       : Nat := 0
  loopBw     : Nat := 1
  rate       : Nat := 48000
  fillTarget : Nat := 256
  pos        : Rat := 0
  r          : Rat := 0
  integ      : Rat := 0
  fill       : Int := 0
  slips      : Nat := 0
  sat        : Nat := 0
  state      : Nat := 0
  placed     : Bool := false
  /-- the block that slips is over: the next places p anew (R121) -/
  slipped    : Bool := false
  pending    : Option (Nat × Nat) := none
  fade       : Nat := 0
deriving DecidableEq, Repr

/-- Accord record, Table 6.1: FIRs as sparse taps over 0 (tap 0 is unity by default), biquads over the default. -/
structure Accord where
  hfir      : SMap Int := [(0, 1073741824)]
  bfir      : SMap Int := [(0, 1073741824)]
  biquads   : SMap Biquad := []
  hfirShift : Nat := 15
  bfirShift : Nat := 15
  gH        : Int := 1073741824
  gL        : Int := 1073741824
  outGain   : Int := 0
  tag       : Nat := 0
deriving DecidableEq, Repr

/-- A running accord fade (R148): length in blocks, shape, start block. -/
structure Fade where
  len   : Nat
  power : Bool
  start : Nat
deriving DecidableEq, Repr

/-- A swap request waiting for a running fade to end (R149). `corr`: it swaps in a correction that the Nose computed (R203,
R204). -/
structure SwapReq where
  len    : Nat
  power  : Bool
  origin : Nat
  nose   : Bool
  corr   : Bool := false
deriving DecidableEq, Repr

/-- The three accord slots of an output and the requests on it (R143, Table 6.4). -/
structure AccordSlots where
  active   : Accord := {}
  outgoing : Option Accord := none
  pending  : Option Accord := none
  fade     : Option Fade := none
  waiting  : Option SwapReq := none
  swaps    : Nat := 0
  replaced : Nat := 0
  /-- the accord that a host swap last made active (R202) -/
  baseline : Accord := {}
  /-- proposal id of the Nose accord in the pending slot -/
  pendingNose : Nat := 0
  /-- the active accord is a correction of the baseline -/
  corr     : Bool := false
deriving DecidableEq, Repr

/-- Mute ramp of an output or a destination (R152, R153). -/
structure MuteRamp where
  muted : Bool := true
  r     : Nat := 480
  newR  : Option Nat := none
  ph    : Nat := 0
deriving DecidableEq, Repr

/-- Output chain record, Table 5.8. -/
structure OutRec where
  base     : Bool := false
  polarity : Bool := false
  limOn    : Bool := false
  limThr   : Int := 0
  limAtt   : Nat := 48
  limRel   : Nat := 19200
deriving DecidableEq, Repr

/-- State of a CIC section: four integrators and four comb delays (R116, R128, R129). -/
structure Cic where
  integ : List Int := []
  comb  : List Int := []
deriving DecidableEq, Repr

/-- Base-path state of one output (R128-R131): decimator, Base history, two interpolator lanes, crossover delay. -/
structure BaseState where
  dec     : Cic := {}
  decHist : List Int := []
  bHist   : List Int := []
  lane0   : Cic := {}
  lane0Hist : List Int := []
  lane1   : Cic := {}
  lane1Hist : List Int := []
  delay   : List Int := []
  /-- a second Base FIR output lane while a fade runs (R148) -/
  lane1Out : Cic := {}
  lane1OutHist : List Int := []
deriving DecidableEq, Repr

/-- Counters and peaks of an output chain (Table 5.10, kind 2). -/
structure OutStat where
  satFeed   : Nat := 0
  satHfir   : Nat := 0
  satXsub   : Nat := 0
  satDfir   : Nat := 0
  satBfir   : Nat := 0
  satIfir   : Nat := 0
  satXsum   : Nat := 0
  satBq     : SMap Nat := []
  satMarker : Nat := 0
  satLim    : Nat := 0
  satGain   : Nat := 0
  grPeak    : Nat := 0
  limActive : Nat := 0
deriving DecidableEq, Repr

/-- Running state of an output chain (R133-R136, R155). Histories are newest first, zero beyond their end. -/
structure OutChain where
  cfg     : OutRec := {}
  stat    : OutStat := {}
  hist    : List Int := []
  base    : BaseState := {}
  bq      : SMap BqState := []
  bqOut   : SMap BqState := []
  env     : Int := 0
  limG    : Int := 1073741824
  polNow  : Bool := false
deriving DecidableEq, Repr

/-- State of a crosspoint's gain (R161-R163): steady, fading, or watching for a zero crossing; `remove` marks a
change to a mute gain, after which the crosspoint ceases to exist (R160). -/
inductive XpMove where
  | steady
  | fade (g0 g1 : Int) (len start : Nat) (remove : Bool)
  | watch (g0 g1 : Int) (start : Nat) (prev : Option Int) (remove : Bool)
deriving DecidableEq, Repr

/-- A crosspoint (R160): its gain in C-format and its change in progress. -/
structure Xpoint where
  source : Nat
  dest   : Nat
  gain   : Int
  move   : XpMove := .steady
deriving DecidableEq, Repr

/-- A router destination: mute ramp, binding, pending binding change (R159), saturation counter (R158). -/
structure Dest where
  ramp    : MuteRamp := {}
  outKind : Nat := 0
  outIndex : Nat := 0
  pending : Option (Nat × Nat × Nat) := none
  sat     : Nat := 0
deriving DecidableEq, Repr

/-- Silence detector of an input channel (Table 6.11, R165). -/
structure Silence where
  threshold : Int := -6000
  flags     : Nat := 1
  hold      : Nat := 96000
  last      : Option Nat := none
  silent    : Bool := true
deriving DecidableEq, Repr

/-- Short-path route, Table 6.12, with its ramp and running states (R167, R169). -/
structure ShortRoute where
  enabled  : Bool := false
  input    : Nat := 0
  output   : Nat := 0
  gain     : Int := 0
  bqEnable : Nat := 0
  biquads  : SMap Biquad := []
  bqState  : SMap BqState := []
  /-- filters of the old connection, while a ramp leaves it -/
  bqOld    : SMap BqState := []
  /-- ramp in progress: the connection and gain it comes from, samples done -/
  fromIn   : Nat := 0
  fromOut  : Nat := 0
  fromGain : Int := 0
  ramp     : Nat := 256
deriving DecidableEq, Repr

/-- Replay entry, Table 12.3. -/
structure ReplayEntry where
  channel  : Nat
  loop     : Bool
  first    : Nat
  granules : Nat
  start    : Nat
deriving DecidableEq, Repr

/-- Replay state of a channel (R348): its entry and start block, the track it replaces, the block in which it fades back to
the live source, the replay granules that its fetches have brought, and the weight of the block computed last: 0 full, 1 in
a block whose granule is not present, 2 while it stays away, 3 in the block after it (R98, R107). -/
structure ReplayChan where
  entry : ReplayEntry
  start : Nat
  old   : Option (ReplayEntry × Nat) := none
  ending : Option Nat := none
  held  : List Nat := []
  late  : Nat := 0
deriving DecidableEq, Repr

end Sys2Proof
end

