-- ==== Sys2Proof/Types/Nose.lean ====
section
/-!
DEFINITION. The types of live calibration (chapter 7).
-/
namespace Sys2Proof

/-- Marker record, Table 7.3; `release` none is the default Heart ÷ 100. -/
structure MarkRec where
  enabled : Bool := true
  margin  : Nat := 1200
  cap     : Int := -4000
  floor   : Int := -7000
  release : Option Nat := none
deriving DecidableEq, Repr

/-- Running state of an output's marker (R179-R181): band powers, the band gains for the next block, the gate of the
block computed last, the states of the two biquads of each band filter, for the programme and for the chips. -/
structure MarkState where
  p       : SMap Rat := []
  g       : SMap Int := []
  gate    : Bool := false
  bands   : SMap BqState := []
  chips   : SMap BqState := []
deriving DecidableEq, Repr

/-- What a frame needs of a block in which an output's gate was open (R185): the mean gate weight and the band gains. -/
structure MarkLog where
  w : Int
  g : SMap Int
deriving DecidableEq, Repr

/-- Observation input record, Table 7.4, its running chain (R183) and its held samples by stamp. -/
structure ObsIn where
  channel  : Nat := 65535
  flags    : Nat := 0
  dcq      : Nat := 14
  pos      : Pos := {}
  firDelay : Nat := 0
  firShift : Nat := 15
  fir      : SMap Int := [(0, 1073741824)]
  q        : Int := 0
  frozen   : Bool := false
  dec      : Cic := {}
  decHist  : List Int := []
  hist     : List Int := []
  out      : SMap Int := []
deriving DecidableEq, Repr

/-- Pair record, Table 7.5. -/
structure PairRec where
  output    : Nat := 65535
  obs       : Nat := 0
  flags     : Nat := 11
  trackKind : Nat := 0
  trackTarget : Nat := 0
  trackRef  : Nat := 0
  window    : Nat := 0
  pathComp  : Int := 0
deriving DecidableEq, Repr

/-- Estimate record, Table 7.6. -/
structure Estimate where
  flags     : Nat := 0
  coh       : Nat := 0
  frames    : Nat := 0
  arrival   : Int := 0
  arrivalSd : Nat := 4294967295
  level     : Int := -14400
  refresh   : Nat := 0
  mag       : SMap Int := []
  bandCoh   : SMap Nat := []
  window    : Nat := 0
  /-- the 8,192 taps in C-format (R189) -/
  taps      : SMap Int := []
deriving DecidableEq, Repr

/-- Accumulators of a pair (R185): bins of A and B as pairs of binary32 values, Γ per band, frames since the last
clear, and the last half-differences of the arrivals (R187). -/
structure PairAcc where
  a      : SMap (Rat × Rat) := []
  b      : SMap (Rat × Rat) := []
  gammaA : SMap Rat := []
  gammaB : SMap Rat := []
  frames : Nat := 0
  diffs  : List Int := []
  window : Nat := 0
  est    : Estimate := {}
  sweep  : Estimate := {}
  /-- reference level L0 of the health evidence (R207) -/
  level0 : Option Int := none
  clear  : Bool := false
deriving DecidableEq, Repr

/-- Anchor of a tracking pair (R196). -/
structure Anchor where
  aR : Int
  aS : Int
  t0 : Int
  u0 : Rat
deriving DecidableEq, Repr

/-- Policy record, Table 7.8. -/
structure Policy where
  allow      : Nat := 7
  cohMin     : Nat := 204
  eqRate     : Nat := 50
  eqTotal    : Nat := 600
  delaySlew  : Nat := 100
  delayTotal : Nat := 25000
  convSd     : Nat := 10000
deriving DecidableEq, Repr

/-- Target curve record, Table 7.9. -/
structure TargetCurve where
  on      : Bool := false
  normLo  : Nat := 30
  normHi  : Nat := 42
  loLimit : Nat := 6
  hiLimit : Nat := 57
  target  : SMap Int := []
deriving DecidableEq, Repr

/-- Proposal record, Table 7.10; `state` as the table codes it. -/
structure Proposal where
  id       : Nat := 0
  state    : Nat := 0
  computed : Nat := 0
  value    : Int := 0
  current  : Int := 0
  u        : Rat := 0
  uCur     : Rat := 0
  temp     : Int := 0
  tempCur  : Int := 0
  eqTotal  : SMap Int := []
  eqStep   : SMap Int := []
  tag      : Nat := 0
  accord   : Option Accord := none
deriving DecidableEq, Repr

/-- Health record and status, Table 7.11, with the sums of R206. -/
structure Health where
  vChan   : Nat := 65535
  iChan   : Nat := 65535
  vFs     : Nat := 14140
  iFs     : Nat := 20000
  zNom    : Nat := 800
  zTol    : Nat := 30
  flags   : Nat := 2
  bandMask : Nat := 16777215
  hold    : Nat := 10
  evidence : Nat := 0
  /-- index from which each condition of Table 7.12 has held: 0 any evidence, 1 open or short, 2 impedance high or low,
  3 impedance evidence together with arrival missing -/
  since    : SMap Nat := []
  /-- evidence bits that stood when a host wrote OK and have not cleared since (R208) -/
  stale    : Nat := 0
  zMeas   : SMap Nat := []
  zRef    : SMap Nat := []
  suspectCount : Nat := 0
  failedCount  : Nat := 0
  lastChange   : Nat := 0
  viSum   : SMap (Rat × Rat) := []
  iiSum   : SMap Rat := []
  /-- impedance learning (R206): start index, sum and count of |Z| per band -/
  learnFrom : Option Nat := none
  learn   : SMap (Rat × Nat) := []
  vSamples : SMap Int := []
  iSamples : SMap Int := []
deriving DecidableEq, Repr

/-- Sweep record, Table 7.13. -/
structure SweepRec where
  output  : Nat := 0
  kind    : Nat := 0
  mlsOrder : Nat := 16
  level   : Int := -2000
  repeats : Nat := 1
  fStart  : Nat := 20
  fEnd    : Nat := 20000
  duration : Nat := 0
  tail    : Nat := 0
  obsMask : BitVec 64 := 0
  start   : Nat := 0
  fade    : Nat := 480
deriving DecidableEq, Repr

/-- A SWEEP run (R210, R211). `excite` is E, `last` the last captured stamp, `aborting` the stamp an abort fades from. -/
structure SweepRun where
  cfg     : SweepRec
  start   : Nat
  excite  : Nat
  last    : Nat
  exciting : Bool := false
  aborting : Option Nat := none
  master  : Nat := 0
deriving DecidableEq, Repr

/-- The run was aborted before S: it has not begun, and never does (R210). -/
def SweepRun.void (r : SweepRun) : Bool := match r.aborting with | some a => a ≤ r.start | none => false

/-- The run has begun at a stamp (R211). -/
def SweepRun.begun (r : SweepRun) (v : Nat) : Bool := r.start ≤ v && !r.void

/-- Nose device record and status (Table 7.1). `state`: 0 STOPPED, 1 RUNNING, 2 DRAINING, 3 SUSPENDED. -/
structure NoseDev where
  run          : Bool := false
  avgK         : Nat := 8
  codeBase     : Nat := 0
  propInterval : Nat := 60
  frames       : Nat := 0
  skipped      : Nat := 0
  state        : Nat := 0
  lastRefresh  : Nat := 0
  lastProposal : Nat := 0
  nextId       : Nat := 1
  credit       : Rat := 0
  frameIdx     : Nat := 0
  drainAt      : Nat := 0
deriving DecidableEq, Repr

end Sys2Proof
end

