-- ==== Sys2Proof/Types/System.lean ====
section
/-!
DEFINITION. Power, memory, boot, loopback and self-test types (chapters 12, 13 and 14).
-/
namespace Sys2Proof

/-- Power policy record, Table 12.9. -/
structure PowerPolicy where
  flags     : Nat := 3
  wakeTol   : Nat := 2000
  idleExp   : Nat := 60000
  dryTime   : Nat := 600
  boardRamp : Nat := 50
  wakeTimer : Nat := 0
deriving DecidableEq, Repr

/-- Straps as sampled, Table 14.1. -/
structure Straps where
  boot   : Nat := 0
  twin   : Nat := 0
  host   : Nat := 0
  heart  : Nat := 1
  spread : Nat := 1
  node   : Nat := 0
  safe   : Bool := false
  dbg    : Bool := false
deriving DecidableEq, Repr

/-- Boot record, Table 14.3. -/
structure BootRec where
  sequence  : Nat := 0
  preferred : Nat := 0
  flags     : Nat := 0
  cred      : Nat := 255
deriving DecidableEq, Repr

/-- A firmware image: its bytes, the header of Table 14.4 first. -/
structure Image where
  data : Bytes := []
deriving DecidableEq, Repr

/-- What the self-test finds (R392, Table 14.7). -/
structure SelfTest where
  sramAddr  : Nat := 0
  sramCount : Nat := 0
  sramWhere : Nat := 0
  dramRates : Nat := 15
  dramChan  : Nat := 0
  serdes    : Nat := 0
  prbsErr   : List Nat := [0, 0, 0, 0]
  adcLevel  : List Int := [0, 0, 0, 0, 0, 0, 0, 0]
  thdn      : List Int := [-9600, -9600, -9600, -9600, -9600, -9600, -9600, -9600]
  loops     : Nat := 0
  dieLink   : Bool := true
  supplyOk  : Bool := true
  sigFail   : Nat := 0
  stepMs    : List Nat := [120, 80, 650, 100, 300, 50]
  totalMs   : Nat := 1400
  temp      : Int := 40
  temp0     : Int := 40
  temp1     : Int := 40
  pilot     : Nat := 0
  /-- the firmware stalls before post_done (R389) -/
  stalls    : Bool := false
deriving DecidableEq, Repr

/-- The self-test report, Table 14.7. -/
structure Report where
  result    : Nat := 0
  reason    : Nat := 0
  step      : Nat := 0
  straps    : Straps := {}
  fw        : Nat := 0
  image     : Nat := 255
  imgFlags  : Nat := 0
  floor     : Nat := 0
  rbIndex   : Nat := 0
  wakeReason : Nat := 0
  test      : SelfTest := {}
  faultAddr : Nat := 0
  faultMaster : Nat := 255
  faultIndex : Nat := 0
deriving DecidableEq, Repr

/-- Memory status, Table 13.8. -/
structure MemStat where
  stepDowns   : Nat := 0
  climbs      : Nat := 0
  searches    : Nat := 0
  searchFails : Nat := 0
  retrainSteps : Nat := 0
  dramCe      : Nat := 0
  dramUe      : Nat := 0
  linkCe      : Nat := 0
  sramCe      : Nat := 0
  sramUe      : Nat := 0
  hammer      : Nat := 0
  decodeErrors : Nat := 0
  srEntries   : Nat := 0
  forwarded   : Nat := 0
deriving DecidableEq, Repr

/-- A running loopback (R400, Table 14.8). -/
structure Loopback where
  iface    : Nat
  depth    : Nat
  index    : Nat
  index2   : Nat
  pattern  : Nat
  duration : Nat
  start    : Nat
  stopping : Bool := false
  /-- who is owed the answer, and who is owed the answer to a stop -/
  owed     : Owed
  stop     : Option Owed := none
deriving DecidableEq, Repr

/-- What a loopback measured (R400). -/
structure LoopResult where
  compared : Nat := 0
  errors   : Nat := 0
  latency  : Nat := 0
  level    : Int := 0
  thdn     : Int := 0
  locked   : Bool := true
  levelOk  : Bool := true
deriving DecidableEq, Repr

/-- The SRAM partitions of Table 13.6 that an uncorrectable error can hit, with the place it hits. -/
inductive SramSite where
  | nearWindow (slot stamp : Nat)
  | tapTable (slot output : Nat)
  | accord (output slot word : Nat)
  | jitter (channel index : Nat)
  | staging (quay granule : Nat)
  | chainState (output word : Nat)
  | inputState (channel word : Nat)
  | baseState (output part word : Nat)
  | bridgeState (flow word : Nat)
  | nose
  | scene
  | requestEntry (master : Nat) (opcode seq : Nat)
  | rxDescriptor (port ring : Nat)
  /-- a 64-bit word of the partition, counted from its base -/
  | quaymaster (word : Nat)
  | general (word : Nat)
deriving DecidableEq, Repr

/-- The DRAM partitions an uncorrectable read can hit (R376). -/
inductive DramSite where
  | replay (channel : Nat)
  | crossSpectra (pair : Nat)
  | blotter (input stamp : Nat)
  | sceneStore (master opcode seq : Nat)
  | general (lseq : Nat)
  /-- a receive buffer, by port, ring and place; a frame waiting to be sent, by port and its place in the queues -/
  | rxFrame (port ring place : Nat)
  | txFrame (port place : Nat)
deriving DecidableEq, Repr

/-- Wake sources (R356). -/
inductive WakeKind where
  | none | wakeN | timer | activity | command
deriving DecidableEq, Repr

/-- Boundary-scan instructions (R401), and the reset of the TAP by TRST_N low, which loads IDCODE. -/
inductive TapInstr where
  | bypass | idcode | samplePreload | extest | clamp | highz | extestPulse | extestTrain | trst
deriving DecidableEq, Repr

end Sys2Proof
end

