-- ==== Sys2Proof/Types/Time.lean ====
section
/-!
DEFINITION. The types of time: timing records, the tide servo, timestamp queues, triggers, captures (chapter 9).
-/
namespace Sys2Proof

/-- Device timing record, Table 9.2 (heart and catch are fields of the media clock). -/
structure TimeDev where
  profile   : Nat := 0
  domain    : Nat := 0
  servoBw   : Nat := 2
  stepPolicy : Bool := false
  slew      : Nat := 100
  stepMin   : Nat := 10000
  rerouteThr : Nat := 200
  holdoff   : Nat := 2000
  gmFlags   : Nat := 0
  priority1 : Nat := 128
  priority2 : Nat := 128
  utcOffset : Int := 37
  spreadFabric : Nat := 1
  spreadDram : Nat := 0
deriving DecidableEq, Repr

/-- Port timing record, Table 9.3. -/
structure TimePort where
  flags     : Nat := 3
  logSync   : Int := 127
  logAnnounce : Int := 127
  logDelay  : Int := 127
  announceTimeout : Nat := 3
  boardRx   : Nat := 0
  boardTx   : Nat := 0
deriving DecidableEq, Repr

/-- The data set of an Announce: what the best master clock algorithm compares (R263). -/
structure Master9 where
  gmId      : Nat
  priority1 : Nat := 128
  clockClass : Nat := 248
  accuracy  : Nat := 254
  variance  : Nat := 65535
  priority2 : Nat := 128
  steps     : Nat := 0
deriving DecidableEq, Repr

/-- What the servo keeps per port (R258, R260, R263). -/
structure PortClock where
  master   : Option Master9 := none
  passive  : Bool := false
  dbar     : Rat := 0
  offset   : Rat := 0
  /-- newest path delay since the port's previous exchange -/
  delay    : Option Rat := none
  /-- fresh path delays of the consecutive exchanges counted for qualification, newest first -/
  run      : List Rat := []
  qualified : Bool := false
  /-- under a re-route hold-off or not yet requalified after it (R264) -/
  barred   : Bool := false
  seq      : Nat := 0
  /-- corrected send time of the delay request waiting for its response -/
  t3       : Option Nat := none
  /-- tags of the Sync and of the delay request whose stamps are awaited -/
  syncTag  : Option Nat := none
  reqTag   : Option Nat := none
  /-- tags of the peer delay responses whose Follow_Up waits for their stamps (R251) -/
  respTags : List Nat := []
deriving DecidableEq, Repr

/-- The tide servo (R258-R268). `state`: 0 FREE, 1 ACQUIRE, 2 SLEW, 3 LOCK, 4 HOLD. -/
structure Servo where
  state     : Nat := 0
  ref       : Option Nat := none
  ybar      : Rat := 0
  y         : Rat := 0
  strikes   : Nat := 0
  acquired  : Bool := false
  farCount  : Nat := 0
  far       : Bool := false
  /-- a phase step due at the next block boundary, in media cycles (R250) -/
  pending   : Option Int := none
  /-- set_time waiting for a PPS edge (R267) -/
  setTime   : Option Nat := none
  holdoff   : Option Nat := none
  /-- HOLD lasts until the stepped port requalifies or is lost (R264, outcome 2; R263) -/
  rrWait    : Bool := false
  holdFrom  : Nat := 0
  holdMs    : Nat := 0
  steps     : Nat := 0
  reroutes  : Nat := 0
  rrPort    : Nat := 0
  rrOutcome : Nat := 0
  rrStep    : Int := 0
  rrOffset  : Int := 0
  gmId      : Nat := 0
  clockClass : Nat := 248
  conflict  : Bool := false
  refclkLost : Bool := false
  /-- an external reference (ref 1-4) is qualified -/
  extOk     : Bool := false
  /-- it was clockClass 6 before HOLD (R268) -/
  wasGnss   : Bool := false
deriving DecidableEq, Repr

/-- Transmit timestamp queue entry, Table 9.5. -/
structure TsqEntry where
  tag     : Nat
  gap     : Bool := false
  count   : Nat := 0
  lastTag : Nat := 0
  stamp   : Nat := 0
deriving DecidableEq, Repr

/-- Capture entry, Table 9.11. -/
structure CaptEntry where
  stamp  : Nat
  rising : Bool := false
  gap    : Bool := false
  count  : Nat := 0
  seq    : Nat := 0
deriving DecidableEq, Repr

/-- Capture input: record (Table 9.10), queue and edge count. -/
structure Capture where
  edges  : Nat := 0
  filter : Nat := 0
  queue  : List CaptEntry := []
  seq    : Nat := 0
deriving DecidableEq, Repr

/-- A trigger program, Table 9.9. -/
structure TrigRec where
  mode   : Nat := 0
  low    : Bool := false
  start  : Nat := 0
  period : Nat := 512
  width  : Nat := 256
  count  : Nat := 0
deriving DecidableEq, Repr

/-- A trigger output: its program, the edge number of the next edge, a new program waiting to take over at its own
first edge (R270), the pulse in progress (the media cycle at which it ends). -/
structure Trigger where
  cfg     : TrigRec := {}
  running : TrigRec := {}
  next    : Option Nat := none
  newNext : Option Nat := none
  fired   : Nat := 0
  pulse   : Option Nat := none
deriving DecidableEq, Repr

end Sys2Proof
end

