-- ==== Sys2Proof/Types/Twin.lean ====
section
/-!
DEFINITION. The types of twin operation (chapter 10).
-/
namespace Sys2Proof

/-- Twin record, Table 10.1. -/
structure TwinRec where
  flags    : Nat := 3
  moorHold : Nat := 4
  netHold  : Nat := 3
  flowHold : Nat := 3
  retain   : Nat := 16
  bDelay   : Nat := 500
deriving DecidableEq, Repr

/-- Witness record, Table 10.12. -/
structure WitnessRec where
  witness : Nat := 0
  leaseMs : Nat := 6
  renewMs : Nat := 1
  serve   : Bool := false
deriving DecidableEq, Repr

/-- Heartbeat record, Table 10.3. -/
structure Heartbeat where
  unit     : Nat
  active   : Bool
  adrift   : Bool := false
  lease    : Bool := false
  warp     : Bool := false
  safe     : Bool := false
  epoch    : Nat := 0
  fw       : Nat := 0
  mode     : Nat := 0
  confirm  : Nat := 0
  leaseEnd : Nat := 0
deriving DecidableEq, Repr

/-- One berth entry of a manifest (Table 10.5): absent runs as (start offset, length) from `lo`. -/
structure ManBerth where
  berth : Nat
  count : Nat
  lo    : Nat
  runs  : List (Nat × Nat) := []
deriving DecidableEq, Repr

/-- One FREE entry of a manifest (Table 10.5): position in 1/65,536 sample (0 while the bridge has none), r, packets written in
order. -/
structure ManFree where
  flow    : Nat
  pos     : Int
  r       : Rat := 0
  seqs    : List Nat := []
deriving DecidableEq, Repr

/-- Manifest record, Table 10.5; `silent` lists the SILENT channels. -/
structure Manifest where
  block  : Nat
  nose   : Bool := false
  silent : List Nat := []
  berths : List ManBerth := []
  frees  : List ManFree := []
deriving DecidableEq, Repr

/-- A want or a repair run: berth, first flow index, count (Table 10.2). -/
structure Want where
  berth : Nat
  first : Nat
  count : Nat
deriving DecidableEq, Repr

/-- A repair record: the samples of each period, channel 0 first (Table 10.2). -/
structure Repair where
  berth   : Nat
  first   : Nat
  samples : List (List Int) := []
deriving DecidableEq, Repr

/-- A mirror record: 16 samples of a local input channel (Table 10.2). -/
structure Mirror where
  channel : Nat
  first   : Nat
  samples : List Int := []
deriving DecidableEq, Repr

/-- A check record: ranked and admitted taps per Quay and for the device (Table 10.2, kind 7). -/
structure Check where
  tick   : Nat
  counts : List (Nat × Nat) := []
deriving DecidableEq, Repr

/-- A forwarded command or decision (Table 10.2, kind 1): the origin's master (256 for the Nose, 512 for the
device), or a scene-bus update with its publisher. -/
structure Forward where
  fseq    : Nat
  origin  : Origin
  rank    : Nat
  apply   : Nat
  op      : Opcode
  payload : Bytes := []
  resend  : Bool := false
  /-- effect of a scene-bus update on the active (R56), 0 where the apply period gives it -/
  effect  : Nat := 0
deriving DecidableEq, Repr

/-- Decisions forwarded beside commands (R215, R290, R291, R352, R353, R356). -/
inductive Decision where
  | shallow (on : Bool) (tick mark : Nat)
  | drydown (block : Nat)
  | resume (tick : Nat)
  | noseU (u temp : Rat)
  | anchor (pair : Nat) (a : Option Anchor)
  | proposal (key : Nat) (p : Proposal)
  | phaseStep
deriving DecidableEq, Repr

/-- A decision that bears on the solver: it belongs to a tick. -/
def Decision.ofTick : Decision → Bool
  | .noseU _ _ => true
  | .shallow _ _ _ | .drydown _ | .resume _ | .anchor _ _ | .proposal _ _ | .phaseStep => false

/-- A warp control record (Table 10.2, kind 9): a start carries the sender's replay-store version, and so does an
acknowledgement (R296); an abandonment says whether the warp starts again (R301). -/
inductive WarpCtl where
  | start (tick total version : Nat)
  | phase (n : Nat)
  | slice (tick : Nat) (outputs : List Nat)
  | ack (bytes version : Nat)
  | abandon (again : Bool)
  | rejoin
deriving DecidableEq, Repr

/-- What a witness has granted to a pair, keyed by unit A's node identifier (R304). -/
structure Lease where
  pair   : Nat
  holder : Nat
  epoch  : Nat
  expiry : Nat
deriving DecidableEq, Repr

/-- The cut of a slice at a tick (R300, Table 10.10). -/
structure Slice where
  tick     : Nat
  outs     : List Nat
  /-- router destinations that belong to it -/
  dests    : List Nat := []
  /-- its tap records: those of its tick, then as carried through the next tick -/
  records  : SMap (SMap Tap) := []
  carried  : Bool := false
  /-- the active has captured its running state -/
  captured : Bool := false
deriving DecidableEq, Repr

/-- A warp in progress (Tables 10.8-10.10, R296-R301). -/
structure Warp where
  phase  : Nat := 0
  tick   : Nat := 0
  total  : Nat := 0
  done   : Nat := 0
  active : Bool := false
  /-- the partner's replay-store version (R296), once it is known -/
  theirs : Option Nat := none
  /-- outputs already given to a slice, and blocks compared equal in phase 5 -/
  sliced : List Nat := []
  equal  : Nat := 0
  /-- input-chain states and concealment run counts captured at block X (R298), and whether the cut is made -/
  chains : SMap InChain := []
  runs   : SMap Nat := []
  cut    : Bool := false
  /-- slices being cut, oldest first -/
  slices : List Slice := []
  /-- on the standby, the commands that acted at the last blocks, resolved, by block, oldest first (R300) -/
  acted  : List (Nat × Cmd) := []
  /-- first block that the whole standby renders as the active does -/
  since  : Nat := 0
deriving DecidableEq, Repr

/-- Twin counters, Table 10.13. -/
structure TwinStat where
  digestsOk   : Nat := 0
  mismatches  : Nat := 0
  adrift      : Nat := 0
  warps       : Nat := 0
  warpFails   : Nat := 0
  claims      : Nat := 0
  yields      : Nat := 0
  manifestMiss : Nat := 0
  cmdLate     : Nat := 0
  repairMiss  : Nat := 0
  mirrorMiss  : Nat := 0
  lastClaim   : Nat := 0
  claimUs     : Nat := 0
deriving DecidableEq, Repr

end Sys2Proof
end

