-- ==== Sys2Proof/Types/Events.lean ====
section
/-!
DEFINITION. Operands of the events that carry a whole record: local input samples, warp image segments, forwarded
decisions.
-/
namespace Sys2Proof

/-- Samples a local input delivers (R21): analogue input `index`, or slot `index % 16` of TDM port `index / 16`; 24-bit
words stamped from `first`, or numbered from it at the port's own rate where a LOCKED bridge converts the flow (R120). -/
structure LocalIn where
  tdm     : Bool := false
  index   : Nat
  first   : Nat
  samples : List Int := []
  /-- an analogue input's samples at 384 kHz, as the short path takes them (R167) -/
  short   : List Int := []
deriving DecidableEq, Repr

/-- What phase 1 of an image carries beside its records (Table 10.8): the records it lists, by kind and number (0 catalogue,
1 loudspeaker, 2 zone, 3 accord, 4 mute, 5 destination, 6 crosspoint, 7 claim, 8 and 9 berths, 10 pair, 11 marker, 12 observation input,
13 curve, 14 health, 15 anchor, 16 proposal, 17 bridge, 18 silence), the replay map in force, deferred mode bits and the resume flag, the
SWEEP run, and N, L and the Heart rate. -/
structure ImageControl where
  keys     : List (Nat × Nat) := []
  replay   : SMap ReplayChan := []
  deferred : List (Nat × Nat × BitVec 16 × Nat) := []
  resume   : Nat := 0
  sweep    : Option SweepRun := none
  baseLog2 : Nat := 4
  catchL   : Nat := 192
  heart    : Nat := 1
deriving DecidableEq, Repr

/-- A master port that is reset (R366, Table 13.3): for the crane the channel, for a MAC's DMA the frame in reception with the bytes it
has delivered, for the PCIe inbound port the window address and the leading bytes of a write cut short. -/
structure PortReset where
  port    : Fin 14
  channel : Nat := 0
  frame   : Option (Frame × Nat) := none
  write   : Option (Nat × Bytes) := none
deriving DecidableEq, Repr

/-- A warp image segment (Table 10.8, Table 10.2 kind 8), by what it carries. A long line comes granule by granule (R299). -/
inductive WarpSeg where
  | object (id : Nat) (entry : ObjEntry) (stat : ObjStat)
  | speaker (output : Nat) (cfg : SpkRec)
  | zone (z : Nat) (cfg : ZoneRec)
  | air (cfg : AirRec) (st : AirState)
  | accord (output : Nat) (slots : AccordSlots)
  | mute (output : Nat) (ramp : MuteRamp)
  | dest (code : Nat) (dest : Dest)
  | xpoint (x : Xpoint)
  | claim (c : Claim)
  | pending (c : Cmd)
  | rxBerth (b : Nat) (berth : RxBerth)
  | txBerth (b : Nat) (berth : TxBerth)
  | policy (p : Policy)
  | power (p : PowerPolicy)
  | noseDev (d : NoseDev)
  | pairRec (i : Nat) (p : PairRec)
  | markRec (output : Nat) (m : MarkRec)
  | obs (i : Nat) (o : ObsIn)
  | curve (zone : Nat) (c : TargetCurve)
  | health (output : Nat) (h : Health)
  | anchor (pair : Nat) (a : Anchor)
  | proposal (key : Nat) (p : Proposal)
  | bridge (flow : Nat) (b : Bridge)
  | silence (c : Nat) (d : Silence)
  | mode (set : BitVec 16)
  | control (c : ImageControl)
  | inChain (c : Nat) (chain : InChain) (run : Nat)
  | near (slot mark : Nat) (samples : SMap Int)
  | long (slot granule mark : Nat) (samples : SMap Int)
  | outChain (output : Nat) (chain : OutChain)
  | marker (output : Nat) (m : MarkState)
  | tap (slot output : Nat) (t : Tap)
  | tapAir (slot output : Nat) (y yOld : Int)
  | replay (granule : Nat) (data : Bytes)
deriving DecidableEq, Repr

/-- Header of a frame of the mooring link (R279, Table 8.7): its lane, and the fields of its Phoenaox header. -/
structure MoorHdr where
  lane   : Nat
  node   : Nat
  heart  : Nat
  repair : Bool
  stamp  : Nat
  seq    : Nat
deriving DecidableEq, Repr

/-- Messages the device hands to its MACs, the mooring engine or the UART, and the frames its MACs have sent. -/
inductive OutMsg where
  | igmp (m : Member) (join : Bool)
  | datagram (d : Datagram)
  | ptp (port kind : Nat) (time : Nat) (corr : Int)
  /-- an Announce as master (R268): what the best master clock algorithm compares, timeSource, currentUtcOffset -/
  | ptpAnnounce (port gm priority1 clockClass priority2 source : Nat) (utc : Int)
  /-- a twin-control record (Table 10.2): on the mooring link with its header, on the network where there is none -/
  | twin (kind : Nat) (args : List Nat) (data : Bytes) (via : Option MoorHdr)
  /-- a segment of the warp image (Table 10.2, kind 8) with its image bytes -/
  | warp (seg : WarpSeg) (bytes : Nat) (via : MoorHdr)
  /-- a frame that has left a MAC (R240) -/
  | frame (port : Nat) (k : TxPkt)
  | text (line : List Nat)
  /-- a decode error returned to the debugger (R365): a read's data are zeros -/
  | decodeError (addr : Nat)
  /-- data that the boundary-scan port shifts out (R401), least significant bit first -/
  | tdo (bits : List Bool)
deriving DecidableEq, Repr

/-- A twin-control command record: a forwarded command, or a decision with its apply period, 0 for one that acts on arrival
(R283, R290). -/
inductive TwinCmd where
  | command (f : Forward)
  | decision (fseq apply : Nat) (d : Decision)
deriving DecidableEq, Repr

/-- A datagram carried by the UART (R397): its header fields and data (R326). -/
structure UartDatagram where
  kind   : Nat
  master : Nat
  hdr    : DgramHdr := {}
  offset : Nat := 0
  data   : Bytes := []
deriving DecidableEq, Repr

end Sys2Proof
end

