-- ==== Sys2Proof/Syntax.lean ====
section
/-!
DEFINITION. The commands of the block: one constructor per row of spec/opcode_table.json, with the row's operands. A
command of the Efvex set carries the request entry as the Quaymaster copied it (Table 11.10); an event carries what
happens outside the block (a frame, a measured value, a record from the partner).
-/
namespace Sys2Proof

/-- The commands of the block. -/
inductive Instr where
  /-- SYS_INFO, R339: Returns the identity record, the master table or another selector's status record. -/
  | sysInfo (r : Req)
  /-- SYS_MODE_SET, R347: Sets and clears mode flags, optionally with a replay map, at its start block. -/
  | sysModeSet (r : Req)
  /-- SYS_MODE_GET, R348: Returns the mode word, resume flag, power state and pending mode changes. -/
  | sysModeGet (r : Req)
  /-- SYS_RESET, R340: Resets the device after 1 ms (kind 0) or clears every cumulative counter (kind 1). -/
  | sysReset (r : Req)
  /-- SYS_LOG_READ, R341: Returns log entries from a given log sequence. -/
  | sysLogRead (r : Req)
  /-- OBJ_SET, R33: Writes selected field groups of an object record, with effect at a scene tick. -/
  | objSet (r : Req)
  /-- OBJ_GET, R37: Returns an object record and its status fields. -/
  | objGet (r : Req)
  /-- OBJ_BIND, R41: Binds an object to an input channel or unbinds it. -/
  | objBind (r : Req)
  /-- OBJ_CLAIM, R336: Claims, releases or queries a claim on an object or zone. -/
  | objClaim (r : Req)
  /-- SPK_SET, R44: Writes selected field groups of a loudspeaker record. -/
  | spkSet (r : Req)
  /-- SPK_GET, R43: Returns a loudspeaker record. -/
  | spkGet (r : Req)
  /-- ZONE_SET, R45: Writes selected field groups of a zone record. -/
  | zoneSet (r : Req)
  /-- AIR_SET, R47: Writes the air record used for the speed of sound and absorption. -/
  | airSet (r : Req)
  /-- PEER_SET, R50: Writes a peer record and returns its status. -/
  | peerSet (r : Req)
  /-- CHAIN_SET, R132: Writes the device, input-chain or output-chain record, or returns chain status. -/
  | chainSet (r : Req)
  /-- ACCORD_LOAD, R144: Writes the pending accord slot of a range of outputs at a block boundary. -/
  | accordLoad (r : Req)
  /-- ACCORD_SWAP, R146: Starts or schedules an accord fade on a range of outputs, or returns accord status. -/
  | accordSwap (r : Req)
  /-- ROUTE_SET, R160: Changes crosspoints, mutes or bindings of the router, or returns router status. -/
  | routeSet (r : Req)
  /-- BRIDGE_SET, R123: Sets a flow's bridge mode, rate and loop settings. -/
  | bridgeSet (r : Req)
  /-- SILENCE_SET, R165: Sets silence-detector settings for a channel range or returns their states. -/
  | silenceSet (r : Req)
  /-- PORT_CFG, R218: Writes a port record or returns port status. -/
  | portCfg (r : Req)
  /-- BERTH_OPEN, R226: Opens a receive or transmit berth at a block boundary. -/
  | berthOpen (r : Req)
  /-- BERTH_CLOSE, R235: Closes a receive or transmit berth and starts its drain. -/
  | berthClose (r : Req)
  /-- BERTH_STAT, R236: Returns a berth's record and counters. -/
  | berthStat (r : Req)
  /-- FILTER_SET, R220: Writes a port's address filter record. -/
  | filterSet (r : Req)
  /-- TIME_CFG, R252: Writes a device, port, reference or capture timing record. -/
  | timeCfg (r : Req)
  /-- TIME_STAT, R273: Returns the time status record captured at one instant. -/
  | timeStat (r : Req)
  /-- TRIG_SET, R269: Programs a trigger output. -/
  | trigSet (r : Req)
  /-- CAPT_READ, R272: Removes and returns entries from a capture queue. -/
  | captRead (r : Req)
  /-- NOSE_CFG, R172: Writes a Nose device, observation-input, health or target-curve record. -/
  | noseCfg (r : Req)
  /-- PAIR_SET, R184: Writes an observed-pair record. -/
  | pairSet (r : Req)
  /-- MARK_SET, R182: Writes marker settings for a range of outputs or returns gate states. -/
  | markSet (r : Req)
  /-- POLICY_SET, R191: Writes the device calibration policy. -/
  | policySet (r : Req)
  /-- EST_READ, R189: Returns estimate records for a range of pairs. -/
  | estRead (r : Req)
  /-- PROPOSAL_READ, R204: Returns proposal records for a range of targets. -/
  | proposalRead (r : Req)
  /-- PROPOSAL_APPLY, R204: Applies a named proposal at the master's rank. -/
  | proposalApply (r : Req)
  /-- SWEEP_RUN, R210: Starts or aborts a SWEEP measurement run. -/
  | sweepRun (r : Req)
  /-- HEALTH_READ, R205: Returns health status for a range of outputs. -/
  | healthRead (r : Req)
  /-- TWIN_CFG, R281: Writes the unit's twin record. -/
  | twinCfg (r : Req)
  /-- TWIN_STAT, R311: Returns the twin status record. -/
  | twinStat (r : Req)
  /-- TWIN_WARP, R296: Starts or abandons a warp. -/
  | twinWarp (r : Req)
  /-- TWIN_SWITCH, R310: Hands the active role to the standby at a block boundary. -/
  | twinSwitch (r : Req)
  /-- WITNESS_SET, R304: Writes the witness record of the pair. -/
  | witnessSet (r : Req)
  /-- PWR_POLICY, R358: Writes the power policy record. -/
  | pwrPolicy (r : Req)
  /-- PWR_STAT, R360: Returns the power status record. -/
  | pwrStat (r : Req)
  /-- TEST_LOOP, R400: Starts or stops a loopback test on an interface. -/
  | testLoop (r : Req)
  /-- POST_REPORT, R395: Returns the self-test report. -/
  | postReport (r : Req)
  /-- FW_STAGE, R398: Writes and checks a firmware image or credential block in the idle slot. -/
  | fwStage (r : Req)
  /-- FW_COMMIT, R399: Writes a boot record naming the staged item and resets 1 ms later. -/
  | fwCommit (r : Req)
  /-- ANA_IN_CFG, R405: Sets an analogue input's gain, phantom power and channel. -/
  | anaInCfg (r : Req)
  /-- ANA_OUT_CFG, R407: Sets an analogue output's span and hold. -/
  | anaOutCfg (r : Req)
  /-- LOOP_CFG, R410: Configures a current-loop output. -/
  | loopCfg (r : Req)
  /-- TDM_CFG, R413: Configures a TDM port. -/
  | tdmCfg (r : Req)
  /-- SHORT_SET, R169: Configures a short-path route within 1 ms. -/
  | shortSet (r : Req)
  /-- GPIO_SET, R415: Writes a GPIO pin, alarm plan, UART, I2C transfer or pad-group record. -/
  | gpioSet (r : Req)
  /-- ECHO, R320: An echo entry changes nothing and is answered OK with its acceptance index. -/
  | echo (r : Req)
  /-- STORE_TRANSFER, R324: Moves data between a crane and the replay store or blotter. -/
  | storeTransfer (r : Req) (h : StoreHdr)
  /-- DOORBELL_REQ, R320: Signals new request entries; the Quaymaster consumes and accepts them in ring order. -/
  | doorbellReq (m : Fin 8)
  /-- DOORBELL_RSP, R319: Signals consumed responses; held responses are written as space frees. -/
  | doorbellRsp (m : Fin 8)
  /-- DOORBELL_CHUNK, R323: Signals a change of chk_host in a chunk stream. -/
  | doorbellChunk (m : Fin 8)
  /-- DOORBELL_RESET, R325: Resets a master's ring, stopping its transfers and releasing its claims. -/
  | doorbellReset (m : Fin 8)
  /-- RING_RESET_DONE, R325: After the drain, the master's indices are zeroed and ring_ready is set. -/
  | ringResetDone (m : Fin 8)
  /-- IRQ_CAUSE_WRITE, R7: A W1C write clears cause bits unless the same cycle sets them. -/
  | irqCauseWrite (v : BitVec 32)
  /-- IRQ_MASK_WRITE, R318: Sets the interrupt mask; unmasking a set cause sends an MSI-X message. -/
  | irqMaskWrite (v : BitVec 32)
  /-- REGISTER_WRITE, R316: A window write to a register with no row of its own, including ring index fields. -/
  | registerWrite (addr size : Nat) (v : Carried)
  /-- EFVEX_OPEN, R327: An open datagram binds a network master to its peer. -/
  | efvexOpen (m : Fin 8) (p : Arrival) (mask : BitVec 32)
  /-- EFVEX_CLOSE, R327: A close datagram ends the session and resets the master's ring. -/
  | efvexClose (m : Fin 8) (p : Arrival)
  /-- EFVEX_REQUEST, R326: A request datagram delivers one request entry to the master's ring. -/
  | efvexRequest (m : Fin 8) (p : Arrival) (entry : Bytes)
  /-- EFVEX_SEGMENT_IN, R326: A segment datagram delivers bulk or chunk data. -/
  | efvexSegmentIn (m : Fin 8) (p : Arrival) (offset : Nat) (data : Bytes)
  /-- EFVEX_INDEX, R326: An index datagram carries the master's ring head and tail words. -/
  | efvexIndex (m : Fin 8) (p : Arrival) (head tail : BitVec 32)
  /-- EFVEX_KEEPALIVE, R327: A keepalive datagram keeps the session alive. -/
  | efvexKeepalive (m : Fin 8) (p : Arrival)
  /-- SESSION_TIMEOUT, R327: After 10 s without a datagram the session ends and the ring is reset. -/
  | sessionTimeout (m : Fin 8)
  /-- COMMAND_SETTLE, R333: At a timed command's settle point its collisions are resolved and it is answered. -/
  | commandSettle
  /-- CRANE_CHANNEL_START, R322: A waiting transfer starts when a crane channel is free. -/
  | craneChannelStart
  /-- CRANE_TRANSFER_DONE, R322: A crane transfer completes; the command acts or its response is written. -/
  | craneTransferDone (ch : Fin 8) (data : Bytes)
  /-- PORST_N_RELEASE, R391: Release of PORST_N samples the straps and starts the Pilot and self-test. -/
  | porstNRelease (straps : Straps) (t : SelfTest)
  /-- PORST_N_ASSERT, R422: Assertion of PORST_N resets the device; in P2 or P3 it causes a cold boot. -/
  | porstNAssert (ns : Nat)
  /-- BOOT_WATCHDOG, R389: If post_done is not set in time the running image is marked bad and the device resets. -/
  | bootWatchdog (t : SelfTest)
  /-- BOOT_LOAD_DONE, R390: An image loaded over PCIe, SPI or UART has arrived and is checked and run. -/
  | bootLoadDone (img : Image) (t : SelfTest)
  /-- VKEEP_RISE, R355: On VKEEP rising the lantern holds PWR_EN low, then drives it high within 5 ms. -/
  | vkeepRise
  /-- PGOOD_FALL, R355: PGOOD falling while PWR_EN is high records wake reason 7. -/
  | pgoodFall (ns : Nat)
  /-- WAKE_N_LOW, R356: WAKE_N held low wakes the device from DOZE. -/
  | wakeNLow (ns : Nat)
  /-- WAKE_TIMER, R356: The wake timer expires and wakes the device from P3 or P4. -/
  | wakeTimer
  /-- PCIE_PERST_N, R429: PCIE_PERST_N low resets the PCIe inbound master and holds the link down. -/
  | pciePerstN (low : Bool)
  /-- FABRIC_PORT_RESET, R366: A master port is reset and drains until all its IDs retire. -/
  | fabricPortReset (p : PortReset)
  /-- DECODE_ERROR, R365: A transaction to the default target returns a decode error; outside debug it is fatal. -/
  | decodeError (p : Fin 14) (addr : Nat)
  /-- LOCKSTEP_MISMATCH, R394: A Quaymaster lockstep mismatch enters SAFE. -/
  | lockstepMismatch
  /-- COMPANION_LINK_LOST, R394: Loss of the companion-die link in service enters SAFE. -/
  | companionLinkLost
  /-- THERMAL_SENSOR_READ, R438: The render-die sensor is read each 1 ms; two readings above 125 °C enter SAFE. -/
  | thermalSensorRead (temp : Int)
  /-- TAP_INSTRUCTION, R401: A boundary-scan instruction is loaded; EXTEST, CLAMP or HIGHZ enter SAFE. -/
  | tapInstruction (i : TapInstr)
  /-- DEBUG_UNLOCK, R402: A signed unlock token on the TAP opens debug access. -/
  | debugUnlock (token : Bytes)
  /-- FRAME_RECEIVE, R219: A received frame passes the acceptance tests and goes to a berth, a ring or is dropped. -/
  | frameReceive (port : Fin 3) (f : Frame)
  /-- SCENE_BUS_UPDATE, R55: A queued object or air update is accepted and arbitrated for its tick. -/
  | sceneBusUpdate
  /-- SCENE_BUS_ANNOUNCEMENT, R52: A peer announcement sets the peer's state and mismatch bits. -/
  | sceneBusAnnouncement
  /-- SCENE_BUS_ANNOUNCE_SEND, R52: Every 16 ticks the renderer multicasts its announcement. -/
  | sceneBusAnnounceSend
  /-- PEER_SILENT, R52: A peer with no announcement for three intervals is marked SILENT. -/
  | peerSilent (i : Fin 4096)
  /-- SCENE_BUS_RESEND, R57: A publisher re-sends each published object's current record in its cycle. -/
  | sceneBusResend
  /-- TX_DESCRIPTOR_SEND, R245: The MAC takes a transmit descriptor chain and sends or segments it, or refuses it. -/
  | txDescriptorSend (port : Fin 3) (ring : Fin 6) (chain : List TxDesc)
  /-- TX_FRAME_DONE, R256: A frame leaves the MAC and its requested stamp enters the timestamp queue. -/
  | txFrameDone (port : Fin 3) (gap time : Nat)
  /-- RING_DISABLE_DRAIN_END, R247: A disabled ring's frames in flight complete and the command responds. -/
  | ringDisableDrainEnd (port : Fin 3)
  /-- LINK_DOWN, R260: A port's link goes down; the reference port's loss puts the servo in HOLD. -/
  | linkDown (port : Fin 3)
  /-- LINK_UP, R216: A port's link comes up at its configured speed and FEC. -/
  | linkUp (port : Fin 3)
  /-- MOORING_LANE_LOCK_LOSS, R279: A mooring lane without block lock moves all traffic to the other lane. -/
  | mooringLaneLockLoss (lane : Fin 2)
  /-- PTP_SYNC, R258: A Sync forms an exchange that the tide servo filters and applies. -/
  | ptpSync (port : Fin 3) (t1 t2 : Nat) (corr : Int) (interval : Nat)
  /-- PTP_DELAY_RESP, R258: A delay response or peer-delay exchange yields a path-delay measurement. -/
  | ptpDelayResp (port : Fin 3) (t1 t2 t3 t4 : Nat) (corr : Int)
  /-- PTP_ANNOUNCE, R263: An Announce feeds the best master clock algorithm and reference-port choice. -/
  | ptpAnnounce (port : Fin 3) (m : Master9)
  /-- ANNOUNCE_TIMEOUT, R260: No Announce for announce_timeout intervals puts the servo in HOLD. -/
  | announceTimeout (port : Fin 3)
  /-- SYNC_TIMEOUT, R260: No Sync for four intervals puts the servo in HOLD. -/
  | syncTimeout (port : Fin 3)
  /-- REROUTE_HOLDOFF_END, R264: At the hold-off end another port is chosen or the stepped port is requalified. -/
  | rerouteHoldoffEnd
  /-- PHASE_STEP, R250: A phase step changes C at a block boundary and discards the delay store and buffers. -/
  | phaseStep
  /-- IRQ_LATENCY_CALIBRATION, R255: A self-stamped calibration interrupt updates the mean interrupt latency. -/
  | irqLatencyCalibration (ns : Nat)
  /-- PLL_LOCK, R275: A PLL declares lock a fixed time after enable; rendering resumes on media PLL lock. -/
  | pllLock (p : Fin 8)
  /-- PLL_LOSS, R275: Loss of lock or reference freezes a PLL, which coasts and raises the time event. -/
  | pllLoss (p : Fin 8) (refclk : Bool)
  /-- PLL_REFERENCE_RETURN, R275: A PLL's reference returns and it resumes tracking from the frozen value. -/
  | pllReferenceReturn (p : Fin 8)
  /-- REFERENCE_LOST, R266: An external reference is lost and the servo enters HOLD. -/
  | referenceLost
  /-- REFERENCE_QUALIFIED, R266: An external reference qualifies and the servo leaves HOLD. -/
  | referenceQualified
  /-- CAPTURE_EDGE, R271: An edge on a capture input is stamped into its queue. -/
  | captureEdge (i : Fin 4) (rising : Bool) (width time : Nat)
  /-- TRIGGER_EDGE, R269: A trigger output makes a programmed edge at its media cycle. -/
  | triggerEdge (i : Fin 4)
  /-- BLOCK_BOUNDARY, R14: A block boundary applies block-timed changes due at that block. -/
  | blockBoundary
  /-- SCENE_SNAPSHOT, R59: The solver snapshots the records for a tick and solves it. -/
  | sceneSnapshot
  /-- FETCH_LIST_HANDOVER, R92: The solver hands each Quay's fetcher the fetch list of a tick. -/
  | fetchListHandover
  /-- FETCH_WINDOW_OPEN, R93: The fetch window of a block opens and its granules are requested. -/
  | fetchWindowOpen
  /-- GRANULE_FETCH_DONE, R99: A fetched granule returns into staging, or as an ECC substitution. -/
  | granuleFetchDone (q : Fin 4) (tag : Nat) (ecc : Bool)
  /-- CATCH_DEADLINE, R229: At a block's catch deadline absent samples are concealed. -/
  | catchDeadline (inputs : List LocalIn)
  /-- COMPUTE_SLOT, R17: A block's input chains, sillage write, taps, output chains and router are computed. -/
  | computeSlot
  /-- EMIT_SLOT, R20: A block's results go to transmit queues, converters and TDM frames. -/
  | emitSlot
  /-- ACCORD_FADE_END, R146: After a fade's last period the outgoing slot empties and a waiting swap may start. -/
  | accordFadeEnd (o : Fin 512)
  /-- HOP_FADE_END, R80: A HOP fade ends after its F-th tick. -/
  | hopFadeEnd (slot o : Fin 512)
  /-- ZERO_CROSS_CUT, R162: A zero-cross crosspoint change applies at the source's zero crossing. -/
  | zeroCrossCut (src dst : BitVec 16)
  /-- ZERO_CROSS_FALLBACK, R162: A zero-cross change with no crossing in 5 ms becomes a fade. -/
  | zeroCrossFallback (src dst : BitVec 16)
  /-- ROUTE_BINDING_CHANGE, R159: A binding change takes effect at the first block boundary where the destination's ph is 0. -/
  | routeBindingChange (dst : BitVec 16)
  /-- MUTE_RAMP_LENGTH_CHANGE, R153: A new ramp length takes effect when the running ramp ends. -/
  | muteRampLengthChange (target : BitVec 16)
  /-- BERTH_DRAIN_END, R235: A receive berth's drain ends and its slots are freed and the close answered. -/
  | berthDrainEnd (b : Fin 256)
  /-- TX_BERTH_DRAIN_END, R242: A transmit berth's last packet leaves the MAC and the close is answered. -/
  | txBerthDrainEnd (b : Fin 128)
  /-- QUAY_GATE_DONE, R105: A gated Quay's fetches in flight drain and the gate completes. -/
  | quayGateDone (q : Fin 4)
  /-- NOSE_DRAIN_END, R174: The Nose's stop drain completes and NOSE_CFG responds. -/
  | noseDrainEnd
  /-- NOSE_FRAME, R185: An analysis frame is accumulated into each pair's cross-spectra. -/
  | noseFrame
  /-- NOSE_REFRESH, R186: A refresh forms each pair's response, arrival, level and tracking proposals. -/
  | noseRefresh
  /-- PROPOSAL_INTERVAL, R200: Every prop_interval the Nose forms correction proposals. -/
  | proposalInterval
  /-- HEALTH_EVIDENCE_HOLD, R208: Evidence held for its time changes a loudspeaker's health. -/
  | healthEvidenceHold (o : Fin 512)
  /-- Z_REF_LEARN_END, R206: After 60 s of data the impedance reference is learned. -/
  | zRefLearnEnd (o : Fin 512)
  /-- SWEEP_EXCITATION_START, R211: Excitation begins on the swept output once the other outputs are down. -/
  | sweepExcitationStart
  /-- SWEEP_END, R211: After the last excitation and tail the run ends and results are written. -/
  | sweepEnd
  /-- DRYDOWN, R359: Drydown time reaching dry_time enters DOZE. -/
  | drydown
  /-- DOZE_PAUSE, R352: At the first block with every ph at 0 rendering pauses and a power state is chosen. -/
  | dozePause
  /-- DOZE_RESUME, R353: At the resume tick rendering restarts and DOZE clears. -/
  | dozeResume
  /-- P3_WAKE_RESTORE, R354: On wake from P3 the image is verified and restored, or the device boots cold. -/
  | p3WakeRestore (kind : WakeKind) (sealed trained : Bool) (t : SelfTest)
  /-- PWR_EN_RAISE, R355: After a wake from P4, PWR_EN rises no sooner than 20 ms after it fell. -/
  | pwrEnRaise
  /-- P1_GATE_CHANGE, R351: An idle block is gated, or ungated before it is needed. -/
  | p1GateChange
  /-- RETRAIN_STEP, R377: A channel's periodic retraining step measures margin and may start a search. -/
  | retrainStep (ch : Fin 8) (centre : Option Int)
  /-- DRAM_SEARCH_STEP, R377: One step of a channel's search for a working setting. -/
  | dramSearchStep (ch : Fin 8) (found : Option Int)
  /-- DRAM_STEP_DOWN, R379: A failed search steps the DRAM rate down or sets SHALLOW. -/
  | dramStepDown
  /-- DRAM_RATE_CHANGE, R378: All channels pause, the PLL relocks and stored setpoints load. -/
  | dramRateChange
  /-- SHALLOW_SEARCH, R382: In SHALLOW a search and pattern test run each second and may clear SHALLOW. -/
  | shallowSearch (pass pattern : Bool)
  /-- RATE_CLIMB, R382: After 60 s and in DARK or P2 the controller tries the next rate up. -/
  | rateClimb (pass : Bool)
  /-- DRAM_TEMP_READ, R373: Every 32 ms each die's temperature sets its refresh rate. -/
  | dramTempRead (t0 t1 : Int)
  /-- HAMMER_WINDOW_RESET, R375: Activation counts reset at each 32 ms refresh window. -/
  | hammerWindowReset
  /-- HAMMER_THROTTLE, R375: A requester over the activation limit is throttled for the window. -/
  | hammerThrottle (p : Fin 14) (ch : Fin 8) (group count : Nat)
  /-- CHANNEL_SELF_REFRESH, R374: A channel idle for 1,000 µs enters self-refresh. -/
  | channelSelfRefresh (ch : Fin 8) (idle : Nat)
  /-- SRAM_SCRUB, R369: The patrol scrubber reads SRAM words and corrects single-bit errors. -/
  | sramScrub (corrected : Nat) (bad : Option SramSite)
  /-- DRAM_SCRUB, R376: The patrol scrubber reads DRAM and writes back corrected words. -/
  | dramScrub (corrected link forwarded : Nat) (bad : Option DramSite)
  /-- TWIN_HEARTBEAT_SEND, R282: A heartbeat is sent each block on the mooring link and each 1 ms on the network. -/
  | twinHeartbeatSend (network : Bool)
  /-- TWIN_HEARTBEAT, R302: A received heartbeat feeds liveness and may cause a yield. -/
  | twinHeartbeat (network : Bool) (hb : Heartbeat)
  /-- TWIN_COMMAND, R285: The standby applies a forwarded command record at its apply period. -/
  | twinCommand (c : TwinCmd)
  /-- TWIN_MANIFEST, R286: The standby applies the active's manifest and computes the block. -/
  | twinManifest (m : Manifest)
  /-- MANIFEST_TIMEOUT, R288: A manifest absent 4 µs after the deadline is counted and own presence used. -/
  | manifestTimeout
  /-- WANT_POINT, R288: The standby sends a want for still-absent required samples. -/
  | wantPoint
  /-- TWIN_WANT, R288: The active answers a want with repair records. -/
  | twinWant (block : Nat) (wants : List Want)
  /-- TWIN_REPAIR, R288: The standby writes repaired samples, or discards late ones. -/
  | twinRepair (rep : Repair)
  /-- TWIN_MIRROR, R289: The standby fills local-input channels from the active's mirror. -/
  | twinMirror (mir : Mirror)
  /-- TWIN_DIGEST, R295: The standby compares output digests and sets ADRIFT on two mismatches. -/
  | twinDigest (block crc : Nat)
  /-- TWIN_CHECK, R290: A standby whose tap-pressure counts differ from the check record sets ADRIFT. -/
  | twinCheck (c : Check)
  /-- TWIN_WARP_DATA, R297: The standby loads a received warp image segment. -/
  | twinWarpData (seg : WarpSeg) (bytes : Nat)
  /-- TWIN_WARP_CONTROL, R296: A warp control record carries phase, warp tick, slices and acknowledgements. -/
  | twinWarpControl (c : WarpCtl)
  /-- WARP_INPUT_CUT, R298: The input-chain state is captured at block X and reloaded on the standby. -/
  | warpInputCut
  /-- WARP_SLICE, R300: A slice of outputs is cut over to the standby. -/
  | warpSlice (outputs : List (Fin 512))
  /-- WARP_REJOIN, R296: After 16 matching blocks ADRIFT clears and the warp completes. -/
  | warpRejoin
  /-- WARP_ABANDON, R301: A warp is abandoned and restarted from phase 0. -/
  | warpAbandon
  /-- TWIN_RELEASE, R307: A standby receiving a release claims at the next block boundary. -/
  | twinRelease (block : Nat)
  /-- TWIN_HAND_OVER, R310: The standby takes the active role from the hand-over stamp. -/
  | twinHandOver (stamp : Nat)
  /-- LEASE_REQUEST, R304: A witness grants or refuses a pair's lease. -/
  | leaseRequest (pair : Nat) (unit : Fin 2) (epoch : Nat)
  /-- LEASE_GRANT, R304: A unit receives a lease grant from the witness. -/
  | leaseGrant (holder : Fin 2) (epoch expiry : Nat)
  /-- LEASE_RENEW, R304: The active unit renews its lease every renew_ms. -/
  | leaseRenew
  /-- LEASE_EXPIRE, R304: An active unit whose lease expires stops sending and becomes standby. -/
  | leaseExpire
  /-- MOORING_SILENT, R303: No mooring heartbeat for moor_hold intervals; the standby uses its own presence. -/
  | mooringSilent
  /-- NETWORK_SILENT, R302: No network heartbeat for net_hold ms. -/
  | networkSilent
  /-- FLOWS_SILENT, R302: No packet of the active's flows for flow_hold ms. -/
  | flowsSilent
  /-- TWIN_CLAIM, R305: The standby claims the active role and replays kept packets. -/
  | twinClaim
  /-- SPAN_CHANGE_DONE, R408: A span change sequence completes and span_now updates. -/
  | spanChangeDone (o : Fin 8)
  /-- INPUT_GAIN_SWITCH, R405: An input gain switches at a zero crossing or after 5 ms with a ramp. -/
  | inputGainSwitch (i : Fin 8)
  /-- OUTPUT_CURRENT_LIMIT, R409: An output at its current limit for 1 ms ramps to 0 V and raises the local cause. -/
  | outputCurrentLimit (o : Fin 8)
  /-- OUTPUT_LIMIT_RETRY, R409: One second after a limit trip the output ramps back. -/
  | outputLimitRetry (o : Fin 8)
  /-- PHANTOM_FAULT, R406: P12 current above 24 mA for 10 ms removes phantom power. -/
  | phantomFault (i : Fin 8)
  /-- ANALOGUE_SUPPLY_FAULT, R424: An analogue rail below minimum drives outputs to 0 V and loops to 0 mA. -/
  | analogueSupplyFault
  /-- LOOP_CHECK, R411: Each 1 ms the die checks a loop for compliance, open and short faults. -/
  | loopCheck (l : Fin 4) (m : LoopSense)
  /-- LOOP_SLEW, R410: Each interval the loop moves toward its target by at most one step. -/
  | loopSlew (l : Fin 4)
  /-- TDM_SYNC_ERROR, R414: A follower sees a misplaced frame sync and realigns. -/
  | tdmSyncError (p : Fin 4)
  /-- TDM_SYNC_LOSS, R414: No frame sync for 4 frame times starves the port's bridge. -/
  | tdmSyncLoss (p : Fin 4)
  /-- ALARM_INPUT, R416: An alarm input change applies the slot's assert or release ROUTE_SET. -/
  | alarmInput (pin : Fin 16) (level : Bool)
  /-- I2C_TRANSFER_DONE, R417: An I2C transfer ends and is answered with its status and data. -/
  | i2cTransferDone (status : Fin 3) (data : Bytes)
  /-- I2C_BUS_HELD, R417: SDA low for 25 ms causes recovery clocks and a bus-held answer. -/
  | i2cBusHeld
  /-- TEST_LOOP_END, R400: A loopback test ends at its duration or stop and is answered. -/
  | testLoopEnd (iface index : Nat) (res : LoopResult)
  /-- FW_STAGE_DONE, R398: Staging's programming and readback check end and the command is answered. -/
  | fwStageDone (programmed : Bool)
  /-- UART_FRAME, R397: A SLIP-framed datagram on the UART is handled for master 7. -/
  | uartFrame (d : UartDatagram)
  /-- MOORING_LANE_LOCK, R279: A mooring lane regains block lock and carries its own record kinds again, letting the link count as up. -/
  | mooringLaneLock (lane : Fin 2)
  /-- VKEEP_LOSS, R357: VKEEP falls below its minimum in P4, and the lantern loses the hold count and wake reason. -/
  | vkeepLoss
  /-- ANALOGUE_SUPPLY_RESTORED, R424: Once every analogue rail has been in range for 100 ms, state [2] clears and outputs and loops return. -/
  | analogueSupplyRestored
  /-- PHANTOM_RAMP_DONE, R405: The 100 ms rise or fall of P12 phantom power ends, and the input's Heart samples stop being held at zero. -/
  | phantomRampDone (i : Fin 8)
  /-- RESET_BEGIN, R340: 1 ms after SYS_RESET kind 0 or FW_COMMIT is answered, the device resets as a release of PORST_N does, without sampling straps. -/
  | resetBegin (t : SelfTest)
  /-- PTP_SEND_INTERVAL, R268: At each Sync, Announce or delay-request interval the Quaymaster sends the PTP message due on a port, as master or slave. -/
  | ptpSendInterval (port : Fin 3) (kind : Fin 3)
  /-- PTP_DELAY_REQUEST, R251: A received Delay_Req or Pdelay_Req is answered with its response under the profile in force. -/
  | ptpDelayRequest (port : Fin 3) (p2p : Bool) (t2 : Nat)
deriving DecidableEq, Repr

end Sys2Proof
end

