-- ==== Sys2Proof/Decode.lean ====
section
/-!
DEFINITION. Words of the opcode table. spec/opcode_table.json gives no row any bits (every row's "fields" is empty), so no
word spells a command. The requests a ring carries are decoded from their entries in Machine/Operands.lean (Table 11.10).
-/
namespace Sys2Proof

/-- The command a word of the opcode table spells: none, since the table gives no row bits. -/
def decodeTableWord (_nbits _w : Nat) : Option Instr := none

end Sys2Proof
end

