-- ==== Sys2Proof/Machine/Codes.lean ====
section
/-!
DEFINITION. The codes of statuses (Table 11.15) and of commands (Table 11.19).
-/
namespace Sys2Proof

/-- Status codes (Table 11.15). -/
def Status.code : Status → Nat
  | .ok => 0x00
  | .deferred => 0x01
  | .superseded => 0x02
  | .owned => 0x10
  | .refusedMode => 0x11
  | .badParam => 0x12
  | .noResource => 0x13
  | .busy => 0x14
  | .authFail => 0x15
  | .notFound => 0x16

/-- The command was accepted, wholly or in part (R337). -/
def Status.accepted : Status → Bool
  | .ok | .deferred | .superseded => true
  | _ => false

/-- Opcodes (Table 11.19); 0 for store transfers and echoes (Table 11.10). -/
def Opcode.code : Opcode → Nat
  | .sysInfo => 0x0101 | .sysModeSet => 0x0102 | .sysModeGet => 0x0103 | .sysReset => 0x0104 | .sysLogRead => 0x0105
  | .objSet => 0x0201 | .objGet => 0x0202 | .objBind => 0x0203 | .objClaim => 0x0204 | .spkSet => 0x0205
  | .spkGet => 0x0206 | .zoneSet => 0x0207 | .airSet => 0x0208 | .peerSet => 0x0209
  | .chainSet => 0x0301 | .accordLoad => 0x0302 | .accordSwap => 0x0303 | .routeSet => 0x0304 | .bridgeSet => 0x0305
  | .silenceSet => 0x0306
  | .portCfg => 0x0401 | .berthOpen => 0x0402 | .berthClose => 0x0403 | .berthStat => 0x0404 | .filterSet => 0x0405
  | .timeCfg => 0x0501 | .timeStat => 0x0502 | .trigSet => 0x0503 | .captRead => 0x0504
  | .noseCfg => 0x0601 | .pairSet => 0x0602 | .markSet => 0x0603 | .policySet => 0x0604 | .estRead => 0x0605
  | .proposalRead => 0x0606 | .proposalApply => 0x0607 | .sweepRun => 0x0608 | .healthRead => 0x0609
  | .twinCfg => 0x0701 | .twinStat => 0x0702 | .twinWarp => 0x0703 | .twinSwitch => 0x0704 | .witnessSet => 0x0705
  | .pwrPolicy => 0x0801 | .pwrStat => 0x0802
  | .testLoop => 0x0901 | .postReport => 0x0902 | .fwStage => 0x0903 | .fwCommit => 0x0904
  | .anaInCfg => 0x0A01 | .anaOutCfg => 0x0A02 | .loopCfg => 0x0A03 | .tdmCfg => 0x0A04 | .shortSet => 0x0A05
  | .gpioSet => 0x0A06
  | .storeTransfer => 0 | .echo => 0

/-- The opcodes a kind-0 entry may name. -/
def Opcode.all : List Opcode :=
  [.sysInfo, .sysModeSet, .sysModeGet, .sysReset, .sysLogRead,
   .objSet, .objGet, .objBind, .objClaim, .spkSet, .spkGet, .zoneSet, .airSet, .peerSet,
   .chainSet, .accordLoad, .accordSwap, .routeSet, .bridgeSet, .silenceSet,
   .portCfg, .berthOpen, .berthClose, .berthStat, .filterSet,
   .timeCfg, .timeStat, .trigSet, .captRead,
   .noseCfg, .pairSet, .markSet, .policySet, .estRead, .proposalRead, .proposalApply, .sweepRun, .healthRead,
   .twinCfg, .twinStat, .twinWarp, .twinSwitch, .witnessSet, .pwrPolicy, .pwrStat,
   .testLoop, .postReport, .fwStage, .fwCommit,
   .anaInCfg, .anaOutCfg, .loopCfg, .tdmCfg, .shortSet, .gpioSet]

/-- The command an opcode names (R342). -/
def Opcode.ofCode (n : Nat) : Option Opcode := Opcode.all.find? fun o => o.code == n

end Sys2Proof
end

