-- ==== Sys2Proof/Config.lean ====
section
/-!
DEFINITION. What the manual leaves to the part, to the build, or to no one: constants with no body, so that no proof
can see a value of them. Each is named in notes/assumptions/.
-/
namespace Sys2Proof.Config

/-- HW_ID variant (Table 11.4, fuses): 0 C, 1 I. Assumption 3. -/
opaque variant : Bool
/-- Serial number (Table 11.16, fuses). Assumption 3. -/
opaque serial : Nat
/-- PCI vendor ID (R314, R339). Assumption 3. -/
opaque pciVendor : Nat
/-- Build field of the firmware release (R339). Assumption 3. -/
opaque fwBuild : Nat
/-- Station address of port A (R218, fuses); B and management follow it. Assumption 3. -/
opaque station : Nat
/-- The debug-lock fuse is intact (R402). Assumption 3. -/
opaque debugLockIntact : Bool
/-- SHA-384 of the public key whose hash fuse key slot i holds (R388). Assumption 3. -/
opaque keyHash : Nat → Bytes
/-- Manufacturer field of the IDCODE, 11 bits (R401, BSDL file). Assumption 3. -/
opaque jtagMaker : Nat
/-- Number of cells of the boundary-scan chain (R401, BSDL file). Assumption 3. -/
opaque scanCells : Nat
/-- A PHY answers at address i of the management port's MDIO (R433). Assumption 3. -/
opaque phyAnswers : Nat → Bool
/-- Unlock token check (R402): serial, challenge, token. Assumption 4. -/
opaque unlockValid : Nat → Nat → Bytes → Bool
/-- Challenge the Pilot draws at a boot (R402), by boot count. Assumption 4. -/
opaque challenge : Nat → Nat
/-- Station address of the partner's port A (R279): the partner's fuses. Assumption 3. -/
opaque partnerStation : Nat
/-- Which buffer of the general partition (R243) the Quaymaster writes into a receive descriptor: in SRAM (true) or DRAM, by port,
ring and place. Assumption 7. -/
opaque rxBuffer : Bool → Nat → Nat → Nat → Nat
/-- Bytes that DTLS adds to a datagram (R328, TLS_AES_128_GCM_SHA256), by its length. Assumption 7. -/
opaque dtlsExtra : Nat → Nat
/-- Bytes of the fixed part of a twin-control record (Table 10.2) whose layout the manual does not give, by kind and content.
Assumption 7. -/
opaque twinRecord : Nat → List Nat → Bytes
/-- SHA-256 of a byte string (R322, R354). Assumption 4. -/
opaque sha256 : Bytes → Bytes
/-- SHA-384 of a byte string (R388). Assumption 4. -/
opaque sha384 : Bytes → Bytes
/-- An ECDSA P-384 signature verifies under a public key over a digest (R388). Assumption 4. -/
opaque ecdsaValid : Bytes → Bytes → Bytes → Bool
/-- HMAC-SHA-256 under a key (R330). Assumption 4. -/
opaque hmacSha256 : Bytes → Bytes → Bytes
/-- Choice of the neighbour within 1 ulp of an elementary function in binary32 (R63): function code, arguments. True
takes the float at or above the exact value, false the one at or below. Assumption 5. -/
opaque ulpUp : Nat → Rat → Rat → Bool
/-- Rounding error of the real (true) or imaginary part of FFT bin k of 8,192 samples: the manual leaves the order of the
binary32 operations open (R185). Assumption 6. -/
opaque fftErr : List Rat → Nat → Bool → Rat
/-- Rounding error of sample j of a response brought back to time, and of tap j of a correction filter (R186, R201).
Assumption 6. -/
opaque ifftErr : List (Rat × Rat) → Nat → Rat
opaque designErr : List (Nat × Int) → Nat → Rat
/-- How band filter b is realised as two biquads at a Heart rate (R178): whether the lower pole pair comes first, and the
gain of the first biquad. Assumption 6. -/
opaque bandLowFirst : Nat → Nat → Bool
opaque bandGain : Nat → Nat → Rat
/-- Value of a quantity the manual leaves undefined, by the state's fresh counter. Assumption 7. -/
opaque freeInt : Nat → Int
/-- As freeInt, for a natural number. Assumption 7. -/
opaque freeNat : Nat → Nat
/-- How the twin event names the reason of an entry to ADRIFT (Table 11.18 gives no codes): 0 late command record, 1 SHALLOW,
2 digests, 3 tap pressure, 4 mooring silent, 5 phase step, 6 LOOPBACK, 7 yield, 8 self-test end. Assumption 7. -/
opaque adriftReason : Nat → Nat
/-- Word of the counter pattern of a berth loopback, by index and channel (Table 14.8 names the pattern and no more).
Assumption 7. -/
opaque counterWord : Nat → Nat → Int
/-- Sample i at 384 kHz of the rendered signal at a converter (R168), from its H-format words of the block before and of this one:
the manual gives no response of the DAC path. Assumption 30. -/
opaque dacSample : List Int → List Int → Nat → Int
/-- The log entry of a reserved strap value (Table 14.1): cause from 8 (0), sub (1), first argument (2). Assumption 7. -/
opaque strapLog : Nat → Nat
/-- Setting of the glitch filter of WAKE_N in ns, of which R26 gives the range 0 to 1 µs and no default or command (Table 16.12).
Assumption 7. -/
opaque wakeFilter : Nat
/-- Largest frame of text the Pilot or the Quaymaster adds to the self-test report (Table 14.7). Assumption 3. -/
opaque reportText : Nat → Bytes

end Sys2Proof.Config
end

