-- ==== Sys2Proof/Machine/Assoc.lean ====
section
/-!
DEFINITION. Sparse maps in canonical form: keys strictly rising, and no entry equal to what an unlisted key reads as.
-/
namespace Sys2Proof.SMap

/-- The entry of key `k`, if it is listed. -/
def look {α : Type} : List (Nat × α) → Nat → Option α
  | [], _ => none
  | (j, v) :: r, k => if j = k then some v else look r k

/-- The value at key `k`; an unlisted key reads as `d`. -/
def get {α : Type} (d : α) (m : List (Nat × α)) (k : Nat) : α := (look m k).getD d

/-- List key `k` with value `v`, keeping the keys rising. -/
def ins {α : Type} : List (Nat × α) → Nat → α → List (Nat × α)
  | [], k, v => [(k, v)]
  | (j, w) :: r, k, v =>
    if k < j then (k, v) :: (j, w) :: r else if k = j then (k, v) :: r else (j, w) :: ins r k v

/-- Remove key `k`. -/
def del {α : Type} (m : List (Nat × α)) (k : Nat) : List (Nat × α) := m.filter fun e => e.1 != k

/-- Write `v` at key `k`: a value equal to the default is not listed. -/
def put {α : Type} [DecidableEq α] (d : α) (m : List (Nat × α)) (k : Nat) (v : α) : List (Nat × α) :=
  if v = d then del m k else ins m k v

/-- Change the value at key `k`. -/
def upd {α : Type} [DecidableEq α] (d : α) (m : List (Nat × α)) (k : Nat) (f : α → α) : List (Nat × α) :=
  put d m k (f (get d m k))

/-- The keys listed. -/
def keys {α : Type} (m : List (Nat × α)) : List Nat := m.map Prod.fst

/-- Rewrite every listed value; values that become the default are dropped. -/
def mapVals {α β : Type} [DecidableEq β] (d : β) (f : Nat → α → β) (m : List (Nat × α)) : List (Nat × β) :=
  (m.map fun e => (e.1, f e.1 e.2)).filter fun e => e.2 != d

/-- The canonical form: keys strictly rising, nothing listed equal to the default. -/
def wf {α : Type} [DecidableEq α] (d : α) : List (Nat × α) → Bool
  | [] => true
  | (k, v) :: r => v != d && (r.all fun e => k < e.1) && wf d r

end Sys2Proof.SMap
end

