-- ==== Sys2Proof/Machine/Bytes.lean ====
section
/-!
DEFINITION. Byte order (R5): little-endian fields of the host window and the Efvex records, network order in frames;
field checks of a record against its table (R6, R32).
-/
namespace Sys2Proof

/-- `n` bytes of `v`, least significant first. -/
def le : Nat → Nat → Bytes
  | 0, _ => []
  | n + 1, v => BitVec.ofNat 8 v :: le n (v / 256)

/-- `n` bytes of a signed value in two's complement, least significant first. -/
def leI (n : Nat) (v : Int) : Bytes := le n (v % (2 ^ (8 * n) : Nat)).toNat

/-- `n` bytes of `v`, most significant first. -/
def be (n v : Nat) : Bytes := (le n v).reverse

/-- The number little-endian bytes spell. -/
def unLe : Bytes → Nat
  | [] => 0
  | b :: r => b.toNat + 256 * unLe r

/-- `n` bytes of `p` from `off`; bytes beyond the end read zero. -/
def slice (p : Bytes) (off n : Nat) : Bytes :=
  let q := (p.drop off).take n
  q ++ List.replicate (n - q.length) 0

/-- Unsigned little-endian field. -/
def getU (p : Bytes) (off n : Nat) : Nat := unLe (slice p off n)

/-- A number read as two's complement of `bits` bits. -/
def toSigned (bits v : Nat) : Int := if v < 2 ^ (bits - 1) then (v : Int) else (v : Int) - (2 ^ bits : Nat)

/-- Signed little-endian field. -/
def getI (p : Bytes) (off n : Nat) : Int := toSigned (8 * n) (getU p off n)

/-- Unsigned big-endian field. -/
def getB (p : Bytes) (off n : Nat) : Nat := unLe (slice p off n).reverse

/-- Zero bytes. -/
def zeros (n : Nat) : Bytes := List.replicate n 0

/-- Extend with zero bytes to `n`. -/
def padTo (n : Nat) (p : Bytes) : Bytes := p ++ zeros (n - p.length)

/-- One of two values as a number. -/
def bit (b : Bool) (i : Nat := 0) : Nat := if b then 2 ^ i else 0

/-- Field of a record: place, group (none: it names the record or is always checked), signedness, range, reserved bits
(R6, R32), and values allowed beside the range. -/
structure Fld where
  off    : Nat
  size   : Nat
  group  : Option Nat := none
  lo     : Int := 0
  hi     : Int
  signed : Bool := false
  resv   : Nat := 0
  also   : List Int := []

/-- The field lies in its range. -/
def Fld.inRange (f : Fld) (p : Bytes) : Bool :=
  let v : Int := if f.signed then getI p f.off f.size else getU p f.off f.size
  (f.lo ≤ v && v ≤ f.hi) || f.also.contains v

/-- The record's payload obeys its table (R6, R32): its length; every byte no field covers is zero; reserved bits are
zero whatever the mask; naming fields and the fields of selected groups lie in their ranges. -/
def layoutOk (fs : List Fld) (start len : Nat) (sel : Nat → Bool) (p : Bytes) : Bool :=
  p.length == len &&
  ((List.range len).all fun i =>
    i < start || (fs.any fun f => f.off ≤ i && i < f.off + f.size) || p.getD i 0 == 0) &&
  (fs.all fun f =>
    (getU p f.off f.size &&& f.resv) == 0 &&
    (match f.group with
     | none => f.inRange p
     | some g => !sel g || f.inRange p))

/-- The select mask of a record (R32). -/
def maskOf (p : Bytes) : Nat := getU p 0 4

/-- Layout check of a select-mask record with `groups` field groups: a set bit beyond them is a non-zero reserved
field (R32). -/
def recordOk (fs : List Fld) (groups len : Nat) (p : Bytes) : Bool :=
  maskOf p < 2 ^ groups && layoutOk fs 4 len (fun g => (maskOf p).testBit g) p

/-- Keep the old value of a field whose group is not written. -/
def pick {α : Type} (b : Bool) (new old : α) : α := if b then new else old

/-- A number with bit i set or cleared. -/
def setBitN (n i : Nat) (v : Bool) : Nat := if n.testBit i == v then n else if v then n + 2 ^ i else n - 2 ^ i

end Sys2Proof
end

