-- ==== Sys2Proof/Machine/Fixed.lean ====
section
/-!
DEFINITION. Integer arithmetic of the render path: H- and C-format words (R111, R112), stage rounding (R114), and the
rounding of real values (R441).
-/
namespace Sys2Proof

/-- Largest and smallest words of 32 bits; H-format never holds the smallest (R111). -/
def hMax : Int := 2147483647
def hMin : Int := -2147483647
def cMin : Int := -2147483648

/-- Saturation to H-format: symmetric (R111). -/
def satH (x : Int) : Int := if x > hMax then hMax else if x < hMin then hMin else x

/-- Saturation to C-format (R112). -/
def satC (x : Int) : Int := if x > hMax then hMax else if x < cMin then cMin else x

/-- Unity in C-format. -/
def unity : Int := 1073741824

/-- Saturation to any signed range. -/
def clampI (lo hi x : Int) : Int := if x > hi then hi else if x < lo then lo else x

/-- Stage rounding: drop `s` bits, half up (R114). -/
def rshift (s : Nat) (x : Int) : Int :=
  if s = 0 then x else (x + (2 ^ (s - 1) : Nat)) / (2 ^ s : Nat)

/-- Whether a stage result saturates (R115). -/
def overH (x : Int) : Bool := x > hMax || x < hMin

/-- Nearest integer, a half away from zero (R441). -/
def roundAway (x : Rat) : Int :=
  if x < 0 then -((2 * (-x) + 1) / 2).floor else ((2 * x + 1) / 2).floor

/-- Nearest C-format word to a real value, held to the range (R441). -/
def toC (x : Rat) : Int := satC (roundAway (x * 1073741824))

/-- Nearest H-format word with 0 dBFS = 2^27 (R441, R111). -/
def toH (x : Rat) : Int := satH (roundAway (x * 134217728))

/-- The four bytes of a word, little-endian, as the digest takes them (R294). -/
def wordNat (x : Int) : Nat := (x % 4294967296).toNat

/-- Round up and down to a multiple. -/
def ceilTo (m x : Nat) : Nat := (x + m - 1) / m * m
def floorTo (m x : Nat) : Nat := x / m * m

/-- Counters: one that wraps at 2^w and one that holds at its top (R115). -/
def wrapAdd (w x n : Nat) : Nat := (x + n) % 2 ^ w
def holdAdd (top x n : Nat) : Nat := if x + n > top then top else x + n

/-- Sum of a list of integers. -/
def isum (l : List Int) : Int := l.foldl (· + ·) 0

end Sys2Proof
end

