-- ==== Sys2Proof/Machine/State.lean ====
section
/-!
DEFINITION. The state of the block as plain data, grouped by the chapters of the manual, and its value at reset. Every
collection indexed by a number is a sparse map (SMap) whose unlisted keys read as the record's default.
-/
namespace Sys2Proof.Machine

/-- The block never stops with a fault: every failure the manual describes is an answer (Table 11.15) or SAFE (R394),
both next states. The type is empty, so that no command can raise one; safe. -/
inductive Fault where
deriving DecidableEq, Repr

/-- A refusal of the model itself; only exec's arms raise it, for a command without a meaning. Safe. -/
inductive Refusal where
  /-- a command with no meaning yet, by its mnemonic -/
  | notModelled (mnemonic : String)
deriving DecidableEq, Repr

/-- Media time and the rhythm of blocks and ticks (R9, R11, R14, R16, R17, R248). -/
structure Media where
  /-- media clock cycles C (R248) -/
  c        : Nat := 0
  /-- 0 48 kHz, 1 96 kHz, 2 192 kHz -/
  heart    : Nat := 1
  catchL   : Nat := 192
  /-- base_log2 of the device record (R109), and a change waiting for its block -/
  baseLog2 : Nat := 4
  /-- rendering runs; false before self-test ends, while the media PLL relocks (R11) and while paused (R352) -/
  running  : Bool := false
  /-- a heart and a catch change accepted and waiting for the block boundary -/
  newHeart : Option Nat := none
  newCatch : Option Nat := none
  /-- last tick snapped and last blocks caught, computed, emitted, last media boundary handled -/
  snapped  : Option Nat := none
  caught   : Option Nat := none
  computed : Option Nat := none
  emitted  : Option Nat := none
  bounded  : Option Nat := none
  handed   : Option Nat := none
  windowed : Option Nat := none
  /-- MODEL: counter of free values used so far -/
  fresh    : Nat := 0
deriving DecidableEq, Repr

/-- A run of ticks or blocks with a condition (R341): first tick, length, total. -/
structure Run where
  first : Nat
  len   : Nat
  total : Nat
  /-- the last tick or block with the condition -/
  last  : Nat
deriving DecidableEq, Repr

/-- The control interface (chapter 11). -/
structure HostIf where
  ready    : Bool := false
  irqCause : BitVec 32 := 0
  irqMask  : BitVec 32 := 0
  /-- MSI-X messages sent per vector 0-4 (R318), and the address and data of each, oldest first -/
  msix     : SMap Nat := []
  msixSent : List (Nat × Nat) := []
  masters  : SMap Master := []
  /-- rings and bulk regions (Table 11.2), one canonical byte memory; an unlisted byte reads 0 -/
  mem      : List Host.Cell := []
  /-- MSI-X table as the host wrote it (0xF_0000, 80 bytes), and the pending-bit array (0xF_8000), a bit per vector -/
  msixTab  : List Host.Cell := [(12, 1), (28, 1), (44, 1), (60, 1), (76, 1)]
  msixPend : BitVec 64 := 0
  cmds     : List Cmd := []
  nextId   : Nat := 0
  claims   : List Claim := []
  transfers : List Transfer := []
  owed     : List Owed := []
  log      : List LogEntry := []
  nextLseq : Nat := 1
  highRead : Nat := 0
  overwritten : Nat := 0
  /-- entries were overwritten unread in the present block (R341) -/
  overflowDue : Bool := false
  rotation : Nat := 0
  /-- entries consumed in all in the present block, and that block (R320) -/
  takenAll : Nat := 0
  takenIn  : Nat := 0
  tapRun   : Option Run := none
  lateRuns : SMap Run := []
  /-- SYS_RESET kind 0 or FW_COMMIT has been answered; the reset begins 1 ms later -/
  resetDue : Bool := false
  /-- SYS_RESET kind 1 waits for the block boundary -/
  clearDue : Bool := false
  outbox   : List OutMsg := []
  cred     : Option CredBlock := none
  perst    : Bool := false
deriving DecidableEq, Repr

/-- Modes and power (chapter 12). `stage`: 0 rendering, 1 ramping down to DOZE, 2 paused in P2, 3 in P3, 4 in P4. -/
structure Power where
  word     : BitVec 16 := 0
  resume   : Nat := 0
  policy   : PowerPolicy := {}
  pstate   : Nat := 0
  chosen   : Nat := 0
  stage    : Nat := 0
  gated    : BitVec 16 := 0
  banks    : BitVec 16 := 0
  wakeReason : Nat := 0
  /-- what the lantern will report at the next boot -/
  nextReason : Nat := 0
  dryFrom  : Option Nat := none
  byDrydown : Bool := false
  holdCount : Nat := 0
  p2       : Nat := 0
  p3       : Nat := 0
  resumeFails : Nat := 0
  lastEntry : Nat := 0
  lastWake : Nat := 0
  /-- start block A of DOZE -/
  dozeAt   : Nat := 0
  resumeTick : Option Nat := none
  wake     : WakeKind := .none
  /-- a wake arrived before the entry completed -/
  wakeHeld : Bool := false
  /-- the policy as it stood at A: one written in DOZE is used at the next entry (R357) -/
  entry    : PowerPolicy := {}
  pwrEn    : Bool := false
  vkeep    : Bool := false
  pgood    : Bool := false
  /-- mode bits deferred to an event (Table 12.4 D): the event (0 the wake, 1 the end of a SWEEP run, 2 the resume of
  rendering), the command's apply period, the bits, the master -/
  deferred : List (Nat × Nat × BitVec 16 × Nat) := []
  /-- block at which drydown enters DOZE (R359), and the index at which that was decided -/
  dryAt    : Option Nat := none
  dryRaised : Nat := 0
  /-- the lantern's wake timer, in s, as armed at the last entry -/
  timer    : Nat := 0
deriving DecidableEq, Repr

/-- The scene (chapter 2). -/
structure Scene where
  objects  : SMap ObjEntry := []
  stats    : SMap ObjStat := []
  speakers : SMap SpkRec := []
  zones    : SMap ZoneRec := []
  air      : AirRec := {}
  airSt    : AirState := {}
  peers    : SMap PeerRec := [(0, { roles := 1, nodeId := 1048560 })]
  peerSt   : SMap PeerStat := []
  dupStop  : Bool := false
  pubSeq   : Nat := 1
  updates  : List BusUpdate := []
  announced : List Announcement := []
  /-- updates accepted for the present tick, and that tick (R56) -/
  busCount : Nat := 0
  busTick  : Nat := 0
  published : List Nat := []
  airAt    : Nat := 0
  cursor   : Nat := 0
deriving DecidableEq, Repr

/-- A Quay's fetcher (R92-R98, R105): tick of the fetch list handed over last, fetches in flight by tag, fetches waiting for
a tag or a staging slot, staged granules, granules lost to an error with the last block that fetched them (R99), read windows
and their late-fade state by read, counters of Table 4.4. Granule keys are slot × 2^54 + number; read keys are
start tick × 2^18 + 512 × slot + output. -/
structure Quay where
  gated    : Bool := false
  draining : Bool := false
  listTick : Option Nat := none
  flight   : List (Nat × Fetch) := []
  waiting  : List Fetch := []
  nextTag  : Nat := 0
  staged   : List Fetch := []
  lost     : List (Nat × Nat) := []
  windows  : SMap ReadWin := []
  fetches  : Nat := 0
  shared   : Nat := 0
  late     : Nat := 0
  eccSub   : Nat := 0
  flightPeak : Nat := 0
  stagedPeak : Nat := 0
  /-- sticky tap saturation counter (R77) -/
  tapSat   : Nat := 0
deriving DecidableEq, Repr

/-- A computed block waiting to be emitted (R17, R20). -/
structure BlockOut where
  block : Nat
  /-- per output: 16 words after stage 11; per destination code: 16 Heart words -/
  outs  : SMap (List Int) := []
  dests : SMap (List Int) := []
  /-- input-chain outputs of the block by channel -/
  chans : SMap (List Int) := []
  /-- destinations in force for the block, as kind × 65,536 + index: of outputs, of destination codes -/
  spk   : SMap Nat := []
  bind  : SMap Nat := []
  /-- rendering was paused: every output word is zero and there is no digest (R352) -/
  paused : Bool := false
deriving DecidableEq, Repr

/-- The render path (chapters 3 to 6). -/
structure Rend where
  /-- object slots of the tick being computed (R38): slot to object -/
  slots    : SMap Nat := []
  /-- slots of objects deactivated in the tick snapped last, and in the tick being computed: their taps fade out -/
  leaving  : SMap Nat := []
  gone     : SMap Nat := []
  taps     : SMap (SMap Tap) := []
  tapTick  : Option Nat := none
  nextTaps : SMap (SMap Tap) := []
  nextTick : Option Nat := none
  /-- destinations of the loudspeaker outputs for the tick computed, and for the one solved -/
  spkNow   : SMap Nat := []
  spkNext  : SMap Nat := []
  near     : SMap (SMap Int) := []
  long     : SMap (SMap Int) := []
  nearMark : SMap Nat := []
  longMark : SMap Nat := []
  quays    : SMap Quay := []
  depthClamps : Nat := 0
  shallowEntries : Nat := 0
  granuleWrites : Nat := 0
  replayLate : Nat := 0
  /-- R101 goes on applying: from entry to SHALLOW to the first snapshot after it ends (R104), whose tick is `fetchFrom` -/
  shallowPolicy : Bool := false
  fetchFrom : Nat := 0
  inChains : SMap InChain := []
  /-- input-chain outputs stamped b to b+19 of the block computed last, b first (R87, R124) -/
  chanOut  : SMap (List Int) := []
  /-- clamps of the Heart-to-Top interpolator (Table 5.10, kind 0) -/
  topSat   : Nat := 0
  bridges  : SMap Bridge := []
  outChains : SMap OutChain := []
  accords  : SMap AccordSlots := []
  mutes    : SMap MuteRamp := []
  dests    : SMap Dest := []
  xpoints  : List Xpoint := []
  fallbacks : Nat := 0
  /-- zero-cross removals that have cut and still count (R160): source, destination, first period not counted -/
  ghosts   : List (Nat × Nat × Nat) := []
  silence  : SMap Silence := []
  shorts   : SMap ShortRoute := []
  markers  : SMap MarkState := []
  markRecs : SMap MarkRec := []
  replay   : SMap ReplayChan := []
  store    : SMap Bytes := []
  storeVersion : Nat := 0
  /-- accords hit by an uncorrectable error and what the next block boundary restores (Table 13.6): output, slot, accord -/
  accordHits : List (Nat × Nat × Accord) := []
  /-- computed blocks that wait for their emission (R17, R20) -/
  outs     : List BlockOut := []
deriving DecidableEq, Repr

/-- The Nose (chapter 7). -/
structure Nose where
  dev      : NoseDev := {}
  obs      : SMap ObsIn := []
  pairs    : SMap PairRec := []
  accs     : SMap PairAcc := []
  policy   : Policy := {}
  curves   : SMap TargetCurve := []
  proposals : SMap Proposal := []
  anchors  : SMap Anchor := []
  curEq    : SMap (SMap Int) := []
  /-- corrections of the accords in the pending slots that the Nose formed (R202) -/
  loadEq   : SMap (SMap Int) := []
  health   : SMap Health := []
  sweep    : Option SweepRun := none
  /-- the capture by observation input and stamp (R214), its inputs and its span of stamps -/
  blotter  : SMap (SMap Int) := []
  blotMask : BitVec 64 := 0
  blotFirst : Nat := 0
  blotLast  : Nat := 0
  /-- outputs swept whose programme ramps back in: the output, the stamp from which it does, and the ramp's length (R211) -/
  sweepBack : List (Nat × Nat × Nat) := []
  /-- per output: the blocks with an open gate, and the changes of the gate, newest first -/
  marked   : SMap (SMap MarkLog) := []
  gates    : SMap (List (Nat × Bool)) := []
deriving DecidableEq, Repr

/-- The network (chapter 8). -/
structure Net where
  ports    : SMap Port := []
  rx       : SMap RxBerth := []
  tx       : SMap TxBerth := []
  jitter   : SMap (SMap Slot) := []
  members  : List Member := []
  /-- next sequence number of the frames of a Phoenaox service (Table 8.7): 1 scene bus, 2 twin control -/
  serviceSeq : SMap Nat := []
  /-- MDIO address of the management port's PHY (R433) -/
  phy      : Option Nat := none
deriving DecidableEq, Repr

/-- The time unit (chapter 9). -/
structure TimeUnit where
  dev      : TimeDev := {}
  ports    : SMap TimePort := []
  clocks   : SMap PortClock := []
  ref      : Nat := 0
  newRef   : Option Nat := none
  newDev   : Option TimeDev := none
  /-- port and capture records accepted and waiting for the block boundary (R252) -/
  newCfgs  : List Bytes := []
  servo    : Servo := {}
  tsq      : SMap (List TsqEntry) := []
  tsqOver  : SMap Nat := []
  latencies : List Nat := []
  trigs    : SMap Trigger := []
  capts    : SMap Capture := []
  pllLock  : BitVec 8 := 0
  coasting : BitVec 8 := 0
  spread   : Nat := 1
  spreadDram : Nat := 0
deriving DecidableEq, Repr

/-- Twin operation (chapter 10). `role`: 0 solo, 1 standby, 2 active. -/
structure Twin where
  cfg      : TwinRec := {}
  newCfg   : Option TwinRec := none
  witness  : WitnessRec := {}
  stat     : TwinStat := {}
  epoch    : Nat := 0
  seenEpoch : Nat := 0
  lanes    : BitVec 2 := 0
  moorUp   : Bool := false
  netSeen  : Bool := false
  flowSeen : Bool := false
  partnerFw : Nat := 0
  partnerSafe : Bool := false
  /-- ADRIFT bit and mode word of the partner's last heartbeat -/
  partnerAdrift : Bool := false
  partnerMode : Nat := 0
  lastHeard : Nat := 0
  /-- indices of the active's last heartbeat on the mooring link and on the network, and of its last watched packet; the packets
  watched (R302) -/
  moorHeard : Option Nat := none
  netHeard : Option Nat := none
  flowHeard : Option Nat := none
  watched  : Nat := 0
  /-- index of the partner's last heartbeat on the mooring link, whatever its role (R279) -/
  lastBeat : Option Nat := none
  sendSeq  : Nat := 0
  nextSeq  : Nat := 0
  /-- stamp at which a hand-over takes effect: this unit sends below (true) or from (false) it -/
  handOver : Option (Bool × Nat) := none
  confirm  : Nat := 0
  /-- packets the standby has formed and kept, by port, oldest first (R306) -/
  kept     : List (Nat × TxPkt) := []
  /-- packets queued from this block on (R305), none while standby -/
  sendFrom : Option Nat := none
  /-- stop sending media from this block (R307, R308) -/
  stopAt   : Option Nat := none
  claimAt  : Option Nat := none
  /-- the claim follows a release of the active (R307) -/
  released : Bool := false
  burstUntil : Nat := 0
  digests  : SMap Nat := []
  partner  : SMap Nat := []
  missRun  : Nat := 0
  manifest : Option Manifest := none
  /-- manifests of the blocks before, newest first -/
  oldMans  : List Manifest := []
  /-- block whose manifest has been applied or given up -/
  decided  : Option Nat := none
  wanted   : List Want := []
  /-- runs counted in repair_miss at the deadline (R234) -/
  missed   : List Want := []
  /-- counts of ticks with tap pressure: this unit's under 2 × tick, the active's under one more (R290) -/
  checks   : SMap (List (Nat × Nat)) := []
  /-- the active's check records of the last ticks, by tick (R300) -/
  activeChecks : SMap (List (Nat × Nat)) := []
  /-- decisions of the active's Nose waiting for their apply period (R290) -/
  decisions : List (Nat × Decision) := []
  /-- mirror records of the channels of FREE flows (R289): next flow index, samples in the last, and whether one came since the
  last deadline -/
  mirrors  : SMap (Nat × Nat × Bool) := []
  /-- running state of the slice being cut: on the standby as it arrives, on the active as captured and not yet sent (R300) -/
  stash    : List WarpSeg := []
  warp     : Option Warp := none
  /-- a warp that the standby has asked for and that could not start yet (R296) -/
  asked    : Bool := false
  /-- a warp abandoned under R301 starts again -/
  retry    : Bool := false
  /-- the active's SHALLOW, as forwarded, and a change of it waiting for its tick (R291) -/
  follow   : Bool := false
  followAt : Option (Bool × Nat × Nat) := none
  /-- this unit as a witness: index of its own start (R304) -/
  servedFrom : Nat := 0
  lease    : Bool := false
  leaseEnd : Nat := 0
  leases   : List Lease := []
  ownPresence : Bool := false
  /-- the manifest's Nose bit and silence bits (R287) -/
  manNose  : Bool := false
  manSilent : List Nat := []
  /-- the rendered part reaches the converters and TDM frames (R293) -/
  driving  : Bool := false
  /-- groups joined to watch the active's flows (R302) -/
  watching : List Member := []
deriving DecidableEq, Repr

/-- The memory controllers (chapter 13). -/
structure Mem where
  rate     : Nat := 0
  degraded : BitVec 8 := 0
  searches : SMap Nat := []
  selfRefresh : BitVec 8 := 0
  /-- the setting in force on each channel, in increments from the stored setpoint of the rate (R377) -/
  settings : SMap Int := []
  refresh0 : Nat := 0
  refresh1 : Nat := 0
  temp0    : Int := 0
  temp1    : Int := 0
  stepWanted : Bool := false
  rateWanted : Option Nat := none
  lastStep : Option Nat := none
  stat     : MemStat := {}
  throttled : List (Nat × Nat × Nat) := []
  /-- SHALLOW was set by a loopback on a channel (R400) -/
  byLoop   : Bool := false
  /-- SHALLOW clears at the next block boundary -/
  clearing : Bool := false
deriving DecidableEq, Repr

/-- Start-up, field service and flash (chapter 14). -/
structure Boot where
  straps   : Straps := {}
  report   : Report := {}
  postDone : Bool := false
  postPass : Bool := false
  records  : SMap BootRec := []
  images   : SMap Image := []
  creds    : SMap CredBlock := []
  floor    : Nat := 0
  revoked  : Nat := 0
  /-- the training-pattern sector of the flash holds its pattern (R432) -/
  pattern  : Bool := false
  debugOpen : Bool := false
  boots    : Nat := 0
  /-- powered and out of PORST_N -/
  up       : Bool := false
  /-- waiting for an image over a load path (R390) -/
  loading  : Bool := false
  /-- what the chunk stream of a load over the window has brought (R390) -/
  loaded   : Bytes := []
  /-- boundary-scan instruction in force (R401) -/
  tap      : TapInstr := .idcode
  /-- firmware that stalled before post_done (R389) -/
  stalled  : Bool := false
  running  : Nat := 255
  /-- a stage in progress: target, slot, answer owed (R398) -/
  staging  : Option (Nat × Nat × Owed) := none
  /-- slots staged and checked since reset, by target (R399) -/
  staged   : SMap Nat := []
  loops    : List Loopback := []
  hot      : Bool := false
  training : Bool := false
deriving DecidableEq, Repr

/-- Local inputs and outputs (chapter 15). -/
structure Io where
  anaIn    : SMap AnaIn := []
  anaOut   : SMap AnaOut := []
  loops    : SMap Loop := []
  tdm      : SMap Tdm := []
  pins     : SMap Pin := []
  plans    : SMap AlarmPlan := []
  uart     : Uart := {}
  i2c      : Option Owed := none
  pads     : SMap Nat := []
  supplyFault : Bool := false
deriving DecidableEq, Repr

/-- The machine: the queue of waiting commands, first in, first out, and everything the manual gives the block. -/
structure State where
  pending : List Instr := []
  media   : Media := {}
  host    : HostIf := {}
  power   : Power := {}
  scene   : Scene := {}
  rend    : Rend := {}
  nose    : Nose := {}
  net     : Net := {}
  time    : TimeUnit := {}
  twin    : Twin := {}
  mem     : Mem := {}
  boot    : Boot := {}
  io      : Io := {}
deriving DecidableEq, Repr

/-- The machine after reset: PORST_N asserted, the straps not yet sampled, every record at the default of its table, the
mode word and every host register at its reset value (R50, R143, R152, R248, R259, R391, Tables 11.4 to 11.9). -/
def State.reset : State := {}

end Sys2Proof.Machine
end

