-- ==== Sys2Proof/Machine/Flags.lean ====
section
/-!
DEFINITION. Media time, the mode word (R343), interrupt causes (R318) and the log (R341): the flags a command sets.
-/
namespace Sys2Proof.Machine

/-- The media period index (R9, R248). -/
def State.idx (s : State) : Nat := s.media.c / 512

/-- Heart periods per second, by the heart code (R11). -/
def heartHz (h : Nat) : Nat := 48000 * 2 ^ h

/-- The Heart rate in force. -/
def State.hz (s : State) : Nat := heartHz s.media.heart

/-- Local PTP time in nanoseconds (R248). -/
def State.ptpNs (s : State) : Nat := s.media.c * 1000000000 / (512 * s.hz)

/-- Media periods in a number of milliseconds, rounded up. -/
def State.msPeriods (s : State) (ms : Nat) : Nat := (ms * s.hz + 999) / 1000

/-- A fresh free value of the model, and the state with its counter advanced. -/
def State.freeInt (s : State) : Int × State :=
  (Config.freeInt s.media.fresh, { s with media.fresh := s.media.fresh + 1 })

/-- Bit positions of the mode word (Table 11.6). -/
def mLive := 0
def mDark := 1
def mSweep := 2
def mMark := 3
def mLearn := 4
def mReplay := 5
def mActive := 6
def mStandby := 7
def mAdrift := 8
def mCoast := 9
def mShallow := 10
def mSafe := 11
def mLoop := 12
def mDoze := 13

/-- A flag of the mode word. -/
def State.flag (s : State) (i : Nat) : Bool := s.power.word.getLsbD i

/-- The rules of R101 to R104 hold: the device's own SHALLOW, or on a standby the active's (R291). -/
def State.shallow (s : State) : Bool := s.flag mShallow || s.twin.follow

/-- The mode word with one flag set or cleared. -/
def withFlag (w : BitVec 16) (i : Nat) (v : Bool) : BitVec 16 :=
  if v then w ||| BitVec.ofNat 16 (2 ^ i) else w &&& ~~~(BitVec.ofNat 16 (2 ^ i))

/-- The invariants of the mode word (R344); `pair` is false on a solo unit. -/
def wordOk (pair : Bool) (w : BitVec 16) : Bool :=
  let f := fun i => w.getLsbD i
  (if f mSafe then w == BitVec.ofNat 16 (2 ^ mSafe)
   else (f mLive != f mDark)) &&
  !(f mActive && f mStandby) && (pair || !(f mActive || f mStandby)) &&
  (!f mAdrift || f mStandby) && (!f mDoze || (f mDark && !f mLive))

/-- The unit is one of a pair (R277). -/
def State.isPair (s : State) : Bool := s.boot.straps.twin == 1 || s.boot.straps.twin == 2

/-- Source codes of a log entry (R341). -/
def srcNose := 0x0100
def srcDevice := 0x0200

/-- The window transport is PCIe (R313). -/
def State.pcie (s : State) : Bool := s.boot.straps.host == 0

/-- The interrupt line (R318): low (true) while a cause is enabled and set. -/
def State.irqAsserted (s : State) : Bool := (s.host.irqCause &&& s.host.irqMask) != 0

/-- The MSI-X vector of a cause (R318). -/
def vectorOf (i : Nat) : Nat := if i < 4 then 1 + i else 0

/-- A little-endian field of the MSI-X table (R314): entry v holds the message address at 0, its data at 8 and the vector
control, whose bit 0 masks the vector, at 12 (PRESUMED, the PCI Express base specification; assumption 45). -/
def msixField (s : State) (v off n : Nat) : Nat :=
  unLe ((List.range n).map fun i => SMap.get 0 s.host.msixTab (16 * v + off + i))
def msixMasked (s : State) (v : Nat) : Bool := msixField s v 12 1 % 2 = 1

/-- An MSI-X message of a vector goes out (R318): its table entry's address and data. A masked vector's message waits in the
pending-bit array. -/
def sendVector (v : Nat) (s : State) : State :=
  if msixMasked s v then { s with host.msixPend := s.host.msixPend ||| BitVec.ofNat 64 (2 ^ v) }
  else { s with host.msix := SMap.upd 0 s.host.msix v (· + 1)
                host.msixSent := s.host.msixSent ++ [(msixField s v 0 8, msixField s v 8 4)] }

/-- A message for a cause, over PCIe (R318). -/
def sendMsix (i : Nat) (s : State) : State := if s.pcie && !s.host.perst then sendVector (vectorOf i) s else s

/-- Messages that waited for a vector that is masked no longer. -/
def releaseMsix (s : State) : State :=
  (List.range 5).foldl (fun s v =>
    if s.host.msixPend.getLsbD v && !msixMasked s v then
      sendVector v { s with host.msixPend := s.host.msixPend &&& ~~~(BitVec.ofNat 64 (2 ^ v)) }
    else s) s

/-- Note the cause for every network session whose mask names it (R327). -/
def noteEvent (i : Nat) (s : State) : State :=
  { s with host.masters := s.host.masters.map fun e =>
      if e.2.peer.isSome && (e.2.eventMask.testBit i) && !(e.2.dueCauses.contains i)
      then (e.1, { e.2 with dueCauses := e.2.dueCauses ++ [i] }) else e }

/-- Set a cause bit (R318): a message goes out when an enabled bit rises. -/
def raise (i : Nat) (s : State) : State :=
  let was := s.host.irqCause.getLsbD i
  let s := { s with host.irqCause := s.host.irqCause ||| BitVec.ofNat 32 (2 ^ i) }
  let s := if !was && s.host.irqMask.getLsbD i then sendMsix i s else s
  if i ≥ 8 then noteEvent i s else s

/-- Capacity of the log (R341). -/
def logCap := 65536

/-- Entries of the copy in SRAM that holds the log while SHALLOW stands (R381). -/
def shallowCap := 4096

/-- Write a log entry and set its cause (R341). The oldest entry goes when the log is full; if no SYS_LOG_READ has
returned it, it counts as overwritten unread. With GPIO_SET kind 2 use 2 the UART prints a line per entry (Table 15.7). -/
def logEvent (cause sub src : Nat) (args : List Nat) (s : State) : State :=
  let e : LogEntry := ⟨s.host.nextLseq, s.idx, cause, sub, src, args⟩
  let cap := if s.flag mShallow then shallowCap else logCap
  let oldest := s.host.log.length - cap
  let full := s.host.log.length ≥ cap
  let lost := full && (match s.host.log[oldest]? with | none => false | some o => s.host.highRead < o.lseq)
  let kept := if full then s.host.log.eraseIdx oldest else s.host.log
  let text := if s.io.uart.use = 2 then [OutMsg.text ([e.lseq, e.index, cause, sub, src] ++ args)] else []
  raise cause { s with
    host.outbox := s.host.outbox ++ text, host.log := kept ++ [e], host.nextLseq := s.host.nextLseq + 1,
    host.overwritten := if lost then s.host.overwritten + 1 else s.host.overwritten
    host.overflowDue := s.host.overflowDue || lost }

/-- Change the mode word; a change writes a log entry and sets the mode cause (Table 11.18). -/
def setWord (w : BitVec 16) (src : Nat) (s : State) : State :=
  if w = s.power.word then s
  else logEvent 8 0 src [s.power.word.toNat, w.toNat] { s with power.word := w }

/-- Set or clear one flag of the mode word. In SAFE no flag changes (R344, Table 12.4 S), nor before self-test has set
the word (R345). -/
def setFlag (i : Nat) (v : Bool) (src : Nat) (s : State) : State :=
  if s.flag mSafe || s.power.word == 0 then s else setWord (withFlag s.power.word i v) src s

/-- A local I/O fault (R418): cause 18, sub 0, with its kind, index and fault bits. -/
def localFault (kind index bits : Nat) (s : State) : State :=
  logEvent 18 0 srcDevice [kind, index, bits] s

/-- The time event (R260, R262, R264, R266, R275). -/
def timeEvent (sub : Nat) (args : List Nat) (s : State) : State := logEvent 13 sub srcDevice args s

/-- A twin event (cause 16, Table 11.18). -/
def twinEvent (sub arg : Nat) (s : State) : State :=
  logEvent 16 sub srcDevice [arg, floorTo 16 s.idx % 2 ^ 32] s

/-- A 32-bit argument of a log entry that holds a signed value. -/
def arg32 (x : Int) : Nat := (x % 4294967296).toNat

end Sys2Proof.Machine
end

