-- ==== Sys2Proof/Machine/Ops.lean ====
section
/-!
DEFINITION. The named operations over ring memory, masters and answers (R319 to R333, R337): how the block writes a
response, holds one, and owes one.
-/
namespace Sys2Proof.Machine

/-- One byte of the rings and bulk regions (Table 11.2); a byte nothing has written reads 0 (assumption 10). -/
def readByte (mem : List Host.Cell) (a : Nat) : Byte := SMap.get 0 mem a

/-- Write bytes from an address on. -/
def writeBytes : List Host.Cell → Nat → Bytes → List Host.Cell
  | mem, _, [] => mem
  | mem, a, b :: r => writeBytes (SMap.put 0 mem a b) (a + 1) r

/-- Read bytes from an address on. -/
def readBytes (mem : List Host.Cell) (a n : Nat) : Bytes := (List.range n).map fun i => readByte mem (a + i)

/-- Every listed byte of the ring memory differs from what an unlisted one reads as, and addresses rise. -/
def memWf (mem : List Host.Cell) : Bool := SMap.wf 0 mem

/-- Offsets of a master's areas (Table 11.2). -/
def reqRing (m : Nat) : Nat := 0x10000 + 0x8000 * m
def rspRing (m : Nat) : Nat := 0x14000 + 0x8000 * m
def reqBulk (m : Nat) : Nat := 0x80000 + 0x8000 * m
def rspBulk (m : Nat) : Nat := 0x84000 + 0x8000 * m

/-- A master's ring and session. -/
def State.master (s : State) (m : Nat) : Master := SMap.get {} s.host.masters m

/-- Change a master's ring and session. -/
def updMaster (m : Nat) (f : Master → Master) (s : State) : State :=
  { s with host.masters := SMap.upd {} s.host.masters m f }

/-- Masters 0-3 exist with a window transport, 4-7 always (R313). -/
def State.hasMaster (s : State) (m : Nat) : Bool := m ≥ 4 || s.boot.straps.host < 2

/-- Number of entries between two indices modulo 128 (R319). -/
def ringDiff (tail head : Nat) : Nat := (tail + 128 - head % 128) % 128

/-- A response entry's bytes (Table 11.11). Its tag covers the entry with the tag bytes zero and the bulk data (R330);
`roff` is the place of bulk data. -/
def responseBytes (s : State) (r : Response) (roff : Nat) : Bytes :=
  let bulk := !r.crane && r.body.length > 192
  let head := le 2 r.opcode ++ le 1 r.master ++ le 1 r.status.code ++ le 4 r.seq ++ le 8 r.apply ++ le 8 r.accepted ++
    le 1 (if r.crane then 2 else if bulk then 1 else 0) ++ le 1 (bit r.repeated) ++
    le 2 (if r.crane then 0 else r.body.length) ++ le 2 (if bulk then roff else 0) ++ le 2 0
  let data := padTo 192 (if bulk then [] else r.body)
  let tag := match s.host.cred with
    | some c =>
      if c.enforce then
        slice (Config.hmacSha256 ((c.creds.getD r.master {}).key)
          (head ++ zeros 32 ++ data ++ (if bulk then r.body else []))) 0 32
      else zeros 32
    | none => zeros 32
  head ++ tag ++ data

/-- Two ranges of bytes meet. -/
def overlaps (o1 n1 o2 n2 : Nat) : Bool := o1 < o2 + n2 && o2 < o1 + n1

/-- A place for `n` bytes in the response bulk region that no unread response uses (R321). -/
def bulkPlace (used : List (Nat × Nat × Nat)) (n : Nat) : Option Nat :=
  let free := fun o => o + n ≤ 16384 && !(used.any fun u => overlaps o n u.2.1 u.2.2)
  (0 :: used.map fun u => ceilTo 4 (u.2.1 + u.2.2)).find? free

/-- A chunk stream of the master uses its response bulk region (R323). -/
def State.rspStream (s : State) (m : Nat) : Bool :=
  match (s.master m).chunk with
  | none => false
  | some id => s.host.transfers.any fun t => t.id == id && t.out

/-- A chunk stream of the master uses its request bulk region (R323). -/
def State.reqStream (s : State) (m : Nat) : Bool :=
  match (s.master m).chunk with
  | none => false
  | some id => s.host.transfers.any fun t => t.id == id && !t.out

/-- A response can be written now: the ring has space, and so has the bulk region if the response needs it (R319, R321,
R323). -/
def canWrite (s : State) (r : Response) : Option Nat :=
  let m := s.master r.master
  if ringDiff m.rspTail m.rspHead ≥ 64 then none
  else if !r.crane && r.body.length > 192 then
    if s.rspStream r.master then none else bulkPlace m.bulk r.body.length
  else some 0

/-- Send a message (a frame the Quaymaster forms, or a record of the mooring engine). -/
def send (m : OutMsg) (s : State) : State := { s with host.outbox := s.host.outbox ++ [m] }

/-- A port of the network, and a change of it. -/
def State.port (s : State) (p : Nat) : Port := SMap.get {} s.net.ports p
def updPort (p : Nat) (f : Port → Port) (s : State) : State :=
  { s with net.ports := SMap.upd {} s.net.ports p f }

/-- A loopback test holds an interface (R400): its traffic stops. -/
def looped (s : State) (iface index : Nat) : Bool := s.boot.loops.any fun l => l.iface == iface && l.index == index

/-- A loopback test holds an analogue input: its converter hears the output under test (R400). -/
def loopedIn (s : State) (i : Nat) : Bool := s.boot.loops.any fun l => l.iface == 9 && l.index2 == i

/-- Frames on a port go nowhere: the port is in a loopback, the links are down, or a media port is not enabled, as self-test has
not passed (R354, R391, R396, R400). -/
def portDeaf (s : State) (port : Nat) : Bool :=
  s.power.stage ≥ 3 || (port < 2 && !s.boot.postPass) ||
  (if port < 2 then s.boot.loops.any fun l => l.iface == port else s.boot.loops.any fun l => l.iface == 4)

/-- A recovery boot waits for its image over the UART (R390, R397). -/
def State.recovery (s : State) : Bool := s.boot.loading && s.boot.straps.boot == 3

/-- Requests are served: by the Quaymaster, or by the Pilot in SAFE and in recovery boot (R396, R397). -/
def State.serving (s : State) : Bool := s.host.ready || s.recovery

/-- Control field of the VLAN tag of the frames a port sends (Table 8.2). -/
def State.txTag (s : State) (port : Nat) : Option Nat :=
  let v := (s.port port).cfg.vlan
  if v % 4096 = 0 then none else some (v % 32768)

/-- A frame of the Quaymaster's own joins a port's queue (R240): `len` counts from the destination address to the FCS, without
a tag. The manual names no queue for them but that of a ring; the model takes ring 0 (DESIGN CHOICE, assumption 50). -/
def queueOwn (port queue len dscp : Nat) (s : State) : State :=
  if portDeaf s port then s
  else
    let k : TxPkt := {
      queue := queue, wire := max 64 (len + (if (s.txTag port).isSome then 4 else 0)) + 20, dscp := dscp, tci := s.txTag port }
    updPort port (fun q => { q with queued := q.queued ++ [k] }) s

/-- Send a datagram on a network master's session (R326), as a UDP frame on the Ethernet port its peer was last heard on, or on
the UART. -/
def sendDatagram (m kind offset : Nat) (data : Bytes) (s : State) : State :=
  let ms := s.master m
  match ms.peer with
  | none => s
  | some p =>
    let n := 16 + data.length
    let s := send (.datagram ⟨m, kind, ms.dseq, offset, data, none⟩) (updMaster m (fun x => { x with dseq := (x.dseq + 1) % 2 ^ 32 }) s)
    if p.uart then s else queueOwn ms.eth 0 (46 + n + (if p.dtls then Config.dtlsExtra n else 0)) 0 s

/-- Send bytes as segments of at most 1,024 bytes (Table 11.13). -/
def sendSegments : Nat → Nat → Nat → Bytes → State → State
  | 0, _, _, _, s => s
  | n + 1, m, off, p, s =>
    if p.isEmpty then s else sendSegments n m (off + 1024) (p.drop 1024) (sendDatagram m 5 off (p.take 1024) s)

/-- Write a response at the ring's tail (R319): its bytes, its bulk data, the tail, the rsp cause of a window master, and
the datagrams of a network master. -/
def writeResponse (r : Response) (roff : Nat) (s : State) : State :=
  let m := r.master
  let ms := s.master m
  let bulk := !r.crane && r.body.length > 192
  let entry := responseBytes s r roff
  let mem := writeBytes s.host.mem (rspRing m + 256 * (ms.rspTail % 64)) entry
  let mem := if bulk then writeBytes mem (rspBulk m + roff) r.body else mem
  let s := updMaster m (fun x => { x with
    rspTail := (x.rspTail + 1) % 128,
    bulk := if bulk then x.bulk ++ [(x.rspTail, roff, r.body.length)] else x.bulk,
    answers := if x.seqs.contains r.seq && !r.repeated then (x.answers.filter fun a => a.seq != r.seq) ++ [r]
               else x.answers }) { s with host.mem := mem }
  if m < 4 then raise m s
  else
    let s := if bulk then sendSegments 5 m roff r.body s else s
    sendDatagram m 3 0 entry s

/-- A request that is refused after all was not accepted (R331). -/
def dropSeq (m seq : Nat) (s : State) : State := updMaster m (fun x => { x with seqs := x.seqs.erase seq }) s

/-- Hand a response to the master's ring: held, in order, while it cannot be written (R319). -/
def respond (r : Response) (s : State) : State :=
  let s := updMaster r.master (fun x =>
    if r.repeated then x
    else { x with unanswered := x.unanswered - 1, failRun := if r.status = .authFail then x.failRun + 1 else 0 }) s
  if (s.master r.master).held.isEmpty then
    match canWrite s r with
    | some o => writeResponse r o s
    | none => updMaster r.master (fun x => { x with held := x.held ++ [r] }) s
  else updMaster r.master (fun x => { x with held := x.held ++ [r] }) s

/-- Write held responses while space is free, in order (R319). -/
def flushHeld : Nat → Nat → State → State
  | 0, _, s => s
  | n + 1, m, s =>
    match (s.master m).held with
    | [] => s
    | r :: rest =>
      match canWrite s r with
      | none => s
      | some o => flushHeld n m (writeResponse r o (updMaster m (fun x => { x with held := rest }) s))

/-- Answer a command owed an answer (R333). -/
def answerOwed (o : Owed) (st : Status) (body : Bytes) (s : State) : State :=
  let r : Response := {
    opcode := o.op.code, master := o.master, status := st, seq := o.seq, apply := o.apply, accepted := o.accepted, body := body }
  if o.dropped then s else respond r (if st.accepted then s else dropSeq o.master o.seq s)

/-- Answer and forget every command owed on one unit of one opcode. -/
def settleOwed (op : Opcode) (key : Nat) (st : Status) (body : Bytes) (s : State) : State :=
  let mine := s.host.owed.filter fun o => o.op == op && o.key == key
  mine.foldl (fun s o => answerOwed o st body s)
    { s with host.owed := s.host.owed.filter fun o => !(o.op == op && o.key == key) }

/-- The number an origin travels as: a master, the Nose, the device, a publisher. -/
def originNumber : Origin → Nat
  | .master m => m
  | .nose => 0x100
  | .device => 0x200
  | .bus n => 0x10000 + n

/-- The period R10 gives for a command accepted now. -/
def State.rTen (s : State) : Nat := (s.idx / 64 + 2) * 64

/-- The object's catalogue entry, and what the device keeps beside it. -/
def State.obj (s : State) (id : Nat) : ObjEntry := SMap.get {} s.scene.objects id
def State.objStat (s : State) (id : Nat) : ObjStat := SMap.get {} s.scene.stats id
def State.spk (s : State) (o : Nat) : SpkRec := SMap.get {} s.scene.speakers o
def State.zone (s : State) (z : Nat) : ZoneRec := SMap.get {} s.scene.zones z
def State.peer (s : State) (i : Nat) : PeerRec := SMap.get {} s.scene.peers i
def State.peerSt (s : State) (i : Nat) : PeerStat := SMap.get {} s.scene.peerSt i
def State.quay (s : State) (q : Nat) : Quay := SMap.get {} s.rend.quays q
def State.inChain (s : State) (c : Nat) : InChain := SMap.get {} s.rend.inChains c
def State.outChain (s : State) (o : Nat) : OutChain := SMap.get {} s.rend.outChains o
def State.accord (s : State) (o : Nat) : AccordSlots := SMap.get {} s.rend.accords o
def State.mute (s : State) (o : Nat) : MuteRamp := SMap.get {} s.rend.mutes o
def State.dest (s : State) (c : Nat) : Dest := SMap.get {} s.rend.dests c
def State.bridge (s : State) (f : Nat) : Bridge := SMap.get {} s.rend.bridges f
def State.clock (s : State) (p : Nat) : PortClock := SMap.get {} s.time.clocks p
def State.timePort (s : State) (p : Nat) : TimePort :=
  SMap.get (if p = 2 then { flags := 0 } else {}) s.time.ports p
def State.trig (s : State) (i : Nat) : Trigger := SMap.get {} s.time.trigs i
def State.capt (s : State) (i : Nat) : Capture := SMap.get {} s.time.capts i
def State.anaIn (s : State) (i : Nat) : AnaIn := SMap.get {} s.io.anaIn i
def State.anaOut (s : State) (i : Nat) : AnaOut := SMap.get {} s.io.anaOut i
def State.loop (s : State) (i : Nat) : Loop := SMap.get {} s.io.loops i
def State.tdm (s : State) (i : Nat) : Tdm := SMap.get {} s.io.tdm i
def State.pin (s : State) (i : Nat) : Pin := SMap.get {} s.io.pins i
def State.plan (s : State) (i : Nat) : AlarmPlan := SMap.get {} s.io.plans i

def updObj (id : Nat) (f : ObjEntry → ObjEntry) (s : State) : State :=
  { s with scene.objects := SMap.upd {} s.scene.objects id f }
def updObjStat (id : Nat) (f : ObjStat → ObjStat) (s : State) : State :=
  { s with scene.stats := SMap.upd {} s.scene.stats id f }
def updPeerSt (i : Nat) (f : PeerStat → PeerStat) (s : State) : State :=
  { s with scene.peerSt := SMap.upd {} s.scene.peerSt i f }
def updPortStat (p : Nat) (f : PortStat → PortStat) (s : State) : State :=
  updPort p (fun x => { x with stat := f x.stat }) s
def updQuay (q : Nat) (f : Quay → Quay) (s : State) : State :=
  { s with rend.quays := SMap.upd {} s.rend.quays q f }
def updOutChain (o : Nat) (f : OutChain → OutChain) (s : State) : State :=
  { s with rend.outChains := SMap.upd {} s.rend.outChains o f }
def updAccord (o : Nat) (f : AccordSlots → AccordSlots) (s : State) : State :=
  { s with rend.accords := SMap.upd {} s.rend.accords o f }
def updMute (o : Nat) (f : MuteRamp → MuteRamp) (s : State) : State :=
  { s with rend.mutes := SMap.upd {} s.rend.mutes o f }
def updDest (c : Nat) (f : Dest → Dest) (s : State) : State :=
  { s with rend.dests := SMap.upd {} s.rend.dests c f }
def updClock (p : Nat) (f : PortClock → PortClock) (s : State) : State :=
  { s with time.clocks := SMap.upd {} s.time.clocks p f }
def updTrig (i : Nat) (f : Trigger → Trigger) (s : State) : State :=
  { s with time.trigs := SMap.upd {} s.time.trigs i f }
def updCapt (i : Nat) (f : Capture → Capture) (s : State) : State :=
  { s with time.capts := SMap.upd {} s.time.capts i f }
def updAnaIn (i : Nat) (f : AnaIn → AnaIn) (s : State) : State :=
  { s with io.anaIn := SMap.upd {} s.io.anaIn i f }
def updAnaOut (i : Nat) (f : AnaOut → AnaOut) (s : State) : State :=
  { s with io.anaOut := SMap.upd {} s.io.anaOut i f }
def updLoop (i : Nat) (f : Loop → Loop) (s : State) : State :=
  { s with io.loops := SMap.upd {} s.io.loops i f }
def updTdm (i : Nat) (f : Tdm → Tdm) (s : State) : State := { s with io.tdm := SMap.upd {} s.io.tdm i f }
def updPin (i : Nat) (f : Pin → Pin) (s : State) : State := { s with io.pins := SMap.upd {} s.io.pins i f }
def updTwinStat (f : TwinStat → TwinStat) (s : State) : State := { s with twin.stat := f s.twin.stat }
def updServo (f : Servo → Servo) (s : State) : State := { s with time.servo := f s.time.servo }
def updMemStat (f : MemStat → MemStat) (s : State) : State := { s with mem.stat := f s.mem.stat }
def updRx (b : Nat) (f : RxBerth → RxBerth) (s : State) : State :=
  { s with net.rx := s.net.rx.map fun e => if e.1 = b then (e.1, f e.2) else e }
def updTx (b : Nat) (f : TxBerth → TxBerth) (s : State) : State :=
  { s with net.tx := s.net.tx.map fun e => if e.1 = b then (e.1, f e.2) else e }

/-- The twin partner (R280): the lowest-numbered peer record with the role. -/
def State.partnerPeer (s : State) : Option PeerRec :=
  (s.scene.peers.find? fun e => e.1 != 0 && e.2.nodeId != 0 && e.2.roles.testBit 3).map Prod.snd

/-- Both twin-control berths are open on both media ports (R280). -/
def State.twinBerths (s : State) : Bool :=
  (s.net.rx.any fun e => e.2.state == 1 && e.2.cfg.format == 4 && e.2.cfg.ports == 3) &&
  (s.net.tx.any fun e => e.2.state == 1 && e.2.cfg.format == 4 && e.2.cfg.ports == 3)

/-- The network signal can be heard (R280). -/
def State.twinNet (s : State) : Bool := s.partnerPeer.isSome && s.twinBerths

/-- Number of input channels, outputs, and other capacities at a Heart rate (Table 1.2). -/
def chanCount (h : Nat) : Nat := if h = 2 then 512 else 1024
def objCap (h : Nat) : Nat := if h = 2 then 256 else 512
def netOutCount (h : Nat) : Nat := if h = 2 then 320 else 576
def xpCap (h : Nat) : Nat := if h = 2 then 2048 else 4096
def pairCap (h : Nat) : Nat := if h = 2 then 2048 else 4096
def tapCap (h : Nat) : Nat := if h = 2 then 32768 else 65536
def quayTapCap (h : Nat) : Nat := if h = 2 then 12288 else 24576

/-- The loudspeaker output exists at the Heart rate (R12). -/
def outExists (h o : Nat) : Bool := o < 512 && (h != 2 || o % 128 < 64)

end Sys2Proof.Machine
end

