-- ==== Sys2Proof/Machine/Map.lean ====
section
/-!
DEFINITION. Where things lie: the SRAM and DRAM partitions and the addresses of samples in them (R86, R368, R370, Tables 13.5
and 13.7).
-/
namespace Sys2Proof.Machine

/-- A partition: its base and its size in bytes. -/
structure Partition where
  base : Nat
  size : Nat
deriving DecidableEq, Repr

/-- A fabric address or an offset lies in a partition. -/
def Partition.has (p : Partition) (a : Nat) : Bool := p.base ≤ a && a < p.base + p.size

/-- The SRAM map by fabric address (Table 13.5), in the table's order: near windows, tap tables, accord slots, Nose working
store, jitter buffers, fetch staging, chain and filter state, scene records, rings and descriptors, Quaymaster, general. -/
def sramMap : List Partition :=
  [⟨0x10000000, 0x1000000⟩, ⟨0x11000000, 0x400000⟩, ⟨0x11400000, 0x800000⟩, ⟨0x11C00000, 0xC00000⟩, ⟨0x12800000, 0x600000⟩,
   ⟨0x12E00000, 0x200000⟩, ⟨0x13000000, 0x200000⟩, ⟨0x13200000, 0x100000⟩, ⟨0x13300000, 0x100000⟩, ⟨0x13400000, 0x800000⟩,
   ⟨0x13C00000, 0x400000⟩]

/-- The DRAM map by offset (Table 13.7): scene store, replay store, sillage long lines, Nose cross-spectra, blotter, general. -/
def dramMap : List Partition :=
  [⟨0, 0x40000000⟩, ⟨0x40000000, 0x180000000⟩, ⟨0x1C0000000, 0x17700000⟩, ⟨0x1D7700000, 0x10000000⟩, ⟨0x1E7700000, 0x10000000⟩,
   ⟨0x1F7700000, 0x8900000⟩]

/-- The partition of the SRAM that an address lies in. -/
def sramPartition (a : Nat) : Option Nat := sramMap.findIdx? fun p => p.has a

/-- Bank of an SRAM target: 16, interleaved on 64-byte lines (R368). -/
def sramBank (a : Nat) : Nat := a / 64 % 16

/-- Fabric address of an offset in DRAM, and its channel (R370). -/
def dramAddr (off : Nat) : Nat := 0x200000000 + off
def dramChannel (off : Nat) : Nat := off / 256 % 8

/-- The eighth of its channel's array that an offset lies in, bits [32:30]; the scene store is the first of every channel (R370). -/
def dramEighth (off : Nat) : Nat := off / 2 ^ 30 % 8

/-- Address of near-window sample i of a slot, and DRAM offset of its long-line sample i (R86). -/
def nearAddr (slot i : Nat) : Nat := 0x10000000 + (slot * 32768 + i % 8192 * 4)
def longOffset (slot i : Nat) : Nat := 0x1C0000000 + (slot * 768000 + i % 192000 * 4)

/-- Address of a 64-bit word of the Quaymaster's or the general partition (R369). -/
def quaymasterAddr (word : Nat) : Nat := 0x13400000 + 8 * word
def generalAddr (word : Nat) : Nat := 0x13C00000 + 8 * word

end Sys2Proof.Machine
end

