-- ==== Sys2Proof/Machine/Fabric.lean ====
section
/-!
DEFINITION. The crossbar's rules of service (R361, R363, R375, Table 13.1) and the DRAM channels' (R371, R372), as functions of
what waits. State holds no queue of theirs: no command sees one (assumption 44).
-/
namespace Sys2Proof.Machine

/-- Most transactions a fabric master may hold outstanding (Table 13.1). -/
def fabricCap (m : Nat) : Nat := [32, 32, 640, 640, 640, 640, 512, 256, 64, 128, 128, 128, 224, 32].getD m 0

/-- Kinds of traffic on the fabric (Table 13.1). -/
inductive Traffic where
  | control | quay | nose | crane | pcie | deposit | descriptor | lane | warpData | debug | scrub
deriving DecidableEq, Repr

/-- The QoS that a kind of traffic carries (Table 13.1, R369, R376). -/
def Traffic.qos : Traffic → Nat
  | .control => 8
  | .quay => 13
  | .nose => 6
  | .crane => 4
  | .pcie => 9
  | .deposit => 12
  | .descriptor => 5
  | .lane => 11
  | .warpData => 3
  | .debug => 1
  | .scrub => 0

/-- Effective QoS of a transaction that has waited w fabric cycles at the head (R363). -/
def effectiveQos (qos w : Nat) : Nat := min 15 (qos + w / 512)

/-- A transaction at the head of a target's queue, one for a master. -/
structure Waiting where
  master : Nat
  qos    : Nat
  waited : Nat
deriving DecidableEq, Repr

/-- A goes before b: by effective QoS, then the older, then the lower master index (R363). -/
def servedBefore (a b : Waiting) : Bool :=
  let p := effectiveQos a.qos a.waited
  let q := effectiveQos b.qos b.waited
  p > q || (p == q && (a.waited > b.waited || (a.waited == b.waited && a.master ≤ b.master)))

/-- The transaction a target serves next (R363). -/
def servedNext : List Waiting → Option Waiting
  | [] => none
  | w :: ws => some (ws.foldl (fun a b => if servedBefore a b then a else b) w)

/-- QoS of a master's transaction to a channel: that of a requester throttled for any row-group of the channel is 0 (R375). -/
def channelQos (s : State) (m ch qos w : Nat) : Nat :=
  if s.mem.throttled.any fun e => e.1 == m && e.2.1 == ch then 0 else effectiveQos qos w

/-- A DRAM command that its timing allows (R371). -/
structure DramCmd where
  qos     : Nat
  openRow : Bool
  age     : Nat
  write   : Bool
deriving DecidableEq, Repr

/-- A goes before b in a channel (R371): reads before writes but in a write drain; then QoS, an open row, age. -/
def issuedBefore (drain : Bool) (a b : DramCmd) : Bool :=
  if a.write != b.write then a.write == drain
  else if a.qos ≠ b.qos then a.qos > b.qos
  else if a.openRow != b.openRow then a.openRow
  else a.age ≥ b.age

/-- The write drain of a channel after its queue holds n entries (R371). -/
def writeDrain (was : Bool) (n : Nat) : Bool := if was then n > 16 else n ≥ 48

/-- What a read takes for a byte: the youngest queued write that covers it, else DRAM (R372). Writes are oldest first. -/
def forwardedByte (queued : List (Nat × Byte)) (a : Nat) : Option Byte := (queued.reverse.find? fun e => e.1 == a).map Prod.snd

end Sys2Proof.Machine
end

