-- ==== Sys2Proof/Machine/Crc.lean ====
section
/-!
DEFINITION. The digests and checksums of frames: CRC-32C (R223), CRC-32 (R294), the Internet checksum (R245).
-/
namespace Sys2Proof

/-- One bit of a reflected CRC with the reflected polynomial. -/
def crcBit (poly c : Nat) : Nat := if c % 2 = 1 then Nat.xor (c / 2) poly else c / 2

/-- Fold one byte into a reflected CRC. -/
def crcByte (poly c : Nat) (b : Byte) : Nat :=
  let c := Nat.xor c b.toNat
  crcBit poly (crcBit poly (crcBit poly (crcBit poly (crcBit poly (crcBit poly (crcBit poly (crcBit poly c)))))))

/-- A reflected 32-bit CRC: initial value all ones, result complemented. -/
def crc (poly : Nat) (p : Bytes) : Nat := Nat.xor (p.foldl (crcByte poly) 0xFFFFFFFF) 0xFFFFFFFF

/-- CRC-32C, polynomial 0x1EDC6F41 (R223). -/
def crc32c (p : Bytes) : Nat := crc 0x82F63B78 p

/-- CRC-32, polynomial 0x04C11DB7 (R294). -/
def crc32 (p : Bytes) : Nat := crc 0xEDB88320 p

/-- Sum of big-endian 16-bit words, an odd last byte padded with zero. -/
def words16 : Bytes → Nat
  | [] => 0
  | [a] => a.toNat * 256
  | a :: b :: r => a.toNat * 256 + b.toNat + words16 r

/-- The Internet checksum: the complement of the ones' complement sum. -/
def inetSum (n : Nat) : Nat :=
  let f := fun n => n % 65536 + n / 65536
  65535 - f (f (f n))

/-- Overwrite bytes at an offset. -/
def patch (p : Bytes) (off : Nat) (new : Bytes) : Bytes := p.take off ++ new ++ p.drop (off + new.length)

end Sys2Proof
end

