-- ==== Sys2Proof/Machine/Real.lean ====
section
/-!
DEFINITION. Real functions by integer arithmetic at 2^-256, and rounding to binary32 and binary64. The manual defines
tables and conversions on exact real values (R441, R442); the fixed-point values here carry an error far below every
rounding step (assumption 8). Elementary functions of the solver take a neighbour within 1 ulp (R63): Config.ulpUp.
-/
namespace Sys2Proof.Fx

/-- The scale: 2^256. -/
def one : Int := (2 ^ 256 : Nat)

/-- Rational to fixed point and back. -/
def ofRat (x : Rat) : Int := (x * (one : Rat)).floor
def toRat (x : Int) : Rat := (x : Rat) / (one : Rat)

/-- Product and quotient in fixed point. -/
def mul (x y : Int) : Int := x * y / one
def div (x y : Int) : Int := if y = 0 then 0 else x * one / y

/-- Integer square root by bisection: `n` steps narrow the interval. -/
def isqrtGo : Nat → Nat → Nat → Nat → Nat
  | 0, lo, _, _ => lo
  | n + 1, lo, hi, x =>
    let m := (lo + hi) / 2
    if m * m ≤ x then isqrtGo n m hi x else isqrtGo n lo m x

/-- Floor of the square root. -/
def isqrt (x : Nat) : Nat := isqrtGo (Nat.log2 (x + 1) + 2) 0 (2 ^ (Nat.log2 (x + 1) / 2 + 1)) x

/-- Square root of a non-negative value. -/
def sqrt (x : Int) : Int := if x < 0 then 0 else (isqrt (x * one).toNat : Nat)

/-- Taylor series of e^r, |r| ≤ 1: `n` terms from term `k`. -/
def expGo : Nat → Nat → Int → Int → Int → Int
  | 0, _, _, _, acc => acc
  | n + 1, k, r, t, acc => let t' := mul t r / (k : Int); expGo n (k + 1) r t' (acc + t')

/-- Odd series t + t z² s/3 + ...: atanh with s = 1, atan with s = -1. -/
def oddGo : Nat → Nat → Int → Int → Int → Int → Int
  | 0, _, _, _, _, acc => acc
  | n + 1, k, s, z2, t, acc => let t' := s * mul t z2; oddGo n (k + 2) s z2 t' (acc + t' / (k : Int))

/-- Natural logarithm of 2: 2 atanh (1/3). -/
def ln2 : Int := let z := one / 3; 2 * oddGo 90 3 1 (mul z z) z z

/-- e^x. -/
def exp (x : Int) : Int :=
  let k := x / ln2
  let r := x - k * ln2
  let e := expGo 90 1 r one one
  if k ≥ 0 then e * (2 ^ k.toNat : Nat) else e / (2 ^ (-k).toNat : Nat)

/-- Natural logarithm of a positive value. -/
def ln (x : Int) : Int :=
  if x ≤ 0 then 0 else
    let e : Int := (Nat.log2 x.toNat : Nat) - 256
    let m := if e ≥ 0 then x / (2 ^ e.toNat : Nat) else x * (2 ^ (-e).toNat : Nat)
    let z := div (m - one) (m + one)
    e * ln2 + 2 * oddGo 180 3 1 (mul z z) z z

/-- Arc tangent after three halvings of the argument. -/
def atan (x : Int) : Int :=
  let h := fun (y : Int) => div y (one + sqrt (one + mul y y))
  let z := h (h (h x))
  8 * oddGo 80 3 (-1) (mul z z) z z

/-- Machin's formula. -/
def pi : Int :=
  let a := fun (n : Int) => let z := one / n; oddGo 130 3 (-1) (mul z z) z z
  16 * a 5 - 4 * a 239

/-- Sine and cosine series. -/
def sinGo : Nat → Nat → Int → Int → Int → Int
  | 0, _, _, _, acc => acc
  | n + 1, k, x2, t, acc =>
    let t' := -(mul t x2) / ((k * (k + 1) : Nat) : Int)
    sinGo n (k + 2) x2 t' (acc + t')

/-- Argument brought into (-π, π]. -/
def wrapPi (x : Int) : Int := let t := 2 * pi; x - ((x + pi) / t) * t

def sin (x : Int) : Int := let y := wrapPi x; sinGo 90 2 (mul y y) y y
def cos (x : Int) : Int := let y := wrapPi x; sinGo 90 1 (mul y y) one one

/-- The angle of (x, y). -/
def atan2 (y x : Int) : Int :=
  if x > 0 then atan (div y x)
  else if x < 0 then (if y ≥ 0 then atan (div y x) + pi else atan (div y x) - pi)
  else if y > 0 then pi / 2 else if y < 0 then -(pi / 2) else 0

/-- 10^x and x^y for positive x. -/
def pow10 (x : Int) : Int := exp (mul x (ln (10 * one)))
def pow (x y : Int) : Int := if x ≤ 0 then 0 else exp (mul y (ln x))

end Sys2Proof.Fx

namespace Sys2Proof

/-- Exponent e with 2^e ≤ |x| < 2^(e+1). -/
def ratExp (x : Rat) : Int :=
  let n := x.num.natAbs
  let d := x.den
  let e : Int := (Nat.log2 n : Nat) - (Nat.log2 d : Nat)
  let ge := if e ≥ 0 then d * 2 ^ e.toNat ≤ n else d ≤ n * 2 ^ (-e).toNat
  if ge then e else e - 1

/-- Two to an integer power. -/
def two (e : Int) : Rat := if e ≥ 0 then ((2 ^ e.toNat : Nat) : Rat) else 1 / ((2 ^ (-e).toNat : Nat) : Rat)

/-- The spacing of floats of `p` significant bits and least exponent `emin` at x. -/
def ulpOf (p : Nat) (emin : Int) (x : Rat) : Rat :=
  let e := ratExp x
  two ((if e < emin then emin else e) - (p - 1 : Nat))

/-- Nearest integer, a half to even. -/
def roundEven (x : Rat) : Int :=
  let f := x.floor
  let d := x - (f : Rat)
  if d < 1 / 2 then f else if d > 1 / 2 then f + 1 else if f % 2 = 0 then f else f + 1

/-- Nearest float, ties to even (IEEE 754). -/
def roundFloat (p : Nat) (emin : Int) (x : Rat) : Rat :=
  if x = 0 then 0 else let u := ulpOf p emin x; (roundEven (x / u) : Rat) * u

/-- Infinity of binary32, as a value so large that no product or quotient by a float brings it back into range; a NaN is not
represented (assumption 5). -/
def inf32 : Rat := two 600

/-- Nearest binary32 value, infinite beyond its range; nearest binary64 value. -/
def r32 (x : Rat) : Rat :=
  let y := roundFloat 24 (-126) x
  if y ≥ two 128 then inf32 else if y ≤ -(two 128) then -inf32 else y
def r64 (x : Rat) : Rat := roundFloat 53 (-1022) x

/-- A result of an elementary function in binary32 with an error of at most 1 ulp (R63): one of the two neighbours of
the exact value; a value that is itself a float is kept. -/
def near32 (f : Nat) (x y : Rat) (exact : Rat) : Rat :=
  if exact = 0 then 0 else
    let u := ulpOf 24 (-126) exact
    let q := exact / u
    let lo := q.floor
    if (lo : Rat) = q then exact else if Config.ulpUp f x y then ((lo + 1 : Int) : Rat) * u else (lo : Rat) * u

/-- Elementary functions of the solver in binary32 (R63). -/
def sqrt32 (x : Rat) : Rat := near32 0 x 0 (Fx.toRat (Fx.sqrt (Fx.ofRat x)))
def sin32 (x : Rat) : Rat := near32 1 x 0 (Fx.toRat (Fx.sin (Fx.ofRat x)))
def cos32 (x : Rat) : Rat := near32 2 x 0 (Fx.toRat (Fx.cos (Fx.ofRat x)))
def pow32 (x y : Rat) : Rat := near32 3 x y (Fx.toRat (Fx.pow (Fx.ofRat x) (Fx.ofRat y)))
def exp32 (x : Rat) : Rat := near32 4 x 0 (Fx.toRat (Fx.exp (Fx.ofRat x)))
def ln32 (x : Rat) : Rat := near32 5 x 0 (Fx.toRat (Fx.ln (Fx.ofRat x)))
def atan32 (y x : Rat) : Rat := near32 6 y x (Fx.toRat (Fx.atan2 (Fx.ofRat y) (Fx.ofRat x)))

/-- Binary32 sum, difference, product and quotient; a quotient by zero is infinite (IEEE 754). -/
def add32 (x y : Rat) : Rat := r32 (x + y)
def sub32 (x y : Rat) : Rat := r32 (x - y)
def mul32 (x y : Rat) : Rat := r32 (x * y)
def div32 (x y : Rat) : Rat := if y = 0 then (if x > 0 then inf32 else if x < 0 then -inf32 else 0) else r32 (x / y)

/-- The bits of a binary32 or binary64 value, for the records that carry one (Tables 7.6, 10.5). -/
def floatBits (p bits : Nat) (emin : Int) (x : Rat) : Nat :=
  if x = 0 then 0 else
    let sign := if x < 0 then 2 ^ (bits - 1) else 0
    let e := ratExp x
    let m := (roundEven ((if x < 0 then -x else x) / ulpOf p emin x)).toNat
    if e < emin then sign + m else sign + ((e - emin).toNat * 2 ^ (p - 1)) + m
def bits32 (x : Rat) : Nat := floatBits 24 32 (-126) x
def bits64 (x : Rat) : Nat := floatBits 53 64 (-1022) x

/-- A real value of 10^(g/2000) for a gain of 0.01 dB (Table 0.5), exact to the precision of Fx. -/
def dbLin (g : Int) : Rat := Fx.toRat (Fx.pow10 (Fx.ofRat ((g : Rat) / 2000)))

/-- A gain of 0.01 dB in C-format; at or below -144 dB it means mute (Table 0.5, R441). -/
def gainC (g : Int) : Int := if g ≤ -14400 then 0 else toC (dbLin g)

end Sys2Proof
end

