-- ==== Sys2Proof/Machine/Kernel.lean ====
section
/-!
DEFINITION. The coefficient tables fixed in the device, from their formulas (R76, R118, R130, R137, R442), and the weight
curves of fades, mute ramps and HOP fades (R148, R152, R80).
-/
namespace Sys2Proof

/-- Zeroth-order modified Bessel function: Σ (x²/4)^k / (k!)². -/
def Fx.i0Go : Nat → Nat → Int → Int → Int → Int
  | 0, _, _, _, acc => acc
  | n + 1, k, q, t, acc => let t' := Fx.mul t q / ((k * k : Nat) : Int); Fx.i0Go n (k + 1) q t' (acc + t')
def Fx.i0 (x : Int) : Int := Fx.i0Go 90 1 (Fx.mul x x / 4) Fx.one Fx.one

/-- sin(πx) ÷ (πx). -/
def Fx.sinc (x : Int) : Int := if x = 0 then Fx.one else let y := Fx.mul Fx.pi x; Fx.div (Fx.sin y) y

/-- I0(β √(1 − r²)) ÷ I0(β). -/
def Fx.kaiser (beta : Int) (r : Int) : Int :=
  Fx.div (Fx.i0 (Fx.mul beta (Fx.sqrt (Fx.one - Fx.mul r r)))) (Fx.i0 beta)

/-- Index of the entry of largest magnitude, the lowest on a tie (R442). -/
def largestAt (l : List Int) : Nat :=
  (l.zipIdx.foldl (fun (b : Nat × Int) e => if e.1.natAbs > b.2 then (e.2, (e.1.natAbs : Int)) else b) (0, -1)).1

/-- Adjust the weight of largest magnitude so that the weights sum to the target (R442). -/
def fixSum (target : Int) (l : List Int) : List Int :=
  let i := largestAt l
  l.set i (l.getD i 0 + (target - isum l))

/-- Scale to a sum of `num ÷ den`, round to C-format. -/
def scaleC (num den : Int) (l : List Int) : List Int :=
  let sum := isum l
  l.map fun x => toC ((x * num : Int) / (sum * den : Int) : Rat)

/-- A phase of the tap kernel, m = −3 to 4 (R76). -/
def tapPhase (j : Nat) : List Int :=
  let a := Fx.one * j / 256
  fixSum unity (scaleC 1 1 ((List.range 8).map fun (i : Nat) =>
    let x := ((i : Int) - 3) * Fx.one - a
    Fx.mul (Fx.sinc x) (Fx.kaiser (7 * Fx.one) (x / 4))))

/-- A phase of the bridge kernel, m = −31 to 32, for a flow at `fs` into a Heart rate `hz` (R118). -/
def bridgePhase (fs hz j : Nat) : List Int :=
  let a := Fx.one * j / 256
  let ratio := if hz < fs then Fx.one * hz / fs else Fx.one
  let lam := ratio * 94 / 100
  fixSum unity (scaleC 1 1 ((List.range 64).map fun (i : Nat) =>
    let x := ((i : Int) - 31) * Fx.one - a
    Fx.mul (Fx.mul lam (Fx.sinc (Fx.mul lam x))) (Fx.kaiser (9 * Fx.one) (x / 32))))

/-- The coefficient unit's blend of two phases (R76): fraction in 16 bits. -/
def blendPhase (phase : Nat → List Int) (a16 : Nat) : List Int :=
  let j := a16 / 256
  let f : Int := (a16 % 256 : Nat)
  if f = 0 then phase j
  else ((phase j).zip (phase (j + 1))).map fun p => (p.1 * (256 - f) + p.2 * f + 128) / 256

/-- Weights of a tap read and of a bridge at a 16-bit fraction. -/
def tapWeights (a16 : Nat) : List Int := blendPhase tapPhase a16
def bridgeWeights (fs hz a16 : Nat) : List Int := blendPhase (bridgePhase fs hz) a16

/-- Target response A(k ÷ 2048) of the compensating FIRs (R130). -/
def compTarget (m k : Nat) : Int :=
  let f := Fx.one * k / 2048
  let inv := fun (f : Int) =>
    if f = 0 then Fx.one else
      let d := Fx.div (Fx.sin (Fx.mul Fx.pi f)) ((m : Int) * Fx.sin (Fx.mul Fx.pi f / (m : Int)))
      let d2 := Fx.mul d d
      Fx.div Fx.one (Fx.mul d2 d2)
  if k ≤ 384 then inv f
  else if k < 640 then
    let c := Fx.cos (Fx.mul Fx.pi ((f - Fx.one * 3 / 16) * 8))
    Fx.mul (inv (Fx.one * 3 / 16)) ((Fx.one + c) / 2)
  else 0

/-- Raw tap of a compensating FIR of `t` taps (R130). -/
def compTap (m t i : Nat) : Int :=
  let x2 : Int := 2 * (i : Int) - ((t : Int) - 1)
  let x := Fx.one * x2 / 2
  let sum := (List.range 1023).foldl (fun acc k' =>
    acc + Fx.mul (compTarget m (k' + 1)) (Fx.cos (Fx.mul Fx.pi (x * ((k' : Int) + 1) / 1024)))) 0
  Fx.mul (Fx.kaiser (6 * Fx.one) (x * 2 / (t : Int))) ((compTarget m 0 + 2 * sum) / 2048)

/-- Decimator FIR, 32 taps (R130). -/
def decFir (m : Nat) : List Int := fixSum unity (scaleC 1 1 ((List.range 32).map (compTap m 32)))

/-- A polyphase branch of the interpolator FIR: taps of one parity of the 16 (R130). -/
def intBranch (m b : Nat) : List Int :=
  fixSum unity (scaleC 1 1 ((List.range 8).map fun i => compTap m 16 (2 * i + b)))

/-- The Heart-to-Top coefficients c_1 to c_16 (R137): c_1 is adjusted so that they sum to one half. -/
def topCoef : List Int :=
  let l := scaleC 1 2 ((List.range 16).map fun (k : Nat) =>
    let x := Fx.one * (2 * (k : Int) + 1) / 2
    Fx.mul (Fx.sinc x) (Fx.kaiser (8 * Fx.one) (x / 16)))
  l.set 0 (l.getD 0 0 + (536870912 - isum l))

/-- Equal-power curve E[j] (R148). -/
def eqPower (j : Nat) : Int := toC (Fx.toRat (Fx.sin (Fx.pi * j / 131072)))

/-- Mute weight at phase ph of a ramp R (R152). -/
def muteWeight (ph r : Nat) : Int :=
  if ph = 0 then 0 else if ph = r then unity
  else toC (Fx.toRat ((Fx.one - Fx.cos (Fx.pi * ph / (r : Int))) / 2))

/-- Weight of the new read of a HOP fade (R80): sin² of the phase in binary32, rounded to C-format. -/
def hopWeight (f t i : Nat) : Int :=
  let s := sin32 (div32 (mul32 (r32 (Fx.toRat Fx.pi / 2)) (64 * t + i + 1 : Nat)) (64 * f : Nat))
  toC (mul32 s s)

/-- C-format gain of 0.01 dB, at once for the two values that need no arithmetic. -/
def gainOf (g : Int) : Int := if g = 0 then unity else gainC g

/-- An H-format threshold of 0.01 dBFS (R135, R165). -/
def thresholdOf (g : Int) : Int := toH (dbLin g)

end Sys2Proof
end

