-- ==== Sys2Proof/Machine/Dsp.lean ====
section
/-!
DEFINITION. Stage arithmetic (R114 to R116): biquads (R125), FIRs (R133), the Base path (R127 to R131), the limiter (R135),
the DC blocker (R138), the Heart-to-Top interpolator (R137). A stage answers its word and whether it was clamped.
-/
namespace Sys2Proof

/-- A stage result: rounded, saturated, and whether the clamp acted. -/
def stage (s : Nat) (acc : Int) : Int × Bool := let v := rshift s acc; (satH v, overH v)

/-- Gain of a C-format word (S = 30). -/
def mulC (x c : Int) : Int := satH (rshift 30 (x * c))

/-- One period of a biquad (R125): floor shift, residue kept unless the output saturates. -/
def bqStep (k : Biquad) (st : BqState) (x : Int) : Int × BqState × Bool :=
  let s := 15 + k.shift
  let acc := k.b0 * x + k.b1 * st.x1 + k.b2 * st.x2 - k.a1 * st.y1 - k.a2 * st.y2 + st.e
  let raw := acc / (2 ^ s : Nat)
  let y := satH raw
  let sat := overH raw
  (y, { x1 := x, x2 := st.x1, y1 := y, y2 := st.y1, e := if sat then 0 else acc - y * (2 ^ s : Nat) }, sat)

/-- A cascade of the biquads whose numbers are listed; saturations by biquad number. -/
def bqCascade (ks : SMap Biquad) : List Nat → SMap BqState → Int → SMap Nat → Int × SMap BqState × SMap Nat
  | [], st, x, sat => (x, st, sat)
  | i :: r, st, x, sat =>
    let o := bqStep (SMap.get {} ks i) (SMap.get {} st i) x
    bqCascade ks r (SMap.put {} st i o.2.1) o.1 (if o.2.2 then SMap.upd 0 sat i (holdAdd 65535 · 1) else sat)

/-- Accumulator of a sparse FIR over a history, newest first. -/
def firAcc (h : SMap Int) (hist : List Int) : Int := h.foldl (fun a e => a + e.2 * hist.getD e.1 0) 0

/-- Accumulator of a dense FIR over a history, newest first. -/
def denseAcc (h hist : List Int) : Int := (h.zip hist).foldl (fun a e => a + e.1 * e.2) 0

/-- A value of a W-bit wrapping register, read as two's complement (R116). -/
def wrapW (w : Nat) (x : Int) : Int := toSignedI w x
where toSignedI (w : Nat) (x : Int) : Int :=
  let m : Int := (2 ^ w : Nat)
  let r := x % m
  if 2 * r < m then r else r - m

/-- Four integrators in cascade. -/
def integGo (w : Nat) : List Int → Int → List Int
  | [], _ => []
  | r :: rest, x => let v := wrapW w (r + x); v :: integGo w rest v

/-- Four combs in cascade, differential delay 1: the output and the new delays. -/
def combGo (w : Nat) : List Int → Int → Int × List Int
  | [], x => (x, [])
  | d :: rest, x => let o := combGo w rest (wrapW w (x - d)); (o.1, x :: o.2)

/-- Registers of a CIC section, zero until written. -/
def reg4 (l : List Int) : List Int := [l.getD 0 0, l.getD 1 0, l.getD 2 0, l.getD 3 0]

/-- Base 2 logarithm N of the device record gives M = N ÷ 2 and W (R116, R128). -/
def baseM (lg : Nat) : Nat := 2 ^ (lg - 1)
def baseW (lg : Nat) : Nat := 32 + 4 * lg
/-- D = 13.5 N − 4 (R131). -/
def baseD (lg : Nat) : Nat := 27 * 2 ^ (lg - 1) - 4

/-- One Heart period of a decimator (R128): its state, and the Base sample when period n forms one, with its clamp. -/
def decStep (lg n : Nat) (st : Cic) (hist : List Int) (x : Int) : Cic × List Int × Option (Int × Bool) :=
  let w := baseW lg
  let m := baseM lg
  let ig := integGo w (reg4 st.integ) x
  if n % m = m - 1 then
    let c := combGo w (reg4 st.comb) (ig.getD 3 0)
    let v := rshift (4 * (lg - 1)) c.1
    let hist := (v :: hist).take 32
    let st : Cic := { integ := ig, comb := c.2 }
    if n % (2 ^ lg) = 2 ^ lg - 1 then (st, hist, some (stage 30 (denseAcc (decFir m) hist))) else (st, hist, none)
  else ({ st with integ := ig }, hist, none)

/-- One Heart period of an interpolator lane (R129): `new` is the Base sample formed in this period. -/
def intStep (lg n : Nat) (st : Cic) (hist : List Int) (new : Option Int) : Cic × List Int × Int × Nat :=
  let w := baseW lg
  let m := baseM lg
  let hist := match new with | some v => (v :: hist).take 8 | none => hist
  let phase := if n % (2 ^ lg) = 2 ^ lg - 1 then some 0 else if n % (2 ^ lg) = m - 1 then some 1 else none
  match phase with
  | some b =>
    let f := stage 30 (denseAcc (intBranch m b) hist)
    let c := combGo w (reg4 st.comb) f.1
    let ig := integGo w (reg4 st.integ) c.1
    ({ integ := ig, comb := c.2 }, hist, rshift (3 * (lg - 1)) (ig.getD 3 0), if f.2 then 1 else 0)
  | none =>
    let ig := integGo w (reg4 st.integ) 0
    ({ st with integ := ig }, hist, rshift (3 * (lg - 1)) (ig.getD 3 0), 0)

/-- Coefficients of the limiter (R135), in binary32 and then C-format (R441). The exponential takes either neighbour of its exact
value, as the solver's functions do, although R63 states its 1 ulp for the solver only (DESIGN CHOICE, assumption 5). -/
def limDecay (n : Nat) : Rat := exp32 (div32 (-1) n)
def limAttC (n : Nat) : Int := toC (sub32 1 (limDecay n))
def limRelC (n : Nat) : Int := toC (limDecay n)

/-- One period of the limiter (R135): word, envelope, gain, clamp. -/
def limStep (att rel gs thr env g x : Int) : Int × Int × Int × Bool :=
  let a : Int := x.natAbs
  let env := if a > env then env + rshift 30 (att * (a - env)) else rshift 30 (rel * env)
  let gt := if env > thr then roundAway ((thr * 1073741824 : Int) / (env : Int) : Rat) else unity
  let g := g + rshift 30 (gs * (gt - g))
  let y := stage 30 (x * g)
  (y.1, env, g, y.2)

/-- Reduction of a limiter gain in 0.01 dB. -/
def reduction (g : Int) : Nat :=
  if g ≥ unity then 0 else if g ≤ 0 then 14400 else
    let l := Fx.div (Fx.ln (Fx.div (unity * Fx.one) (g * Fx.one))) (Fx.ln (10 * Fx.one))
    (clampI 0 14400 (roundAway (2000 * Fx.toRat l))).toNat

/-- One period of the DC blocker (R138). -/
def dcStep (q : Nat) (frozen : Bool) (st x : Int) : Int × Int × Bool :=
  let st := if frozen then st else st + (x * 4294967296 - st) / (2 ^ q : Nat)
  let v := x - (st + 2147483648) / 4294967296
  (satH v, st, overH v)

/-- Top samples 2m and 2m + 1 of a Heart history: `past` newest first from x[m], `next` from x[m + 1] (R137). -/
def topPair (past next : List Int) : Int × Int × Bool :=
  let acc := (topCoef.zip ((List.range 16).map fun k => past.getD k 0 + next.getD k 0)).foldl
    (fun a e => a + e.1 * e.2) 0
  let o := stage 30 acc
  (past.getD 0 0, o.1, o.2)

/-- Fade progress φ16 of period i of a fade of `len` periods (R148, R161). -/
def phi16 (i len : Nat) : Int := (65536 * (i + 1) / len : Nat)

/-- Linear interpolation at φ16, arithmetic shift (R148, R161). -/
def lerp16 (g0 g1 phi : Int) : Int := g0 + (g1 - g0) * phi / 65536

/-- Block weights of a fade out and a fade in over sixteen periods (R98, R121, R123, R235), C-format. -/
def outWeight (i : Nat) : Int := (16 - (i : Int)) * 67108864
def inWeight (i : Nat) : Int := ((i : Int) + 1) * 67108864

end Sys2Proof
end

