-- ==== Sys2Proof/Machine/RecTime.lean ====
section
/-!
DEFINITION. The timing records as bytes (Tables 9.2, 9.3, 9.5, 9.7, 9.9 to 9.11).
-/
namespace Sys2Proof

/-- Header of Table 5.5: select mask, kind, reserved byte, index. -/
def kindOf (p : Bytes) : Nat := getU p 4 1
def indexOf (p : Bytes) : Nat := getU p 6 2

/-- Naming fields of a kind-and-index header. -/
def kindFld (k : Nat) : Fld := ⟨4, 1, none, (k : Int), (k : Int), false, 0, []⟩
def indexFld (hi : Nat) : Fld := ⟨6, 2, none, 0, (hi : Int), false, 0, []⟩

/-- Table 9.2. -/
def timeDevFields : List Fld :=
  [kindFld 0, indexFld 0, ⟨8, 1, some 0, 0, 2, false, 0, []⟩, ⟨10, 2, some 1, 0, 1024, false, 0, []⟩,
   ⟨12, 1, some 2, 0, 2, false, 0, []⟩, ⟨13, 1, some 2, 0, 255, false, 0, []⟩, ⟨14, 1, some 3, 0, 4, false, 0, []⟩,
   ⟨15, 1, some 4, 0, 255, false, 0xFE, []⟩, ⟨16, 2, some 4, 1, 500, false, 0, []⟩,
   ⟨20, 4, some 4, 1000, 1000000000, false, 0, []⟩, ⟨24, 4, some 5, 50, 10000, false, 0, []⟩,
   ⟨28, 4, some 5, 100, 60000, false, 0, []⟩, ⟨32, 1, some 6, 0, 255, false, 0xFC, []⟩,
   ⟨33, 1, some 6, 0, 255, false, 0, []⟩, ⟨34, 1, some 6, 0, 255, false, 0, []⟩,
   ⟨36, 2, some 6, -32768, 32767, true, 0, []⟩, ⟨40, 8, some 7, 0, (2 ^ 64 : Nat), false, 0, []⟩,
   ⟨48, 1, some 8, 0, 3, false, 0, []⟩, ⟨49, 1, some 8, 0, 1, false, 0, []⟩]

/-- Write the selected groups of the device timing record but heart, catch and set_time, which are requests. -/
def TimeDev.write (r : TimeDev) (m : Nat) (p : Bytes) : TimeDev :=
  let b := m.testBit
  { profile := pick (b 2) (getU p 12 1) r.profile
    domain := pick (b 2) (getU p 13 1) r.domain
    servoBw := pick (b 3) (getU p 14 1) r.servoBw
    stepPolicy := pick (b 4) (getU p 15 1 == 1) r.stepPolicy
    slew := pick (b 4) (getU p 16 2) r.slew
    stepMin := pick (b 4) (getU p 20 4) r.stepMin
    rerouteThr := pick (b 5) (getU p 24 4) r.rerouteThr
    holdoff := pick (b 5) (getU p 28 4) r.holdoff
    gmFlags := pick (b 6) (getU p 32 1) r.gmFlags
    priority1 := pick (b 6) (getU p 33 1) r.priority1
    priority2 := pick (b 6) (getU p 34 1) r.priority2
    utcOffset := pick (b 6) (getI p 36 2) r.utcOffset
    spreadFabric := pick (b 8) (getU p 48 1) r.spreadFabric
    spreadDram := pick (b 8) (getU p 49 1) r.spreadDram }

def TimeDev.bytes (r : TimeDev) (mask heart cat : Nat) : Bytes :=
  le 4 mask ++ le 1 0 ++ zeros 1 ++ le 2 0 ++ le 1 heart ++ zeros 1 ++ le 2 cat ++ le 1 r.profile ++ le 1 r.domain ++
  le 1 r.servoBw ++ le 1 (bit r.stepPolicy) ++ le 2 r.slew ++ zeros 2 ++ le 4 r.stepMin ++ le 4 r.rerouteThr ++
  le 4 r.holdoff ++ le 1 r.gmFlags ++ le 1 r.priority1 ++ le 1 r.priority2 ++ zeros 1 ++ leI 2 r.utcOffset ++ zeros 2 ++
  zeros 8 ++ le 1 r.spreadFabric ++ le 1 r.spreadDram ++ zeros 14

/-- Ranges of the message intervals by profile (Table 9.1): log Sync, log Announce, log delay; and the default domain. -/
def syncRange (profile : Nat) : Int × Int := if profile = 1 then (-4, -1) else (-4, 1)
def announceRange (profile : Nat) : Int × Int :=
  if profile = 0 then (0, 4) else if profile = 1 then (-3, 1) else (0, 3)
def delayRange (profile : Nat) : Int × Int := if profile = 1 then (-4, 5) else (-3, 5)
def defaultDomain (profile : Nat) : Nat := if profile = 1 then 127 else 0

/-- Default message intervals of a profile (Table 9.1). -/
def syncDefault : Int := -3
def announceDefault (profile : Nat) : Int := if profile = 0 then 1 else if profile = 1 then -2 else 0
def delayDefault (profile : Nat) : Int := if profile = 1 then -3 else 0

/-- Table 9.3, for a port and the profile in force. -/
def timePortFields (profile port : Nat) : List Fld :=
  let lim : Int := if port = 2 then 20000 else 2000
  let f := fun off (r : Int × Int) => (⟨off, 1, some 1, r.1, r.2, true, 0, [127]⟩ : Fld)
  [kindFld 1, indexFld 2, ⟨8, 1, some 0, 0, 255, false, 0xF8, []⟩, f 9 (syncRange profile), f 10 (announceRange profile),
   f 11 (delayRange profile), ⟨12, 1, some 1, 2, 10, false, 0, []⟩, ⟨16, 2, some 2, 0, lim, false, 0, []⟩,
   ⟨18, 2, some 2, 0, lim, false, 0, []⟩]

def TimePort.write (r : TimePort) (m : Nat) (p : Bytes) : TimePort :=
  let b := m.testBit
  { flags := pick (b 0) (getU p 8 1) r.flags
    logSync := pick (b 1) (getI p 9 1) r.logSync
    logAnnounce := pick (b 1) (getI p 10 1) r.logAnnounce
    logDelay := pick (b 1) (getI p 11 1) r.logDelay
    announceTimeout := pick (b 1) (getU p 12 1) r.announceTimeout
    boardRx := pick (b 2) (getU p 16 2) r.boardRx
    boardTx := pick (b 2) (getU p 18 2) r.boardTx }

def TimePort.bytes (r : TimePort) (mask i : Nat) : Bytes :=
  le 4 mask ++ le 1 1 ++ zeros 1 ++ le 2 i ++ le 1 r.flags ++ leI 1 r.logSync ++ leI 1 r.logAnnounce ++
  leI 1 r.logDelay ++ le 1 r.announceTimeout ++ zeros 3 ++ le 2 r.boardRx ++ le 2 r.boardTx ++ zeros 12

/-- Tables 9.7 and 9.10. -/
def refFields : List Fld := [kindFld 2, indexFld 0, ⟨8, 1, some 0, 0, 4, false, 0, []⟩]
def captFields : List Fld :=
  [kindFld 3, indexFld 3, ⟨8, 1, some 0, 0, 3, false, 0, []⟩, ⟨10, 2, some 0, 0, 1000, false, 0, []⟩]
def refBytes (ref mask : Nat) : Bytes := le 4 mask ++ le 1 2 ++ zeros 1 ++ le 2 0 ++ le 1 ref ++ zeros 7
def captBytes (c : Capture) (mask i : Nat) : Bytes :=
  le 4 mask ++ le 1 3 ++ zeros 1 ++ le 2 i ++ le 1 c.edges ++ zeros 1 ++ le 2 c.filter ++ zeros 4

/-- A TIME_CFG payload obeys the table of its kind. -/
def timePayloadOk (profile : Nat) (p : Bytes) : Bool :=
  match kindOf p with
  | 0 => recordOk timeDevFields 9 64 p && (!(maskOf p).testBit 1 || getU p 10 2 % 16 == 0)
  | 1 => recordOk (timePortFields profile (indexOf p)) 3 32 p
  | 2 => recordOk refFields 1 16 p
  | 3 => recordOk captFields 1 16 p
  | _ => false

/-- Table 9.9, request part (40 bytes). -/
def trigFields : List Fld :=
  [⟨4, 1, none, 0, 3, false, 0, []⟩, ⟨5, 1, some 0, 0, 2, false, 0, []⟩, ⟨6, 1, some 0, 0, 255, false, 0xFE, []⟩,
   ⟨8, 8, some 1, 0, (2 ^ 64 : Nat), false, 0, []⟩, ⟨16, 8, some 1, 2, (2 ^ 40 : Nat), false, 0, []⟩,
   ⟨24, 4, some 1, 1, (2 ^ 32 : Nat), false, 0, []⟩, ⟨28, 4, some 1, 0, (2 ^ 32 : Nat), false, 0, []⟩]

/-- A TRIG_SET payload obeys Table 9.9: the width is below the period. -/
def trigPayloadOk (p : Bytes) : Bool :=
  recordOk trigFields 2 40 p && (!(maskOf p).testBit 1 || getU p 24 4 < getU p 16 8)

def TrigRec.write (r : TrigRec) (m : Nat) (p : Bytes) : TrigRec :=
  let b := m.testBit
  { mode := pick (b 0) (getU p 5 1) r.mode
    low := pick (b 0) (getU p 6 1 == 1) r.low
    start := pick (b 1) (getU p 8 8) r.start
    period := pick (b 1) (getU p 16 8) r.period
    width := pick (b 1) (getU p 24 4) r.width
    count := pick (b 1) (getU p 28 4) r.count }

def trigBytes (r : TrigRec) (mask i next fired : Nat) : Bytes :=
  le 4 mask ++ le 1 i ++ le 1 r.mode ++ le 1 (bit r.low) ++ zeros 1 ++ le 8 r.start ++ le 8 r.period ++ le 4 r.width ++
  le 4 r.count ++ zeros 8 ++ le 8 next ++ le 4 fired ++ zeros 4

/-- A capture entry (Table 9.11). -/
def CaptEntry.bytes (e : CaptEntry) : Bytes :=
  le 8 e.stamp ++ le 1 (bit e.rising + bit e.gap 1) ++ le 1 e.count ++ le 2 e.seq ++ zeros 4

end Sys2Proof
end

