-- ==== Sys2Proof/Machine/RecIo.lean ====
section
/-!
DEFINITION. The records of local inputs and outputs as bytes (Tables 15.2, 15.3, 15.5 to 15.7, 16.10).
-/
namespace Sys2Proof

/-- Table 15.2, request part. -/
def anaInFields : List Fld :=
  [⟨4, 1, none, 0, 7, false, 0, []⟩, ⟨5, 1, some 0, 0, 60, false, 0, []⟩, ⟨6, 1, some 1, 0, 255, false, 0xFE, []⟩,
   ⟨8, 2, some 2, 0, 1023, false, 0, [65535]⟩]
def anaInPayloadOk (p : Bytes) : Bool := recordOk anaInFields 3 16 p

/-- The record with status; the gain shown is the one written last. -/
def anaInBytes (r : AnaIn) (mask i : Nat) : Bytes :=
  le 4 mask ++ le 1 i ++ le 1 (r.want.getD r.gain) ++ le 1 (bit r.phantom) ++ zeros 1 ++
  le 2 (r.newChannel.getD r.channel) ++ zeros 6 ++ le 2 r.clips ++ leI 2 r.peak ++
  le 1 (bit r.overload + bit r.fault 1) ++ zeros 11

/-- Table 15.3, request part. -/
def anaOutFields : List Fld :=
  [⟨4, 1, none, 0, 7, false, 0, []⟩, ⟨5, 1, some 0, 0, 1, false, 0, []⟩, ⟨6, 1, some 1, 0, 255, false, 0xFE, []⟩]
def anaOutPayloadOk (p : Bytes) : Bool := recordOk anaOutFields 2 16 p
def AnaOut.state (r : AnaOut) : Nat := bit r.change.isSome + bit r.limit 1 + bit r.supply 2
def anaOutBytes (r : AnaOut) (mask i : Nat) : Bytes :=
  le 4 mask ++ le 1 i ++ le 1 r.span ++ le 1 (bit r.hold) ++ zeros 9 ++ le 2 r.clamps ++ le 1 r.spanNow ++
  le 1 r.state ++ zeros 12

/-- Table 15.5, request part. -/
def loopFields : List Fld :=
  [⟨4, 1, none, 0, 3, false, 0, []⟩, ⟨5, 1, some 0, 0, 2, false, 0, []⟩, ⟨6, 1, some 2, 0, 255, false, 0xC0, []⟩,
   ⟨7, 1, some 4, 0, 255, false, 0xFE, []⟩, ⟨8, 2, some 1, 0, 24000, false, 0, []⟩, ⟨10, 2, some 3, 1, 24000, false, 0, []⟩,
   ⟨12, 2, some 3, 1, 1000, false, 0, []⟩, ⟨14, 2, some 2, 0, 24000, false, 0, []⟩, ⟨16, 2, some 2, 0, 24000, false, 0, []⟩]
def loopPayloadOk (p : Bytes) : Bool := recordOk loopFields 5 32 p
def Loop.faults (r : Loop) : Nat := bit r.openF + bit r.compliance 1 + bit r.shortF 2 + bit r.latched 3
def Loop.write (r : Loop) (m : Nat) (p : Bytes) : Loop :=
  let b := m.testBit
  { r with
    configured := true
    mode := pick (b 0) (getU p 5 1) r.mode
    value := pick (b 1) (getU p 8 2) r.value
    condMask := pick (b 2) (getU p 6 1) r.condMask
    okUa := pick (b 2) (getU p 14 2) r.okUa
    warnUa := pick (b 2) (getU p 16 2) r.warnUa
    step := pick (b 3) (getU p 10 2) r.step
    interval := pick (b 3) (getU p 12 2) r.interval
    latched := if b 4 && getU p 7 1 == 1 then false else r.latched
    openF := if b 4 && getU p 7 1 == 1 then false else r.openF
    shortF := if b 4 && getU p 7 1 == 1 then false else r.shortF }
def loopBytes (r : Loop) (mask i : Nat) : Bytes :=
  le 4 mask ++ le 1 i ++ le 1 r.mode ++ le 1 r.condMask ++ le 1 0 ++ le 2 r.value ++ le 2 r.step ++ le 2 r.interval ++
  le 2 r.okUa ++ le 2 r.warnUa ++ zeros 14 ++ le 2 r.nowUa ++ le 2 r.volts ++ le 1 r.faults ++ zeros 3 ++ le 4 r.count

/-- Table 15.6, request part. -/
def tdmFields : List Fld :=
  [⟨4, 1, none, 0, 3, false, 0, []⟩, ⟨5, 1, some 0, 0, 2, false, 0, []⟩, ⟨6, 1, some 0, 2, 16, false, 0, []⟩,
   ⟨7, 1, some 0, 0, 1, false, 0, []⟩, ⟨8, 1, some 1, 0, 255, false, 0xF8, []⟩, ⟨10, 2, some 2, 0, 1023, false, 0, [65535]⟩]
def tdmPayloadOk (p : Bytes) : Bool :=
  recordOk tdmFields 3 16 p && (!(maskOf p).testBit 0 || getU p 6 1 % 2 == 0)
def Tdm.write (r : Tdm) (m : Nat) (p : Bytes) : Tdm :=
  let b := m.testBit
  { r with
    role := pick (b 0) (getU p 5 1) r.role
    slots := pick (b 0) (getU p 6 1) r.slots
    top := pick (b 0) (getU p 7 1 == 1) r.top
    format := pick (b 1) (getU p 8 1) r.format }
def tdmBytes (r : Tdm) (mask i : Nat) : Bytes :=
  le 4 mask ++ le 1 i ++ le 1 r.role ++ le 1 r.slots ++ le 1 (bit r.top) ++ le 1 r.format ++ zeros 1 ++
  le 2 (r.newFirst.getD r.inFirst) ++ zeros 4 ++ le 4 r.syncErr ++ le 2 r.clamps ++ zeros 10

/-- Table 15.7 kind 0; the request ends before the levels field. -/
def pinFields : List Fld :=
  [kindFld 0, indexFld 15, ⟨8, 1, some 0, 0, 3, false, 0, []⟩, ⟨9, 1, some 0, 0, 255, false, 0xF8, []⟩,
   ⟨10, 1, some 1, 0, 255, false, 0xFE, []⟩, ⟨11, 1, some 2, 0, 2, false, 0, []⟩, ⟨12, 1, some 3, 0, 255, false, 0xF0, []⟩,
   ⟨14, 2, some 4, 0, 1000, false, 0, []⟩]
def Pin.write (r : Pin) (m : Nat) (p : Bytes) : Pin :=
  let b := m.testBit
  { r with
    function := pick (b 0) (getU p 8 1) r.function
    alarm := pick (b 0) (getU p 9 1) r.alarm
    level := pick (b 1) (getU p 10 1 == 1) r.level
    pull := pick (b 2) (getU p 11 1) r.pull
    drive := pick (b 3) (getU p 12 1) r.drive
    filter := pick (b 4) (getU p 14 2) r.filter }
def pinBytes (r : Pin) (mask i levels : Nat) : Bytes :=
  le 4 mask ++ le 1 0 ++ zeros 1 ++ le 2 i ++ le 1 r.function ++ le 1 r.alarm ++ le 1 (bit r.level) ++ le 1 r.pull ++
  le 1 r.drive ++ zeros 1 ++ le 2 r.filter ++ le 2 levels

/-- Table 16.11: minimum slew, default drive, default slew of a pad group. -/
def padMinSlew (g : Nat) : Nat := [0, 1, 2, 3, 2, 0].getD g 0
def padDefault (g : Nat) : Nat := [2 + 3 * 4, 1 + 2 * 4, 2 + 2 * 4, 2 + 3 * 4, 2 + 2 * 4, 1].getD g 0
def padFields : List Fld := [kindFld 4, indexFld 5, ⟨8, 1, some 0, 0, 255, false, 0xF0, []⟩]
/-- A pad group record obeys Table 16.10: the slew is at least the group's minimum (R426). -/
def padPayloadOk (p : Bytes) : Bool :=
  recordOk padFields 1 16 p && (!(maskOf p).testBit 0 || padMinSlew (indexOf p) ≤ getU p 8 1 / 4)
def padBytes (v mask g : Nat) : Bytes := le 4 mask ++ le 1 4 ++ zeros 1 ++ le 2 g ++ le 1 v ++ zeros 7

end Sys2Proof
end

