-- ==== Sys2Proof/Machine/RecNet.lean ====
section
/-!
DEFINITION. The network records as bytes (Tables 8.2, 8.3, 8.5, 8.9 to 8.11).
-/
namespace Sys2Proof

/-- Table 8.2. -/
def portFields : List Fld :=
  [⟨4, 1, none, 0, 2, false, 0, []⟩, ⟨5, 1, some 0, 0, 1, false, 0, []⟩, ⟨6, 1, some 0, 0, 2, false, 0, []⟩,
   ⟨7, 1, some 1, 0, 255, false, 0xF8, []⟩, ⟨8, 4, some 2, 0, (2 ^ 32 : Nat), false, 0, []⟩,
   ⟨12, 1, some 2, 0, 32, false, 0, []⟩, ⟨13, 1, some 3, 0, 63, false, 0, []⟩, ⟨14, 1, some 3, 0, 63, false, 0, []⟩,
   ⟨16, 2, some 4, 0, 65535, false, 0x8000, []⟩, ⟨20, 4, some 2, 0, (2 ^ 32 : Nat), false, 0, []⟩,
   ⟨24, 4, some 5, 0, 18750000, false, 0, []⟩, ⟨28, 4, some 5, 0, 18750000, false, 0, []⟩]

/-- A PORT_CFG payload obeys Table 8.2 and R216: RS-FEC at 25GBASE-R only, no FEC and no idle slopes on port 2. -/
def portPayloadOk (r : PortRec) (p : Bytes) : Bool :=
  let b := (maskOf p).testBit
  let port := getU p 4 1
  recordOk portFields 6 40 p &&
  (!b 0 || (if port = 2 then getU p 6 1 == 0 else !(getU p 6 1 == 2 && getU p 5 1 == 1))) &&
  (!b 5 || port != 2) && r.speed ≤ 1

/-- Write the selected groups of a port record. -/
def PortRec.write (r : PortRec) (m : Nat) (p : Bytes) : PortRec :=
  let b := m.testBit
  { speed := pick (b 0) (getU p 5 1) r.speed
    fec := pick (b 0) (getU p 6 1) r.fec
    flags := pick (b 1) (getU p 7 1) r.flags
    ipv4 := pick (b 2) (getU p 8 4) r.ipv4
    prefixLen := pick (b 2) (getU p 12 1) r.prefixLen
    dscpMedia := pick (b 3) (getU p 13 1) r.dscpMedia
    dscpPtp := pick (b 3) (getU p 14 1) r.dscpPtp
    vlan := pick (b 4) (getU p 16 2) r.vlan
    gateway := pick (b 2) (getU p 20 4) r.gateway
    idleA := pick (b 5) (getU p 24 4) r.idleA
    idleB := pick (b 5) (getU p 28 4) r.idleB }

/-- Station address of a port (R218): three consecutive addresses, A first. -/
def stationOf (port : Nat) : Nat := (Config.station + port) % 2 ^ 48

/-- The port carries jumbo frames, accepts broadcast, is enabled. -/
def PortRec.enabled (r : PortRec) : Bool := r.flags.testBit 0
def PortRec.jumbo (r : PortRec) : Bool := r.flags.testBit 1
def PortRec.bcast (r : PortRec) : Bool := r.flags.testBit 2

/-- The VLAN identifier of transmitted frames; 0 untagged. -/
def PortRec.vid (r : PortRec) : Nat := r.vlan % 4096

/-- A port record and its status (Tables 8.2, 8.3). -/
def portBytes (r : PortRec) (t : PortStat) (mask port : Nat) : Bytes :=
  le 4 mask ++ le 1 port ++ le 1 r.speed ++ le 1 r.fec ++ le 1 r.flags ++ le 4 r.ipv4 ++ le 1 r.prefixLen ++
  le 1 r.dscpMedia ++ le 1 r.dscpPtp ++ zeros 1 ++ le 2 r.vlan ++ zeros 2 ++ le 4 r.gateway ++ le 4 r.idleA ++
  le 4 r.idleB ++ zeros 8 ++
  be 6 (stationOf port) ++ le 1 t.link ++ le 1 t.speedNow ++ le 4 t.linkDowns ++ le 8 t.rxFrames ++ le 8 t.rxBytes ++
  le 4 t.rxBad ++ le 4 t.rxPause ++ le 4 t.rxDaDrop ++ le 4 t.rxMcast ++ (t.noBuffer.flatMap (le 4)) ++
  (t.exhausted.flatMap (le 4)) ++ le 8 t.txFrames ++ le 8 t.txBytes ++ le 4 t.lsoErr ++ le 4 t.fecCorr ++
  le 4 t.fecUncorr ++ le 4 t.sbAccepted ++ le 4 t.sbDiscarded ++ le 4 t.sbFiltered ++ le 4 t.digestErr ++
  le 4 t.dupNode ++ zeros 4

/-- Table 8.5. -/
def filterFields : List Fld :=
  [⟨4, 1, none, 0, 2, false, 0, []⟩, ⟨5, 1, some 0, 0, 255, false, 0xFE, []⟩, ⟨6, 2, some 1, 0, 65535, false, 0, []⟩,
   ⟨8, 96, some 1, 0, (2 ^ 768 : Nat), false, 0, []⟩]

/-- A FILTER_SET payload obeys Table 8.5 and R220: entry 0 keeps the station address; the media-multicast pass is on
ports 0 and 1 only. -/
def filterPayloadOk (p : Bytes) : Bool :=
  recordOk filterFields 2 112 p &&
  (!(maskOf p).testBit 1 || getB p 8 6 == stationOf (getU p 4 1)) &&
  (!(maskOf p).testBit 0 || getU p 4 1 != 2 || getU p 5 1 == 0)

/-- Write the selected groups of a filter record. -/
def FilterRec.write (r : FilterRec) (m : Nat) (p : Bytes) : FilterRec :=
  { flags := pick (m.testBit 0) (getU p 5 1) r.flags
    valid := pick (m.testBit 1) (getU p 6 2 ||| 1) r.valid
    entries := pick (m.testBit 1)
      (((List.range 15).map fun i => (i + 1, getB p (14 + 6 * i) 6)).filter fun e => e.2 != 0) r.entries }

/-- Address of filter entry e. -/
def FilterRec.entry (r : FilterRec) (port e : Nat) : Nat :=
  if e = 0 then stationOf port else ((r.entries.find? fun x => x.1 == e).map Prod.snd).getD 0

/-- An enabled entry names the address. -/
def FilterRec.has (r : FilterRec) (port da : Nat) : Bool :=
  (List.range 16).any fun e => r.valid.testBit e && r.entry port e == da

def filterBytes (r : FilterRec) (mask port : Nat) : Bytes :=
  le 4 mask ++ le 1 port ++ le 1 (if port = 2 then 0 else r.flags) ++ le 2 r.valid ++
  ((List.range 16).flatMap fun e => be 6 (r.entry port e)) ++ zeros 8

/-- Table 8.9. -/
def rxFields : List Fld :=
  [⟨0, 1, none, 0, 0, false, 0, []⟩, ⟨2, 2, none, 0, 255, false, 0, []⟩, ⟨4, 1, none, 0, 4, false, 0, []⟩,
   ⟨5, 1, none, 1, 3, false, 0xFC, []⟩, ⟨6, 1, none, 0, 64, false, 0, []⟩, ⟨7, 1, none, 0, 255, false, 0xFC, []⟩,
   ⟨8, 4, none, 0, (2 ^ 32 : Nat), false, 0, []⟩, ⟨12, 2, none, 1, 65535, false, 0, []⟩,
   ⟨14, 2, none, 0, 4095, false, 0, [65535]⟩, ⟨16, 4, none, 0, (2 ^ 32 : Nat), false, 0, []⟩,
   ⟨20, 2, none, 0, 1023, false, 0, []⟩, ⟨24, 4, none, 0, (2 ^ 32 : Nat), false, 0, []⟩]

/-- The receive berth record of a payload. -/
def rxOf (p : Bytes) : RxRec :=
  { format := getU p 4 1, ports := getU p 5 1, channels := getU p 6 1, flags := getU p 7 1, group := getU p 8 4,
    udpPort := getU p 12 2, vlan := getU p 14 2, source := getU p 16 4, first := getU p 20 2, rtpOffset := getU p 24 4 }

/-- Formats 3 and 4 carry services and no channels; the media formats carry 1 to 64. -/
def channelsOk (format channels : Nat) : Bool :=
  if format ≥ 3 then channels == 0 else 1 ≤ channels && channels ≤ 64

/-- A Phoenaox format is named on a berth that is not privileged (R224). -/
def privilegeOk (format berth : Nat) : Bool := format < 2 || berth < 16

/-- A BERTH_OPEN payload of direction 0 obeys Table 8.9 and R224. -/
def rxPayloadOk (p : Bytes) : Bool :=
  layoutOk rxFields 0 32 (fun _ => true) p && channelsOk (getU p 4 1) (getU p 6 1) &&
  privilegeOk (getU p 4 1) (getU p 2 2)

def rxBytes (r : RxRec) (b : Nat) : Bytes :=
  le 1 0 ++ zeros 1 ++ le 2 b ++ le 1 r.format ++ le 1 r.ports ++ le 1 r.channels ++ le 1 r.flags ++ le 4 r.group ++
  le 2 r.udpPort ++ le 2 r.vlan ++ le 4 r.source ++ le 2 r.first ++ zeros 2 ++ le 4 r.rtpOffset ++ zeros 4

/-- Receive counters (Table 8.10). -/
def rxStatBytes (t : RxStat) (state : Nat) : Bytes :=
  le 8 t.pktsA ++ le 8 t.pktsB ++ le 4 t.lostA ++ le 4 t.lostB ++ le 4 t.lostBoth ++ le 4 t.dup ++ le 4 t.late ++
  le 4 t.early ++ le 4 t.concealed ++ le 4 t.malformed ++ le 4 t.digestErr ++ le 4 t.fixed ++ le 4 t.resync ++
  le 4 t.repairMiss ++ le 8 t.lastIndex ++ le 1 state ++ zeros 7

/-- Table 8.11. -/
def txFields : List Fld :=
  [⟨0, 1, none, 1, 1, false, 0, []⟩, ⟨2, 2, none, 0, 127, false, 0, []⟩, ⟨4, 1, none, 0, 4, false, 0, []⟩,
   ⟨5, 1, none, 1, 3, false, 0xFC, []⟩, ⟨6, 1, none, 0, 64, false, 0, []⟩, ⟨7, 1, none, 0, 1, false, 0, []⟩,
   ⟨8, 4, none, 0, (2 ^ 32 : Nat), false, 0, []⟩, ⟨12, 2, none, 1, 65535, false, 0, []⟩,
   ⟨14, 2, none, 1, 65535, false, 0, []⟩, ⟨16, 4, none, 0, (2 ^ 32 : Nat), false, 0, []⟩,
   ⟨20, 2, none, 0, 575, false, 0, []⟩, ⟨22, 1, none, 0, 3, false, 0, []⟩, ⟨23, 1, none, 5, 7, false, 0, []⟩,
   ⟨24, 4, none, 0, (2 ^ 32 : Nat), false, 0, []⟩, ⟨28, 4, none, 0, (2 ^ 32 : Nat), false, 0, []⟩,
   ⟨32, 1, none, 96, 127, false, 0, []⟩, ⟨33, 1, none, 1, 255, false, 0, []⟩]

def txOf (p : Bytes) : TxRec :=
  { format := getU p 4 1, ports := getU p 5 1, channels := getU p 6 1, top := getU p 7 1 == 1, dst := getU p 8 4,
    dstPort := getU p 12 2, srcPort := getU p 14 2, src := getU p 16 4, first := getU p 20 2, ptime := getU p 22 1,
    queue := getU p 23 1, ssrc := getU p 24 4, rtpOffset := getU p 28 4, pt := getU p 32 1, ttl := getU p 33 1 }

/-- A BERTH_OPEN payload of direction 1 obeys Table 8.11 and R224: media through queue 6 or 7, services through 5. -/
def txPayloadOk (p : Bytes) : Bool :=
  layoutOk txFields 0 40 (fun _ => true) p && channelsOk (getU p 4 1) (getU p 6 1) &&
  privilegeOk (getU p 4 1) (getU p 2 2) && (if getU p 4 1 ≥ 3 then getU p 23 1 == 5 else getU p 23 1 ≥ 6)

def txBytes (r : TxRec) (b : Nat) : Bytes :=
  le 1 1 ++ zeros 1 ++ le 2 b ++ le 1 r.format ++ le 1 r.ports ++ le 1 r.channels ++ le 1 (bit r.top) ++ le 4 r.dst ++
  le 2 r.dstPort ++ le 2 r.srcPort ++ le 4 r.src ++ le 2 r.first ++ le 1 r.ptime ++ le 1 r.queue ++ le 4 r.ssrc ++
  le 4 r.rtpOffset ++ le 1 r.pt ++ le 1 r.ttl ++ zeros 6

/-- Transmit counters (Table 8.10): packets queued per port at 40 and 8 bytes on. -/
def txStatBytes (b : TxBerth) : Bytes :=
  le 8 (if b.cfg.ports.testBit 0 then b.pktsA else b.pktsB) ++ le 4 b.clamps ++ le 4 b.dropped ++ le 8 b.lastStamp ++ le 1 b.state ++ zeros 7

end Sys2Proof
end

