-- ==== Sys2Proof/Machine/RecScene.lean ====
section
/-!
DEFINITION. The scene records as bytes (Tables 2.2 to 2.8): field tables, writes of selected groups, responses.
-/
namespace Sys2Proof

/-- Table 2.2, fields of the fixed part. The direct list follows at 64. -/
def objFields : List Fld :=
  [⟨4, 2, none, 1, 65535, false, 0, []⟩, ⟨6, 1, some 0, 0, 4, false, 0, []⟩, ⟨7, 1, some 1, 0, 255, false, 0x0E, []⟩,
   ⟨8, 12, some 2, 0, (2 ^ 96 : Nat), false, 0, []⟩, ⟨20, 2, some 3, 0, 18000, false, 0, []⟩,
   ⟨22, 2, some 4, -32768, 600, true, 0, []⟩, ⟨24, 8, some 5, 0, (2 ^ 64 : Nat), false, 0, []⟩,
   ⟨32, 1, some 6, 0, 2, false, 0, []⟩, ⟨33, 1, some 6, 0, 240, false, 0, []⟩, ⟨34, 1, some 7, 0, 255, false, 0xFC, []⟩,
   ⟨35, 1, some 8, 0, 255, false, 0xFC, []⟩, ⟨36, 4, some 6, 100, 1000000, false, 0, []⟩,
   ⟨40, 4, some 9, 0, 96000, false, 0, []⟩, ⟨46, 1, some 10, 0, 128, false, 0, []⟩]

/-- Entries of the direct list of a payload. -/
def directOf (p : Bytes) : List (Nat × Int) :=
  (List.range (getU p 46 1)).map fun i => (getU p (64 + 4 * i) 2, getI p (66 + 4 * i) 2)

/-- An OBJ_SET payload obeys Table 2.2: 64 bytes, or with group 10 selected 4 more per direct-list entry. -/
def objPayloadOk (p : Bytes) : Bool :=
  recordOk objFields 11 64 (p.take 64) &&
  (if (maskOf p).testBit 10 then
    p.length == 64 + 4 * getU p 46 1 && (directOf p).all fun e => e.1 ≤ 511 && e.2 ≤ 600
   else p.length == 64)

/-- Three signed 32-bit coordinates. -/
def getPos (p : Bytes) (off : Nat) : Pos := ⟨getI p off 4, getI p (off + 4) 4, getI p (off + 8) 4⟩
def posBytes (x : Pos) : Bytes := leI 4 x.x ++ leI 4 x.y ++ leI 4 x.z

/-- Write the selected groups of an object record (R32). -/
def ObjRec.write (r : ObjRec) (m : Nat) (p : Bytes) : ObjRec :=
  let b := m.testBit
  { law := pick (b 0) (getU p 6 1) r.law
    motion := pick (b 1) (getU p 7 1) r.motion
    pos := pick (b 2) (getPos p 8) r.pos
    spread := pick (b 3) (getU p 20 2) r.spread
    gain := pick (b 4) (getI p 22 2) r.gain
    zoneMask := pick (b 5) (BitVec.ofNat 64 (getU p 24 8)) r.zoneMask
    distModel := pick (b 6) (getU p 32 1) r.distModel
    rolloff := pick (b 6) (getU p 33 1) r.rolloff
    refDist := pick (b 6) (getU p 36 4) r.refDist
    flags := pick (b 7) (getU p 34 1) r.flags
    ambiBed := pick (b 8) (getU p 35 1) r.ambiBed
    objDelay := pick (b 9) (getU p 40 4) r.objDelay
    direct := pick (b 10) (directOf p) r.direct }

/-- The object is rendered while its active flag is set (R38). -/
def ObjRec.active (r : ObjRec) : Bool := r.flags.testBit 1

/-- An object record as bytes with its select mask (Table 2.2). -/
def ObjRec.bytes (r : ObjRec) (mask id : Nat) : Bytes :=
  le 4 mask ++ le 2 id ++ le 1 r.law ++ le 1 r.motion ++ posBytes r.pos ++ le 2 r.spread ++ leI 2 r.gain ++
  le 8 r.zoneMask.toNat ++ le 1 r.distModel ++ le 1 r.rolloff ++ le 1 r.flags ++ le 1 r.ambiBed ++ le 4 r.refDist ++
  le 4 r.objDelay ++ zeros 2 ++ le 1 r.direct.length ++ zeros 17 ++
  (r.direct.flatMap fun e => le 2 e.1 ++ leI 2 e.2)

/-- An object update's record: without group 10 exactly 64 bytes (Table 2.2). -/
def ObjRec.update (r : ObjRec) (mask id : Nat) : Bytes :=
  if mask.testBit 10 then r.bytes mask id else (r.bytes mask id).take 64

/-- Status fields of an object (Table 2.3). -/
def ObjStat.bytes (t : ObjStat) : Bytes :=
  le 2 (t.slot.getD 65535) ++ le 2 (t.bind.getD 65535) ++ le 2 t.taps ++
  le 2 (bit t.present + bit t.pressure 1 + bit t.clamped 2) ++ le 4 t.dropped ++ le 4 t.clamps ++ le 4 t.gainSat

/-- Table 2.4. -/
def spkFields : List Fld :=
  [⟨4, 2, none, 0, 511, false, 0, []⟩, ⟨6, 1, some 0, 0, 15, false, 0, []⟩, ⟨7, 1, some 1, 0, 63, false, 0, []⟩,
   ⟨8, 12, some 2, 0, (2 ^ 96 : Nat), false, 0, []⟩, ⟨20, 2, some 3, -18000, 17999, true, 0, []⟩,
   ⟨22, 2, some 3, -9000, 9000, true, 0, []⟩, ⟨24, 4, some 4, 0, 0xBB800000, false, 0, []⟩,
   ⟨28, 2, some 5, -32768, 600, true, 0, []⟩, ⟨30, 1, some 6, 0, 3, false, 0, []⟩, ⟨31, 1, some 7, 0, 255, false, 0xFC, []⟩,
   ⟨32, 1, some 8, 0, 3, false, 0, []⟩, ⟨34, 2, some 8, 0, 575, false, 0, []⟩]

/-- An index within its out_kind (Tables 2.4, 6.9): network output channel, analogue output, TDM channel. -/
def outIndexOk (kind index : Nat) : Bool :=
  match kind with
  | 0 => index ≤ 575
  | 1 => index ≤ 575
  | 2 => index ≤ 7
  | _ => index ≤ 63

/-- An SPK_SET payload obeys Table 2.4. -/
def spkPayloadOk (p : Bytes) : Bool :=
  recordOk spkFields 9 48 p && (!(maskOf p).testBit 8 || outIndexOk (getU p 32 1) (getU p 34 2))

/-- Write the selected groups of a loudspeaker record. -/
def SpkRec.write (r : SpkRec) (m : Nat) (p : Bytes) : SpkRec :=
  let b := m.testBit
  { directivity := pick (b 0) (getU p 6 1) r.directivity
    zone := pick (b 1) (getU p 7 1) r.zone
    pos := pick (b 2) (getPos p 8) r.pos
    aimAz := pick (b 3) (getI p 20 2) r.aimAz
    aimEl := pick (b 3) (getI p 22 2) r.aimEl
    delayOffset := pick (b 4) (getU p 24 4) r.delayOffset
    trim := pick (b 5) (getI p 28 2) r.trim
    health := pick (b 6) (getU p 30 1) r.health
    flags := pick (b 7) (getU p 31 1) r.flags
    outKind := pick (b 8) (getU p 32 1) r.outKind
    outIndex := pick (b 8) (getU p 34 2) r.outIndex }

/-- The loudspeaker is enabled. -/
def SpkRec.enabled (r : SpkRec) : Bool := r.flags.testBit 0

/-- The loudspeaker takes part (R43). -/
def SpkRec.takesPart (r : SpkRec) : Bool :=
  r.enabled && (r.health ≤ 1 || (r.health == 2 && !r.flags.testBit 1))

/-- A loudspeaker record as bytes. -/
def SpkRec.bytes (r : SpkRec) (mask o : Nat) : Bytes :=
  le 4 mask ++ le 2 o ++ le 1 r.directivity ++ le 1 r.zone ++ posBytes r.pos ++ leI 2 r.aimAz ++ leI 2 r.aimEl ++
  le 4 r.delayOffset ++ leI 2 r.trim ++ le 1 r.health ++ le 1 r.flags ++ le 1 r.outKind ++ zeros 1 ++
  le 2 r.outIndex ++ zeros 12

/-- Table 2.5. -/
def zoneFields : List Fld :=
  [⟨4, 1, none, 0, 63, false, 0, []⟩, ⟨5, 1, some 0, 0, 255, false, 0xFC, []⟩, ⟨6, 2, some 1, -32768, 600, true, 0, []⟩,
   ⟨8, 4, some 2, -314572800, 314572800, true, 0, []⟩, ⟨12, 2, some 3, 0, 4800, false, 0, []⟩]
def zonePayloadOk (p : Bytes) : Bool := recordOk zoneFields 4 32 p

/-- Write the selected groups of a zone record. -/
def ZoneRec.write (r : ZoneRec) (m : Nat) (p : Bytes) : ZoneRec :=
  let b := m.testBit
  { flags := pick (b 0) (getU p 5 1) r.flags
    gain := pick (b 1) (getI p 6 2) r.gain
    delayTrim := pick (b 2) (getI p 8 4) r.delayTrim
    precLead := pick (b 3) (getU p 12 2) r.precLead }

def ZoneRec.bytes (r : ZoneRec) (mask z : Nat) : Bytes :=
  le 4 mask ++ le 1 z ++ le 1 r.flags ++ leI 2 r.gain ++ leI 4 r.delayTrim ++ le 2 r.precLead ++ zeros 18

/-- Table 2.6. -/
def airFields : List Fld :=
  [⟨4, 2, some 0, -4000, 6000, true, 0, []⟩, ⟨6, 2, some 1, 0, 10000, false, 0, []⟩, ⟨8, 1, some 2, 0, 1, false, 0, []⟩]
def airPayloadOk (p : Bytes) : Bool := recordOk airFields 3 16 p

/-- Write the selected groups of the air record. -/
def AirRec.write (r : AirRec) (m : Nat) (p : Bytes) : AirRec :=
  let b := m.testBit
  { temp := pick (b 0) (getI p 4 2) r.temp
    humidity := pick (b 1) (getU p 6 2) r.humidity
    source := pick (b 2) (getU p 8 1) r.source }

def AirRec.bytes (r : AirRec) (mask : Nat) : Bytes :=
  le 4 mask ++ leI 2 r.temp ++ le 2 r.humidity ++ le 1 r.source ++ zeros 7

/-- Table 2.7. Groups 3 and 4 belong to record 0 only. -/
def peerFields : List Fld :=
  [⟨4, 2, none, 0, 4095, false, 0, []⟩, ⟨6, 1, some 0, 0, 255, false, 0xF0, []⟩, ⟨7, 1, some 0, 0, 7, false, 0, []⟩,
   ⟨8, 4, some 1, 0, 1048575, false, 0xFFF00000, []⟩, ⟨12, 4, some 2, 0, (2 ^ 32 : Nat), false, 0, []⟩,
   ⟨16, 2, some 3, 0, 65535, false, 0, []⟩, ⟨18, 1, some 4, 2, 64, false, 0, []⟩]

/-- A PEER_SET payload obeys Table 2.7: record 0's identifier is never 0; groups 3 and 4 name record 0 only. -/
def peerPayloadOk (p : Bytes) : Bool :=
  recordOk peerFields 5 32 p &&
  (if getU p 4 2 = 0 then !(maskOf p).testBit 1 || getU p 8 4 != 0
   else !(maskOf p).testBit 3 && !(maskOf p).testBit 4)

/-- Write the selected groups of a peer record. -/
def PeerRec.write (r : PeerRec) (m : Nat) (p : Bytes) : PeerRec :=
  let b := m.testBit
  { roles := pick (b 0) (getU p 6 1) r.roles
    rank := pick (b 0) (getU p 7 1) r.rank
    nodeId := pick (b 1) (getU p 8 4) r.nodeId
    ipv4 := pick (b 2) (getU p 12 4) r.ipv4
    sceneDomain := pick (b 3) (getU p 16 2) r.sceneDomain
    busLead := pick (b 4) (getU p 18 1) r.busLead }

/-- A peer record and its status (Tables 2.7, 2.8). -/
def PeerRec.bytes (r : PeerRec) (t : PeerStat) (mask i : Nat) : Bytes :=
  le 4 mask ++ le 2 i ++ le 1 r.roles ++ le 1 r.rank ++ le 4 r.nodeId ++ le 4 r.ipv4 ++ le 2 r.sceneDomain ++
  le 1 r.busLead ++ zeros 13 ++
  le 1 t.state ++ le 1 t.mismatch ++ zeros 2 ++ le 8 t.lastHeard ++ le 4 t.late ++ le 4 t.lost ++ le 4 t.superseded

end Sys2Proof
end

