-- ==== Sys2Proof/Machine/RecSys.lean ====
section
/-!
DEFINITION. The records of twin operation, power, start-up and memory as bytes (Tables 10.1, 10.12, 12.2, 12.3, 12.9,
14.7).
-/
namespace Sys2Proof

/-- Table 10.1. -/
def twinFields : List Fld :=
  [⟨4, 1, some 0, 0, 255, false, 0xF8, []⟩, ⟨5, 1, some 1, 2, 64, false, 0, []⟩, ⟨6, 1, some 1, 2, 100, false, 0, []⟩,
   ⟨7, 1, some 1, 1, 100, false, 0, []⟩, ⟨8, 1, some 2, 4, 128, false, 0, []⟩, ⟨10, 2, some 3, 0, 5000, false, 0, []⟩]
def twinPayloadOk (p : Bytes) : Bool := recordOk twinFields 4 32 p

def TwinRec.write (r : TwinRec) (m : Nat) (p : Bytes) : TwinRec :=
  let b := m.testBit
  { flags := pick (b 0) (getU p 4 1) r.flags
    moorHold := pick (b 1) (getU p 5 1) r.moorHold
    netHold := pick (b 1) (getU p 6 1) r.netHold
    flowHold := pick (b 1) (getU p 7 1) r.flowHold
    retain := pick (b 2) (getU p 8 1) r.retain
    bDelay := pick (b 3) (getU p 10 2) r.bDelay }

def TwinRec.bytes (r : TwinRec) (mask : Nat) : Bytes :=
  le 4 mask ++ le 1 r.flags ++ le 1 r.moorHold ++ le 1 r.netHold ++ le 1 r.flowHold ++ le 1 r.retain ++ zeros 1 ++
  le 2 r.bDelay ++ zeros 20

/-- Table 10.12. -/
def witnessFields : List Fld :=
  [⟨4, 2, some 0, 0, 4095, false, 0, []⟩, ⟨6, 1, some 1, 4, 50, false, 0, []⟩, ⟨7, 1, some 1, 1, 25, false, 0, []⟩,
   ⟨8, 1, some 2, 0, 255, false, 0xFE, []⟩]

/-- A WITNESS_SET payload obeys Table 10.12: renew_ms is at most half of lease_ms. -/
def witnessPayloadOk (p : Bytes) : Bool :=
  recordOk witnessFields 3 16 p && (!(maskOf p).testBit 1 || 2 * getU p 7 1 ≤ getU p 6 1)

def WitnessRec.write (r : WitnessRec) (m : Nat) (p : Bytes) : WitnessRec :=
  let b := m.testBit
  { witness := pick (b 0) (getU p 4 2) r.witness
    leaseMs := pick (b 1) (getU p 6 1) r.leaseMs
    renewMs := pick (b 1) (getU p 7 1) r.renewMs
    serve := pick (b 2) (getU p 8 1 == 1) r.serve }

def WitnessRec.bytes (r : WitnessRec) (mask : Nat) : Bytes :=
  le 4 mask ++ le 2 r.witness ++ le 1 r.leaseMs ++ le 1 r.renewMs ++ le 1 (bit r.serve) ++ zeros 7

/-- Table 12.9. -/
def powerFields : List Fld :=
  [⟨4, 1, some 0, 0, 255, false, 0xE0, []⟩, ⟨8, 4, some 1, 0, 10000000, false, 0, []⟩,
   ⟨12, 4, some 1, 0, (2 ^ 32 : Nat), false, 0, []⟩, ⟨16, 4, some 2, 1, 86400, false, 0, []⟩,
   ⟨20, 2, some 3, 0, 1000, false, 0, []⟩, ⟨22, 2, some 4, 0, 65535, false, 0, []⟩]
def powerPayloadOk (p : Bytes) : Bool := recordOk powerFields 5 32 p

def PowerPolicy.write (r : PowerPolicy) (m : Nat) (p : Bytes) : PowerPolicy :=
  let b := m.testBit
  { flags := pick (b 0) (getU p 4 1) r.flags
    wakeTol := pick (b 1) (getU p 8 4) r.wakeTol
    idleExp := pick (b 1) (getU p 12 4) r.idleExp
    dryTime := pick (b 2) (getU p 16 4) r.dryTime
    boardRamp := pick (b 3) (getU p 20 2) r.boardRamp
    wakeTimer := pick (b 4) (getU p 22 2) r.wakeTimer }

def PowerPolicy.bytes (r : PowerPolicy) (mask : Nat) : Bytes :=
  le 4 mask ++ le 1 r.flags ++ zeros 3 ++ le 4 r.wakeTol ++ le 4 r.idleExp ++ le 4 r.dryTime ++ le 2 r.boardRamp ++
  le 2 r.wakeTimer ++ zeros 8

/-- Replay entries of a SYS_MODE_SET payload (Tables 12.2, 12.3). -/
def replayOf (p : Bytes) : List ReplayEntry :=
  (List.range (getU p 4 2)).map fun i =>
    let o := 8 + 16 * i
    ⟨getU p o 2, (getU p (o + 2) 1).testBit 0, getU p (o + 4) 4, getU p (o + 8) 4, getU p (o + 12) 4⟩

/-- A SYS_MODE_SET payload obeys Tables 12.2 and 12.3. -/
def modePayloadOk (p : Bytes) : Bool :=
  let n := getU p 4 2
  n ≤ 1024 && p.length == 8 + 16 * n && getU p 6 2 == 0 &&
  ((List.range n).all fun i => getU p (10 + 16 * i) 1 &&& 0xFE == 0 && getU p (11 + 16 * i) 1 == 0) &&
  ((replayOf p).all fun e => e.channel ≤ 1023 && e.first < 16777216 && 1 ≤ e.granules &&
    e.first + e.granules ≤ 16777216 && e.start < e.granules * 128)

/-- The replay granule that holds a track's sample for stamp v, of an entry that started at block `start` (R107, R348); none
past its end. -/
def ReplayEntry.granuleAt (e : ReplayEntry) (start v : Nat) : Option Nat :=
  let n := e.start + (v - start)
  let len := 128 * e.granules
  if n ≥ len && !e.loop then none else some (e.first + n % len / 128)

/-- The replay granules that a channel needs for block b: of its track, and over the first block of the one it replaces. -/
def ReplayChan.needs (r : ReplayChan) (b : Nat) : List Nat :=
  let of := fun (e : ReplayEntry) (a : Nat) => (List.range 16).filterMap fun i => e.granuleAt a (b + 4 + i)
  if b < r.start || (match r.ending with | some e => decide (e < b) | none => false) then []
  else (of r.entry r.start ++ (match r.old with | some o => if b = r.start then of o.1 o.2 else [] | none => [])).eraseDups

/-- Straps as the report packs them (Table 14.7, offset 4). -/
def Straps.pack (t : Straps) : Nat :=
  t.boot + t.twin * 4 + t.host * 16 + t.heart * 64 + t.spread * 128 + t.node * 512 + bit t.safe 13 + bit t.dbg 14

/-- The self-test report (Table 14.7). -/
def Report.bytes (r : Report) : Bytes :=
  let t := r.test
  le 1 1 ++ le 1 r.result ++ le 1 r.reason ++ le 1 r.step ++ le 4 r.straps.pack ++ le 4 t.pilot ++ le 4 r.fw ++
  le 1 r.image ++ le 1 r.imgFlags ++ le 2 r.floor ++ le 2 r.rbIndex ++ le 1 r.wakeReason ++ zeros 1 ++
  padTo 12 (t.stepMs.flatMap (le 2)) ++ le 4 t.totalMs ++ le 4 t.sramAddr ++ le 2 t.sramCount ++ le 1 t.sramWhere ++
  le 1 t.dramRates ++ le 1 t.dramChan ++ le 1 t.serdes ++ zeros 2 ++ padTo 16 (t.prbsErr.flatMap (le 4)) ++
  padTo 16 (t.adcLevel.flatMap (leI 2)) ++ padTo 16 (t.thdn.flatMap (leI 2)) ++ le 1 t.loops ++ le 1 (bit t.dieLink) ++
  le 2 t.sigFail ++ le 8 r.faultAddr ++ le 1 r.faultMaster ++ zeros 3 ++ le 8 r.faultIndex ++ leI 1 t.temp ++ zeros 3 ++
  slice (Config.reportText r.reason) 0 128

/-- Firmware release of the running image as fw (Table 10.3): 3.2 and the build (R3, R339). -/
def fwRelease : Nat := 3 * 2 ^ 24 + 2 * 2 ^ 16 + Config.fwBuild % 65536

end Sys2Proof
end

