-- ==== Sys2Proof/Machine/Wire.lean ====
section
/-!
DEFINITION. What the block puts on a wire for itself: Phoenaox frames (R223), service frames through the transmit berths of
formats 3 and 4 (R225, R240, R280), frames of the mooring link (R279), and the decisions and commands forwarded on it (R283).
-/
namespace Sys2Proof.Machine

/-- A Phoenaox frame (R223, Table 8.7): header, payload, digest. -/
def pgxFrame (service node heart : Nat) (repair : Bool) (stamp seq count : Nat) (payload : Bytes) : Bytes :=
  let head := be 2 0x7E50 ++ be 1 (16 + service) ++ be 1 (bit repair + 4 * heart) ++ be 4 node ++ be 8 stamp ++
    be 4 (seq % 2 ^ 32) ++ be 2 payload.length ++ be 1 count ++ zeros 1
  head ++ payload ++ be 4 (crc32c (head ++ payload))

/-- Queue frames on their ports; a berth counts the packets queued for it, per port (Table 8.10). -/
def queuePackets (ps : List (Nat × TxPkt)) (s : State) : State :=
  ps.foldl (fun s e =>
    let s := updPort e.1 (fun q => { q with queued := q.queued ++ [{ e.2 with since := s.media.c }] }) s
    match e.2.berth with
    | some b => updTx b (fun x => { x with
        pktsA := if e.1 = 0 then wrapAdd 64 x.pktsA 1 else x.pktsA, pktsB := if e.1 = 0 then x.pktsB else wrapAdd 64 x.pktsB 1
        lastStamp := e.2.stamp }) s
    | none => s) s

/-- A UDP packet of a transmit berth on a port: `len` bytes above UDP, with the headers, the FCS, the preamble and the gap that R241
names. -/
def berthPkt (s : State) (b port : Nat) (r : TxRec) (stamp upto : Nat) (data : Bytes) (len : Nat) : TxPkt :=
  { queue := r.queue, berth := some b, stamp := stamp, upto := upto, data := data
    wire := max 64 (len + 46 + (if (s.txTag port).isSome then 4 else 0)) + 20
    src := if r.src = 0 then (s.port port).cfg.ipv4 else r.src, dst := r.dst, sport := r.srcPort, dport := r.dstPort
    ttl := r.ttl, dscp := (s.port port).cfg.dscpMedia, tci := s.txTag port }

/-- Open transmit berths of a service (Table 8.11): format 3 for service 1, 4 for service 2. -/
def State.serviceBerths (s : State) (service : Nat) : List (Nat × TxBerth) :=
  s.net.tx.filter fun e => e.2.state == 1 && e.2.cfg.format == service + 2

/-- A service frame leaves through queue 5 of every named port of the service's open transmit berths (R240); without one it is
not sent. All copies carry one sequence number (Table 8.7). -/
def sendService (service count : Nat) (payload : Bytes) (s : State) : State :=
  let berths := s.serviceBerths service
  if berths.isEmpty then s
  else
    let seq := SMap.get 0 s.net.serviceSeq service
    let data := pgxFrame service (s.peer 0).nodeId s.media.heart false s.idx seq count payload
    let ps := berths.flatMap fun e => ([0, 1].filter fun q => e.2.cfg.ports.testBit q && !portDeaf s q).map fun q =>
      (q, berthPkt s e.1 q e.2.cfg s.idx s.idx data data.length)
    queuePackets ps { s with net.serviceSeq := SMap.put 0 s.net.serviceSeq service (wrapAdd 32 seq 1) }

/-! The mooring link (R279). -/

/-- EtherType of mooring frames. -/
def moorEtherType : Nat := 0x88B5

/-- The lane that carries a record kind while both have lock: 1 for repairs, mirrors and warp records. -/
def ownLane (kind : Nat) : Nat := if kind = 4 || kind = 5 || kind = 8 || kind = 9 then 1 else 0

/-- The lane a record goes by: its own, or the other where its own has no block lock. -/
def laneOf (lanes : BitVec 2) (kind : Nat) : Option Nat :=
  let own := ownLane kind
  if lanes.getLsbD own then some own else if lanes.getLsbD (1 - own) then some (1 - own) else none

/-- A heartbeat record (Table 10.3). -/
def heartbeatBytes (h : Heartbeat) : Bytes :=
  zeros 2 ++ le 2 48 ++ le 1 h.unit ++ le 1 (bit h.active) ++
  le 2 (bit h.adrift + bit h.lease 1 + bit h.warp 2 + bit h.safe 3) ++ le 4 h.epoch ++ le 4 h.fw ++ le 2 h.mode ++ zeros 6 ++
  le 8 h.confirm ++ le 8 h.leaseEnd ++ zeros 8

/-- Entries are padded to 4 bytes (Table 10.5). -/
def pad4 (p : Bytes) : Bytes := p ++ zeros ((4 - p.length % 4) % 4)

/-- A bitmap of n bits, with the bits that a test sets: bit i in byte i / 8, from the least significant. -/
def bitmapOf (n : Nat) (f : Nat → Bool) : Bytes :=
  (List.range ((n + 7) / 8)).map fun k => BitVec.ofNat 8 ((List.range 8).foldl (fun a i => a + bit (f (8 * k + i)) i) 0)

/-- A berth entry of a manifest (Table 10.5): up to eight absent runs, or a bitmap in which a set bit is an absent index. -/
def manBerthBytes (e : ManBerth) : Bytes :=
  let few := e.runs.length ≤ 8
  pad4 (le 2 e.berth ++ le 2 e.count ++ le 1 (if few then e.runs.length else 255) ++ zeros 3 ++ le 8 e.lo ++
    if few then e.runs.flatMap fun r => le 2 r.1 ++ le 2 r.2
    else bitmapOf e.count fun i => e.runs.any fun r => r.1 ≤ i && i < r.1 + r.2)

/-- A FREE entry of a manifest (Table 10.5). -/
def manFreeBytes (e : ManFree) : Bytes :=
  pad4 (le 2 e.flow ++ zeros 2 ++ le 2 e.seqs.length ++ zeros 2 ++ leI 8 e.pos ++ le 8 (bits64 e.r) ++ e.seqs.flatMap (le 2))

/-- A manifest record (Table 10.5). -/
def manifestBytes (m : Manifest) : Bytes :=
  let body := le 2 m.berths.length ++ le 2 m.frees.length ++ le 8 m.block ++ bitmapOf 1024 m.silent.contains ++
    le 1 (bit m.nose) ++ zeros 7 ++ m.berths.flatMap manBerthBytes ++ m.frees.flatMap manFreeBytes
  le 1 2 ++ zeros 1 ++ le 2 (body.length + 4) ++ body

/-- Bytes of a twin-control record: those Tables 10.3 and 10.5 lay out stand in `data`; of the others the manual gives the
content and no layout. -/
def twinBytes (kind : Nat) (args : List Nat) (data : Bytes) : Bytes :=
  if kind = 0 || kind = 2 then data else Config.twinRecord kind args ++ data

/-- A mooring frame as Ethernet carries it, without its FCS. -/
def moorFrame (kind : Nat) (args : List Nat) (data : Bytes) (h : MoorHdr) : Bytes :=
  be 6 Config.partnerStation ++ be 6 (stationOf 0) ++ be 2 moorEtherType ++
  pgxFrame 2 h.node h.heart h.repair h.stamp h.seq 1 (twinBytes kind args data)

/-- A frame of a lane-1 kind formed in a period. -/
def laterKind (i : Nat) : OutMsg → Bool
  | .twin kind _ _ (some h) => ownLane kind == 1 && h.stamp == i
  | .warp _ _ h => h.stamp == i
  | _ => false

/-- A frame joins those handed to the mooring engine: where one lane carries everything, the lane-0 kinds of a period go first. -/
def moorAfter (lanes : BitVec 2) (kind i : Nat) (m : OutMsg) (out : List OutMsg) : List OutMsg :=
  if lanes = 3 || ownLane kind = 1 then out ++ [m]
  else
    let n := (out.reverse.takeWhile (laterKind i)).length
    out.take (out.length - n) ++ [m] ++ out.drop (out.length - n)

/-- Hand the mooring engine a frame of a record kind, while a lane has lock. -/
def sendMoor (kind : Nat) (m : MoorHdr → OutMsg) (s : State) : State :=
  match laneOf s.twin.lanes kind with
  | none => s
  | some lane =>
    let seq := SMap.get 0 s.net.serviceSeq 2
    let h : MoorHdr := ⟨lane, (s.peer 0).nodeId, s.media.heart, kind == 4, s.idx, seq⟩
    { s with host.outbox := moorAfter s.twin.lanes kind s.idx (m h) s.host.outbox
             net.serviceSeq := SMap.put 0 s.net.serviceSeq 2 (wrapAdd 32 seq 1) }

/-- Send a twin-control record (Table 10.2): on the mooring link, or on the twin-control berths (R280). -/
def sendTwin (kind : Nat) (moor : Bool) (args : List Nat) (data : Bytes) (s : State) : State :=
  if moor then sendMoor kind (fun h => .twin kind args data (some h)) s
  else if !s.twinBerths then s
  else sendService 2 1 (twinBytes kind args data) (send (.twin kind args data none) s)

/-- Send a segment of the warp image (Table 10.2, kind 8); the image bytes sent are counted (Table 10.13). -/
def sendSeg (bytes : Nat) (seg : WarpSeg) (s : State) : State :=
  let t := sendMoor 8 (fun h => .warp seg bytes h) s
  { t with twin.warp := t.twin.warp.map fun w => { w with done := w.done + bytes } }

/-- The forward sequence that the next record sent carries. -/
def State.forwardSeq (s : State) : Option Nat := if s.flag mActive then some s.twin.sendSeq else none

/-- The active unit forwards a command to the standby (R283, R290). -/
def forwardCmd (o : Origin) (op : Opcode) (rank apply : Nat) (payload : Bytes) (s : State) : State :=
  if s.flag mActive then
    sendTwin 1 true [s.twin.sendSeq, originNumber o, rank, apply, op.code] payload
      { s with twin.sendSeq := wrapAdd 32 s.twin.sendSeq 1 }
  else s

/-- The active unit forwards a decision (R290, R291): its code and its values. -/
def forwardDecision (args : List Nat) (s : State) : State :=
  if s.flag mActive then
    sendTwin 1 true ([s.twin.sendSeq, 0x200, 7, 0, 0] ++ args) []
      { s with twin.sendSeq := wrapAdd 32 s.twin.sendSeq 1 }
  else s

/-- The active unit forwards a decision of its Nose (R215, R290): at the Nose's rank, which lies below every host's, with an apply
period; its code and values, and the record it gives. -/
def forwardNose (args : List Nat) (data : Bytes) (s : State) : State :=
  if s.flag mActive then
    sendTwin 1 true ([s.twin.sendSeq, originNumber .nose, 0, s.rTen] ++ args) data
      { s with twin.sendSeq := wrapAdd 32 s.twin.sendSeq 1 }
  else s

/-- Entry to ADRIFT of a standby (R285, R290, R291, R295, R303, Table 12.4 note 15): the twin event, with its reason. -/
def setAdrift (reason : Nat) (s : State) : State :=
  if s.flag mStandby && !s.flag mAdrift then
    let t := setFlag mAdrift true srcDevice s
    twinEvent 0 (Config.adriftReason reason % 2 ^ 32) { t with twin.stat.adrift := wrapAdd 32 t.twin.stat.adrift 1 }
  else s

/-- The warp ends uncompleted: it is counted, and captures are freed (R301). `again`: it starts again from phase 0. -/
def failWarp (again : Bool) (s : State) : State :=
  let t := { s with twin.warp := none, twin.stash := [], twin.asked := false, twin.retry := again && s.flag mStandby }
  twinEvent 4 t.twin.epoch { t with twin.stat.warpFails := wrapAdd 32 t.twin.stat.warpFails 1 }

/-- A warp in progress is abandoned; the partner hears of it, and whether it starts again (R301). -/
def endWarp (again : Bool) (s : State) : State :=
  if s.twin.warp.isSome then sendTwin 9 true [4, bit again] [] (failWarp again s) else s

/-- A warp in progress is abandoned, to start again from phase 0 (R301). -/
def abandonWarp (s : State) : State := endWarp true s

end Sys2Proof.Machine
end

