-- ==== Sys2Proof/Machine/Operands.lean ====
section
/-!
DEFINITION. The operand forms of a request: the entry's bytes (Table 11.10), the apply period (R332), the class of a
command in a pair (Table 10.4), and how a command's effect is timed (R33, R333).
-/
namespace Sys2Proof.Machine

/-- The crane descriptor at an offset of an entry (Table 11.12). -/
def craneOf (e : Bytes) (o : Nat) : CraneDesc :=
  { via := getU e o 1, length := getU e (o + 4) 4, address := getU e (o + 8) 8, digest := slice e (o + 16) 32 }

/-- A crane descriptor obeys Table 11.12; a return descriptor may give length 0 and carries no digest. -/
def craneOk (e : Bytes) (o : Nat) (ret : Bool) : Bool :=
  let d := craneOf e o
  d.via ≤ 1 && getU e (o + 1) 3 == 0 && (ret || 1 ≤ d.length) && d.length ≤ 1073741824 && d.address % 64 == 0 &&
  (d.via == 0 || d.address == 0) && (!ret || d.digest.all (· == 0)) && (slice e (o + 48) 16).all (· == 0)

/-- The store header of a store transfer (R324). -/
def storeOf (e : Bytes) : StoreHdr :=
  { store := getU e 120 1, dir := getU e 121 1, offset := getU e 124 8, length := getU e 132 4 }

/-- An entry is well formed (Table 11.10, R6): fields in range, reserved fields zero. -/
def entryOk (m : Nat) (e : Bytes) : Bool :=
  let kind := getU e 16 1
  let ret := (getU e 17 1).testBit 1
  let pk := getU e 18 1
  let plen := getU e 20 2
  let poff := getU e 22 2
  e.length == 256 && getU e 2 1 == m && (getU e 3 1 &&& 0xC8) == 0 && kind ≤ 2 && (getU e 17 1 &&& 0xFC) == 0 &&
  pk ≤ 2 && getU e 19 1 == 0 && (kind != 1 || pk == 2) && (kind == 0 || getU e 0 2 == 0) &&
  (match pk with
   | 0 => plen ≤ (if ret then 136 else 200) && poff == 0
   | 1 => 1 ≤ plen && plen ≤ 4096 && poff % 4 == 0 && poff + plen ≤ 16384
   | _ => plen == 0 && poff == 0 && craneOk e 56 false) &&
  (!ret || craneOk e 192 true) &&
  (kind != 1 || (getU e 122 2 == 0 && getU e 120 1 ≤ 1 && getU e 121 1 ≤ 1))

/-- The request an entry spells, with the bulk bytes its descriptor names. -/
def reqOf (m : Fin 8) (e : Bytes) (bulk : Nat → Nat → Bytes) : Req :=
  let ret := (getU e 17 1).testBit 1
  let pk := getU e 18 1
  { master := m, rank := getU e 3 1 % 8, heart := getU e 3 1 / 16 % 4, seq := getU e 4 4, apply := getU e 8 8,
    strict := (getU e 17 1).testBit 0, pkind := if pk = 0 then .inline else if pk = 1 then .bulk else .crane,
    poff := getU e 22 2,
    payload := if pk = 0 then slice e 56 (getU e 20 2) else if pk = 1 then bulk (getU e 22 2) (getU e 20 2) else [],
    crane := if pk = 2 then craneOf e 56 else {}, ret := if ret then some (craneOf e 192) else none,
    tag := slice e 24 32, raw := e }

/-- The entry a request stands for, as the tag covers it: its 256 bytes as they lay in the ring, or those its fields spell, with
bytes 24 to 55 zero (R330). -/
def reqBytes (op : Opcode) (r : Req) (h : StoreHdr) : Bytes :=
  let desc := fun (d : CraneDesc) =>
    le 1 d.via ++ zeros 3 ++ le 4 d.length ++ le 8 d.address ++ padTo 32 d.digest ++ zeros 16
  let kind := match op with | .storeTransfer => 1 | .echo => 2 | _ => 0
  let head := le 2 op.code ++ le 1 r.master.val ++ le 1 (r.rank + 16 * r.heart) ++ le 4 r.seq ++ le 8 r.apply ++
    le 1 kind ++ le 1 (bit r.strict + bit r.ret.isSome 1) ++
    le 1 (match r.pkind with | .inline => 0 | .bulk => 1 | .crane => 2) ++ zeros 1 ++
    le 2 (match r.pkind with | .crane => 0 | _ => r.payload.length) ++ le 2 r.poff ++ zeros 32
  let body := match r.pkind with
    | .inline => r.payload
    | .bulk => []
    | .crane => desc r.crane ++
      (if kind = 1 then le 1 h.store ++ le 1 h.dir ++ zeros 2 ++ le 8 h.offset ++ le 4 h.length else [])
  let e := padTo 256 (head ++ body)
  let e := match r.ret with | some d => e.take 192 ++ desc d | none => e
  if r.raw.length = 256 then r.raw.take 24 ++ zeros 32 ++ r.raw.drop 56 else e

/-- Request tests of R330 under the credential block in force. -/
def authOk (s : State) (op : Opcode) (r : Req) (h : StoreHdr) : Bool :=
  match s.host.cred with
  | none => true
  | some c =>
    let k := c.creds.getD r.master.val {}
    !c.enforce ||
    (k.enabled && r.rank ≤ k.maxRank &&
     r.tag == slice (Config.hmacSha256 k.key
       (reqBytes op r h ++ (match r.pkind with | .bulk => r.payload | _ => []))) 0 32)

/-- Enforcement is on (R329). -/
def State.enforced (s : State) : Bool := match s.host.cred with | some c => c.enforce | none => false

/-- Commands that take effect at a tick or block, and are answered at their settle point (R33, R126, R333). The others
act, or refuse, at acceptance. -/
def timingOf (op : Opcode) (p : Bytes) : Option Timing :=
  match op with
  | .objSet | .spkSet | .zoneSet | .airSet | .peerSet => if maskOf p = 0 then none else some .tick
  | .objBind => some .block
  | .chainSet | .bridgeSet | .silenceSet => if maskOf p = 0 then none else some .block
  | .accordLoad => some .block
  | .accordSwap => if getU p 4 2 = 0 then none else some .block
  | .routeSet => if getU p 0 1 = 3 then none else some .block
  | .sysModeSet => some .block
  | .berthOpen => some .block
  | _ => none

/-- Select-mask records: a mask of 0 makes the command a read (R32, Table 10.4). -/
def isSelect : Opcode → Bool
  | .objSet | .spkSet | .zoneSet | .airSet | .peerSet | .chainSet | .bridgeSet | .silenceSet | .portCfg | .filterSet
  | .timeCfg | .trigSet | .noseCfg | .pairSet | .markSet | .policySet | .twinCfg | .witnessSet | .pwrPolicy
  | .anaInCfg | .anaOutCfg | .loopCfg | .tdmCfg | .shortSet | .gpioSet => true
  | _ => false

/-- Classes of commands in a pair (Table 10.4). -/
inductive Class where
  | forwarded | local | read | twin
deriving DecidableEq, Repr

/-- The class of a command (Table 10.4). The table gives OBJ_CLAIM, ACCORD_SWAP and ROUTE_SET the forwarded class whole, their
queries among them. -/
def classOf (op : Opcode) (p : Bytes) (h : StoreHdr) : Class :=
  if isSelect op && maskOf p = 0 && !(op == .gpioSet && (kindOf p == 1 || kindOf p == 2 || kindOf p == 3)) then .read
  else match op with
  | .sysInfo | .sysModeGet | .sysLogRead | .objGet | .spkGet | .berthStat | .timeStat | .captRead | .estRead
  | .proposalRead | .healthRead | .twinStat | .pwrStat | .postReport | .echo => .read
  | .twinWarp | .twinSwitch | .witnessSet => .twin
  | .sysReset | .peerSet | .portCfg | .filterSet | .trigSet | .testLoop | .fwStage | .fwCommit | .twinCfg
  | .anaInCfg | .anaOutCfg | .loopCfg | .tdmCfg | .shortSet | .gpioSet => .local
  | .timeCfg => if kindOf p = 0 && (maskOf p).testBit 0 || kindOf p = 0 && (maskOf p).testBit 1 then .forwarded else .local
  | .sysModeSet =>
    if (getU p 0 2 ||| getU p 2 2) = 2 ^ mLoop then .local else .forwarded
  | .storeTransfer => if h.dir = 1 then .read else .forwarded
  | _ => .forwarded

/-- A command of the forwarded class that only asks: it has no effect at any period. -/
def asksOnly (op : Opcode) (p : Bytes) : Bool :=
  (op == .objClaim && getU p 1 1 == 2) || (op == .accordSwap && getU p 4 2 == 0) || (op == .routeSet && getU p 0 1 == 3)

/-- Commands SAFE accepts (R338). -/
def safeAccepts (op : Opcode) (p : Bytes) (h : StoreHdr) : Bool :=
  classOf op p h == .read || op == .sysReset || op == .fwStage || op == .fwCommit

/-- The apply period in use (R332): 0 uses the period of R10; a wrong Heart code, a late period under strict apply and a
period more than 2^31 ahead are refused with BAD_PARAM. -/
def applyPeriod (s : State) (accepted : Nat) (r : Req) : Option Nat :=
  let e := (accepted / 64 + 2) * 64
  if r.apply = 0 then some e
  else if r.heart ≠ s.media.heart then none
  else if r.apply > accepted + 2 ^ 31 then none
  else if r.apply < e then (if r.strict then none else some e)
  else some r.apply

/-- The first boundary at or after a period (R33). -/
def boundaryOf (t : Timing) (apply : Nat) : Nat := match t with | .tick => ceilTo 64 apply | .block => ceilTo 16 apply

/-- Where a command first takes effect: OBJ_BIND at the first block of its tick (R42), BRIDGE_SET at the first block
boundary after its acceptance (R123). -/
def effectOf (op : Opcode) (t : Timing) (accepted apply : Nat) : Nat :=
  if op == .objBind then ceilTo 64 apply
  else if op == .bridgeSet then (accepted / 16 + 1) * 16
  else boundaryOf t apply

/-- Commands whose effect waits for a block and whose answer does not (R123, R333). -/
def answeredAtOnce (op : Opcode) : Bool := op == .bridgeSet

/-- The apply period that a field of a command's payload stands for (R9, R210, R310, R332). -/
def payloadPeriod (s : State) (r : Req) (v : Nat) : Option Nat := applyPeriod s s.idx { r with apply := v }

/-- The apply period of a command that its chapter leaves untimed: none on a solo unit; on the active unit the period of R10, or
the host's where that is later and obeys R332 (R284; that a Heart code out of force makes it the period of R10, and no refusal,
is DESIGN CHOICE, assumption 16). -/
def untimedApply (r : Req) (s : State) : Nat :=
  if s.flag mActive then max s.rTen ((applyPeriod s s.idx { r with strict := false }).getD 0) else 0

/-- Forwarded commands that their chapters leave untimed, and that the active unit applies with the standby, at the period given
them (R284). A claim acts at acceptance (R336). -/
def waitsOnActive (op : Opcode) (p : Bytes) (h : StoreHdr) : Bool :=
  classOf op p h == .forwarded &&
  (match op with
   | .timeCfg | .noseCfg | .pairSet | .policySet | .sweepRun | .pwrPolicy | .storeTransfer => true
   | _ => false)

/-- A select-mask payload with another mask. -/
def withMask (m : Nat) (p : Bytes) : Bytes := le 4 m ++ p.drop 4

/-- The part of a payload that is forwarded, and the part that acts on this unit alone (Table 10.4: TIME_CFG groups 0 and 1, and
the rest of it; SYS_MODE_SET without its LOOPBACK bit). -/
def forwardPart (op : Opcode) (p : Bytes) : Bytes :=
  if op == .timeCfg then withMask (maskOf p &&& 3) p
  else if op == .sysModeSet then le 2 (setBitN (getU p 0 2) mLoop false) ++ le 2 (setBitN (getU p 2 2) mLoop false) ++ p.drop 4
  else p
def localPart (op : Opcode) (p : Bytes) : Bytes := if op == .timeCfg then withMask (maskOf p - (maskOf p &&& 3)) p else withMask 0 p

/-- How a command ends at acceptance. -/
inductive Reply where
  /-- refused, or lost in full, with a body -/
  | refuse (st : Status) (body : Bytes)
  /-- acted, answered OK with a body -/
  | done (s : State) (body : Bytes)
  /-- acted; the answer is owed at the end of its drain or work, under a key (R333) -/
  | owe (s : State) (key : Nat)
  /-- acted; answered DEFERRED (R310) -/
  | deferred (s : State)

/-- A plain refusal. -/
def no (st : Status) : Reply := .refuse st []

/-- Units of a select mask over a record. -/
def maskUnits (op : Opcode) (item mask : Nat) : List UnitKey :=
  ((List.range 32).filter fun g => mask.testBit g).map fun g => ⟨op, item, g⟩

/-- The select mask of a command without the groups it has lost. -/
def wonMask (c : Cmd) : Nat :=
  c.lost.foldl (fun m u => if m.testBit u.group then m - 2 ^ u.group else m) (maskOf c.payload)

/-- The command lost this unit. -/
def cmdLost (c : Cmd) (u : UnitKey) : Bool := c.lost.contains u

end Sys2Proof.Machine
end

