-- ==== Sys2Proof/Machine/Chain.lean ====
section
/-!
DEFINITION. Input chains, output chains and bridges as commands see them (R109, R117, R123, R126, R132, R140): CHAIN_SET
and BRIDGE_SET.
-/
namespace Sys2Proof.Machine

/-- Fields of biquad record i at an offset (Table 5.4): the shift's range, the reserved bytes are uncovered. -/
def bqFields (off g : Nat) : List Fld :=
  ((List.range 5).map fun k => ⟨off + 4 * k, 4, some g, 0, (2 ^ 32 : Nat), false, 0, []⟩) ++
  [⟨off + 20, 1, some g, 0, 15, false, 0, []⟩]

/-- A biquad record of a payload. -/
def bqAt (p : Bytes) (off : Nat) : Biquad :=
  { b0 := getI p off 4, b1 := getI p (off + 4) 4, b2 := getI p (off + 8) 4, a1 := getI p (off + 12) 4,
    a2 := getI p (off + 16) 4, shift := getU p (off + 20) 1 }

/-- A biquad record as bytes. -/
def bqBytes (k : Biquad) : Bytes :=
  leI 4 k.b0 ++ leI 4 k.b1 ++ leI 4 k.b2 ++ leI 4 k.a1 ++ leI 4 k.a2 ++ le 1 k.shift ++ zeros 3

/-- The biquads of a payload, defaults unlisted. -/
def bqList (p : Bytes) (off n : Nat) : SMap Biquad :=
  ((List.range n).map fun i => (i, bqAt p (off + 24 * i))).filter fun e => e.2 != {}

/-- Tables 5.5 and 5.8. -/
def chainFields0 : List Fld := [kindFld 0, indexFld 0, ⟨8, 1, some 0, 3, 6, false, 0, []⟩]
def chainFields1 : List Fld :=
  [kindFld 1, indexFld 1023, ⟨8, 2, some 0, -32768, 600, true, 0, []⟩, ⟨10, 1, some 1, 0, 255, false, 0, []⟩] ++
  ((List.range 8).flatMap fun i => bqFields (12 + 24 * i) 1)
def chainFields2 : List Fld :=
  [kindFld 2, indexFld 511, ⟨8, 1, some 0, 0, 255, false, 0xFE, []⟩, ⟨9, 1, some 1, 0, 255, false, 0xFE, []⟩,
   ⟨10, 1, some 2, 0, 255, false, 0xFE, []⟩, ⟨12, 2, some 2, -4800, 2400, true, 0, []⟩,
   ⟨16, 4, some 2, 1, 4800, false, 0, []⟩, ⟨20, 4, some 2, 16, 960000, false, 0, []⟩]

/-- A CHAIN_SET payload obeys the table of its kind. -/
def chainPayloadOk (p : Bytes) : Bool :=
  match kindOf p with
  | 0 => recordOk chainFields0 1 16 p
  | 1 => recordOk chainFields1 2 204 p
  | 2 => recordOk chainFields2 3 32 p
  | _ => false

/-- CHAIN_SET at acceptance: base_log2 and the Base band change only in DARK (R109, R132). -/
def checkChainSet (p : Bytes) (proj : State) : Option Status :=
  if !chainPayloadOk p then some .badParam
  else
    let g0 := (maskOf p).testBit 0
    let changes := g0 &&
      (if kindOf p = 0 then getU p 8 1 != proj.media.baseLog2
       else if kindOf p = 2 then ((getU p 8 1).testBit 0) != (proj.outChain (indexOf p)).cfg.base else false)
    if changes && !proj.flag mDark then some .refusedMode else none

/-- The units of a CHAIN_SET: the groups of one record. -/
def chainUnits (p : Bytes) : List UnitKey := maskUnits .chainSet (65536 * kindOf p + indexOf p) (maskOf p)

/-- A change of N clears every Base-path state and history, the crossover delays and the observation decimators
(R109). -/
def clearBase (s : State) : State :=
  { s with rend.outChains := SMap.mapVals {} (fun _ (c : OutChain) => { c with base := {} }) s.rend.outChains,
           nose.obs := SMap.mapVals {} (fun _ (o : ObsIn) => { o with dec := {}, decHist := [] }) s.nose.obs }

/-- CHAIN_SET at its block (R126, R109, R132). -/
def applyChainSet (c : Cmd) (s : State) : State :=
  let p := c.payload
  let m := wonMask c
  match kindOf p with
  | 0 =>
    let n := getU p 8 1
    if m.testBit 0 && n != s.media.baseLog2 then abandonWarp (clearBase { s with media.baseLog2 := n }) else s
  | 1 =>
    { s with rend.inChains := SMap.upd {} s.rend.inChains (indexOf p) fun r =>
        { r with trim := pick (m.testBit 0) (getI p 8 2) r.trim,
                 bqEnable := pick (m.testBit 1) (getU p 10 1) r.bqEnable,
                 biquads := pick (m.testBit 1) (bqList p 12 8) r.biquads } }
  | _ =>
    updOutChain (indexOf p) (fun r =>
      let band := pick (m.testBit 0) ((getU p 8 1).testBit 0) r.cfg.base
      { r with
        base := if band == r.cfg.base then r.base else {}
        cfg :=
          { r.cfg with
            base := band
            polarity := pick (m.testBit 1) ((getU p 9 1).testBit 0) r.cfg.polarity
            limOn := pick (m.testBit 2) ((getU p 10 1).testBit 0) r.cfg.limOn
            limThr := pick (m.testBit 2) (getI p 12 2) r.cfg.limThr
            limAtt := pick (m.testBit 2) (getU p 16 4) r.cfg.limAtt
            limRel := pick (m.testBit 2) (getU p 20 4) r.cfg.limRel } }) s

/-- D in force of an output (R131). -/
def State.chainDelay (s : State) (o : Nat) : Nat := if (s.outChain o).cfg.base then baseD s.media.baseLog2 else 0

/-- Header of a chain record. -/
def chainHead (kind index : Nat) : Bytes := le 4 0 ++ le 1 kind ++ zeros 1 ++ le 2 index

/-- CHAIN_SET with mask 0: the record, the status of Table 5.10, and its counters cleared (R115, R140). -/
def readChainSet (p : Bytes) (s : State) : Reply :=
  if !chainPayloadOk p then no .badParam
  else
    let i := indexOf p
    match kindOf p with
    | 0 => .done s (chainHead 0 0 ++ le 1 s.media.baseLog2 ++ zeros 7 ++ le 4 s.rend.topSat ++
        le 4 (2 ^ s.media.baseLog2))
    | 1 =>
      let r := s.inChain i
      .done { s with rend.inChains := SMap.put {} s.rend.inChains i { r with satTrim := 0, satBq := [] } }
        (chainHead 1 i ++ leI 2 r.trim ++ le 1 r.bqEnable ++ zeros 1 ++
         ((List.range 8).flatMap fun k => bqBytes (SMap.get {} r.biquads k)) ++ le 2 r.satTrim ++
         ((List.range 8).flatMap fun k => le 2 (SMap.get 0 r.satBq k)) ++ zeros 2)
    | _ =>
      let r := s.outChain i
      let t := r.stat
      .done (updOutChain i (fun r => { r with stat := { limActive := t.limActive } }) s)
        (chainHead 2 i ++ le 1 (bit r.cfg.base) ++ le 1 (bit r.cfg.polarity) ++ le 1 (bit r.cfg.limOn) ++ zeros 1 ++
         leI 2 r.cfg.limThr ++ zeros 2 ++ le 4 r.cfg.limAtt ++ le 4 r.cfg.limRel ++ zeros 8 ++
         le 2 t.satFeed ++ le 2 t.satHfir ++ le 2 t.satXsub ++ le 2 t.satDfir ++ le 2 t.satBfir ++ le 2 t.satIfir ++
         le 2 t.satXsum ++ zeros 2 ++ ((List.range 24).flatMap fun k => le 2 (SMap.get 0 t.satBq k)) ++
         le 2 t.satMarker ++ le 2 t.satLim ++ le 2 t.satGain ++ le 2 t.grPeak ++ le 4 t.limActive ++
         le 4 (s.chainDelay i))

/-- Listed flow rates (R117). -/
def bridgeRates : List Int := [32000, 44100, 48000, 88200, 96000, 176400, 192000]

/-- Table 5.3, request part. -/
def bridgeFields : List Fld :=
  [⟨4, 2, none, 0, 259, false, 0, []⟩, ⟨6, 1, some 0, 0, 2, false, 0, []⟩, ⟨7, 1, some 1, 0, 3, false, 0, []⟩,
   ⟨8, 4, some 0, 1, 0, false, 0, bridgeRates⟩, ⟨12, 2, some 1, 64, 1024, false, 0, []⟩]

/-- BRIDGE_SET at acceptance: NONE fits only a flow at Heart (R117). The nominal rate of the write is the flow's. -/
def checkBridgeSet (p : Bytes) (proj : State) : Option Status :=
  if !recordOk bridgeFields 2 32 p then some .badParam
  else if (maskOf p).testBit 0 && getU p 6 1 = 0 && getU p 8 4 ≠ proj.hz then some .badParam
  else none

/-- BRIDGE_SET at its block (R123): a change of mode or rate fades out over this block and comes into force with the
next; loop settings apply at once. -/
def applyBridgeSet (c : Cmd) (s : State) : State :=
  let p := c.payload
  let m := wonMask c
  { s with rend.bridges := SMap.upd {} s.rend.bridges (getU p 4 2) fun b =>
      let new := (getU p 6 1, getU p 8 4)
      let b := if m.testBit 0 && new != (b.mode, b.rate) then { b with pending := some new, fade := 1 } else b
      { b with loopBw := pick (m.testBit 1) (getU p 7 1) b.loopBw,
               fillTarget := pick (m.testBit 1) (getU p 12 2) b.fillTarget } }

/-- The units of a BRIDGE_SET. -/
def bridgeUnits (p : Bytes) : List UnitKey := maskUnits .bridgeSet (getU p 4 2) (maskOf p)

/-- BRIDGE_SET with mask 0: record and status; the saturation counter clears (R115). -/
def readBridgeSet (p : Bytes) (s : State) : Reply :=
  if !recordOk bridgeFields 2 32 p then no .badParam
  else
    let f := getU p 4 2
    let b := s.bridge f
    .done { s with rend.bridges := SMap.put {} s.rend.bridges f { b with sat := 0 } }
      (le 4 0 ++ le 2 f ++ le 1 b.mode ++ le 1 b.loopBw ++ le 4 b.rate ++ le 2 b.fillTarget ++ zeros 18 ++
       leI 4 (roundAway (b.r * 1000000000)) ++ leI 4 b.fill ++ le 4 b.slips ++ le 2 b.sat ++ le 1 b.state ++ zeros 1)

end Sys2Proof.Machine
end

