-- ==== Sys2Proof/Machine/Scene.lean ====
section
/-!
DEFINITION. The scene (chapter 2): object, loudspeaker, zone, air and peer records, activation and slots (R38), binding
(R41, R42), the scene bus (R51 to R58). A check is made against the state projected to a command's effect (R334).
-/
namespace Sys2Proof.Machine

/-- Identifiers of the active objects. -/
def State.activeIds (s : State) : List Nat := (s.scene.objects.filter fun e => e.2.cfg.active).map Prod.fst

/-- The Heart code that will hold once an accepted change has taken effect (R12). -/
def State.heartNext (s : State) : Nat :=
  match (s.host.cmds.filter fun c => !c.applied && c.op == .timeCfg && kindOf c.payload == 0 && (maskOf c.payload).testBit 0).getLast? with
  | some c => getU c.payload 8 1
  | none => s.media.newHeart.getD s.media.heart

/-- Slots held: those of active objects and of objects deactivated in the tick snapped last (R38). -/
def State.slotsHeld (s : State) : List Nat :=
  (s.scene.stats.filterMap fun e => e.2.slot) ++ s.rend.leaving.map Prod.fst

/-- The lowest-numbered free slot (R38). -/
def State.freeSlot (s : State) : Option Nat :=
  let held := s.slotsHeld
  (List.range (objCap s.media.heart)).find? fun n => !held.contains n

/-- The slot check of R38 and R334: at each boundary listed, the objects active there and those deactivated there, whose
taps still fade out, fit the slots allowed. `proj` is the state projected to a boundary. -/
def slotsOk (proj : Nat → State) (cap : Nat) (ticks : List Nat) : Bool :=
  ticks.all fun t =>
    let now := (proj t).activeIds
    let before := (proj (t - 64)).activeIds
    (now ++ before.filter fun i => !now.contains i).length ≤ cap

/-- Write a group's apply periods (R57). -/
def setApplied (l : List Nat) (mask v : Nat) : List Nat :=
  (List.range 11).map fun g => if mask.testBit g then v else l.getD g 0

/-- Groups of a re-send that carry a later apply period than the value in force (R57). -/
def laterGroups (l : List Nat) (mask v : Nat) : Nat :=
  (List.range 11).foldl (fun m g => if mask.testBit g && l.getD g 0 < v then m + 2 ^ g else m) 0

/-- Peer record index of a node (R54), lowest first. -/
def State.peerOf (s : State) (node : Nat) : Option Nat :=
  (s.scene.peers.find? fun e => e.1 != 0 && e.2.nodeId == node && node != 0).map Prod.fst

/-- Count a bus update that lost arbitration in its publisher's status (R55). -/
def countSuperseded (node n : Nat) (s : State) : State :=
  match s.peerOf node with
  | some i => updPeerSt i (fun t => { t with superseded := wrapAdd 32 t.superseded n }) s
  | none => s

/-- OBJ_SET at its tick (R33, R38): the groups it won are written; a change of the active flag takes or leaves a slot. A scene-bus
update, which no check has seen, leaves group 7 unwritten where it finds no slot, and counts as superseded; a command's slot is checked
at its acceptance, which projects this same write. -/
def applyObjSet (c : Cmd) (s : State) : State :=
  let p := c.payload
  let id := getU p 4 2
  let old := s.obj id
  let m := wonMask c
  let m := if c.resend then laterGroups old.applied m c.apply else m
  let wants := if m.testBit 7 then (getU p 34 1).testBit 1 else old.cfg.active
  let rises := wants && !old.cfg.active
  let slot := if rises then s.freeSlot else none
  let bus := match c.origin with | .bus n => some n | _ => none
  let denied := rises && slot.isNone && bus.isSome
  let m := if denied then m - 2 ^ 7 else m
  let s := match bus with | some n => if denied then countSuperseded n 1 s else s | none => s
  let s := updObj id (fun e => { cfg := e.cfg.write m p, applied := setApplied e.applied m c.apply }) s
  if rises then
    match slot with
    | some n => updObjStat id (fun t => { t with slot := some n }) s
    | none => s
  else if old.cfg.active && !wants then
    match (s.objStat id).slot with
    | some n => updObjStat id (fun t => { t with slot := none, taps := 0, pressure := false, clamped := false })
                  { s with rend.leaving := SMap.ins s.rend.leaving n id }
    | none => s
  else s

/-- OBJ_BIND at the first block of its tick (R42): the object's write cross-fades over that block. -/
def applyObjBind (c : Cmd) (s : State) : State :=
  let ch := getU c.payload 2 2
  let new := if ch = 65535 then none else some ch
  updObjStat (getU c.payload 0 2)
    (fun t => { t with bind := new, fade := some ⟨t.bind, c.effect⟩ }) s

/-- SPK_SET, ZONE_SET, AIR_SET and PEER_SET at their tick. -/
def applySpkSet (c : Cmd) (s : State) : State :=
  { s with scene.speakers := SMap.upd {} s.scene.speakers (getU c.payload 4 2) fun r => r.write (wonMask c) c.payload }
def applyZoneSet (c : Cmd) (s : State) : State :=
  { s with scene.zones := SMap.upd {} s.scene.zones (getU c.payload 4 1) fun r => r.write (wonMask c) c.payload }

/-- The Nose's u is dropped when the source becomes COMMANDED, or becomes TRACKED again (R47). -/
def applyAirSet (c : Cmd) (s : State) : State :=
  let m := wonMask c
  let m := if c.resend && c.apply ≤ s.scene.airAt then 0 else m
  let new := s.scene.air.write m c.payload
  let keep := s.scene.air.source = 1 && new.source = 1
  { s with scene.air := new, scene.airAt := if m = 0 then s.scene.airAt else c.apply,
           scene.airSt := if keep then s.scene.airSt else { s.scene.airSt with noseU := none } }

/-- A new identifier in record 0 ends the stop of R51. -/
def applyPeerSet (c : Cmd) (s : State) : State :=
  let i := getU c.payload 4 2
  let m := wonMask c
  let was := (s.peer 0).nodeId
  let s := { s with scene.peers := SMap.upd {} s.scene.peers i fun r => r.write m c.payload }
  if i = 0 && (s.peer 0).nodeId != was then { s with scene.dupStop := false } else s

/-- OBJ_SET at acceptance: its table (R32), slots (R38). In SHALLOW an inactive object's entry is out of reach (R381). -/
def checkObjSet (p : Bytes) (s : State) (proj : Nat → State) (ticks : List Nat) : Option Status :=
  if !objPayloadOk p then some .badParam
  else
    let id := getU p 4 2
    if s.flag mShallow && (s.objStat id).slot.isNone && !(s.rend.leaving.any fun e => e.2 == id) then some .noResource
    else if (maskOf p).testBit 7 && (getU p 34 1).testBit 1 && !slotsOk proj (objCap s.heartNext) ticks then some .noResource
    else none

/-- OBJ_BIND at acceptance (R41): an object identifier, a channel that exists or 0xFFFF. -/
def checkObjBind (p : Bytes) (s : State) : Option Status :=
  let ch := getU p 2 2
  if p.length ≠ 8 || getU p 4 4 ≠ 0 || getU p 0 2 = 0 || (ch ≠ 65535 && ch ≥ chanCount s.heartNext) then some .badParam
  else none

/-- ZONE_SET, AIR_SET at acceptance. -/
def checkZoneSet (p : Bytes) : Option Status := if zonePayloadOk p then none else some .badParam
def checkAirSet (p : Bytes) : Option Status := if airPayloadOk p then none else some .badParam

/-- PEER_SET at acceptance (R50): the device's own identifier changes only in DARK. -/
def checkPeerSet (p : Bytes) (proj : State) : Option Status :=
  if !peerPayloadOk p then some .badParam
  else if getU p 4 2 = 0 && (maskOf p).testBit 1 && getU p 8 4 != (proj.peer 0).nodeId && !proj.flag mDark then some .refusedMode
  else none

/-- An OBJ_GET response, and that of an OBJ_SET with mask 0: record padded to 576 bytes, then Table 2.3. -/
def objBody (s : State) (id : Nat) : Bytes := padTo 576 ((s.obj id).cfg.bytes 0 id) ++ (s.objStat id).bytes
def spkBody (s : State) (o : Nat) : Bytes := (s.spk o).bytes 0 o
def zoneBody (s : State) (z : Nat) : Bytes := (s.zone z).bytes 0 z
def airBody (s : State) : Bytes := s.scene.air.bytes 0
def peerBody (s : State) (i : Nat) : Bytes := (s.peer i).bytes (s.peerSt i) 0 i

/-- OBJ_GET and SPK_GET: an identifier or output, then reserved bytes. -/
def readObjGet (p : Bytes) (s : State) : Reply :=
  if p.length ≠ 8 || (slice p 2 6).any (· != 0) || getU p 0 2 = 0 then no .badParam
  else if s.flag mShallow && (s.objStat (getU p 0 2)).slot.isNone &&
      !(s.rend.leaving.any fun e => e.2 == getU p 0 2) then no .noResource
  else .done s (objBody s (getU p 0 2))
def readSpkGet (p : Bytes) (s : State) : Reply :=
  if p.length ≠ 8 || (slice p 2 6).any (· != 0) || getU p 0 2 > 511 then no .badParam
  else .done s (spkBody s (getU p 0 2))

/-- The units a scene command sets (R335). -/
def sceneUnits (op : Opcode) (p : Bytes) : List UnitKey :=
  match op with
  | .objSet | .spkSet | .peerSet => maskUnits op (getU p 4 2) (maskOf p)
  | .zoneSet => maskUnits op (getU p 4 1) (maskOf p)
  | .airSet => maskUnits op 0 (maskOf p)
  | .objBind => [⟨.objBind, getU p 0 2, 0⟩]
  | _ => []

/-- The node publishes on the scene bus (R51, R53, R58): publisher role, no duplicate stop, not a standby. -/
def State.publishes (s : State) : Bool :=
  (s.peer 0).roles.testBit 1 && !s.scene.dupStop && !s.flag mStandby

/-- The apply period of a command with apply 0 on a publisher: the tick bus_lead ticks after acceptance (R53). -/
def State.busApply (s : State) (accepted : Nat) : Nat := (accepted / 64 + (s.peer 0).busLead) * 64

/-- The body an update carries (R53): an update that changes the active flag carries the whole record. -/
def publishBody (s : State) (p : Bytes) : Bytes :=
  let id := getU p 4 2
  let m := maskOf p
  let old := (s.obj id).cfg
  if m.testBit 7 && (getU p 34 1).testBit 1 != old.active then (old.write m p).bytes 2047 id else p

/-- Send an update on the scene bus (Table 8.8): the frame's header names the node. -/
def sendUpdate (u : Published) (s : State) : State :=
  sendService 1 1 (le 1 (if u.air then 2 else 1) ++ le 1 (bit u.resend) ++ le 2 (20 + u.body.length) ++ le 8 u.apply ++ le 1 u.rank ++
    zeros 1 ++ le 2 u.domain ++ le 4 u.pubSeq ++ u.body) s

/-- Publish an accepted OBJ_SET or AIR_SET (R53). -/
def publish (op : Opcode) (p : Bytes) (apply : Nat) (proj s : State) : State :=
  let air := op == .airSet
  let body := if air then p else publishBody proj p
  let id := getU p 4 2
  let s := { s with scene.pubSeq := wrapAdd 32 s.scene.pubSeq 1 }
  sendUpdate ⟨air, false, apply, (s.peer 0).rank, (s.peer 0).sceneDomain, s.scene.pubSeq, body⟩
    (if air || s.scene.published.contains id then s
     else { s with scene.published := s.scene.published ++ [id] })

/-- A peer heard before and silent for three announcement intervals, 48 ticks, is marked SILENT (R52). -/
def execPeerSilent (i : Fin 4096) (s : State) : Host.Outcome State Fault Refusal :=
  let t := s.peerSt i.val
  if (t.state = 1 || t.state = 2) && t.lastHeard + 48 * 64 ≤ s.idx then
    .next (updPeerSt i.val (fun t => { t with state := 3 }) s)
  else .next s

/-- Distinct apply periods of an entry's groups: each re-send carries the groups of one (R57). -/
def resendParts (e : ObjEntry) : List (Nat × Nat) :=
  let ps := ((List.range 11).map fun g => e.applied.getD g 0).eraseDups
  ps.map fun v => (v, (List.range 11).foldl (fun m g => if e.applied.getD g 0 = v then m + 2 ^ g else m) 0)

/-- Re-send the next published object's current record (R57). -/
def execSceneBusResend (s : State) : Host.Outcome State Fault Refusal :=
  if !s.publishes then .next s
  else
    let n := s.scene.published.length
    let k := if n = 0 then 0 else s.scene.cursor % n
    let rank := (s.peer 0).rank
    match s.scene.published[k]? with
    | none => .next s
    | some id =>
      let e := s.obj id
      .next ((resendParts e).foldl (fun s v => sendUpdate ⟨false, true, v.1, rank, (s.peer 0).sceneDomain, 0, e.cfg.update v.2 id⟩ s)
        { s with scene.cursor := s.scene.cursor + 1 })

end Sys2Proof.Machine
end

