-- ==== Sys2Proof/Machine/Route.lean ====
section
/-!
DEFINITION. Accords and swaps (R141 to R151), mute ramps (R152 to R156), the router (R157 to R164), silence detectors
(R165), the short path's records (R167 to R169), and who holds a destination (R44, R159).
-/
namespace Sys2Proof.Machine

/-- The period of a block boundary the machine is at: the block whose compute slot comes next (R14). -/
def State.nextBlock (s : State) : Nat :=
  if s.idx < s.media.catchL + 16 then 0 else ((s.idx - s.media.catchL - 16) / 16 + 1) * 16

/-- The block computed next: the one at the present boundary until its compute slot has run. -/
def State.toCompute (s : State) : Nat :=
  let n := s.nextBlock
  if n = 0 || (match s.media.computed with | some a => decide (n ≤ a + 16) | none => false) then n else n - 16

/-- Sections of an accord payload: their sizes in order (Table 6.2). -/
def sectionSize (sec : Nat) : Nat :=
  (if sec.testBit 0 then 2048 else 0) + (if sec.testBit 1 then 2048 else 0) +
  (if sec.testBit 2 then 492 else 0) + (if sec.testBit 3 then 20 else 0)

/-- Offset of a section in the payload. -/
def sectionAt (sec n : Nat) : Nat := 8 + sectionSize (sec % 2 ^ n)

/-- A FIR of a payload, zero taps unlisted. -/
def firOf (p : Bytes) (off n : Nat) : SMap Int :=
  ((List.range n).map fun k => (k, getI p (off + 4 * k) 4)).filter fun e => e.2 != 0

/-- The biquads and their packed shifts (Table 6.1). -/
def accordBq (p : Bytes) (off : Nat) : SMap Biquad :=
  ((List.range 24).map fun i =>
    let o := off + 20 * i
    (i, ({ b0 := getI p o 4, b1 := getI p (o + 4) 4, b2 := getI p (o + 8) 4, a1 := getI p (o + 12) 4,
           a2 := getI p (o + 16) 4, shift := getU p (off + 480 + i / 2) 1 / (if i % 2 = 0 then 1 else 16) % 16 } : Biquad)))
  |>.filter fun e => e.2 != {}

end Sys2Proof.Machine

namespace Sys2Proof

open Machine

/-- The selected sections of a payload over an accord (R144). -/
def Accord.load (a : Accord) (sec : Nat) (p : Bytes) : Accord :=
  let o := sectionAt sec
  let b := sec.testBit
  { hfir := pick (b 0) (firOf p (o 0) 512) a.hfir
    bfir := pick (b 1) (firOf p (o 1) 512) a.bfir
    biquads := pick (b 2) (accordBq p (o 2)) a.biquads
    hfirShift := pick (b 3) (getU p (o 3) 1) a.hfirShift
    bfirShift := pick (b 3) (getU p (o 3 + 1) 1) a.bfirShift
    gH := pick (b 3) (getI p (o 3 + 4) 4) a.gH
    gL := pick (b 3) (getI p (o 3 + 8) 4) a.gL
    outGain := pick (b 3) (getI p (o 3 + 12) 2) a.outGain
    tag := pick (b 3) (getU p (o 3 + 16) 4) a.tag }

end Sys2Proof

namespace Sys2Proof.Machine

/-- The range of outputs a command names. -/
def rangeOf (p : Bytes) : List Nat := (List.range (getU p 2 2)).map fun i => getU p 0 2 + i

/-- A range of outputs that exist (Tables 6.2, 6.3; R145, R146). -/
def rangeOk (h : Nat) (p : Bytes) : Bool :=
  1 ≤ getU p 2 2 && getU p 0 2 + getU p 2 2 ≤ 512 && (rangeOf p).all (outExists h)

/-- ACCORD_LOAD at acceptance (R145). -/
def checkAccordLoad (p : Bytes) (h : Nat) : Option Status :=
  let sec := getU p 4 1
  let o := sectionAt sec 3
  if p.length < 8 || !rangeOk h p || sec = 0 || sec > 15 || getU p 5 3 ≠ 0 || p.length ≠ 8 + sectionSize sec then some .badParam
  else if sec.testBit 3 && (getU p o 1 > 15 || getU p (o + 1) 1 > 15 || getU p (o + 2) 2 ≠ 0 || getI p (o + 12) 2 > 600 ||
      getU p (o + 14) 2 ≠ 0 || getU p (o + 16) 4 ≥ 2 ^ 31) then some .badParam
  else none

def accordUnits (op : Opcode) (p : Bytes) : List UnitKey := (rangeOf p).map fun o => ⟨op, o, 0⟩

/-- A Nose change that was replaced or not applied is logged, and its proposal returns to HELD (R34, R150, R203). -/
def noseReplaced (proposal winner : Nat) (s : State) : State :=
  logEvent 12 3 srcNose [proposal, winner]
    { s with nose.proposals := s.nose.proposals.map fun e =>
        if e.2.id = proposal && e.2.state = 2 then (e.1, { e.2 with state := 1 }) else e }

end Sys2Proof.Machine

namespace Sys2Proof

open Machine

/-- A master as a log argument. -/
def Origin.arg : Origin → Nat
  | .master m => m
  | .nose => srcNose
  | _ => srcDevice

end Sys2Proof

namespace Sys2Proof.Machine

/-- ACCORD_LOAD at its block, output by output (R144, R150): a host load cancels a waiting Nose swap; a Nose load is not
applied where a host swap waits. `acc` is the accord a Nose change carries. -/
def loadOutput (c : Cmd) (acc : Accord → Accord) (s : State) (o : Nat) : State :=
  let a := s.accord o
  match c.origin, a.waiting with
  | .nose, some w =>
    if w.nose then updAccord o (fun a => { a with pending := some (acc a.active), pendingNose := c.proposal }) s
    else noseReplaced c.proposal w.origin s
  | .nose, none => updAccord o (fun a => { a with pending := some (acc a.active), pendingNose := c.proposal }) s
  | org, some w =>
    let s := updAccord o (fun a => { a with pending := some (acc a.active), pendingNose := c.proposal,
                                            waiting := if w.nose then none else a.waiting }) s
    if w.nose then noseReplaced a.pendingNose org.arg s else s
  | _, none => updAccord o (fun a => { a with pending := some (acc a.active), pendingNose := c.proposal }) s

def applyAccordLoad (c : Cmd) (s : State) : State :=
  let p := c.payload
  ((rangeOf p).filter fun o => !cmdLost c ⟨.accordLoad, o, 0⟩).foldl (loadOutput c fun a => a.load (getU p 4 1) p) s

end Sys2Proof.Machine

namespace Sys2Proof

open Machine

/-- The block at which a fade ends. -/
def Fade.ends (f : Fade) : Nat := f.start + 16 * f.len

/-- Start a fade at block b from the pending accord (R146); with none the request ends without effect. A host's swap makes the
accord the baseline, whoever loaded it; one of a correction does not (R202). -/
def AccordSlots.start (a : AccordSlots) (b : Nat) (w : SwapReq) : AccordSlots :=
  match a.pending with
  | none => { a with waiting := none }
  | some n =>
    let corr := w.corr && a.pendingNose != 0
    { a with outgoing := some a.active, active := n, pending := none, waiting := none,
             fade := some ⟨w.len, w.power, b⟩, pendingNose := 0, corr := corr,
             baseline := if corr then a.baseline else n }

/-- End fades that are over at block b; a request that waited since an earlier block starts where its fade could
(R149). A request that could start at b itself is left to the order of R147. -/
def AccordSlots.advance : Nat → AccordSlots → Nat → AccordSlots
  | 0, a, _ => a
  | n + 1, a, b =>
    match a.fade with
    | none => a
    | some f =>
      if f.ends ≤ b then
        let a := { a with fade := none, outgoing := none, swaps := wrapAdd 32 a.swaps 1 }
        match a.waiting with
        | some w => if f.ends < b then AccordSlots.advance n (a.start f.ends w) b else a
        | none => a
      else a

/-- The slots as block b1 comes, the commands up to block b0 having acted: a request that waited for b0 starts there, after the
loads and swaps of that block (R147). -/
def AccordSlots.age (b0 b1 : Nat) (a : AccordSlots) : AccordSlots :=
  if b1 ≤ b0 then a
  else
    let a := if a.fade.isNone then (match a.waiting with | some w => a.start b0 w | none => a) else a
    a.advance 3 b1

end Sys2Proof

namespace Sys2Proof.Machine

/-- Every output's slots at a later block (R146, R149). -/
def ageAccords (b0 b1 : Nat) (s : State) : State :=
  { s with rend.accords := SMap.mapVals {} (fun _ a => a.age b0 b1) s.rend.accords }

/-- The output's filter states when a fade starts (R148): the outgoing cascade keeps them, the new one copies them. -/
def fadeStates (o : Nat) (s : State) : State :=
  updOutChain o (fun c => { c with bqOut := c.bq, base := { c.base with lane1Out := c.base.lane1,
                                                                        lane1OutHist := c.base.lane1Hist } }) s

/-- The outgoing cascade's states are discarded when a fade ends. -/
def fadeDone (o : Nat) (s : State) : State :=
  updOutChain o (fun c => { c with bqOut := [], base := { c.base with lane1Out := {}, lane1OutHist := [] } }) s

/-- Change an output's slots, and its filter states as a fade ends and starts. -/
def accordWith (o : Nat) (f : AccordSlots → AccordSlots) (s : State) : State :=
  let a := s.accord o
  let n := f a
  let s := updAccord o (fun _ => n) s
  if n.fade = a.fade then s
  else match n.fade with
    | some _ =>
      fadeStates o { s with nose.curEq := if n.corr then SMap.put [] s.nose.curEq o (SMap.get [] s.nose.loadEq o)
                              else SMap.del s.nose.curEq o }
    | none => fadeDone o s

/-- End what is over at block b on an output. -/
def accordEnd (b o : Nat) (s : State) : State := accordWith o (fun a => a.advance 3 b) s

/-- The request waiting on an output starts at block b if no fade runs (R149). -/
def accordStart (b o : Nat) (s : State) : State :=
  accordWith o (fun a => if a.fade.isNone then (match a.waiting with | some w => a.start b w | none => a) else a) s

/-- A swap on an output at its start block (R146, R149): it replaces a waiting request; it waits while a fade runs, whatever the
pending slot holds, and else starts, or ends where that slot is empty. -/
def swapOutput (c : Cmd) (s : State) (o : Nat) : State :=
  let b := c.effect
  let s := accordEnd b o s
  let a := s.accord o
  let w : SwapReq := ⟨getU c.payload 4 2, getU c.payload 6 1 = 1, c.origin.arg, c.origin == .nose, c.proposal != 0⟩
  let a := if a.waiting.isSome then { a with replaced := wrapAdd 32 a.replaced 1 } else a
  accordWith o (fun _ => if a.fade.isSome then { a with waiting := some w } else a.start b w) s

def applyAccordSwap (c : Cmd) (s : State) : State :=
  ((rangeOf c.payload).filter fun o => !cmdLost c ⟨.accordSwap, o, 0⟩).foldl (swapOutput c) s

/-- Outputs that would hold an empty pending slot at block b (R146): `before` is the state with everything in effect at
or before b but the swap. -/
def emptyAt (p : Bytes) (before : State) (b : Nat) : List Nat :=
  (rangeOf p).filter fun o => ((before.accord o).advance 3 b).pending.isNone

/-- ACCORD_SWAP at acceptance (R146). -/
def checkAccordSwap (p : Bytes) (h : Nat) (before : State) (b : Nat) : Option Status :=
  if p.length ≠ 8 || !rangeOk h p || getU p 4 2 > 256 || getU p 6 1 > 1 || getU p 7 1 ≠ 0 then some .badParam
  else if getU p 4 2 ≠ 0 && !(emptyAt p before b).isEmpty then some .notFound
  else none

/-- Table 6.4 of an output at block b (R151). -/
def accordStatus (b : Nat) (a : AccordSlots) : Bytes :=
  let tag := fun (x : Option Accord) => match x with | some v => v.tag | none => 0
  le 4 a.active.tag ++ le 4 (tag a.outgoing) ++ le 4 (tag a.pending) ++
  le 1 (bit a.pending.isSome + bit a.fade.isSome 1 + bit a.waiting.isSome 2 +
        bit (match a.fade with | some f => f.power | none => false) 3) ++ zeros 1 ++
  le 2 (match a.fade with | some f => (f.ends - b) / 16 | none => 0) ++ le 4 a.swaps ++ le 4 a.replaced

/-- ACCORD_SWAP with fade 0: the state of the first block not yet computed, `next` projected there. -/
def readAccordSwap (p : Bytes) (s next : State) : Reply :=
  match checkAccordSwap p s.heartNext s 0 with
  | some st => no st
  | none =>
    let b := s.nextBlock
    .done s ((rangeOf p).flatMap fun o =>
      let a := (next.accord o).advance 3 b
      accordStatus b (if a.fade.isNone then (match a.waiting with | some w => a.start b w | none => a) else a))

/-- Destination codes (Table 6.6). -/
def isAux (d : Nat) : Bool := d < 0x40
def isTop (d : Nat) : Bool := 0x100 ≤ d && d < 0x140
def isAna (d : Nat) : Bool := 0x200 ≤ d && d < 0x208
def isTdm (d : Nat) : Bool := 0x300 ≤ d && d < 0x340

/-- The code names a destination that exists at the Heart rate (R157). -/
def destOk (h d : Nat) : Bool := isAux d || (isTop d && h != 2) || isAna d || isTdm d

/-- The code names a source that exists (R157). -/
def sourceOk (h c : Nat) : Bool :=
  if c < 0x400 then c < chanCount h else c < 0x600 && outExists h (c - 0x400)

/-- The output a destination code stands for itself: an analogue output or a TDM channel. -/
def ownOutput (d : Nat) : Option (Nat × Nat) :=
  if isAna d then some (2, d - 0x200) else if isTdm d then some (3, d - 0x300) else none

/-- A TDM channel lies within its port's slots (R413). -/
def tdmSlotOk (s : State) (i : Nat) : Bool := i % 16 < (s.tdm (i / 16)).slots

/-- Top-rate outputs in use (R12, R237, Table 1.2): the channels of open Top-rate berths, of `more` ranges beside, and the Top-rate
destinations bound to anything else. -/
def topBound (more : List (Nat × Nat)) (s : State) : Nat :=
  let ranges := more ++ ((s.net.tx.filter fun e => e.2.state != 0 && e.2.cfg.format < 3 && e.2.cfg.top).map fun e =>
    (e.2.cfg.first, e.2.cfg.channels))
  (ranges.map Prod.snd).sum + s.rend.dests.countP fun e =>
    let b := match e.2.pending with | some (k, i, _) => (k, i) | none => (e.2.outKind, e.2.outIndex)
    isTop e.1 && b.1 != 0 && !(b.1 == 1 && ranges.any fun r => r.1 ≤ b.2 && b.2 < r.1 + r.2)

/-- Top-rate output channels (Table 1.2). -/
def topOutputs : Nat := 64

/-- The rate of what is bound fits the output (R237, R413): an open transmit berth on a network output channel, a TDM
port's frame rate, which a follower's record does not give; an analogue output takes either. -/
def rateFits (s : State) (kind index : Nat) (top : Bool) : Bool :=
  match kind with
  | 1 => s.net.tx.all fun e => e.2.state != 1 || !(e.2.cfg.first ≤ index && index < e.2.cfg.first + e.2.cfg.channels) ||
      e.2.cfg.top == top
  | 3 => (s.tdm (index / 16)).role == 2 || (s.tdm (index / 16)).top == top
  | _ => true

/-- When a removal ends (R160): the last period of its change, a zero-cross removal at its latest fallback. -/
def xpEnd (hz : Nat) (x : Xpoint) : Option Nat :=
  match x.move with
  | .fade _ _ len start true => some (start + len)
  | .watch _ _ start _ true => some (start + hz / 200 + hz / 1000)
  | _ => none

/-- Who holds an output at block b (R44, R159): loudspeakers, bindings in force or waiting, and the crosspoints of an
analogue output or TDM channel that exist then. -/
def holders (s : State) (kind index b : Nat) : Nat :=
  (s.scene.speakers.countP fun e => e.2.outKind == kind && e.2.outIndex == index) +
  (s.rend.dests.countP fun e => (e.2.outKind == kind && e.2.outIndex == index) ||
    (match e.2.pending with | some q => q.1 == kind && q.2.1 == index | none => false)) +
  (if s.rend.xpoints.any fun x => ownOutput x.dest == some (kind, index) &&
      (match xpEnd s.hz x with | some e => b < e | none => true) then 1 else 0)

/-- No output is held twice at any boundary listed (R44, R334): `proj` counts the command in. -/
def claimOk (proj : Nat → State) (ticks : List Nat) (kind index : Nat) : Bool :=
  kind = 0 || ticks.all fun t => holders (proj t) kind index t ≤ 1

/-- The index exists at the Heart rate (R12). -/
def outputExists (h kind index : Nat) : Bool := kind != 1 || index < netOutCount h

/-- SPK_SET at acceptance (R12, R44). -/
def checkSpkSet (p : Bytes) (s : State) (proj : Nat → State) (eff : Nat) (ticks : List Nat) : Option Status :=
  if !spkPayloadOk p then some .badParam
  else
    let o := getU p 4 2
    let h := s.heartNext
    let after := ((proj eff).spk o)
    let g8 := (maskOf p).testBit 8
    if !outExists h o && (after.enabled || !outputExists h after.outKind after.outIndex) then some .badParam
    else if g8 && (!outputExists h (getU p 32 1) (getU p 34 2) ||
        !rateFits (proj eff) (getU p 32 1) (getU p 34 2) false ||
        (getU p 32 1 == 3 && !tdmSlotOk s (getU p 34 2))) then some .badParam
    else if g8 && !claimOk proj ticks (getU p 32 1) (getU p 34 2) then some .noResource
    else none

/-- Entries of a ROUTE_SET. -/
structure XpEntry where
  source : Nat
  dest   : Nat
  gain   : Int
  zero   : Bool
  fade   : Nat
deriving DecidableEq, Repr

def xpEntries (p : Bytes) : List XpEntry :=
  (List.range (getU p 2 2)).map fun i =>
    let o := 8 + 12 * i
    ⟨getU p o 2, getU p (o + 2) 2, getI p (o + 4) 2, (getU p (o + 6) 1).testBit 0, getU p (o + 8) 2⟩

/-- Target and state, and the ramp, of a mute entry. -/
def muteEntries (p : Bytes) : List (Nat × Bool × Nat) :=
  (List.range (getU p 2 2)).map fun i =>
    let o := 8 + 8 * i
    (getU p o 2, (getU p (o + 2) 1).testBit 0, getU p (o + 4) 2)

/-- Destination, kind and index of a binding entry. -/
def bindEntries (p : Bytes) : List (Nat × Nat × Nat) :=
  (List.range (getU p 2 2)).map fun i =>
    let o := 8 + 8 * i
    (getU p o 2, getU p (o + 2) 1, getU p (o + 4) 2)

/-- A mute target that exists (Table 6.9). -/
def muteTargetOk (h t : Nat) : Bool := if 0x400 ≤ t then t < 0x600 && outExists h (t - 0x400) else destOk h t

/-- A ROUTE_SET payload obeys Tables 6.7 to 6.9 at a Heart rate. -/
def routePayloadOk (h : Nat) (p : Bytes) : Bool :=
  let n := getU p 2 2
  let hz := heartHz h
  p.length ≥ 8 && getU p 1 1 == 0 && getU p 4 4 == 0 &&
  (match getU p 0 1 with
   | 0 => 1 ≤ n && n ≤ 256 && p.length == 8 + 12 * n &&
      ((List.range n).all fun i => getU p (14 + 12 * i) 1 < 2 && getU p (15 + 12 * i) 1 == 0 && getU p (18 + 12 * i) 2 == 0) &&
      ((xpEntries p).all fun e => sourceOk h e.source && destOk h e.dest && e.gain ≤ 600 &&
        (if e.zero then e.fade == 0 else hz / 1000 ≤ e.fade && e.fade ≤ 64 * hz / 1000)) &&
      (((xpEntries p).map fun e => (e.source, e.dest)).eraseDups.length == n)
   | 1 => 1 ≤ n && n ≤ 256 && p.length == 8 + 8 * n &&
      ((List.range n).all fun i => getU p (10 + 8 * i) 1 < 2 && getU p (11 + 8 * i) 1 == 0 && getU p (14 + 8 * i) 2 == 0) &&
      ((muteEntries p).all fun e => muteTargetOk h e.1 && (e.2.2 == 0 || (16 ≤ e.2.2 && e.2.2 ≤ 9600)))
   | 2 => 1 ≤ n && n ≤ 256 && p.length == 8 + 8 * n &&
      ((List.range n).all fun i => getU p (11 + 8 * i) 1 == 0 && getU p (14 + 8 * i) 2 == 0) &&
      ((bindEntries p).all fun e => (isAux e.1 || (isTop e.1 && h != 2)) && e.2.1 ≤ (if isAux e.1 then 1 else 3) &&
        outIndexOk e.2.1 e.2.2 && outputExists h e.2.1 e.2.2)
   | 3 => n == 0 && p.length == 8
   | _ => false)

/-- Crosspoints that exist at a block, by R160's count. -/
def xpCountAt (s : State) (b : Nat) : Nat :=
  (s.rend.xpoints.countP fun x => match xpEnd s.hz x with | some e => b < e | none => true) +
  (s.rend.ghosts.countP fun g => b < g.2.2 && !(s.rend.xpoints.any fun x => x.source == g.1 && x.dest == g.2.1))

end Sys2Proof.Machine

namespace Sys2Proof

open Machine

/-- The gain in force at a period (R161, R163). -/
def Xpoint.gainAt (x : Xpoint) (n : Nat) : Int :=
  match x.move with
  | .steady => x.gain
  | .fade g0 g1 len start _ => if n < start + len then lerp16 g0 g1 (phi16 (n - start) len) else g1
  | .watch g0 _ _ _ _ => g0

end Sys2Proof

namespace Sys2Proof.Machine

/-- One crosspoint entry at its block (R160 to R163). A removal of a crosspoint that does not exist does nothing. -/
def applyXp (b : Nat) (s : State) (e : XpEntry) : State :=
  let hz := s.hz
  let live := fun (x : Xpoint) => match xpEnd hz x with | some t => b < t | none => true
  let old := (s.rend.xpoints.filter live).find? fun x => x.source == e.source && x.dest == e.dest
  let rest := s.rend.xpoints.filter fun x => !(x.source == e.source && x.dest == e.dest)
  let g1 := gainOf e.gain
  let remove := e.gain ≤ -14400
  let g0 := match old with | some x => x.gainAt b | none => 0
  if old.isNone && remove then { s with rend.xpoints := rest }
  else
    let mv := if e.zero then XpMove.watch g0 g1 b none remove else .fade g0 g1 e.fade b remove
    { s with rend.xpoints := rest ++ [⟨e.source, e.dest, g1, mv⟩] }

end Sys2Proof.Machine

namespace Sys2Proof

open Machine

/-- A mute state and ramp length (R152, R153). -/
def MuteRamp.set (m : MuteRamp) (muted : Bool) (r : Nat) : MuteRamp :=
  let m := { m with muted := muted }
  if r = 0 then m
  else if m.ph = 0 then { m with r := r, newR := none }
  else if m.ph = m.r then { m with r := r, ph := r, newR := none }
  else { m with newR := some r }

end Sys2Proof

namespace Sys2Proof.Machine

def applyMute (s : State) (e : Nat × Bool × Nat) : State :=
  if 0x400 ≤ e.1 then updMute (e.1 - 0x400) (fun m => m.set e.2.1 e.2.2) s
  else updDest e.1 (fun d => { d with ramp := d.ramp.set e.2.1 e.2.2 }) s

/-- The unit of an entry (R335): a crosspoint, a mute target, a binding. -/
def xpUnit (e : XpEntry) : UnitKey := ⟨.routeSet, e.source * 65536 + e.dest, 0⟩
def muteUnit (e : Nat × Bool × Nat) : UnitKey := ⟨.routeSet, e.1, 1⟩
def bindUnit (e : Nat × Nat × Nat) : UnitKey := ⟨.routeSet, e.1, 2⟩

def routeUnits (p : Bytes) : List UnitKey :=
  (match getU p 0 1 with
   | 0 => (xpEntries p).map xpUnit
   | 1 => (muteEntries p).map muteUnit
   | 2 => (bindEntries p).map bindUnit
   | _ => []).eraseDups

/-- ROUTE_SET at its block. A binding waits there for its destination's ph to be 0 (R159). -/
def applyRouteSet (c : Cmd) (s : State) : State :=
  let p := c.payload
  match getU p 0 1 with
  | 0 => ((xpEntries p).filter fun e => !cmdLost c (xpUnit e)).foldl (applyXp c.effect) s
  | 1 => ((muteEntries p).filter fun e => !cmdLost c (muteUnit e)).foldl applyMute s
  | _ => ((bindEntries p).filter fun e => !cmdLost c (bindUnit e)).foldl
      (fun s e => updDest e.1 (fun d => if d.ramp.ph = 0
          then { d with outKind := e.2.1, outIndex := e.2.2, pending := none }
          else { d with pending := some (e.2.1, e.2.2, c.effect) }) s) s

/-- ROUTE_SET at acceptance: tables (R157), claims (R44, R159), rates (R237, R413), BUSY unless muted (R159), the
crosspoint limit (R160). -/
def checkRouteSet (p : Bytes) (s : State) (proj : Nat → State) (eff : Nat) (ticks : List Nat) : Option Status :=
  let h := s.heartNext
  if !routePayloadOk h p then some .badParam
  else match getU p 0 1 with
    | 0 =>
      let es := xpEntries p
      if es.any fun e => isTdm e.dest && e.gain > -14400 && !(tdmSlotOk s (e.dest - 0x300) && rateFits s 3 (e.dest - 0x300) false)
      then some .badParam
      else if es.any fun e => match ownOutput e.dest with
          | some t => e.gain > -14400 && !claimOk proj ticks t.1 t.2
          | none => false
      then some .noResource
      else if xpCountAt (proj eff) eff > xpCap h then some .noResource
      else none
    | 2 =>
      let es := bindEntries p
      if es.any fun e => !rateFits (proj eff) e.2.1 e.2.2 (isTop e.1) || (e.2.1 == 3 && !tdmSlotOk s e.2.2)
      then some .badParam
      else if es.any fun e => !(s.dest e.1).ramp.muted then some .busy
      else if es.any fun e => !claimOk proj ticks e.2.1 e.2.2 then some .noResource
      else if ticks.any fun t => topBound [] (proj t) > topOutputs then some .noResource
      else none
    | _ => none

/-- The device acts on its alarm inputs: a unit that is active or solo (R416). -/
def State.alarms (s : State) : Bool := !s.flag mSafe && (!s.isPair || s.flag mActive)

/-- An alarm input of a slot is asserted (R416). -/
def planOn (s : State) (slot : Nat) : Bool :=
  s.io.pins.any fun e => e.2.function == 3 && e.2.alarm % 4 == slot && e.2.asserted

/-- Units an asserted alarm plan claims (R416). -/
def planUnits (s : State) : List UnitKey :=
  s.io.plans.flatMap fun e => if s.alarms && planOn s e.1 then routeUnits e.2.assertP else []

/-- Table 6.10; the counters clear (R164, R115). -/
def readRouteSet (p : Bytes) (s : State) : Reply :=
  if !routePayloadOk s.heartNext p then no .badParam
  else
    let sat := fun (base n : Nat) => (List.range n).flatMap fun i => le 2 (s.dest (base + i)).sat
    let live := s.rend.xpoints.countP fun x => match xpEnd s.hz x with | some e => s.nextBlock < e | none => true
    .done { s with rend.dests := SMap.mapVals {} (fun _ (d : Dest) => { d with sat := 0 }) s.rend.dests }
      (le 2 live ++ le 2 (xpCap s.media.heart) ++ le 4 s.rend.fallbacks ++ zeros 8 ++ sat 0 64 ++ sat 0x100 64 ++
       sat 0x200 8 ++ sat 0x300 64)

/-- Table 6.11, request part, at a Heart rate. -/
def silenceFields (hz : Nat) : List Fld :=
  [⟨4, 2, none, 0, 1023, false, 0, []⟩, ⟨6, 2, none, 1, 1024, false, 0, []⟩, ⟨8, 2, some 0, -14400, 0, true, 0, []⟩,
   ⟨10, 1, some 1, 0, 255, false, 0xFC, []⟩, ⟨12, 4, some 2, (hz / 100 : Nat), (600 * hz : Nat), false, 0, []⟩]
def silencePayloadOk (hz : Nat) (p : Bytes) : Bool :=
  recordOk (silenceFields hz) 3 32 p && getU p 4 2 + getU p 6 2 ≤ 1024
def checkSilenceSet (p : Bytes) (s : State) : Option Status :=
  if silencePayloadOk (heartHz s.heartNext) p then none else some .badParam
def silenceChans (p : Bytes) : List Nat := (List.range (getU p 6 2)).map fun i => getU p 4 2 + i

/-- The units of a SILENCE_SET: each group of each channel. -/
def silenceUnits (p : Bytes) : List UnitKey := (silenceChans p).flatMap fun c => maskUnits .silenceSet c (maskOf p)

/-- SILENCE_SET at its block (R165). -/
def applySilenceSet (c : Cmd) (s : State) : State :=
  let p := c.payload
  let won := fun ch g => (maskOf p).testBit g && !cmdLost c ⟨.silenceSet, ch, g⟩
  { s with rend.silence := (silenceChans p).foldl (fun m ch => SMap.upd {} m ch fun r =>
      { r with threshold := pick (won ch 0) (getI p 8 2) r.threshold,
               flags := pick (won ch 1) (getU p 10 1) r.flags,
               hold := pick (won ch 2) (getU p 12 4) r.hold }) s.rend.silence }

/-- SILENCE_SET with mask 0: the record of the first channel, then the range's states. -/
def readSilenceSet (p : Bytes) (s : State) : Reply :=
  if !silencePayloadOk s.hz p then no .badParam
  else
    let r := SMap.get {} s.rend.silence (getU p 4 2)
    let st := fun c => (SMap.get {} s.rend.silence c).silent
    let n := getU p 6 2
    .done s (le 4 0 ++ slice p 4 4 ++ leI 2 r.threshold ++ le 1 r.flags ++ zeros 1 ++ le 4 r.hold ++ zeros 16 ++
      (List.range ((n + 7) / 8)).flatMap fun k => le 1 ((List.range 8).foldl (fun a j =>
        if 8 * k + j < n && st (getU p 4 2 + 8 * k + j) then a + 2 ^ j else a) 0))

/-- Table 6.12. -/
def shortFields : List Fld :=
  [⟨4, 1, none, 0, 7, false, 0, []⟩, ⟨5, 1, some 0, 0, 255, false, 0xFE, []⟩, ⟨6, 1, some 1, 0, 7, false, 0, []⟩,
   ⟨7, 1, some 1, 0, 7, false, 0, []⟩, ⟨8, 2, some 2, -32768, 600, true, 0, []⟩, ⟨10, 1, some 3, 0, 255, false, 0xF0, []⟩] ++
  ((List.range 4).flatMap fun i => bqFields (12 + 24 * i) 3)

end Sys2Proof.Machine

namespace Sys2Proof

open Machine

/-- Gain a route goes to (R169). -/
def ShortRoute.level (r : ShortRoute) : Int := if r.enabled then gainOf r.gain else 0

/-- The ramp in progress leaves another connection. -/
def ShortRoute.moving (r : ShortRoute) : Bool := r.ramp < 256 && (r.fromIn != r.input || r.fromOut != r.output)

/-- Gain of a route's present connection at a sample of its ramp. -/
def ShortRoute.gainAt (r : ShortRoute) (k : Nat) : Int :=
  if k ≥ 256 then r.level else lerp16 (if r.moving then 0 else r.fromGain) r.level (phi16 k 256)

/-- The gain that the ramp has reached. -/
def ShortRoute.reached (r : ShortRoute) : Int :=
  if r.ramp = 0 then (if r.moving then 0 else r.fromGain) else r.gainAt (r.ramp - 1)

end Sys2Proof

namespace Sys2Proof.Machine

/-- SHORT_SET (R169): untimed, applied at once; gain, enable and connection ramp over 256 samples. -/
def doShortSet (p : Bytes) (s : State) : Reply :=
  if !recordOk shortFields 4 112 p then no .badParam
  else
    let i := getU p 4 1
    let r := SMap.get {} s.rend.shorts i
    let m := maskOf p
    if m = 0 then .done s (le 4 0 ++ le 1 i ++ le 1 (bit r.enabled) ++ le 1 r.input ++ le 1 r.output ++ leI 2 r.gain ++
      le 1 r.bqEnable ++ zeros 1 ++ ((List.range 4).flatMap fun k => bqBytes (SMap.get {} r.biquads k)) ++ zeros 4)
    else
      let new := { r with enabled := pick (m.testBit 0) ((getU p 5 1).testBit 0) r.enabled
                          input := pick (m.testBit 1) (getU p 6 1) r.input
                          output := pick (m.testBit 1) (getU p 7 1) r.output
                          gain := pick (m.testBit 2) (getI p 8 2) r.gain
                          bqEnable := pick (m.testBit 3) (getU p 10 1) r.bqEnable
                          biquads := pick (m.testBit 3) (bqList p 12 4) r.biquads }
      let moved := (new.enabled, new.input, new.output, new.gain) != (r.enabled, r.input, r.output, r.gain)
      let new := if moved then
          { new with fromIn := r.input, fromOut := r.output, fromGain := r.reached, ramp := 0, bqOld := r.bqState
                     bqState := if new.input = r.input then r.bqState else [] }
        else new
      .done { s with rend.shorts := SMap.put {} s.rend.shorts i new } []

/-- What a block boundary does for the block about to be computed, on every accord: fades that are over end. -/
def endFades (b : Nat) (s : State) : State := (SMap.keys s.rend.accords).foldl (fun s o => accordEnd b o s) s
def startWaiting (b : Nat) (s : State) : State := (SMap.keys s.rend.accords).foldl (fun s o => accordStart b o s) s

/-- Binding changes whose destination is at ph 0 take effect (R159). -/
def bindDest (b : Nat) (d : Dest) : Dest :=
  match d.pending with
  | some (k, i, from_) => if d.ramp.ph = 0 && from_ ≤ b then { d with outKind := k, outIndex := i, pending := none } else d
  | none => d
def startBindings (b : Nat) (s : State) : State :=
  { s with rend.dests := SMap.mapVals {} (fun _ d => bindDest b d) s.rend.dests }

/-- Crosspoints whose removal is over are gone (R160). -/
def dropXps (b : Nat) (s : State) : State :=
  { s with rend.xpoints := s.rend.xpoints.filter fun x =>
             (match x.move with | .fade _ _ len start true => b < start + len | _ => true),
           rend.ghosts := s.rend.ghosts.filter fun g => b < g.2.2 }

/-- The event rows of this chapter name changes that the block order of R147 also makes; made once, they are no longer
due. -/
def execAccordFadeEnd (o : Fin 512) (s : State) : Host.Outcome State Fault Refusal :=
  let b := s.toCompute
  let t := accordEnd b o.val s
  let due := s.host.cmds.any fun c => !c.applied && c.timing == .block && c.effect ≤ b
  .next (if due then t else accordStart b o.val t)

/-- A source has crossed zero in the block computed last (R162): a word is 0, or its sign is not that of the word before. -/
def crossed (s : State) (b source : Nat) : Bool :=
  match s.rend.outs.find? fun e => e.block == b with
  | none => false
  | some e =>
    let w := if source < 0x400 then SMap.get [] e.chans source else SMap.get [] e.outs (source - 0x400)
    let w := (List.range 16).map fun i => w.getD i 0
    w.any (· == 0) || (w.zip (w.drop 1)).any fun p => (0 < p.1) != (0 < p.2)

/-- A watched source has crossed zero: the new gain applies (R162). The compute slot makes the cut in the period of the crossing;
the event makes it where a block's words show a crossing that a watching crosspoint has not taken. -/
def execZeroCrossCut (src dst : BitVec 16) (s : State) : Host.Outcome State Fault Refusal :=
  let b := s.toCompute - 16
  let hit := fun (x : Xpoint) => x.source == src.toNat && x.dest == dst.toNat && crossed s b src.toNat &&
    (match x.move with | .watch _ _ start _ _ => decide (start ≤ b) | _ => false)
  let cut := fun (x : Xpoint) => match x.move with
    | .watch _ g1 _ _ _ => if hit x then { x with gain := g1, move := .steady } else x
    | _ => x
  let gone := fun (x : Xpoint) => hit x && (match x.move with | .watch _ _ _ _ r => r | _ => false)
  .next { s with rend.ghosts := s.rend.ghosts ++ (s.rend.xpoints.filter gone).map fun x =>
                   (x.source, x.dest, (xpEnd s.hz x).getD 0),
                 rend.xpoints := (s.rend.xpoints.filter fun x => !gone x).map cut }

/-- No crossing within the limit: the change becomes a fade of Heart ÷ 1,000 periods after it (R162). -/
def fallbackXp (hz : Nat) (x : Xpoint) : Xpoint :=
  match x.move with
  | .watch g0 g1 start _ r => { x with move := .fade g0 g1 (hz / 1000) (start + hz / 200) r }
  | _ => x
def execZeroCrossFallback (src dst : BitVec 16) (s : State) : Host.Outcome State Fault Refusal :=
  let hit := fun (x : Xpoint) => x.source == src.toNat && x.dest == dst.toNat &&
    (match x.move with | .watch _ _ start _ _ => decide (start + s.hz / 200 ≤ s.toCompute) | _ => false)
  if s.rend.xpoints.any hit then
    .next { s with rend.xpoints := s.rend.xpoints.map fun x => if hit x then fallbackXp s.hz x else x,
                   rend.fallbacks := wrapAdd 32 s.rend.fallbacks 1 }
  else .next s

def execRouteBindingChange (dst : BitVec 16) (s : State) : Host.Outcome State Fault Refusal :=
  .next (updDest dst.toNat (bindDest s.toCompute) s)

end Sys2Proof.Machine

namespace Sys2Proof

open Machine

/-- A new ramp length waits until the running ramp ends (R153). -/
def MuteRamp.takeR (m : MuteRamp) : MuteRamp :=
  match m.newR with
  | some r => if m.ph = 0 then { m with r := r, newR := none }
              else if m.ph = m.r then { m with r := r, ph := r, newR := none } else m
  | none => m

end Sys2Proof

namespace Sys2Proof.Machine

def execMuteRampLengthChange (target : BitVec 16) (s : State) : Host.Outcome State Fault Refusal :=
  let t := target.toNat
  if 0x400 ≤ t then .next (updMute (t - 0x400) MuteRamp.takeR s)
  else .next (updDest t (fun d => { d with ramp := d.ramp.takeR }) s)

end Sys2Proof.Machine

namespace Sys2Proof

open Machine

/-- One period of a mute ramp (R152, R155, R156): the phase used, then one step. `up` is whether the phase moves
towards R. -/
def MuteRamp.step (m : MuteRamp) (up : Bool) : Nat × MuteRamp :=
  let m := m.takeR
  let ph := if up then (if m.ph < m.r then m.ph + 1 else m.r) else m.ph - 1
  (m.ph, ({ m with ph := ph } : MuteRamp).takeR)

/-- The ramp n periods on, moving one way (R152, R153). -/
def MuteRamp.later (m : MuteRamp) (n : Nat) (up : Bool) : MuteRamp :=
  if n = 0 then m
  else
    let m := m.takeR
    ({ m with ph := if up then min m.r (m.ph + n) else m.ph - n } : MuteRamp).takeR

end Sys2Proof

namespace Sys2Proof.Machine

/-- The router destinations at block b, n periods on, with the bindings that their phases let in by then (R159). -/
def ageDests (b n : Nat) (s : State) : State :=
  let aged := fun (d : Dest) => { d with ramp := d.ramp.later n (!d.ramp.muted && !s.flag mDark) }
  startBindings b { s with rend.dests := SMap.mapVals {} (fun _ d => aged d) s.rend.dests }

end Sys2Proof.Machine
end

