-- ==== Sys2Proof/Machine/Time.lean ====
section
/-!
DEFINITION. Time (chapter 9): the tide servo, PTP ports and the grandmaster role, references, timestamp queues, triggers and
captures, phase steps, PLLs.
-/
namespace Sys2Proof.Machine

/-- The clock identity (R251): the station address of port A with 0xFFFE inserted after its third byte. -/
def clockId : Nat :=
  let a := stationOf 0
  a / 2 ^ 24 * 2 ^ 40 + 0xFFFE * 2 ^ 24 + a % 2 ^ 24

/-- PTP runs on a port; it uses the peer delay mechanism (R251, R253). -/
def State.ptpOn (s : State) (p : Nat) : Bool := (s.timePort p).flags.testBit 0
def State.p2p (s : State) (p : Nat) : Bool := p < 2 && (s.time.dev.profile == 2 || (s.timePort p).flags.testBit 2)

/-- Stamp corrections of Table 9.4 in tenths of a nanosecond: ingress, egress. -/
def stampCorr (speed fec : Nat) : Int × Int :=
  if speed = 1 then (if fec = 1 then (2893, 2035) else (832, 672))
  else if fec = 1 then (1216, 845) else if fec = 2 then (2432, 1487) else (384, 310)

/-- Mean interrupt latency of the management port (R255), in nanoseconds. -/
def State.irqLatency (s : State) : Nat :=
  if s.time.latencies.isEmpty then 0 else s.time.latencies.foldl (· + ·) 0 / s.time.latencies.length

/-- A receive and a transmit stamp referred to the connector, rounded to 1 ns (R254, R255). -/
def State.rxStamp (s : State) (p t : Nat) : Int :=
  if p = 2 then (t : Int) - s.irqLatency - (s.timePort p).boardRx
  else
    let q := s.port p
    roundAway (((t : Int) * 10 - (stampCorr q.stat.speedNow q.cfg.fec).1 : Int) / 10 : Rat) - (s.timePort p).boardRx
def State.txStamp (s : State) (p t : Nat) : Int :=
  if p = 2 then (t : Int) - s.irqLatency + (s.timePort p).boardTx
  else
    let q := s.port p
    roundAway (((t : Int) * 10 + (stampCorr q.stat.speedNow q.cfg.fec).2 : Int) / 10 : Rat) + (s.timePort p).boardTx

/-- Nearest whole number of media cycles in a time of `ns` (R258). -/
def State.cyclesOf (s : State) (ns : Rat) : Int := roundAway (ns * ((512 * s.hz : Nat) : Int) / 1000000000)

/-- Servo constants: bandwidth in Hz (Table 9.2), 0.05 Hz on the management port (R255). -/
def State.servoB (s : State) : Rat :=
  if s.time.servo.ref = some 2 then 1 / 20 else [1 / 20, 1 / 10, 1 / 4, 1 / 2, 1].getD s.time.dev.servoBw (1 / 4)

def absR (x : Rat) : Rat := if x < 0 then -x else x
def clampR (lo hi x : Rat) : Rat := if x > hi then hi else if x < lo then lo else x

/-- Enter HOLD (R260): y is frozen at ybar, COAST is set, the time event is raised. -/
def enterHold (reason : Nat) (s : State) : State :=
  if s.time.servo.state = 4 then s
  else
    let v := s.time.servo
    let gnss := s.time.ref == 2 && v.extOk && s.time.dev.gmFlags.testBit 1
    let s := updServo (fun v => { v with state := 4, y := v.ybar, strikes := 0, holdFrom := s.idx, wasGnss := gnss }) s
    timeEvent 0 [reason] (setFlag mCoast true srcDevice s)

/-- Leave HOLD in a state (R260); while REFCLK25 is lost COAST stays (R275). -/
def leaveHold (state : Nat) (s : State) : State :=
  if s.time.servo.state ≠ 4 then updServo (fun v => { v with state := state }) s
  else
    let ms := (s.idx - s.time.servo.holdFrom) * 1000 / s.hz
    let s := updServo (fun v => { v with state := state, holdMs := wrapAdd 32 v.holdMs ms, rrWait := false, wasGnss := false }) s
    timeEvent 1 [] (setFlag mCoast false srcDevice s)

/-- What the best master clock algorithm compares, best first (R263). -/
def rank9 (m : Master9) : List Nat :=
  [m.priority1, m.clockClass, m.accuracy, m.variance, m.priority2, m.gmId, m.steps]
def lexLt : List Nat → List Nat → Bool
  | [], _ => false
  | _, [] => false
  | a :: r, b :: q => a < b || (a == b && lexLt r q)
def better (a b : Master9) : Bool := lexLt (rank9 a) (rank9 b)

/-- The class the device announces (R268). -/
def State.ownClass (s : State) : Nat :=
  let v := s.time.servo
  if v.state = 4 then (if v.wasGnss then 7 else 248)
  else if s.time.ref = 2 ∧ v.extOk ∧ s.time.dev.gmFlags.testBit 1 then 6 else 248

/-- The device's own data set. -/
def State.own9 (s : State) : Master9 :=
  { gmId := clockId, priority1 := s.time.dev.priority1, clockClass := s.ownClass, priority2 := s.time.dev.priority2 }

/-- Masters heard on enabled ports, with their port. -/
def State.masters9 (s : State) : List (Nat × Master9) :=
  [0, 1, 2].filterMap fun p => if s.ptpOn p then (s.clock p).master.map fun m => (p, m) else none

/-- The device is grandmaster: capable, with a media port that runs PTP and allows the master role (R253), and better than every
master heard (R268). -/
def State.isGm (s : State) : Bool :=
  s.time.dev.gmFlags.testBit 0 && ([0, 1].any fun p => s.ptpOn p && (s.timePort p).flags.testBit 1) &&
  s.masters9.all fun e => better s.own9 e.2

/-- The grandmaster the device follows, its own identity where it is the grandmaster (R268, R273). -/
def State.gmNow (s : State) : Nat := if s.isGm then clockId else s.time.servo.gmId

/-! Announcements of the scene bus (R52). -/

/-- The device's announcement (Table 8.8). -/
def announceRecord (s : State) : Bytes :=
  le 1 0 ++ le 1 0 ++ le 2 20 ++ le 2 (s.peer 0).sceneDomain ++ le 1 s.media.heart ++ le 1 s.time.dev.domain ++
  le 2 s.media.catchL ++ zeros 2 ++ le 8 s.gmNow

/-- Own announcement (R52): every 16 ticks. -/
def execSceneBusAnnounceSend (s : State) : Host.Outcome State Fault Refusal :=
  if (s.peer 0).roles.testBit 0 && s.host.ready && !s.flag mSafe then .next (sendService 1 1 (announceRecord s) s)
  else .next s

/-- Mismatch bits of an announcement against the device's own values (R52, Table 2.8). -/
def mismatchOf (a : Announcement) (s : State) : Nat :=
  bit (a.heart != s.media.heart) + bit (a.catchOff != s.media.catchL) 1 + bit (a.ptpDomain != s.time.dev.domain) 2 +
  bit (a.gm != s.gmNow) 3

/-- A queued announcement sets its peer's state and mismatch bits (R52). -/
def execSceneBusAnnouncement (s : State) : Host.Outcome State Fault Refusal :=
  match s.scene.announced with
  | [] => .next s
  | a :: rest =>
    let s := { s with scene.announced := rest }
    match s.peerOf a.node with
    | some i =>
      if a.domain = (s.peer 0).sceneDomain then
        let mm := mismatchOf a s
        .next (updPeerSt i (fun t => { t with state := if mm = 0 then 1 else 2, mismatch := mm, lastHeard := a.arrived }) s)
      else .next s
    | none => .next s

/-- The best master heard, media ports and port A first among equals (R263). -/
def State.best9 (s : State) : Option (Nat × Master9) :=
  s.masters9.foldl (fun b e => match b with
    | none => some e
    | some x => if better e.2 x.2 then some e else some x) none

/-- Ports that may be the reference (R260, R263, R264). -/
def State.refPorts (s : State) : List (Nat × Master9) :=
  s.masters9.filter fun e =>
    let c := s.clock e.1
    c.qualified && !c.barred && !c.passive && (!s.time.servo.rrWait || e.1 == s.time.servo.rrPort)

/-- The port R263 chooses among some: a media port first, then the better master, then port A. -/
def choosePort (l : List (Nat × Master9)) : Option (Nat × Master9) :=
  let pick := fun (l : List (Nat × Master9)) => l.foldl (fun b e => match b with
    | none => some e
    | some (x : Nat × Master9) => if better e.2 x.2 then some e else some x) none
  match pick (l.filter fun e => e.1 < 2) with
  | some e => some e
  | none => pick (l.filter fun e => e.1 = 2)
def State.chosenRef (s : State) : Option (Nat × Master9) := choosePort s.refPorts

/-- A port becomes the reference port. -/
def takeRef (p : Nat) (m : Master9) (s : State) : State :=
  updServo (fun v => { v with ref := some p, gmId := m.gmId, clockClass := m.clockClass, strikes := 0, farCount := 0 }) s

/-- Choose the reference port (R260, R263): not while a hold-off runs, nor when the device follows another reference. -/
def chooseRef (s : State) : State :=
  let v := s.time.servo
  if s.time.ref ≠ 0 ∨ v.holdoff.isSome ∨ s.isGm then s
  else
    match s.chosenRef with
    | none => s
    | some (p, m) =>
      let o := absR (s.clock p).offset
      if v.state = 4 then leaveHold (if o ≤ 1000 then 3 else 2) (takeRef p m s)
      else if v.ref = some p then s
      else if v.ref = none then takeRef p m s
      else if o ≤ s.time.dev.rerouteThr then takeRef p m s
      else enterHold 5 s

/-- A median of eight path delays, the mean of the two in the middle. -/
def median8 (l : List Rat) : Rat :=
  let m := l.mergeSort fun a b => a ≤ b
  (m.getD 3 0 + m.getD 4 0) / 2

/-- Qualification (R260): eight consecutive fresh path delays within reroute_thr of their median, which becomes dbar. -/
def qualify (thr : Rat) (c : PortClock) (d : Option Rat) : PortClock :=
  match d with
  | none => c
  | some d =>
    let run := (d :: c.run).take 8
    let m := median8 run
    if c.qualified then { c with run := run }
    else if run.length = 8 ∧ run.all (fun x => absR (x - m) ≤ thr) then
      { c with run := run, qualified := true, barred := false, dbar := m }
    else { c with run := run }

/-- Smoothing of a fresh path delay (R258). -/
def smooth (c : PortClock) (d : Option Rat) : PortClock :=
  match d with
  | some d => { c with dbar := c.dbar + (d - c.dbar) / 16 }
  | none => c

/-- Clear a port's qualification: it must qualify afresh. -/
def requalify (p : Nat) (s : State) : State := updClock p (fun c => { c with qualified := false, run := [], delay := none }) s

/-- |o| beyond L periods for four exchanges (R262). -/
def farCheck (o : Rat) (s : State) : State :=
  let l : Rat := ((s.media.catchL * 1000000000 : Nat) : Int) / ((s.hz : Nat) : Int)
  let a := absR o
  let n := if a > l then s.time.servo.farCount + 1 else 0
  let rose := n ≥ 4 && !s.time.servo.far
  let s := updServo (fun v => { v with farCount := n, far := if n ≥ 4 then true else if a < l / 2 then false else v.far }) s
  if rose then timeEvent 3 [arg32 (roundAway o)] s else s

/-- A phase step in whole cycles, for the next block boundary (R250, R258). -/
def wantStep (ns : Rat) (s : State) : State := updServo (fun v => { v with pending := some (s.cyclesOf ns) }) s

/-- The body of R258 after the strike test: `o` in nanoseconds, `t` the exchange interval in seconds. -/
def servoApply (o t : Rat) (s : State) : State :=
  let dev := s.time.dev
  let v := s.time.servo
  if absR o > dev.stepMin ∧ (!v.acquired ∨ s.flag mDark ∨ dev.stepPolicy) then
    updServo (fun v => { v with acquired := true, strikes := 0 }) (wantStep (-o) s)
  else
    let wn := 2 * Fx.toRat Fx.pi * s.servoB
    let slew : Rat := (dev.slew : Int) / 1000000
    let e := -o / 1000000000
    let yp := 141421 / 100000 * wn * e
    let ybar := if absR yp ≤ slew then clampR (-1 / 5000) (1 / 5000) (v.ybar + wn * wn * e * t) else v.ybar
    updServo (fun v => { v with acquired := true, strikes := 0, ybar := ybar,
                                y := ybar + clampR (-slew) slew yp, state := if absR o ≤ 1000 then 3 else 2 }) s

/-- An exchange handed to the servo (R258): the raw offset and the newest path delay, if fresh. -/
def exchange (p : Nat) (raw : Rat) (d : Option Rat) (t : Rat) (s : State) : State :=
  let c0 := s.clock p
  let c := qualify s.time.dev.rerouteThr c0 d
  let first := c.qualified && !c0.qualified
  let o := raw - c.dbar
  let v := s.time.servo
  let s := if v.state = 0 then updServo (fun v => { v with state := 1 }) s else s
  if v.state = 4 ∨ v.ref ≠ some p ∨ !c.qualified then
    let c := if c.qualified && !first then smooth c d else c
    chooseRef (updClock p (fun _ => { c with offset := o, delay := none }) s)
  else
    let step := match d with | some d => d - c.dbar | none => 0
    let s := farCheck o (updClock p (fun _ => { c with offset := o, delay := none }) s)
    let thr : Rat := s.time.dev.rerouteThr
    if v.state = 3 ∧ (absR o > thr ∨ absR step > thr) then
      if v.strikes + 1 < 2 then updServo (fun v => { v with strikes := v.strikes + 1 }) s
      else
        let s := enterHold 4 s
        updClock p (fun c => { c with barred := true })
          (updServo (fun v => { v with reroutes := wrapAdd 32 v.reroutes 1, rrPort := p, rrOutcome := 0,
                                       rrStep := roundAway step, rrOffset := roundAway o,
                                       holdoff := some (s.idx + s.msPeriods s.time.dev.holdoff) }) s)
    else chooseRef (servoApply o t (updClock p (fun c => if first then c else smooth c d) s))

/-- Bytes of a PTP message from the destination address to the FCS, by kind: 0 Sync, 1 Announce, 2 Delay_Req, 3 Delay_Resp,
4 Follow_Up, 5 Pdelay_Req, 6 Pdelay_Resp, 7 Pdelay_Resp_Follow_Up; over Ethernet under profile 2, over UDP otherwise (IEEE
1588-2019; PRESUMED, assumption 50). -/
def ptpLength (profile kind : Nat) : Nat :=
  (if profile = 2 then 18 else 46) + (if kind = 1 then 64 else if kind = 0 || kind = 2 || kind = 4 then 44 else 54)

/-- A PTP event message leaves by the port's queue 4, with a stamp request (R256); a general one by ring 0. -/
def queuePtp (p kind tag : Nat) (s : State) : State :=
  if portDeaf s p then s
  else
    let len := max 64 (ptpLength s.time.dev.profile kind + (if (s.txTag p).isSome then 4 else 0))
    updPort p (fun q => { q with queued := q.queued ++ [{
      queue := 4, wire := len + 20, dscp := q.cfg.dscpPtp, tci := s.txTag p, tag := some tag, ptp := true }] }) s
def sendGeneral (p kind time : Nat) (s : State) : State :=
  queueOwn p 0 (ptpLength s.time.dev.profile kind) 0 (send (.ptp p kind time 0) s)

/-- A frame of a PTP event message has not left its port yet. -/
def ptpWaits (s : State) (p tag : Nat) : Bool := (s.port p).queued.any fun k => k.ptp && k.tag == some tag

/-- Read the transmit timestamp queue of a port (R256, R257): the Quaymaster sends the Follow_Up of a stamped Sync and of a
stamped peer delay response, and keeps the stamp of a delay request. A message that has left, and of which the queue holds a gap in
place of a stamp, is given up. -/
def readTsq (p : Nat) (s : State) : State :=
  let q := SMap.get [] s.time.tsq p
  let gap := q.any fun e => e.gap
  let c := s.clock p
  let find := fun (t : Nat) => (q.find? fun e => !e.gap && e.tag == t).map fun e => e.stamp
  let keep := fun (t : Nat) => (find t).isNone && !(gap && !ptpWaits s p t)
  let s := { s with time.tsq := SMap.put [] s.time.tsq p [] }
  let s := match c.syncTag.bind find with | some t => sendGeneral p 4 t s | none => s
  let s := (c.respTags.filterMap find).foldl (fun s t => sendGeneral p 7 t s) s
  updClock p (fun c => { c with syncTag := c.syncTag.filter keep, reqTag := c.reqTag.filter keep, respTags := c.respTags.filter keep
                                t3 := match c.reqTag.bind find with
                                  | some t => some t
                                  | none => if c.reqTag.all keep then c.t3 else none }) s

/-- Write a stamp into the queue of a media port (R256, R257). -/
def pushTsq (p tag stamp : Nat) (s : State) : State :=
  let q := SMap.get [] s.time.tsq p
  if q.length + 2 ≤ 64 then { s with time.tsq := SMap.ins s.time.tsq p (q ++ [{ tag := tag, stamp := stamp }]) }
  else
    let gapped := if q.length < 64 then q ++ [{ tag := tag, gap := true, count := 1, lastTag := tag }]
      else q.dropLast ++ ((q.getLast?).toList.map fun e => { e with lastTag := tag, count := holdAdd 255 e.count 1 })
    { s with time.tsq := SMap.ins s.time.tsq p gapped, time.tsqOver := SMap.upd 0 s.time.tsqOver p (wrapAdd 32 · 1) }

/-- PTP_SYNC (R258): raw offset t2 − t1 less the corrections. An exchange is formed on a port that runs PTP as a slave. -/
def execPtpSync (port : Fin 3) (t1 t2 : Nat) (corr : Int) (interval : Nat) (s : State) : Host.Outcome State Fault Refusal :=
  let p := port.val
  let s := readTsq p s
  let c := s.clock p
  if !s.ptpOn p || s.time.ref ≠ 0 || c.master.isNone || c.passive || s.isGm then .next s
  else .next (exchange p (s.rxStamp p t2 - t1 - corr : Int) c.delay ((interval : Int) / 1000000000) s)

/-- PTP_DELAY_RESP (R258): a path-delay measurement. End to end, t1 and t2 are of the Sync, t3 and t4 of the request;
peer to peer, t1 and t4 are this port's. On a media port the departure stamp is the one its timestamp queue gave: an exchange
without it is discarded (R257); the management port has the Quaymaster's (R255). -/
def execPtpDelayResp (port : Fin 3) (t1 t2 t3 t4 : Nat) (corr : Int) (s : State) : Host.Outcome State Fault Refusal :=
  let p := port.val
  let s := readTsq p s
  let c := s.clock p
  if !s.ptpOn p || s.time.ref ≠ 0 then .next s
  else if p < 2 && c.t3.isNone then .next s
  else
    let own := fun (t : Nat) => match c.t3 with | some x => (x : Int) | none => s.txStamp p t
    let d : Rat :=
      if s.p2p p then ((s.rxStamp p t4 - own t1 - ((t3 : Int) - t2) - corr : Int) : Rat) / 2
      else ((s.rxStamp p t2 - t1 + ((t4 : Int) - own t3) - corr : Int) : Rat) / 2
    .next (updClock p (fun c => { c with delay := some d, t3 := none }) s)

/-- A port's master after an Announce: the dataset comparison decides between masters (R263); the master kept speaks for itself. -/
def keptMaster (old : Option Master9) (m : Master9) : Master9 :=
  match old with
  | none => m
  | some o => if o.gmId = m.gmId || better m o then m else o

/-- The grandmaster the best master clock algorithm has chosen: the device itself, the master of the reference port, or, without a
reference, the best heard. -/
def State.chosenGm (s : State) : Option Master9 :=
  if s.isGm then some s.own9
  else match s.time.servo.ref with
    | some r => match (s.clock r).master with | some m => some m | none => s.best9.map Prod.snd
    | none => s.best9.map Prod.snd

/-- PTP_ANNOUNCE (R260, R263, R266): the port keeps its master; a grandmaster with a different identity puts the servo in
HOLD; under another reference a better master makes the port PASSIVE. -/
def execPtpAnnounce (port : Fin 3) (m : Master9) (s : State) : Host.Outcome State Fault Refusal :=
  let p := port.val
  if !s.ptpOn p then .next s
  else
    let old := (s.clock p).master
    let m := keptMaster old m
    let s := updClock p (fun c => { c with master := some m }) s
    let s := if old.map Master9.gmId != some m.gmId then requalify p s else s
    if s.time.ref ≠ 0 then
      let passive := better m s.own9
      let was := s.time.servo.conflict
      let s := updClock p (fun c => { c with passive := passive }) s
      let conflict := [0, 1, 2].any fun q => s.ptpOn q && (s.clock q).passive
      let s := updServo (fun v => { v with conflict := conflict }) s
      .next (if conflict && !was then timeEvent 6 [] s else s)
    else
      match s.chosenGm with
      | none => .next s
      | some g =>
        let v := s.time.servo
        let s := if v.ref.isSome && v.gmId != 0 && v.gmId != g.gmId then enterHold 2 s else s
        .next (updServo (fun v => { v with gmId := g.gmId, clockClass := g.clockClass }) s)

/-- A port has lost what makes it a slave: it must qualify afresh, and the reference port's loss puts the servo in HOLD
(R260). -/
def portLost (p reason : Nat) (forget : Bool) (s : State) : State :=
  let s := requalify p (updClock p (fun c => if forget then { c with master := none, passive := false } else c) s)
  let s := if s.time.servo.conflict then
      updServo (fun v => { v with conflict := [0, 1, 2].any fun q => s.ptpOn q && (s.clock q).passive }) s
    else s
  let s := if s.time.servo.rrPort = p then updServo (fun v => { v with rrWait := false }) s else s
  if s.time.ref = 0 ∧ s.time.servo.ref = some p then enterHold reason s else s

def execAnnounceTimeout (port : Fin 3) (s : State) : Host.Outcome State Fault Refusal := .next (portLost port.val 0 true s)
def execSyncTimeout (port : Fin 3) (s : State) : Host.Outcome State Fault Refusal := .next (portLost port.val 1 false s)

/-- A link goes down (R260): status, count, and what the servo makes of it. -/
def linkLost (p : Nat) (s : State) : State :=
  if (s.port p).stat.link % 2 = 0 then s
  else portLost p 3 true (updPortStat p (fun t => { t with link := 0, linkDowns := wrapAdd 32 t.linkDowns 1 }) s)

def execLinkDown (port : Fin 3) (s : State) : Host.Outcome State Fault Refusal := .next (linkLost port.val s)

/-- LINK_UP (R216): the link runs at the configured speed and FEC; a loopback keeps it down (R400). -/
def execLinkUp (port : Fin 3) (s : State) : Host.Outcome State Fault Refusal :=
  if portDeaf s port.val || (s.flag mSafe && port.val < 2) then .next s
  else .next (updPort port.val (fun q => { q with stat := { q.stat with
    link := 3 + (if q.cfg.fec = 0 then 0 else 4), speedNow := q.cfg.speed } }) s)

/-- REROUTE_HOLDOFF_END (R264): another qualified port within reroute_thr becomes the reference (outcome 1), or the stepped
port is requalified (outcome 2). -/
def execRerouteHoldoffEnd (s : State) : Host.Outcome State Fault Refusal :=
  let v := s.time.servo
  match v.holdoff with
  | none => .next s
  | some t =>
    if s.idx < t then .next s
    else
      let s := updServo (fun v => { v with holdoff := none }) s
      let near := s.refPorts.filter fun e => e.1 != v.rrPort && absR (s.clock e.1).offset ≤ s.time.dev.rerouteThr
      let outcome := if near.isEmpty then 2 else 1
      let s := updServo (fun v => { v with rrOutcome := outcome, rrWait := near.isEmpty }) s
      let s := requalify v.rrPort s
      let s := if near.isEmpty then updClock v.rrPort (fun c => { c with barred := false }) s else s
      let s := timeEvent 2 [v.rrPort + 256 * outcome, arg32 v.rrStep, arg32 v.rrOffset] s
      match choosePort near with
      | some (p, m) =>
        if s.time.ref ≠ 0 ∨ s.isGm then .next s
        else .next (leaveHold (if absR (s.clock p).offset ≤ 1000 then 3 else 2) (takeRef p m s))
      | none => .next s

/-- Discard what a Heart-rate change or a phase step discards (R11, R250): the sillage store, jitter buffers, the state of
bridges and filters; both marks of every slot become the first stamp written afterwards (R89). -/
def discardRender (mark : Nat) (s : State) : State :=
  let slots := SMap.keys s.rend.slots ++ (s.scene.stats.filterMap fun e => e.2.slot)
  let marks := slots.foldl (fun m n => SMap.ins m n mark) ([] : SMap Nat)
  let chain := fun (_ : Nat) (c : InChain) => { c with bqState := [] }
  let out := fun (_ : Nat) (c : OutChain) => { c with hist := [], base := {}, bq := [], bqOut := [], env := 0, limG := unity }
  let bridge := fun (_ : Nat) (b : Bridge) => { b with pos := 0, r := 0, integ := 0, fill := 0, state := 0, placed := false, slipped := false, fade := 0 }
  let quiet := fun (t : SMap (SMap Tap)) => t.map fun e => (e.1, e.2.map fun f => (f.1, { f.2 with y := 0, yOld := 0 }))
  { s with
    rend.taps := quiet s.rend.taps, rend.nextTaps := quiet s.rend.nextTaps,
    rend.shorts := SMap.mapVals {} (fun _ (r : ShortRoute) => { r with bqState := [], bqOld := [] }) s.rend.shorts,
    rend.markers := SMap.mapVals {} (fun _ (m : MarkState) => { m with bands := [], chips := [], p := [], g := [], gate := false }) s.rend.markers,
    rend.fetchFrom := 0, rend.near := [], rend.long := [], rend.nearMark := marks, rend.longMark := marks, rend.chanOut := [],
    rend.inChains := SMap.mapVals {} chain s.rend.inChains, rend.outChains := SMap.mapVals {} out s.rend.outChains,
    rend.bridges := SMap.mapVals {} bridge s.rend.bridges, rend.outs := [],
    nose.obs := SMap.mapVals {} (fun _ (o : ObsIn) => { o with q := 0, dec := {}, decHist := [], hist := [] }) s.nose.obs,
    rend.quays := SMap.mapVals {} (fun _ (q : Quay) =>
      { q with listTick := none, flight := [], waiting := [], staged := [], lost := [], windows := [] }) s.rend.quays,
    net.jitter := [], net.rx := s.net.rx.map fun e => (e.1, { e.2 with
      decided := none, freePtr := 0, freeSeq := none,
      tracks := [], written := [], recent := [] }) }

/-- Media cycle of edge k of a trigger program (R269). -/
def edgeAt (s : State) (t : TrigRec) (k : Nat) : Nat :=
  let n := t.start * 512 * s.hz
  n / 1000000000 + (if n % 1000000000 = 0 then 0 else 1) + k * t.period

/-- The first edge of a program at least 2 ms ahead, if it has one (R270). A once program has the one edge k = 0. -/
def firstEdge (s : State) (t : TrigRec) : Option Nat :=
  let least := s.media.c + 512 * s.hz / 500
  let c0 := edgeAt s t 0
  if t.mode = 0 then none
  else if t.mode = 1 then (if least ≤ c0 then some 0 else none)
  else
    let k := if least ≤ c0 then 0 else (least - c0 + t.period - 1) / t.period
    if t.count ≠ 0 ∧ k ≥ t.count then none else some k

/-- The edge after edge k. -/
def edgeAfter (t : TrigRec) (k : Nat) : Option Nat :=
  if t.mode ≠ 2 then none else if t.count ≠ 0 ∧ k + 1 ≥ t.count then none else some (k + 1)

/-- After a phase step each schedule continues from the first edge 2 ms ahead (R270). -/
def reschedule (s : State) : State :=
  let f := fun (_ : Nat) (t : Trigger) =>
    { t with next := t.next.bind fun _ => firstEdge s t.running
             newNext := t.newNext.bind fun _ => firstEdge s t.cfg }
  { s with time.trigs := SMap.mapVals {} f s.time.trigs }

/-- Move the stamps at which the ramps, fades and replays of the render path began. -/
def moveRend (f : Nat → Nat) (s : State) : State :=
  let xp := fun (x : Xpoint) => { x with move := match x.move with
    | .steady => .steady
    | .fade g0 g1 len start r => .fade g0 g1 len (f start) r
    | .watch g0 g1 start p r => .watch g0 g1 (f start) p r }
  { s with
    rend.accords := SMap.mapVals {} (fun _ (a : AccordSlots) =>
      { a with fade := a.fade.map fun v => { v with start := f v.start } }) s.rend.accords
    rend.xpoints := s.rend.xpoints.map xp
    rend.ghosts := s.rend.ghosts.map fun g => (g.1, g.2.1, f g.2.2)
    rend.dests := SMap.mapVals {} (fun _ (d : Dest) =>
      { d with pending := d.pending.map fun p => (p.1, p.2.1, f p.2.2) }) s.rend.dests
    rend.silence := SMap.mapVals {} (fun _ (d : Silence) => { d with last := d.last.map f }) s.rend.silence
    rend.replay := s.rend.replay.map fun e => (e.1, { e.2 with
      start := f e.2.start, old := e.2.old.map fun o => (o.1, f o.2), ending := e.2.ending.map f }) }

/-- Move the indices that the other units hold only to tell how long ago, or how far ahead, something is: the times the manual gives
in seconds go on over a change of the index, and status indices keep naming the instants they name (R9, R36; assumption 14). -/
def moveStamps (f : Nat → Nat) (s : State) : State :=
  { s with
    host.masters := SMap.mapVals {} (fun _ (m : Master) => { m with lastHeard := f m.lastHeard }) s.host.masters
    host.tapRun := s.host.tapRun.map fun r => { r with first := f r.first, last := f r.last }
    host.lateRuns := s.host.lateRuns.map fun e => (e.1, { e.2 with first := f e.2.first, last := f e.2.last })
    scene.updates := s.scene.updates.map fun u => { u with arrived := f u.arrived }
    scene.announced := s.scene.announced.map fun a => { a with arrived := f a.arrived }
    scene.stats := SMap.mapVals {} (fun _ (t : ObjStat) =>
      { t with fade := t.fade.map fun v => { v with block := f v.block } }) s.scene.stats
    scene.peerSt := SMap.mapVals {} (fun _ (t : PeerStat) => { t with lastHeard := f t.lastHeard }) s.scene.peerSt
    power.dryFrom := s.power.dryFrom.map f, power.dryAt := s.power.dryAt.map f, power.dozeAt := f s.power.dozeAt
    nose.dev := { s.nose.dev with
      frameIdx := f (4096 * s.nose.dev.frameIdx) / 4096, lastRefresh := f s.nose.dev.lastRefresh,
      lastProposal := f s.nose.dev.lastProposal }
    nose.health := SMap.mapVals {} (fun _ (h : Health) =>
      { h with since := h.since.map (fun e => (e.1, f e.2)), learnFrom := h.learnFrom.map f }) s.nose.health
    nose.sweepBack := [], nose.marked := [], nose.gates := []
    net.rx := s.net.rx.map fun e => (e.1, { e.2 with
      openAt := f e.2.openAt, closeAt := f e.2.closeAt, stat := { e.2.stat with lastIndex := 0 } })
    net.tx := s.net.tx.map fun e => (e.1, { e.2 with
      openAt := f e.2.openAt, closeAt := f e.2.closeAt, lastStamp := f e.2.lastStamp, part := [] })
    time.servo.holdoff := s.time.servo.holdoff.map f, time.servo.holdFrom := f s.time.servo.holdFrom
    twin.lastHeard := f s.twin.lastHeard, twin.lastBeat := s.twin.lastBeat.map f
    twin.moorHeard := s.twin.moorHeard.map f, twin.netHeard := s.twin.netHeard.map f
    twin.flowHeard := s.twin.flowHeard.map f, twin.claimAt := s.twin.claimAt.map f
    twin.confirm := f s.twin.confirm, twin.burstUntil := f s.twin.burstUntil, twin.servedFrom := f s.twin.servedFrom
    twin.leaseEnd := f s.twin.leaseEnd, twin.leases := s.twin.leases.map fun l => { l with expiry := f l.expiry }
    mem.lastStep := s.mem.lastStep.map f
    boot.loops := s.boot.loops.map fun l => { l with start := f l.start }
    io.anaIn := SMap.mapVals {} (fun _ (a : AnaIn) =>
      { a with samples := [], binds := a.binds.map fun b => (f b.1, b.2) }) s.io.anaIn
    io.tdm := SMap.mapVals {} (fun _ (t : Tdm) =>
      { t with samples := [], binds := t.binds.map (fun b => (f b.1, b.2)), lastFault := t.lastFault.map f }) s.io.tdm }

/-- Add whole media cycles to C (R250). Times that run (a hold-off, a lease, a health hold, a learning, a fade) go on from where they
were; what waits for an index keeps it. -/
def stepBy (n : Int) (s : State) : State :=
  let pulse := fun (_ : Nat) (t : Trigger) => { t with pulse := t.pulse.map fun e => ((e : Int) + n).toNat }
  let was := s.idx
  let s := { s with media.c := (s.media.c + n).toNat, time.trigs := SMap.mapVals {} pulse s.time.trigs }
  let moved := fun (i : Nat) => ceilTo 16 (i + s.idx - was)
  let s := moveStamps moved (moveRend moved (discardRender (s.nextBlock + 4) s))
  let s := { s with nose.sweep := s.nose.sweep.map fun r =>
    if r.start ≤ was then { r with start := moved r.start, excite := moved r.excite, last := moved r.last, aborting := r.aborting.map moved }
    else r }
  let s := updServo (fun v => { v with pending := none, steps := wrapAdd 32 v.steps 1 }) s
  let m := { s.media with snapped := none, caught := none, computed := none, emitted := none, bounded := none,
                          handed := none, windowed := none }
  let s := abandonWarp (setAdrift 5 (forwardDecision [6] (reschedule { s with media := m })))
  timeEvent 5 [arg32 n] s

/-- The step of a set_time request from local time `now` (R267). Under reference 3 the word clock's edges keep falling on period
boundaries, and the request gives the index (Table 9.8): the step is the nearest whole number of periods. -/
def setStep (t : Nat) (now : Int) (s : State) : Int :=
  let ns : Rat := ((t : Int) - now : Int)
  if s.time.ref = 3 then 512 * roundAway (ns * ((s.hz : Nat) : Int) / 1000000000) else s.cyclesOf ns

/-- Make the step of a set_time request: the time it names makes up for any step pending. -/
def setTimeNow (t : Nat) (now : Int) (s : State) : State :=
  stepBy (setStep t now s) (updServo (fun v => { v with setTime := none }) s)

/-- PHASE_STEP (R250, R267): a step the servo or set_time has asked for is made at a block boundary; under reference 2 a set_time
request waits for its PPS edge. -/
def execPhaseStep (s : State) : Host.Outcome State Fault Refusal :=
  let v := s.time.servo
  match (if s.time.ref = 2 then none else v.setTime), v.pending with
  | some t, _ => .next (setTimeNow t s.ptpNs s)
  | none, some n => .next (stepBy n s)
  | none, none => .next s

/-- IRQ_LATENCY_CALIBRATION (R255): the mean is over the last 256. -/
def execIrqLatencyCalibration (ns : Nat) (s : State) : Host.Outcome State Fault Refusal :=
  .next { s with time.latencies := (ns :: s.time.latencies).take 256 }

/-- Bits of pll_lock (Table 9.12). -/
def setBit8 (w : BitVec 8) (i : Nat) (v : Bool) : BitVec 8 :=
  if v then w ||| BitVec.ofNat 8 (2 ^ i) else w &&& ~~~(BitVec.ofNat 8 (2 ^ i))

/-- PLL_LOCK (R275): lock a fixed time after enable. Rendering resumes at the first block boundary after the media PLL's
lock (R11), which BLOCK_BOUNDARY does. -/
def execPllLock (p : Fin 8) (s : State) : Host.Outcome State Fault Refusal :=
  .next { s with time.pllLock := setBit8 s.time.pllLock p.val true, time.coasting := setBit8 s.time.coasting p.val false }

/-- PLLs that REFCLK25 feeds (Table 9.13): all of the render die, the media PLL only under references 0 and 4. -/
def refclkPlls (s : State) : BitVec 8 := if s.time.ref = 0 ∨ s.time.ref = 4 then 0x7F else 0x7D

/-- PLL_LOSS (R275): the PLL coasts; loss of REFCLK25 makes every PLL it feeds coast and sets COAST. -/
def execPllLoss (p : Fin 8) (refclk : Bool) (s : State) : Host.Outcome State Fault Refusal :=
  let s := { s with time.coasting := setBit8 s.time.coasting p.val true }
  let s := if refclk then
      setFlag mCoast true srcDevice
        (updServo (fun v => { v with refclkLost := true }) { s with time.coasting := s.time.coasting ||| refclkPlls s })
    else s
  .next (timeEvent 4 [p.val] s)

/-- PLL_REFERENCE_RETURN (R275): tracking resumes from the frozen value. -/
def execPllReferenceReturn (p : Fin 8) (s : State) : Host.Outcome State Fault Refusal :=
  let fed := (refclkPlls s).getLsbD p.val
  let s := { s with time.coasting := setBit8 s.time.coasting p.val false }
  if s.time.servo.refclkLost && fed then
    .next (updServo (fun v => { v with refclkLost := false }) { s with time.coasting := s.time.coasting &&& ~~~(refclkPlls s) })
  else .next s

/-- REFERENCE_LOST and REFERENCE_QUALIFIED (R266): references 1 to 3. -/
def execReferenceLost (s : State) : Host.Outcome State Fault Refusal :=
  if s.time.ref = 1 ∨ s.time.ref = 2 ∨ s.time.ref = 3 then
    .next (updServo (fun v => { v with extOk := false }) (enterHold 5 s))
  else .next s
def execReferenceQualified (s : State) : Host.Outcome State Fault Refusal :=
  if s.time.ref = 1 ∨ s.time.ref = 2 ∨ s.time.ref = 3 then
    .next (leaveHold 2 (updServo (fun v => { v with extOk := true }) s))
  else .next s

/-- Whole fabric cycles (1.2 GHz) of a glitch filter's setting in nanoseconds, the nearest (R271), and the nominal delay of filter
and synchroniser in nanoseconds, setting + 3 cycles (R26). That the nearest is taken is DESIGN CHOICE, assumption 52. -/
def filterCycles (ns : Nat) : Nat := (ns * 12 + 5) / 10
def captureDelay (ns : Nat) : Nat := ((filterCycles ns + 3) * 10 + 6) / 12

/-- CAPTURE_EDGE (R271): an edge of a pulse of `width` ns, synchronised at local time `time`. Pulses shorter than the filter are
rejected; a full queue keeps a gap marker (R257). With reference 2 a rising edge on CAPT0 is a PPS edge: its offset from whole
seconds goes to the servo, and a set_time request is met there (R266, R267). -/
def execCaptureEdge (i : Fin 4) (rising : Bool) (width time : Nat) (s : State) : Host.Outcome State Fault Refusal :=
  let c := s.capt i.val
  let at_ := time - captureDelay c.filter
  if width * 12 < filterCycles c.filter * 10 || !(c.edges.testBit (if rising then 0 else 1)) then .next s
  else
    let push := fun (c : Capture) =>
      let q := c.queue
      let q := if q.length + 2 ≤ 16 then q ++ [{ stamp := at_, rising := rising, seq := c.seq }]
        else if q.length < 16 then q ++ [{ stamp := 0, gap := true, count := 1, seq := c.seq }]
        else q.dropLast ++ (q.getLast?).toList.map fun e => { e with count := holdAdd 255 e.count 1 }
      { c with queue := q, seq := wrapAdd 16 c.seq 1 }
    let s := updCapt i.val push s
    if i.val = 0 ∧ rising ∧ s.time.ref = 2 then
      match s.time.servo.setTime with
      | some t => .next (setTimeNow t at_ s)
      | none =>
        if s.time.servo.state = 4 then .next s
        else
          let o : Int := ((at_ : Int) + 500000000) % 1000000000 - 500000000
          .next (servoApply o 1 s)
    else .next s

/-- TRIGGER_EDGE (R269, R270): the edge due makes a pulse of width cycles; a new program takes over at its own first edge, and a
pulse in progress completes its width. -/
def execTriggerEdge (i : Fin 4) (s : State) : Host.Outcome State Fault Refusal :=
  let t := s.trig i.val
  let until_ := fun (e : Nat) => some (match t.pulse with | some x => max x e | none => e)
  let due := fun (r : TrigRec) (k : Option Nat) => match k with
    | some k => if edgeAt s r k ≤ s.media.c then some (edgeAt s r k, k) else none
    | none => none
  if s.flag mSafe then .next s
  else match due t.cfg t.newNext with
    | some (c, k) => .next (updTrig i.val (fun t =>
        { t with running := t.cfg, newNext := none, next := edgeAfter t.cfg k
                 fired := wrapAdd 32 t.fired 1, pulse := until_ (c + t.cfg.width) }) s)
    | none => match due t.running t.next with
      | some (c, k) => .next (updTrig i.val (fun t =>
        { t with next := edgeAfter t.running k, fired := wrapAdd 32 t.fired 1, pulse := until_ (c + t.running.width) }) s)
      | none => .next s

/-- Level of a trigger output (R269): active during a pulse, otherwise the inactive level of its polarity. A program that
has not taken over leaves the polarity of the one that runs (R270). -/
def State.trigLevel (s : State) (i : Nat) : Bool :=
  let t := s.trig i
  let active := !s.flag mSafe && (match t.pulse with | some e => s.media.c < e | none => false)
  active != (if active || t.next.isSome then t.running.low else t.cfg.low)

/-- The device sends as a master on a port (R253, R268). -/
def State.masterOn (s : State) (p : Nat) : Bool :=
  p < 2 && s.ptpOn p && (s.timePort p).flags.testBit 1 && s.isGm && !(s.clock p).passive

/-- The Announce the device sends as a master (R268): timeSource is GNSS under clockClass 6. -/
def State.announceMsg (s : State) (p : Nat) : OutMsg :=
  let m := s.own9
  .ptpAnnounce p m.gmId m.priority1 m.clockClass m.priority2 (if m.clockClass = 6 then 0x20 else 0xA0) s.time.dev.utcOffset

/-- The tag of the next PTP event message of a port, and its sending: with a stamp request, under that tag (R256). -/
def State.ptpTag (s : State) (p : Nat) : Nat := (s.clock p).seq % 65536
def sendEvent (p kind time : Nat) (s : State) : State :=
  updClock p (fun c => { c with seq := c.seq + 1 }) (queuePtp p kind (s.ptpTag p) (send (.ptp p kind time 0) s))

/-- PTP_SEND_INTERVAL (R251, R268): kind 0 Sync and 1 Announce as master, 2 the delay request of a slave, or of every port
under the peer mechanism. -/
def execPtpSendInterval (port : Fin 3) (kind : Fin 3) (s : State) : Host.Outcome State Fault Refusal :=
  let p := port.val
  let s := readTsq p s
  let tag := s.ptpTag p
  if !s.ptpOn p || portDeaf s p then .next s
  else if kind.val = 0 then
    if s.masterOn p then .next (updClock p (fun c => { c with syncTag := some tag }) (sendEvent p 0 s.ptpNs s)) else .next s
  else if kind.val = 1 then
    if s.masterOn p then .next (queueOwn p 0 (ptpLength s.time.dev.profile 1) 0 (send (s.announceMsg p) s)) else .next s
  else if s.p2p p then .next (updClock p (fun c => { c with reqTag := some tag }) (sendEvent p 5 s.ptpNs s))
  else if !s.masterOn p && (s.clock p).master.isSome && s.time.ref = 0 then
    .next (updClock p (fun c => { c with reqTag := some tag }) (sendEvent p 2 s.ptpNs s))
  else .next s

/-- PTP_DELAY_REQUEST (R251): Delay_Resp from a master, Pdelay_Resp from any port under the peer mechanism, whose Follow_Up gives
its own departure once its stamp is read. -/
def execPtpDelayRequest (port : Fin 3) (p2p : Bool) (t2 : Nat) (s : State) : Host.Outcome State Fault Refusal :=
  let p := port.val
  let t := (s.rxStamp p t2).toNat
  let tag := s.ptpTag p
  if !s.ptpOn p then .next s
  else if p2p then
    if s.p2p p then .next (updClock p (fun c => { c with respTags := c.respTags ++ [tag] }) (sendEvent p 6 t s)) else .next s
  else if s.masterOn p && !s.p2p p then .next (sendGeneral p 3 t s)
  else .next s

/-- A destination's binding once what is pending has happened; a crosspoint that is on its way out (R159, R160). -/
def destBound (d : Dest) : Nat × Nat := match d.pending with | some (k, i, _) => (k, i) | none => (d.outKind, d.outIndex)
def xpLeaving (x : Xpoint) : Bool :=
  match x.move with | .steady => false | .fade _ _ _ _ remove => remove | .watch _ _ _ _ remove => remove

/-- What is bound fits 192 kHz (R12): a pending unbinding or release frees its resource, a pending binding holds it. -/
def fits192 (s : State) : Bool :=
  let chOk := fun (c : Nat) => c < 512 || c == 65535
  let netOk := fun (b : Nat × Nat) => b.1 != 1 || b.2 < 320
  let xs := s.rend.xpoints.filter fun x => !xpLeaving x
  s.activeIds.length ≤ 256 && xs.length ≤ 2048 &&
  (s.scene.speakers.all fun e => (!e.2.enabled || outExists 2 e.1) && netOk (e.2.outKind, e.2.outIndex)) &&
  (s.rend.dests.all fun e => (!isTop e.1 || (e.2.ramp.muted && (destBound e.2).1 == 0)) && netOk (destBound e.2)) &&
  (xs.all fun x => sourceOk 2 x.source && destOk 2 x.dest) &&
  (s.net.tx.all fun e => e.2.state != 1 || (!e.2.cfg.top && (e.2.cfg.format ≥ 3 || e.2.cfg.first + e.2.cfg.channels ≤ 320))) &&
  (s.net.rx.all fun e => e.2.state != 1 || e.2.cfg.first + e.2.cfg.channels ≤ 512) &&
  (s.io.anaIn.all fun e => chOk (e.2.newChannel.getD e.2.channel)) &&
  (s.io.tdm.all fun e => let f := e.2.newFirst.getD e.2.inFirst; f == 65535 || f + e.2.slots ≤ 512) &&
  (s.rend.replay.all fun e => e.1 < 512 || e.2.ending.isSome) &&
  (s.scene.stats.all fun e => chOk (e.2.bind.getD 65535)) &&
  (s.nose.obs.all fun e => chOk e.2.channel) && (s.nose.health.all fun e => chOk e.2.vChan && chOk e.2.iChan) &&
  (s.nose.pairs.all fun e => !e.2.flags.testBit 0 || (e.1 < 2048 && (e.2.output == 65535 || outExists 2 e.2.output)))

/-- TIME_CFG kind 0 at acceptance (R11, R12, R16, R252, R253, R267): `near` is the state expected at the next block boundary
(R334), `last` the one with every accepted command in effect (R12). -/
def checkTimeDev (p : Bytes) (s near last : State) : Option Status :=
  let m := (maskOf p).testBit
  let dev := s.time.newDev.getD s.time.dev
  let dark := near.flag mDark
  let heart := m 0 && getU p 8 1 != s.heartNext
  let cat := m 1 && getU p 10 2 != s.media.newCatch.getD s.media.catchL
  let prof := m 2 && (getU p 12 1, getU p 13 1) != (dev.profile, dev.domain)
  let p2pFilter := fun q => !s.ptpOn q || (s.port q).filter.has q 0x0180C200000E
  if (heart || cat || prof) && !dark then some .refusedMode
  else if m 2 && getU p 12 1 = 2 && !(p2pFilter 0 && p2pFilter 1) then some .badParam
  else if m 7 && s.time.ref = 0 then some .badParam
  else if m 7 && !(dark || s.time.dev.stepPolicy) then some .refusedMode
  else if heart && getU p 8 1 = 2 && !fits192 last then some .noResource
  else none

/-- The record a TIME_CFG with mask 0 returns: what was written last. -/
def State.timePortNext (s : State) (i : Nat) : TimePort :=
  s.time.newCfgs.foldl (fun r p => if kindOf p = 1 && indexOf p = i then r.write (maskOf p) p else r) (s.timePort i)
def captWrite (c : Capture) (p : Bytes) : Capture :=
  if (maskOf p).testBit 0 then { c with edges := getU p 8 1, filter := getU p 10 2 } else c
def State.captNext (s : State) (i : Nat) : Capture :=
  s.time.newCfgs.foldl (fun r p => if kindOf p = 3 && indexOf p = i then captWrite r p else r) (s.capt i)

def timeBody (p : Bytes) (s : State) : Bytes :=
  match kindOf p with
  | 0 => (s.time.newDev.getD s.time.dev).bytes 0 s.heartNext (s.media.newCatch.getD s.media.catchL)
  | 1 => (s.timePortNext (indexOf p)).bytes 0 (indexOf p)
  | 2 => refBytes (s.time.newRef.getD s.time.ref) 0
  | _ => captBytes (s.captNext (indexOf p)) 0 (indexOf p)

/-- TIME_CFG (R252, R253, R265, R266, R271): accepted at once, in force from the next block boundary. -/
def writeTimeCfg (p : Bytes) (s : State) : State :=
  match kindOf p with
  | 0 =>
    let m := (maskOf p).testBit
    let s := { s with time.newDev := some ((s.time.newDev.getD s.time.dev).write (maskOf p) p),
                      media.newHeart := if m 0 then some (getU p 8 1) else s.media.newHeart,
                      media.newCatch := if m 1 then some (getU p 10 2) else s.media.newCatch }
    if m 7 then updServo (fun v => { v with setTime := some (getU p 40 8) }) s else s
  | 2 => { s with time.newRef := some (getU p 8 1) }
  | _ => { s with time.newCfgs := s.time.newCfgs ++ [p] }

/-- TIME_CFG (R248, R252, R265, R271): refused, read, or written. -/
def doTimeCfg (p : Bytes) (near last s : State) : Reply :=
  if !timePayloadOk (s.time.newDev.getD s.time.dev).profile p then no .badParam
  else if maskOf p = 0 then .done s (timeBody p s)
  else match kindOf p with
    | 0 =>
      match checkTimeDev p s near last with
      | some st => no st
      | none => .done (writeTimeCfg p s) []
    | 1 =>
      if (maskOf p).testBit 0 && indexOf p = 2 && (getU p 8 1).testBit 2 then no .badParam
      else .done (writeTimeCfg p s) []
    | 2 =>
      if getU p 8 1 = 2 && !((s.captNext 0).edges.testBit 0) then no .badParam
      else .done (writeTimeCfg p s) []
    | _ => .done (writeTimeCfg p s) []

/-- The timing changes of a block boundary (R252, R265, R276). -/
def timeBoundary (s : State) : State :=
  let s := s.time.newCfgs.foldl (fun s p =>
    if kindOf p = 1 then
      { s with time.ports := SMap.put (if indexOf p = 2 then { flags := 0 } else {}) s.time.ports (indexOf p)
                 ((s.timePort (indexOf p)).write (maskOf p) p) }
    else updCapt (indexOf p) (captWrite · p) s) { s with time.newCfgs := [] }
  let s := match s.time.newDev with
    | some d =>
      let moved := (d.profile, d.domain) != (s.time.dev.profile, s.time.dev.domain)
      let s := { s with time.dev := d, time.newDev := none, time.spread := d.spreadFabric }
      if moved then [0, 1, 2].foldl (fun s p => requalify p s) (enterHold 5 s) else s
    | none => s
  let s := match s.time.newRef with
  | some r =>
    let s := { s with time.newRef := none }
    if r = s.time.ref then s
    else
      let s := updServo (fun v => { v with extOk := r == 4, conflict := false, ref := none, holdoff := none, rrWait := false })
        { enterHold 5 s with time.ref := r }
      let s := { s with time.clocks := SMap.mapVals {} (fun _ (c : PortClock) => { c with
                          passive := false, barred := false, qualified := false, run := [], delay := none }) s.time.clocks }
      s
  | none => s
  if s.time.ref = 4 ∧ s.time.servo.state = 4 then leaveHold 3 s else s

/-- Status fields of a trigger: the next edge as PTP time, 0 when none (Table 9.9). -/
def trigBody (s : State) (i : Nat) : Bytes :=
  let t := s.trig i
  let at_ := match t.newNext, t.next with
    | some k, none => some (edgeAt s t.cfg k)
    | some k, some j => some (min (edgeAt s t.cfg k) (edgeAt s t.running j))
    | none, some j => some (edgeAt s t.running j)
    | none, none => none
  trigBytes t.cfg 0 i (match at_ with | some c => c * 1000000000 / (512 * s.hz) | none => 0) t.fired

/-- TRIG_SET (R269, R270): untimed. Mode 0 ends the schedule; a pulse in progress completes. -/
def doTrigSet (p : Bytes) (s : State) : Reply :=
  if !trigPayloadOk p then no .badParam
  else
    let i := getU p 4 1
    let m := maskOf p
    if m = 0 then .done s (trigBody s i)
    else
      let t := s.trig i
      let new := t.cfg.write m p
      let k := firstEdge s new
      if new.mode = 1 && k.isNone then no .badParam
      else if new.mode = 0 then .done (updTrig i (fun t => { t with cfg := new, next := none, newNext := none }) s) []
      else .done (updTrig i (fun t => { t with cfg := new, newNext := k }) s) []

/-- CAPT_READ (R272): removes up to max entries, oldest first. -/
def doCaptRead (p : Bytes) (s : State) : Reply :=
  let n := getU p 1 1
  if p.length ≠ 8 || getU p 0 1 > 3 || n = 0 || n > 16 || getU p 2 6 ≠ 0 then no .badParam
  else
    let c := s.capt (getU p 0 1)
    .done (updCapt (getU p 0 1) (fun c => { c with queue := c.queue.drop n }) s)
      ((c.queue.take n).flatMap CaptEntry.bytes)

/-- TIME_STAT (R273): Table 9.12, at one instant. -/
def timeStatBody (s : State) : Bytes :=
  let v := s.time.servo
  let running := if v.state = 4 then (s.idx - v.holdFrom) * 1000 / s.hz else 0
  let flags := bit (s.flag mCoast) + bit s.isGm 1 + bit v.holdoff.isSome 2 + bit v.conflict 3 + bit v.far 4 +
    bit v.refclkLost 5
  le 1 v.state ++ le 1 (v.ref.getD 255) ++ le 2 flags ++ le 1 s.time.pllLock.toNat ++
    le 1 (if s.isGm || v.ref.isNone then s.ownClass else v.clockClass) ++ zeros 2 ++
    le 8 s.gmNow ++ le 8 s.ptpNs ++ le 8 s.idx ++ leI 8 (roundAway (match v.ref with | some p => (s.clock p).offset | none => 0)) ++
    leI 4 (roundAway (v.ybar * 1000000000)) ++
    ([0, 1, 2].flatMap fun q => le 4 (roundAway (s.clock q).dbar).toNat) ++ le 4 v.steps ++ le 4 v.reroutes ++
    le 1 v.rrPort ++ le 1 v.rrOutcome ++ zeros 2 ++ leI 4 v.rrStep ++ leI 4 v.rrOffset ++
    le 4 (wrapAdd 32 v.holdMs running) ++ le 4 (SMap.get 0 s.time.tsqOver 0) ++ le 4 (SMap.get 0 s.time.tsqOver 1) ++
    le 4 s.irqLatency ++ zeros 4
def doTimeStat (p : Bytes) (s : State) : Reply := if p.length ≠ 0 then no .badParam else .done s (timeStatBody s)

end Sys2Proof.Machine
end

