-- ==== Sys2Proof/Machine/Net.lean ====
section
/-!
DEFINITION. The network (chapter 8): port and filter records, frame acceptance, receive berths and jitter buffers, scene-bus
and Phoenaox frames, transmit berths and packets, queues and shaping, descriptor rings and segmentation.
-/
namespace Sys2Proof.Machine

/-- Packet payload of a transmit berth (R238, Table 8.6): rate, samples per packet, payload bytes. -/
def txRate (hz : Nat) (r : TxRec) : Nat := if r.top then 2 * hz else hz
def txPer (hz : Nat) (r : TxRec) : Nat :=
  if r.format = 2 then 16 else txRate hz r / [8000, 4000, 3000, 1000].getD r.ptime 1000
def wordBytes (format : Nat) : Nat := [2, 3, 4].getD format 4
def txPayload (hz : Nat) (r : TxRec) : Nat := txPer hz r * r.channels * wordBytes r.format

/-- Bytes of a packet as R241 counts them. -/
def txWire (s : State) (port payload format : Nat) : Nat :=
  payload + (if format = 2 then 90 else 74) + (if (s.port port).cfg.vid = 0 then 0 else 4)

/-- Bandwidth of a media transmit berth on a port, in bit/s (R241). -/
def txBandwidth (s : State) (port : Nat) (r : TxRec) : Nat :=
  if r.format ≥ 3 then 0
  else txWire s port (txPayload s.hz r) r.format * 8 * txRate s.hz r / txPer s.hz r

/-- Bandwidth committed to a queue of a port. -/
def committed (s : State) (port queue : Nat) : Nat :=
  s.net.tx.foldl (fun a e => if e.2.state != 0 && e.2.cfg.ports.testBit port && e.2.cfg.queue == queue
    then a + txBandwidth s port e.2.cfg else a) 0

/-- Line rate of a port in kbit/s. -/
def lineRate (port speed : Nat) : Nat :=
  if port = 2 then (if speed = 0 then 1000000 else 100000) else if speed = 0 then 25000000 else 10000000

def setAt {α : Type} (l : List α) (i : Nat) (f : α → α) : List α := l.zipIdx.map fun e => if e.2 = i then f e.1 else e.1

/-- Largest frame of a port, with FCS (R216). -/
def frameLimit (cfg : PortRec) (tagged : Bool) : Nat := (if cfg.jumbo then 9018 else 1518) + (if tagged then 4 else 0)

/-- Headers a segmentation send carries (R246): offset of IPv4, its length, UDP or TCP, whole length. -/
structure Headers where
  l3 : Nat
  l4 : Nat
  udp : Bool
  len : Nat
deriving DecidableEq, Repr

/-- The headers found in a frame: Ethernet, with or without a VLAN tag, IPv4, UDP or TCP. -/
def headersOf (p : Bytes) : Option Headers :=
  let l3 := if getB p 12 2 = 0x8100 then 18 else 14
  let proto := getU p (l3 + 9) 1
  let l4 := l3 + 4 * (getU p l3 1 % 16)
  if getB p (l3 - 2) 2 ≠ 0x0800 ∨ getU p l3 1 / 16 ≠ 4 ∨ (proto ≠ 17 ∧ proto ≠ 6) ∨ p.length < l4 + 8 then none
  else some ⟨l3, l4, proto = 17, if proto = 17 then l4 + 8 else l4 + 4 * (getU p (l4 + 12) 1 / 16)⟩

/-- Insert the IPv4 header checksum. -/
def putIpSum (h : Headers) (p : Bytes) : Bytes :=
  let p := patch p (h.l3 + 10) (zeros 2)
  patch p (h.l3 + 10) (be 2 (inetSum (words16 (slice p h.l3 (h.l4 - h.l3)))))

/-- Insert the UDP or TCP checksum over the pseudo-header; a UDP checksum of 0 is sent as 0xFFFF. -/
def putL4Sum (h : Headers) (p : Bytes) : Bytes :=
  let at_ := h.l4 + (if h.udp then 6 else 16)
  let p := patch p at_ (zeros 2)
  let seg := p.drop h.l4
  let c := inetSum (words16 (slice p (h.l3 + 12) 8) + (if h.udp then 17 else 6) + seg.length + words16 seg)
  patch p at_ (be 2 (if h.udp && c == 0 then 65535 else c))

/-- Segment j of n of a segmentation send (R245). -/
def segment (h : Headers) (head body : Bytes) (mss n j : Nat) : Bytes :=
  let part := (body.drop (mss * j)).take mss
  let p := head ++ part
  let p := patch p (h.l3 + 2) (be 2 (p.length - h.l3))
  let p := patch p (h.l3 + 4) (be 2 ((getB head (h.l3 + 4) 2 + j) % 65536))
  let p := if h.udp then patch p (h.l4 + 4) (be 2 (p.length - h.l4))
    else
      let p := patch p (h.l4 + 4) (be 4 ((getB head (h.l4 + 4) 4 + mss * j) % 2 ^ 32))
      let fl := getU head (h.l4 + 13) 1
      let fl := if j + 1 = n then fl else fl &&& 0xF6
      patch p (h.l4 + 13) (be 1 (if j = 0 then fl else fl &&& 0x7F))
  putL4Sum h (putIpSum h p)

/-- The frames of a transmit chain, or none where the MAC refuses it (R245, R246). -/
def chainFrames (cfg : PortRec) (chain : List TxDesc) : Option (List Bytes) :=
  let data := chain.flatMap TxDesc.data
  let limit := frameLimit cfg (getB data 12 2 == 0x8100) - 4
  match chain with
  | [] => none
  | d :: _ =>
    if !d.segment then
      if data.length > limit then none
      else match headersOf data with
        | some h => let p := if d.ipSum then putIpSum h data else data
                    some [if d.l4Sum then putL4Sum h p else p]
        | none => some [data]
    else match headersOf data with
      | none => none
      | some h =>
        if d.total > 65535 ∨ d.hdrLen ≠ h.len ∨ d.udp ≠ h.udp ∨ d.hdrLen + d.mss > limit ∨ d.mss < 64 ∨ d.total = 0 then none
        else
          let n := (d.total + d.mss - 1) / d.mss
          some ((List.range n).map (segment h (data.take d.hdrLen) ((data.drop d.hdrLen).take d.total) d.mss n))

/-- The frames of a send, as they join the ring's queue. The MAC tags those that carry no tag of their own (Table 8.2). -/
def sendFrames (cfg : PortRec) (ring id : Nat) (chain : List TxDesc) (fs : List Bytes) : List TxPkt :=
  let d := chain.headD { data := [] }
  let tci := if cfg.vid = 0 then none else some (cfg.vlan % 32768)
  fs.zipIdx.map fun e =>
    let t := if getB e.1 12 2 = 0x8100 then none else tci
    { queue := ring, wire := max 64 (e.1.length + 4 + (if t.isSome then 4 else 0)) + 20, data := e.1, tci := t, chain := some (ring, id)
      tag := if d.reqStamp && e.2 == 0 then some d.stampTag else none }

/-- The MAC takes up a send: its frames join the queue, or it is refused, which is counted and written back on every descriptor
(R245, R246). -/
def takeSend (ring : Nat) (t : TxSend) (q : Port) : Port :=
  let back := fun (u : TxSend) => { q with tx := setAt q.tx ring fun r => { r with ring := r.ring.map fun (v : TxSend) => if v.id = t.id then u else v } }
  match chainFrames q.cfg t.descs with
  | none =>
    let p := back { t with taken := true, descs := t.descs.map fun d => { d with owned := false, done := true, error := true } }
    { p with stat := { p.stat with lsoErr := wrapAdd 32 p.stat.lsoErr 1 } }
  | some fs =>
    let p := back { t with taken := true, left := fs.length }
    { p with queued := p.queued ++ sendFrames q.cfg ring t.id t.descs fs }

/-- A MAC takes up the sends of its enabled rings, oldest first. -/
def takeSends (q : Port) : Port :=
  (List.range 6).foldl (fun q ring =>
    let r := q.tx.getD ring {}
    if r.enabled then (r.ring.filter fun t => !t.taken).foldl (fun q t => takeSend ring t q) q else q) q

/-- PORT_CFG at acceptance (R218). `views` are the states the accepted commands lead to. -/
def checkPortCfg (p : Bytes) (s : State) (views : List State) : Option Status :=
  let i := getU p 4 1
  let old := (s.port i).cfg
  let new := old.write (maskOf p) p
  if !portPayloadOk new p then some .badParam
  else if (new.speed, new.fec) != (old.speed, old.fec) && !(views.headD s).flag mDark then some .refusedMode
  else if i < 2 && new.idleA + new.idleB > lineRate i new.speed * 3 / 4 then some .badParam
  else if i < 2 && views.any fun v =>
      let v := updPort i (fun q => { q with cfg := new }) v
      new.idleA * 1000 < committed v i 6 || new.idleB * 1000 < committed v i 7 then some .noResource
  else none

/-- PORT_CFG (R218, R247): untimed. A change of speed or FEC takes the link down; clearing the enabled flag disables the
port's rings, and the command is answered when they have drained. -/
def doPortCfg (p : Bytes) (views : List State) (s : State) : Reply :=
  let i := getU p 4 1
  if maskOf p = 0 then
    if portPayloadOk (s.port i).cfg p then .done s (portBytes (s.port i).cfg (s.port i).stat 0 i) else no .badParam
  else match checkPortCfg p s views with
    | some st => no st
    | none =>
      let old := (s.port i).cfg
      let new := old.write (maskOf p) p
      let s := updPort i (fun q => { q with cfg := new }) s
      let s := if (new.speed, new.fec) != (old.speed, old.fec) then linkLost i s else s
      let rings := fun (v : Bool) (q : Port) => { q with rx := q.rx.map fun r => { r with enabled := v },
                                                         tx := q.tx.map fun r => { r with enabled := v } }
      if old.enabled && !new.enabled then .owe (updPort i (fun q => { rings false q with draining := true }) s) i
      else if !old.enabled && new.enabled then .done (updPort i (fun q => takeSends (rings true q)) s) []
      else .done s []

/-- RING_DISABLE_DRAIN_END (R247): the frames in flight are complete. -/
def execRingDisableDrainEnd (port : Fin 3) (s : State) : Host.Outcome State Fault Refusal :=
  if (s.port port.val).draining then
    .next (settleOwed .portCfg port.val .ok [] (updPort port.val (fun q => { q with draining := false }) s))
  else .next s

/-- FILTER_SET (R220): untimed. -/
def doFilterSet (p : Bytes) (s : State) : Reply :=
  if !filterPayloadOk p then no .badParam
  else
    let i := getU p 4 1
    if maskOf p = 0 then .done s (filterBytes (s.port i).filter 0 i)
    else .done (updPort i (fun q => { q with filter := q.filter.write (maskOf p) p }) s) []

/-- A receive berth's key (R226). -/
def rxKey (r : RxRec) : Nat × Nat × Nat × Option Nat :=
  (r.group, r.udpPort, r.vlan, if r.flags.testBit 0 then some r.source else none)

/-- Input channels a berth or a local input holds: first and count, with who holds them (berth, or 256 and up). -/
def channelRanges (s : State) : List (Nat × Nat × Nat) :=
  (s.net.rx.filterMap fun e => if e.2.state != 0 && e.2.cfg.channels != 0 then some (e.1, e.2.cfg.first, e.2.cfg.channels) else none) ++
  (s.io.anaIn.filterMap fun e => let c := e.2.newChannel.getD e.2.channel; if c = 65535 then none else some (256 + e.1, c, 1)) ++
  (s.io.tdm.filterMap fun e => let f := e.2.newFirst.getD e.2.inFirst; if f = 65535 then none else some (264 + e.1, f, e.2.slots))

/-- Channels overlap those of another holder. -/
def channelsHeld (s : State) (who first n : Nat) : Bool :=
  (channelRanges s).any fun e => e.1 != who && overlaps first n e.2.1 e.2.2

/-- BERTH_OPEN at acceptance (R226, R237); channels that only 192 kHz lacks are BAD_PARAM (R12, assumption 14). `views` are the states from the command's block on, without it. -/
def checkRxOpen (p : Bytes) (s : State) (views : List State) : Option Status :=
  let r := rxOf p
  let b := getU p 2 2
  if !rxPayloadOk p || (s.heartNext = 2 && 512 < r.first + r.channels && r.first + r.channels ≤ 1024) then some .badParam
  else if views.any fun v => v.net.rx.any fun e => e.1 == b && e.2.state != 0 then some .busy
  else if views.any fun v => v.net.rx.any fun e =>
      e.2.state != 0 && (e.2.cfg.ports &&& r.ports) != 0 && rxKey e.2.cfg == rxKey r then some .busy
  else if r.channels != 0 && views.any fun v => channelsHeld v b r.first r.channels then some .noResource
  else if r.first + r.channels > chanCount s.heartNext then some .noResource
  else none

def checkTxOpen (p : Bytes) (s : State) (views : List State) : Option Status :=
  let r := txOf p
  let b := getU p 2 2
  let ports := [0, 1].filter fun q => r.ports.testBit q
  let media := r.format < 3
  let inside := fun i => r.first ≤ i && i < r.first + r.channels
  if !txPayloadOk p || (media && s.heartNext = 2 && 320 < r.first + r.channels && r.first + r.channels ≤ 576) then some .badParam
  else if views.any fun v => v.net.tx.any fun e => e.1 == b && e.2.state != 0 then some .busy
  else if media && (r.first + r.channels > netOutCount s.heartNext || views.any fun v => v.net.tx.any fun e =>
      e.2.state != 0 && e.2.cfg.format < 3 && overlaps r.first r.channels e.2.cfg.first e.2.cfg.channels) then some .noResource
  else if r.top && s.heartNext = 2 then some .badParam
  else if media && r.top && views.any fun v => topBound [(r.first, r.channels)] v > topOutputs then some .noResource
  else if media && ports.any fun q => txPayload (heartHz s.heartNext) r > (if (s.port q).cfg.jumbo then 8960 else 1460)
  then some .badParam
  else if media && views.any fun v =>
      (r.top && v.scene.speakers.any fun e => e.2.outKind == 1 && inside e.2.outIndex) ||
      v.rend.dests.any fun e => e.2.outKind == 1 && inside e.2.outIndex && isTop e.1 != r.top then some .badParam
  else if media && views.any fun v => ports.any fun q =>
      committed v q r.queue + txBandwidth v q r > 1000 * (if r.queue = 6 then (v.port q).cfg.idleA else (v.port q).cfg.idleB)
  then some .noResource
  else none

def checkBerthOpen (p : Bytes) (s : State) (views : List State) : Option Status :=
  if getU p 0 1 = 0 then checkRxOpen p s views else if getU p 0 1 = 1 then checkTxOpen p s views else some .badParam

/-- A BERTH_CLOSE or BERTH_STAT payload (R235): direction and berth. -/
def berthPayloadOk (p : Bytes) : Bool :=
  p.length == 4 && getU p 1 1 == 0 && getU p 0 1 ≤ 1 && getU p 2 2 ≤ (if getU p 0 1 = 0 then 255 else 127)

/-- BERTH_CLOSE at acceptance: an open berth, with no close accepted before (R235). `view` counts accepted commands in. -/
def checkBerthClose (p : Bytes) (s : State) (view : State) : Option Status :=
  let d := getU p 0 1
  let b := getU p 2 2
  if !berthPayloadOk p then some .badParam
  else if s.host.cmds.any fun c => c.op == .berthClose && !c.applied && slice c.payload 0 4 == slice p 0 4 then some .notFound
  else if (if d = 0 then view.net.rx.any fun e => e.1 == b && e.2.state == 1
           else view.net.tx.any fun e => e.1 == b && e.2.state == 1) then none
  else some .notFound

def berthUnits (op : Opcode) (p : Bytes) : List UnitKey := [⟨op, 512 * getU p 0 1 + getU p 2 2, 0⟩]

/-- BERTH_STAT (R236). -/
def doBerthStat (p : Bytes) (s : State) : Reply :=
  let b := getU p 2 2
  if !berthPayloadOk p then no .badParam
  else if getU p 0 1 = 0 then
    match SMap.look s.net.rx b with
    | some x => .done s (rxBytes x.cfg b ++ rxStatBytes x.stat x.state)
    | none => no .notFound
  else
    match SMap.look s.net.tx b with
    | some x => .done s (txBytes x.cfg b ++ txStatBytes x)
    | none => no .notFound

/-- Multicast groups a berth joins (R221). -/
def rxMembers (r : RxRec) : List Member :=
  if r.flags.testBit 1 && 224 * 2 ^ 24 ≤ r.group && r.group < 240 * 2 ^ 24 then
    ([0, 1].filter fun q => r.ports.testBit q).map fun q => ⟨q, r.group, if r.flags.testBit 0 then some r.source else none⟩
  else []

/-- An IGMPv3 report of a membership (RFC 3376: 14 bytes of Ethernet header, 24 of IPv4 with the router alert, 8 of report, 8 of
record, 4 of source, FCS; PRESUMED, assumption 50). -/
def report (m : Member) (join : Bool) (s : State) : State :=
  send (.igmp m join) (queueOwn m.port 0 (if m.source.isSome then 62 else 58) 0 s)

/-- Another holder keeps a membership that one gives up: the same one, or one of the group from any source. -/
def heldGroup (ms : List Member) (m : Member) : Bool :=
  ms.any fun e => e.port == m.port && e.group == m.group && (e.source == m.source || e.source == none)

def joinGroups (ms : List Member) (s : State) : State :=
  ms.foldl (fun s m => report m true { s with net.members := s.net.members ++ [m] }) s

/-- A membership is left once nobody holds it (R221). Where the group goes on from named sources alone, those are reported. -/
def leaveGroup (m : Member) (s : State) : State :=
  let rest := s.net.members.erase m
  let s := { s with net.members := rest }
  let same := rest.filter fun e => e.port == m.port && e.group == m.group
  if heldGroup rest m then s
  else if m.source.isSome || same.isEmpty then report m false s
  else same.foldl (fun s e => report e true s) s
def leaveGroups (ms : List Member) (s : State) : State := ms.foldl (fun s m => leaveGroup m s) s

/-- The memberships that an IGMP query asks for, reported (R221): those of its group, or all. -/
def answerQuery (port : Nat) (ip : Ipv4) (s : State) : State :=
  let group := getB ip.payload 4 4
  if ip.igmp && getU ip.payload 0 1 = 0x11 then
    (s.net.members.filter fun m => m.port == port && (group == 0 || m.group == group)).eraseDups.foldl (fun s m => report m true s) s
  else s

/-- Free the slots of a range of channels. -/
def freeSlots (first n : Nat) (s : State) : State :=
  { s with net.jitter := s.net.jitter.filter fun e => !(first ≤ e.1 && e.1 < first + n) }

/-- A bridge stops: its state is cleared; its settings and counters stay (R123). -/
def stopBridge (b : Bridge) : Bridge := { b with pos := 0, r := 0, integ := 0, fill := 0, placed := false, slipped := false, state := 0 }

/-- BERTH_OPEN at its block boundary (R226, R237): counters from 0, and a bridge at its start. -/
def applyBerthOpen (c : Cmd) (s : State) : State :=
  let p := c.payload
  let b := getU p 2 2
  if getU p 0 1 = 0 then
    let r := rxOf p
    joinGroups (rxMembers r) (freeSlots r.first r.channels
      { s with net.rx := SMap.ins s.net.rx b { cfg := r, openAt := c.effect }
               rend.bridges := SMap.upd {} s.rend.bridges b stopBridge })
  else { s with net.tx := SMap.ins s.net.tx b { cfg := txOf p, openAt := c.effect } }

/-- BERTH_CLOSE at its block boundary (R235, R242): the drain begins; its end owes the answer. A berth that is not open
there is answered NOT_FOUND. -/
def applyBerthClose (c : Cmd) (s : State) : State :=
  let d := getU c.payload 0 1
  let b := getU c.payload 2 2
  let owed : Owed := ⟨c.id, .berthClose, (match c.origin with | .master m => m | _ => 0), c.seq, c.apply, c.accepted, 512 * d + b, [], false⟩
  let open_ := if d = 0 then s.net.rx.any fun e => e.1 == b && e.2.state == 1 else s.net.tx.any fun e => e.1 == b && e.2.state == 1
  if !open_ then (if c.answered then s else answerOwed owed .notFound [] s)
  else
    let s := if c.answered then s else { s with host.owed := s.host.owed ++ [owed] }
    if d = 0 then updRx b (fun x => { x with state := 2, closeAt := c.effect }) s
    else updTx b (fun x => { x with state := 2, closeAt := c.effect }) s

/-- BERTH_DRAIN_END (R235): at the end of block c + 16 the slots are freed and the close is answered; the group is left. -/
def endRxDrain (b : Nat) (s : State) : State :=
  match SMap.look s.net.rx b with
  | none => s
  | some x =>
    if x.state ≠ 2 then s
    else
      let s := updRx b (fun x => { x with state := 0 }) (freeSlots x.cfg.first x.cfg.channels s)
      leaveGroups (rxMembers x.cfg) (settleOwed .berthClose b .ok [] s)
def execBerthDrainEnd (b : Fin 256) (s : State) : Host.Outcome State Fault Refusal :=
  match SMap.look s.net.rx b.val with
  | some x => if s.idx < x.closeAt + s.media.catchL + 48 then .next s else .next (endRxDrain b.val s)
  | none => .next s

/-- TX_BERTH_DRAIN_END (R242): the berth's last packet has left the MACs. -/
def txQueuedNow (s : State) (b : Nat) : Bool := s.net.ports.any fun e => e.2.queued.any fun k => k.berth == some b
def endTxDrain (b : Nat) (s : State) : State :=
  match SMap.look s.net.tx b with
  | none => s
  | some x =>
    if x.state ≠ 2 then s else settleOwed .berthClose (512 + b) .ok [] (updTx b (fun x => { x with state := 0, part := [] }) s)
def execTxBerthDrainEnd (b : Fin 128) (s : State) : Host.Outcome State Fault Refusal :=
  match SMap.look s.net.tx b.val with
  | some x =>
    let last := x.closeAt + (if x.cfg.top then 16 else 0)
    if txQueuedNow s b.val || (match s.media.emitted with | some e => e < last | none => true) then .next s
    else .next (endTxDrain b.val s)
  | none => .next s

/-- Nominal rate of a flow (R226): its bridge's, or Heart with no bridge. -/
def flowRate (s : State) (f : Nat) : Nat := if (s.bridge f).mode = 0 then s.hz else (s.bridge f).rate

/-- Position of a LOCKED bridge at a period, in 1/65,536 flow sample, truncated (R120). -/
def lockedPos (fs hz t : Nat) : Nat := t * fs * 65536 / hz

/-- A flow passes a LOCKED bridge: at Heart, LOCKED is equivalent to NONE (R117). -/
def State.locked (s : State) (f : Nat) : Bool := (s.bridge f).mode == 1 && (s.bridge f).rate != s.hz

/-- Consume point of a flow (R228) for the earliest block whose compute slot has not begun. -/
def consumePoint (s : State) (f : Nat) : Int :=
  let nb := s.nextBlock
  if s.locked f then ((lockedPos (s.bridge f).rate s.hz (nb + 4)) / 65536 : Nat) - 31 else ((nb + 4 : Nat) : Int)

/-- Place one sample (R228, R229): the channel's slots and the berth's counters. -/
def placeOne (k n v : Int) (a : SMap Slot × RxStat) : SMap Slot × RxStat :=
  let t := a.2
  if n ≥ k + 1504 then (a.1, { t with early := wrapAdd 32 t.early 1 })
  else if n < 0 then (a.1, { t with dup := wrapAdd 32 t.dup 1 })
  else match SMap.look a.1 n.toNat with
    | some x => if x.concealed then (a.1, { t with late := wrapAdd 32 t.late 1 }) else (a.1, { t with dup := wrapAdd 32 t.dup 1 })
    | none =>
      if n < k then (a.1, { t with dup := wrapAdd 32 t.dup 1 })
      else (SMap.ins a.1 n.toNat { value := v }, { t with lastIndex := max t.lastIndex n.toNat })

/-- Place the samples of a packet: one list per channel, from flow index n0. -/
def placePacket (b : Nat) (n0 : Int) (cols : List (List Int)) (s : State) : State :=
  match SMap.look s.net.rx b with
  | none => s
  | some x =>
    let k := consumePoint s b
    let r := cols.zipIdx.foldl (fun (a : SMap (SMap Slot) × RxStat) col =>
      let ch := x.cfg.first + col.2
      let o := col.1.zipIdx.foldl (fun a v => placeOne k (n0 + (v.2 : Int)) v.1 a) (SMap.get [] a.1 ch, a.2)
      (SMap.put [] a.1 ch o.1, o.2)) (s.net.jitter, x.stat)
    updRx b (fun x => { x with stat := r.2 }) { s with net.jitter := r.1 }

/-- Length of the run of concealed slots that ends below n, counted to 32 (R230). -/
def runBefore (m : SMap Slot) : Nat → Nat → Nat
  | 0, _ => 0
  | _, 0 => 0
  | k + 1, n + 1 => match SMap.look m n with
    | some x => if x.concealed then runBefore m k n + 1 else 0
    | none => 0

/-- The value of a concealed sample (R230): the mirror of the 32 samples before the run, fading to zero. -/
def concealValue (m : SMap Slot) (n : Nat) : Int :=
  let g := runBefore m 32 n
  if g ≥ 32 || n < 2 * g + 1 then 0
  else mulC ((SMap.look m (n - 2 * g - 1)).map Slot.value |>.getD 0) ((32 - (g : Int)) * 33554432)

/-- Conceal slot n of a channel if it is absent; counts. -/
def concealOne (a : SMap Slot × Nat) (n : Nat) : SMap Slot × Nat :=
  if (SMap.look a.1 n).isSome then a else (SMap.ins a.1 n { value := concealValue a.1 n, concealed := true }, a.2 + 1)

/-- Conceal the absent slots of a berth's channels from `lo` below `hi`. -/
def concealRange (b lo hi : Nat) (s : State) : State :=
  match SMap.look s.net.rx b with
  | none => s
  | some x =>
    let r := (List.range x.cfg.channels).foldl (fun (a : SMap (SMap Slot) × Nat) j =>
      let ch := x.cfg.first + j
      let o := (List.range (hi - lo)).foldl (fun a i => concealOne a (lo + i)) (SMap.get [] a.1 ch, a.2)
      (SMap.put [] a.1 ch o.1, o.2)) (s.net.jitter, 0)
    updRx b (fun x => { x with stat := { x.stat with concealed := wrapAdd 32 x.stat.concealed r.2 } }) { s with net.jitter := r.1 }

/-- Further periods that block b requires of a LOCKED bridge (R18). -/
def lookAhead (hz fs : Nat) : Nat := (32 * hz + fs - 1) / fs

/-- The flow indices block b requires of a berth (R18), from the berth's first undecided one: those of the periods b to b + 19 and
of a bridge's look-ahead. -/
def requiredRange (s : State) (b f : Nat) (x : RxBerth) : Nat × Nat :=
  let fs := (s.bridge f).rate
  if s.locked f then
    (x.decided.getD ((b * fs + s.hz - 1) / s.hz), (b + 19 + lookAhead s.hz fs) * fs / s.hz + 1)
  else (x.decided.getD b, b + 20)

/-- The catch of one berth at block b (R229): a FREE flow has none; slots far below the window are forgotten. -/
def catchBerth (b f : Nat) (s : State) : State :=
  match SMap.look s.net.rx f with
  | none => s
  | some x =>
    let live := x.cfg.channels != 0 && (s.bridge f).mode != 2 && b ≥ x.openAt && (x.state == 1 || (x.state == 2 && b ≤ x.closeAt))
    if !live then s
    else
      let r := requiredRange s b f x
      let s := concealRange f r.1 r.2 s
      let trim := fun (m : SMap Slot) => m.filter fun e => e.1 + 1536 ≥ r.2
      let j := s.net.jitter.map fun e => if x.cfg.first ≤ e.1 && e.1 < x.cfg.first + x.cfg.channels then (e.1, trim e.2) else e
      updRx f (fun x => { x with decided := some r.2 }) { s with net.jitter := j.filter fun e => e.2 != [] }

/-! Sequence numbers (R231, Table 8.10). A packet is missing from a port once a later number has come by that port, or by the
other port so much later that its samples would fall outside the window of R228; one that comes after all is missing no longer
(DESIGN CHOICE, assumption 51: R231 does not say when a packet counts as missing). -/

/-- The number, counted without wrapping, that a sequence number modulo `mod` stands for: the one nearest `near`. -/
def unwrap (mod near seq : Nat) : Nat :=
  let d := (seq + mod - near % mod) % mod
  if d < mod / 2 then near + d else near + d - mod

/-- Numbers of a range that lie in some of a list of ranges. -/
def common (r : Nat × Nat) (l : List (Nat × Nat)) : Nat := l.foldl (fun a e => a + (min r.2 e.2 - max r.1 e.1)) 0

/-- A list of ranges without a number. -/
def without (n : Nat) (l : List (Nat × Nat)) : List (Nat × Nat) :=
  l.flatMap fun e => if e.1 ≤ n && n < e.2 then [(n + 1, e.2), (e.1, n)].filter fun r => r.1 < r.2 else [e]

/-- The tracks of a berth's two ports and its counters. -/
structure Tracks where
  a : SeqTrack
  b : SeqTrack
  stat : RxStat
deriving DecidableEq, Repr

def Tracks.get (t : Tracks) (port : Nat) : SeqTrack := if port = 0 then t.a else t.b
def Tracks.put (t : Tracks) (port : Nat) (v : SeqTrack) : Tracks := if port = 0 then { t with a := v } else { t with b := v }

/-- Count packets lost on a port, and on every named port, up or down. -/
def Tracks.lost (t : Tracks) (port : Nat) (n both : Int) : Tracks :=
  let add := fun (c : Nat) (v : Int) => (((c : Int) + v) % 2 ^ 32).toNat
  let s := { t.stat with lostBoth := add t.stat.lostBoth both }
  { t with stat := if port = 0 then { s with lostA := add s.lostA n } else { s with lostB := add s.lostB n } }

/-- The numbers from the next expected up to `upto` are missing from a port. -/
def Tracks.miss (both : Bool) (mod port upto : Nat) (t : Tracks) : Tracks :=
  match (t.get port).next with
  | none => t
  | some n =>
    if upto ≤ n then t
    else
      let old := ((t.get port).missing).filter fun e => upto < e.2 + mod / 2
      (t.lost port ((upto - n : Nat) : Int) (if both then (common (n, upto) (t.get (1 - port)).missing : Nat) else (upto - n : Nat))).put port
        { next := some upto, missing := (n, upto) :: old }

/-- A number comes by a port: those before it are missing; if it was missing itself, it is so no longer. -/
def Tracks.hear (both : Bool) (mod port n : Nat) (t : Tracks) : Tracks :=
  let t := if (t.get port).next.isNone then t.put port { next := some n } else t
  let t := t.miss both mod port n
  let mine := t.get port
  if mine.next = some n then t.put port { mine with next := some (n + 1) }
  else if common (n, n + 1) mine.missing = 0 then t
  else (t.lost port (-1) (if !both || common (n, n + 1) (t.get (1 - port)).missing != 0 then -1 else 0)).put port
    { mine with missing := without n mine.missing }

/-- A packet of `per` samples comes by a port of a berth: `mod` is 2^16 for RTP, 2^32 for Phoenaox; `node` is the sender on a
service berth, 0 on a media berth. -/
def trackSeq (mod node per port seq : Nat) (x : RxBerth) : RxBerth :=
  let both := x.cfg.ports == 3
  let t0 := SMap.get ({}, {}) x.tracks node
  let t : Tracks := ⟨t0.1, t0.2, x.stat⟩
  let near := match (t.get port).next, (t.get (1 - port)).next with | some n, _ => n | none, some n => n | none, none => mod + seq
  let n := unwrap mod near seq
  let t := t.hear both mod port n
  let t :=
    if !both then t
    else if (t.get (1 - port)).next.isNone then t.put (1 - port) { next := some n }
    else t.miss both mod (1 - port) (n - (1504 + per - 1) / per)
  let st := t.stat
  { x with tracks := SMap.put ({}, {}) x.tracks node (t.a, t.b)
           stat := if port = 0 then { st with pktsA := wrapAdd 64 st.pktsA 1 } else { st with pktsB := wrapAdd 64 st.pktsB 1 } }

/-- Write a FREE packet at the write pointer, after `gap` concealed samples (R233). -/
def writeFree (b gap : Nat) (cols : List (List Int)) (s : State) : State :=
  match SMap.look s.net.rx b with
  | none => s
  | some x =>
    let s := concealRange b x.freePtr (x.freePtr + gap) s
    let p0 := x.freePtr + gap
    let n := (cols.headD []).length
    let j := cols.zipIdx.foldl (fun (m : SMap (SMap Slot)) col =>
      let ch := x.cfg.first + col.2
      let line := (SMap.get [] m ch).filter fun e => e.1 + 1536 ≥ p0 + n
      SMap.put [] m ch (col.1.zipIdx.foldl (fun l v => SMap.ins l (p0 + v.2) { value := v.1 }) line)) s.net.jitter
    updRx b (fun x => { x with freePtr := p0 + n, freeLen := n, stat := { x.stat with lastIndex := p0 + n - 1 } })
      { s with net.jitter := j }

/-- A packet of a FREE flow (R233): what the sequence number decides. -/
def placeFree (mod b seq : Nat) (cols : List (List Int)) (s : State) : State :=
  match SMap.look s.net.rx b with
  | none => s
  | some x =>
    let count := cols.foldl (fun a c => a + c.length) 0
    let d := match x.freeSeq with | some n => (seq + mod - n) % mod | none => 0
    let wrote := fun (s : State) => updRx b (fun x =>
      { x with freeSeq := some ((seq + 1) % mod), written := x.written ++ [seq], recent := (seq :: x.recent).take 1024 }) s
    if d = 0 then wrote (writeFree b 0 cols s)
    else if d ≤ 32 then wrote (writeFree b (d * x.freeLen) cols s)
    else if d < mod / 2 then
      wrote (updRx b (fun x => { x with stat := { x.stat with resync := wrapAdd 32 x.stat.resync 1 } }) (writeFree b 0 cols s))
    else if x.recent.contains seq then updRx b (fun x => { x with stat := { x.stat with dup := wrapAdd 32 x.stat.dup count } }) s
    else updRx b (fun x => { x with stat := { x.stat with late := wrapAdd 32 x.stat.late count } }) s

/-- A packet of a FREE flow as it arrives: a standby holds it until the manifest lists it (R234). -/
def arriveFree (mod b seq : Nat) (cols : List (List Int)) (s : State) : State :=
  if s.flag mStandby && !s.twin.ownPresence then
    updRx b (fun x => if x.held.any fun e => e.1 == seq then x
      else { x with held := (x.held ++ [(seq, cols)]).drop (x.held.length - 63) }) s
  else placeFree mod b seq cols s

/-- Samples of a payload, big-endian, sample-major (R222, R224): one list per channel. -/
def sampleCols (p : Bytes) (bytes channels n : Nat) (conv : Nat → Int) : List (List Int) :=
  (List.range channels).map fun c => (List.range n).map fun i => conv (getB p ((i * channels + c) * bytes) bytes)

/-- Into H-format (Table 5.2). -/
def fromL16 (v : Nat) : Int := toSigned 16 v * 4096
def fromL24 (v : Nat) : Int := toSigned 24 v * 16
def fromH (v : Nat) : Int := if v = 2 ^ 31 then hMin else toSigned 32 v

/-- Where an RTP packet's samples begin and end (R222): CSRC list, extension and padding skipped. -/
def rtpBody (p : Bytes) : Option (Nat × Nat) :=
  let b0 := getU p 0 1
  let cc := b0 % 16
  let o := 12 + 4 * cc
  let o := if b0.testBit 4 then o + 4 + 4 * getB p (o + 2) 2 else o
  let pad := if b0.testBit 5 then (p.getLast?.map BitVec.toNat).getD 0 else 0
  if p.length < 12 ∨ b0 / 64 ≠ 2 ∨ o + pad > p.length then none else some (o, p.length - pad)

def malformed (b : Nat) (s : State) : State :=
  updRx b (fun x => { x with stat := { x.stat with malformed := wrapAdd 32 x.stat.malformed 1 } }) s

/-- A Gen-1 packet (R222, R227): n0 is the integer congruent to ts − rtp_offset nearest floor(T × fs). -/
def receiveRtp (port b : Nat) (f : Frame) (ip : Ipv4) (s : State) : State :=
  match SMap.look s.net.rx b with
  | none => s
  | some x =>
    let p := ip.payload
    let w := wordBytes x.cfg.format
    match rtpBody p with
    | none => malformed b s
    | some (o, e) =>
      let per := w * x.cfg.channels
      let n := (e - o) / per
      if !ip.sumOk || (e - o) % per != 0 || n = 0 || n > 192 then malformed b s
      else
        let cols := sampleCols ((p.drop o).take (e - o)) w x.cfg.channels n (if x.cfg.format = 0 then fromL16 else fromL24)
        let seq := getB p 2 2
        let s := updRx b (trackSeq 65536 0 n port seq) s
        if (s.bridge b).mode = 2 then arriveFree 65536 b seq cols s
        else
          let now := f.time * flowRate s b / 1000000000
          let d := toSigned 32 ((getB p 4 4 + 2 ^ 33 - x.cfg.rtpOffset - now % 2 ^ 32) % 2 ^ 32)
          placePacket b ((now : Int) + d) cols s

/-- Header fields of a Phoenaox frame (Table 8.7). -/
def pgxOk (p : Bytes) (service : Nat) : Bool :=
  getB p 0 2 == 0x7E50 && getU p 2 1 == 16 + service && getB p 4 4 < 2 ^ 20 && getB p 20 2 ≤ 8900 &&
  p.length == 28 + getB p 20 2 && getU p 3 1 / 4 % 4 ≤ 2

/-- A scene-bus record (Table 8.8): queued for the Quaymaster, or counted where R54 and R225 drop it. A standby takes announcements
alone (R52, R58); a record of another kind is no record of the table, and is left out. -/
def busRecord (port node arrived : Nat) (r : Bytes) (s : State) : State :=
  let kind := getU r 0 1
  let own := (s.peer 0).sceneDomain
  if kind = 0 then
    { s with scene.announced := s.scene.announced ++ [⟨node, getU r 4 2, getU r 6 1, getU r 7 1, getU r 8 2, getU r 12 8, arrived⟩] }
  else if s.flag mStandby || kind > 2 then s
  else
    let resend := (getU r 1 1).testBit 0
    let body := r.drop 20
    let mask := maskOf body
    let id := getU body 4 2
    if kind = 1 && !(s.obj id).cfg.active && !mask.testBit 7 && !resend then
      updPortStat port (fun t => { t with sbFiltered := wrapAdd 32 t.sbFiltered 1 }) s
    else
      match s.peerOf node with
      | none => updPortStat port (fun t => { t with sbDiscarded := wrapAdd 32 t.sbDiscarded 1 }) s
      | some i =>
        if !(s.peer i).roles.testBit 1 || getU r 14 2 != own then
          updPortStat port (fun t => { t with sbDiscarded := wrapAdd 32 t.sbDiscarded 1 }) s
        else
          let q := getU r 16 4
          let s := if resend then s else updPeerSt i (fun t =>
            let lost := match t.lastSeq with | some l => let d := (q + 2 ^ 32 - l) % 2 ^ 32; if 1 < d && d < 2 ^ 31 then d - 1 else 0 | none => 0
            { t with lastSeq := some q, lost := wrapAdd 32 t.lost lost }) s
          updPortStat port (fun t => { t with sbAccepted := wrapAdd 32 t.sbAccepted 1 })
            { s with scene.updates := s.scene.updates ++ [⟨kind == 2, resend, node, getU r 4 8, getU r 12 1, q, arrived, body⟩] }

/-- The records of a scene-bus payload, by their lengths. -/
def busRecords : Nat → Bytes → List Bytes
  | 0, _ => []
  | n + 1, p =>
    let len := getU p 2 2
    if p.isEmpty || len < 20 || len > 600 || len > p.length then [] else p.take len :: busRecords n (p.drop len)

/-- A Phoenaox frame at a berth (R223 to R225, R51, R58). The Heart code of a media frame is the device's; a service frame
carries its sender's. -/
def receivePgx (port b : Nat) (f : Frame) (ip : Ipv4) (s : State) : State :=
  match SMap.look s.net.rx b with
  | none => s
  | some x =>
    let p := ip.payload
    let len := getB p 20 2
    let node := getB p 4 4
    let seq := getB p 16 4
    let media := x.cfg.format = 2
    let bad := !ip.sumOk || !pgxOk p (x.cfg.format - 2) ||
      (media && (getU p 3 1 / 4 % 4 != s.media.heart || getB p 8 8 % 16 != 0 || len != 64 * x.cfg.channels ||
        getU p 22 1 != x.cfg.channels))
    if bad then malformed b s
    else if getB p (24 + len) 4 != crc32c (p.take (24 + len)) then
      updRx b (fun x => { x with stat := { x.stat with digestErr := wrapAdd 32 x.stat.digestErr 1 } })
        (updPortStat port (fun t => { t with digestErr := wrapAdd 32 t.digestErr 1 }) s)
    else if node = (s.peer 0).nodeId && !looped s 8 b then
      let s := updPortStat port (fun t => { t with dupNode := wrapAdd 32 t.dupNode 1 }) s
      if [0, 1, 2].any fun q => stationOf q == f.sa then s
      else logEvent 15 0 srcDevice [f.sa % 2 ^ 32, f.sa / 2 ^ 32] { s with scene.dupStop := true }
    else if media then
      let body := (p.drop 24).take len
      let cols := sampleCols body 4 x.cfg.channels 16 fromH
      let fixed := ((List.range (16 * x.cfg.channels)).filter fun i => getB body (4 * i) 4 == 2 ^ 31).length
      let s := updRx b (fun x =>
        let x := trackSeq (2 ^ 32) 0 16 port seq x
        { x with stat := { x.stat with fixed := wrapAdd 32 x.stat.fixed fixed } }) s
      if (s.bridge b).mode = 2 then arriveFree (2 ^ 32) b seq cols s else placePacket b (getB p 8 8 : Nat) cols s
    else
      let key := node * 2 ^ 32 + seq
      let again := x.recent.contains key
      let s := updRx b (fun x => { trackSeq (2 ^ 32) node 16 port seq x with recent := (key :: x.recent).take 1024 }) s
      if again || x.cfg.format = 4 then s
      else (busRecords 64 ((p.drop 24).take len)).foldl (fun s r => busRecord port node s.idx r s) s

/-- The berth a UDP frame reaches on a port (R226, R235): every named field matches, a key with a source first, then the
lowest number. -/
def matchBerth (s : State) (port : Nat) (f : Frame) (ip : Ipv4) : Option Nat :=
  let hit := fun (x : RxBerth) => x.state == 1 && x.cfg.ports.testBit port && x.cfg.group == ip.dst && x.cfg.udpPort == ip.dport &&
    (x.cfg.vlan == 65535 || (match f.tci with | none => x.cfg.vlan == 0 | some t => x.cfg.vlan != 0 && t % 4096 == x.cfg.vlan)) &&
    (!x.cfg.flags.testBit 0 || x.cfg.source == ip.src)
  let hits := s.net.rx.filter fun e => hit e.2 && !looped s 8 e.1
  match hits.find? fun e => e.2.cfg.flags.testBit 0 with
  | some e => some e.1
  | none => hits.head?.map Prod.fst

/-- Receive descriptors of a ring (R243). -/
def ringSize (s : State) : Nat := if s.flag mShallow || s.flag mSafe then 32 else 512

/-- Address of a receive buffer (R243): in the general partition of DRAM, or of SRAM while SHALLOW or SAFE is set. -/
def rxBufferAt (s : State) (port ring place : Nat) : Nat :=
  let low := s.flag mShallow || s.flag mSafe
  let k := Config.rxBuffer low port ring place
  if low then 0x13C00000 + 2048 * (k % 2048) else dramAddr 0x1F7700000 + 2048 * (k % 70144)

/-- The bytes of a frame as a receive ring takes them, without its tag and FCS. -/
def frameBytes (f : Frame) : Bytes := be 6 f.da ++ be 6 f.sa ++ be 2 f.etype ++ f.bytes

/-- Bytes of a frame in its ring's buffers, without FCS and tag, and the descriptors they need (R244). -/
def inRing (f : Frame) : Nat := f.len - 4 - (if f.tci.isSome then 4 else 0)
def ringNeed (f : Frame) : Nat := max 1 ((inRing f + 2047) / 2048)

/-- Descriptors of a receive ring that are free: none while it is disabled (R247). -/
def ringRoom (s : State) (port ring : Nat) : Nat :=
  let r := (s.port port).rx.getD ring {}
  if r.enabled then ringSize s - r.returned.length else 0

/-- A frame into a receive ring (R244, R247): descriptors are taken as the data needs them. -/
def ringFrame (port ring : Nat) (f : Frame) (stamp : Option Nat) (s : State) : State :=
  let q := s.port port
  let r := q.rx.getD ring {}
  let size := ringSize s
  let len := inRing f
  let need := ringNeed f
  let free := ringRoom s port ring
  let miss := updPortStat port (fun t => { t with noBuffer := setAt t.noBuffer ring (wrapAdd 32 · 1) })
  if free = 0 then miss s
  else
    let got := min need free
    let cut := free < need
    let ipGood := match f.ip with | some _ => f.ipSum | none => false
    let l4Good := match f.ip with | some ip => (ip.udp || ip.tcp) && !ip.frag && ip.sumOk | none => false
    let ds := (List.range got).map fun i =>
      let n := if i + 1 < need then 2048 else len - 2048 * i
      let place := (r.next + i) % size
      ({ place := place, buf := rxBufferAt s port ring place, len := n, first := i == 0, last := i + 1 == got, discard := cut,
         ipGood := ipGood, l4Good := l4Good, stamp := if i = 0 then stamp else none, vlan := f.tci,
         frameLen := if i + 1 == got then len else 0, data := padTo n (slice (frameBytes f) (2048 * i) n) } : RxDesc)
    let s := updPort port (fun q => { q with rx := setAt q.rx ring fun r => {
      r with next := (r.next + got) % size, returned := r.returned ++ ds } }) s
    if cut then updPortStat port (fun t => { t with exhausted := setAt t.exhausted ring (wrapAdd 32 · 1) }) s else s

/-- A receive descriptor as it lies in the ring: returned, or owned by the MAC. -/
def rxDescAt (s : State) (port ring place : Nat) : RxDesc :=
  (((s.port port).rx.getD ring {}).returned.find? fun d => d.place == place).getD
    { place := place, buf := rxBufferAt s port ring place, owned := true }

/-- Bytes of a receive descriptor (Table 8.12). -/
def rxDescBytes (d : RxDesc) : Bytes :=
  le 8 d.buf ++ le 2 d.len ++
  le 2 (bit d.owned + bit d.first 1 + bit d.last 2 + bit d.discard 3 + bit d.stamp.isSome 4 + bit d.ipGood 5 + bit d.l4Good 6 +
    bit d.vlan.isSome 7) ++ le 2 (d.vlan.getD 0) ++ le 2 d.frameLen ++ le 8 (d.stamp.getD 0) ++ zeros 8

/-- A group address, and the broadcast address. -/
def isGroup (da : Nat) : Bool := da / 2 ^ 40 % 2 = 1
def isBroadcast (da : Nat) : Bool := da = 0xFFFFFFFFFFFF
def inMediaPass (da : Nat) : Bool := 0x01005E000000 ≤ da && da ≤ 0x01005E7FFFFF

/-- Source address of the active's packets of a transmit berth (R302): the berth's, or the partner's. -/
def activeSource (s : State) (r : TxRec) : Nat := if r.src != 0 then r.src else (s.partnerPeer.map PeerRec.ipv4).getD 0

/-- A multicast media transmit berth that is open. -/
def multicastTx (x : TxBerth) : Bool :=
  x.state == 1 && x.cfg.format < 3 && 224 * 2 ^ 24 ≤ x.cfg.dst && x.cfg.dst < 240 * 2 ^ 24

/-- A packet of the active's multicast flows, seen by a standby (R302). -/
def watchedFlow (s : State) (port : Nat) (ip : Ipv4) : Bool :=
  port < 2 && s.flag mStandby &&
  s.net.tx.any fun e => multicastTx e.2 && e.2.cfg.dst == ip.dst && e.2.cfg.dstPort == ip.dport && ip.src == activeSource s e.2.cfg

/-- The network signal shows the active alive (R280, R302). -/
def State.netAlive (s : State) : Bool := s.twin.netSeen && s.twinNet

/-- The flows signal shows the active alive: silent while no multicast transmit berth is open (R302). -/
def State.flowsAlive (s : State) : Bool := s.twin.flowSeen && s.net.tx.any fun e => multicastTx e.2

/-- The active is alive after the mooring signal fell silent: ADRIFT (R303). -/
def aliveElsewhere (s : State) : State :=
  if s.flag mStandby && s.twin.ownPresence && (s.netAlive || s.flowsAlive) then setAdrift 4 s else s

/-- A packet of the active's flows is counted and dropped (R302). -/
def watchPacket (s : State) : State :=
  aliveElsewhere { s with twin.flowSeen := true, twin.flowHeard := some s.idx, twin.watched := wrapAdd 32 s.twin.watched 1 }

/-- Groups a standby joins to watch the active's flows (R302). -/
def watchGroups (s : State) : List Member :=
  if !s.flag mStandby then []
  else (s.net.tx.flatMap fun e => if multicastTx e.2 then
      ([0, 1].filter fun q => e.2.cfg.ports.testBit q).map fun q => ⟨q, e.2.cfg.dst, some (activeSource s e.2.cfg)⟩
    else []).eraseDups

/-- Join and leave the groups watched as berths and roles change (R221, R302). -/
def syncWatch (s : State) : State :=
  let want := watchGroups s
  if want = s.twin.watching then s
  else
    let old := s.twin.watching
    let s := leaveGroups (old.filter fun m => !want.contains m) { s with twin.watching := want }
    joinGroups (want.filter fun m => !old.contains m) s

/-- The ring that takes a frame which no berth takes (Table 8.4). -/
def ringOf (s : State) (port : Nat) (f : Frame) : Nat :=
  let q := s.port port
  let udp := match f.ip with | some ip => if ip.udp && !ip.frag then some ip else none | none => none
  let mine := fun (ip : Ipv4) => ip.dst == q.cfg.ipv4 && q.cfg.ipv4 != 0
  if f.etype = 0x88F7 || (match udp with | some ip => ip.dport == 319 || ip.dport == 320 | none => false) then 3
  else if match udp with | some ip => mine ip && (ip.dport == 4470 || ip.dport == 4471) | none => false then 2
  else if match f.ip with | some ip => mine ip && !ip.frag && (ip.udp || ip.tcp) | none => false then 1
  else 0

/-- FRAME_RECEIVE (R219): the first test that decides the frame settles where it goes. -/
def receiveFrame (port : Nat) (f : Frame) (s : State) : State :=
  let q := s.port port
  let bump := fun (g : PortStat → PortStat) => updPortStat port g s
  let has := q.filter.has port f.da
  let pass := port < 2 && q.filter.flags.testBit 0 && inMediaPass f.da
  let s := if portDeaf s port || q.cfg.fec = 0 then s else
    bump fun t => { t with fecCorr := wrapAdd 32 t.fecCorr f.fecCorr, fecUncorr := wrapAdd 32 t.fecUncorr f.fecUncorr }
  let bump := fun (g : PortStat → PortStat) => updPortStat port g s
  if portDeaf s port then s
  else if !f.fcsOk || f.len < 64 || f.len > frameLimit q.cfg f.tci.isSome then bump fun t => { t with rxBad := wrapAdd 32 t.rxBad 1 }
  else
    let s := bump fun t => { t with rxFrames := wrapAdd 64 t.rxFrames 1, rxBytes := wrapAdd 64 t.rxBytes f.len }
    let drop := updPortStat port (fun t => { t with rxDaDrop := wrapAdd 32 t.rxDaDrop 1 }) s
    if f.etype = 0x8808 then updPortStat port (fun t => { t with rxPause := wrapAdd 32 t.rxPause 1 }) s
    else if !isGroup f.da && !has then drop
    else if isGroup f.da && !isBroadcast f.da && !pass && !has then drop
    else if isBroadcast f.da && !q.cfg.bcast then drop
    else
      let udp := match f.ip with | some ip => if ip.udp && !ip.frag then some ip else none | none => none
      let berth := match udp with | some ip => if port < 2 then (matchBerth s port f ip).map fun b => (b, ip) else none | none => none
      match berth with
      | some (b, ip) =>
        match SMap.look s.net.rx b with
        | some x => if x.cfg.format < 2 then receiveRtp port b f ip s else receivePgx port b f ip s
        | none => s
      | none =>
        if match udp with | some ip => watchedFlow s port ip | none => false then watchPacket s
        else
        if isGroup f.da && !isBroadcast f.da && pass && !has then
          updPortStat port (fun t => { t with rxMcast := wrapAdd 32 t.rxMcast 1 }) s
        else
          let ring := ringOf s port f
          let whole := ringNeed f ≤ ringRoom s port ring
          let s := ringFrame port ring f (if ring = 3 && port < 2 then some (s.rxStamp port f.time).toNat else none) s
          match f.ip with | some ip => if ring = 0 && whole then answerQuery port ip s else s | none => s

def execFrameReceive (port : Fin 3) (f : Frame) (s : State) : Host.Outcome State Fault Refusal := .next (receiveFrame port.val f s)

/-- A frame that a reset of the port's DMA cuts short after `n` bytes (R366): what a ring holds of it comes back with the discard flag;
a berth takes nothing of it. -/
def cutFrame (port : Nat) (f : Frame) (n : Nat) (s : State) : State :=
  let udp := match f.ip with | some ip => if ip.udp && !ip.frag then some ip else none | none => none
  let berth := match udp with | some ip => port < 2 && (matchBerth s port f ip).isSome | none => false
  let ring := ringOf s port f
  let r := (s.port port).rx.getD ring {}
  let got := min ((n + 2047) / 2048) (ringRoom s port ring)
  if portDeaf s port || berth then s
  else
    let ds := (List.range got).map fun i =>
      let k := min 2048 (n - 2048 * i)
      let place := (r.next + i) % ringSize s
      ({ place := place, buf := rxBufferAt s port ring place, len := k, first := i == 0, last := i + 1 == got, discard := true
         vlan := f.tci, data := padTo k (slice (frameBytes f) (2048 * i) k) } : RxDesc)
    updPort port (fun q => { q with rx := setAt q.rx ring fun r => {
      r with next := (r.next + got) % ringSize s, returned := r.returned ++ ds } }) s

/-- The descriptors of a ring without the frame that one of them belongs to (R376). -/
def dropFrame (place : Nat) (cur : List RxDesc) : List RxDesc → List RxDesc
  | [] => if cur.any fun d => d.place == place then [] else cur
  | d :: ds =>
    let cur := cur ++ [d]
    if d.last then (if cur.any fun d => d.place == place then [] else cur) ++ dropFrame place [] ds else dropFrame place cur ds

/-- On entry to SHALLOW the frames in DRAM buffers are dropped and counted (R243). -/
def dropRings (s : State) : State :=
  [0, 1, 2].foldl (fun s p => (List.range 4).foldl (fun s r =>
    let n := (((s.port p).rx.getD r {}).returned.filter fun d => d.last && !d.discard).length
    let s := updPortStat p (fun t => { t with noBuffer := setAt t.noBuffer r (wrapAdd 32 · n) }) s
    updPort p (fun q => { q with rx := setAt q.rx r fun x => { x with next := 0, returned := [] } }) s) s) s

/-- The Quaymaster gives the returned descriptors back. -/
def recycleRings (s : State) : State :=
  { s with net.ports := SMap.mapVals {} (fun _ (q : Port) => { q with rx := q.rx.map fun r => { r with returned := [] } }) s.net.ports }

/-- Out of H-format (Table 5.2): the word, and whether it was clamped (R113). -/
def toL (bits : Nat) (h : Int) : Int × Bool :=
  let v := rshift (32 - bits - 4) h
  let top : Int := (2 ^ (bits - 1) : Nat)
  (clampI (-top) (top - 1) v, v > top - 1 || v < -top)
def toWord (format : Nat) (h : Int) : Int × Bool := if format = 0 then toL 16 h else if format = 1 then toL 24 h else (h, false)

/-- Big-endian bytes of a signed word. -/
def beI (n : Nat) (v : Int) : Bytes := (leI n v).reverse

/-- The UDP payload of a media packet (R238): header, samples in sample-major order, and for Phoenaox the digest. -/
def packetBytes (s : State) (r : TxRec) (v : Nat) (rows : List (List Int)) : Bytes :=
  let body := rows.flatMap fun row => row.flatMap fun h => beI (wordBytes r.format) (toWord r.format h).1
  if r.format = 2 then pgxFrame 0 (s.peer 0).nodeId s.media.heart false v (v / 16) r.channels body
  else
    be 1 0x80 ++ be 1 r.pt ++ be 2 (v / txPer s.hz r % 65536) ++ be 4 ((v + r.rtpOffset) % 2 ^ 32) ++ be 4 r.ssrc ++ body

/-- Take the samples of one index into the packet in progress (R238): the packet it completes, if any. -/
def takeRow (per : Nat) (x : TxBerth) (v : Nat) (row : List Int) : TxBerth × Option (Nat × List (List Int)) :=
  if x.part.isEmpty && v % per != 0 then (x, none)
  else
    let at_ := if x.part.isEmpty then v else x.partAt
    let part := x.part ++ [row]
    if part.length = per then ({ x with part := [] }, some (at_, part)) else ({ x with part := part, partAt := at_ }, none)

/-- The packet on each named port, and the berth's clamps (R238, R239). -/
def packetsOf (s : State) (b : Nat) (x : TxBerth) (v : Nat) (rows : List (List Int)) : TxBerth × List (Nat × TxPkt) :=
  let r := x.cfg
  let clamped := rows.foldl (fun a row => a + (row.filter fun h => (toWord r.format h).2).length) 0
  let data := packetBytes s r v rows
  let ports := [0, 1].filter fun q => r.ports.testBit q
  ({ x with clamps := wrapAdd 32 x.clamps clamped }, ports.map fun q =>
    (q, berthPkt s b q r v (v + rows.length) data
      (rows.length * r.channels * wordBytes r.format + (if r.format = 2 then 28 else 12))))

/-- The packets a berth completes from the output samples of one block: `rows` from index v0 (R238, R242). A berth whose close
block this is discards an incomplete packet. -/
def berthPackets (s : State) (b blk v0 : Nat) (rows : List (List Int)) (x : TxBerth) : TxBerth × List (Nat × TxPkt) :=
  let first := x.openAt
  let last := x.state = 2 && blk ≥ x.closeAt
  if x.state = 0 || x.cfg.format ≥ 3 || blk < first || (x.state = 2 && blk > x.closeAt) then (x, [])
  else
    let r := rows.zipIdx.foldl (fun (a : TxBerth × List (Nat × TxPkt)) row =>
      let t := takeRow (txPer s.hz x.cfg) a.1 (v0 + row.2) row.1
      match t.2 with
      | some (v, full) => let o := packetsOf s b t.1 v full; (o.1, a.2 ++ o.2)
      | none => (t.1, a.2)) (x, [])
    if last && !r.1.part.isEmpty then ({ r.1 with part := [], dropped := wrapAdd 32 r.1.dropped 1 }, r.2) else r

/-- Nanoseconds for which the first frame of a shaped queue has waited. -/
def waited (s : State) (q : Port) (n : Nat) : Option Rat :=
  (q.queued.find? fun k => k.queue == n).map fun k => ((s.media.c - k.since : Nat) * 1000000000 : Rat) / (512 * s.hz)

/-- Credit of a shaped queue after `ns` in which it did not transmit (R240): it rises only while a frame waits. -/
def creditUp (waits : Option Rat) (slope : Nat) (ns : Rat) (c : Rat) : Rat :=
  match waits with
  | some w => c + ((slope : Nat) : Int) * min ns w / 1000000
  | none => if c > 0 then 0 else c

/-- The credits of a port `gap` nanoseconds after its last frame ended. -/
def restCredit (s : State) (gap : Nat) (q : Port) : Port :=
  let up := fun (n slope : Nat) (c : Rat) =>
    creditUp (waited s q n) slope (((gap : Nat) : Rat) + (if q.lastQueue = n then 0 else q.lastNs)) c
  { q with credit6 := up 6 q.cfg.idleA q.credit6, credit7 := up 7 q.cfg.idleB q.credit7, lastNs := 0 }

/-- A frame of a ring that is disabled: it stays (R247). Rings feed the queues 0 to 4, and ring 5 queue 5 beside the service berths
(R240), so the unit's own frames stay with their ring's. -/
def heldBack (q : Port) (k : TxPkt) : Bool := k.berth.isNone && !(q.tx.getD k.queue {}).enabled

/-- The frame the MAC sends next (R240): the first eligible queue in the order 6, 7, 5 to 0. -/
def nextFrame (q : Port) : Option TxPkt :=
  let has := fun n => q.queued.find? fun k => k.queue == n && !heldBack q k
  let order := [6, 7, 5, 4, 3, 2, 1, 0].filter fun n => (n != 6 || q.credit6 ≥ 0) && (n != 7 || q.credit7 ≥ 0)
  (order.filterMap has).head?

/-- A frame of a send has left: with its last one the MAC writes back done on every descriptor (Table 8.13). -/
def frameLeft (k : TxPkt) (q : Port) : Port :=
  match k.chain with
  | none => q
  | some (ring, id) => { q with tx := setAt q.tx ring fun r => { r with ring := r.ring.map fun t =>
      if t.id != id then t
      else if t.left ≤ 1 then { t with left := 0, descs := t.descs.map fun d => { d with owned := false, done := true } }
      else { t with left := t.left - 1 } } }

/-- TX_FRAME_DONE (R240, R256): `gap` nanoseconds after the frame before it the MAC starts the first eligible frame, which
leaves; its requested stamp enters the timestamp queue. -/
def sendNext (p gap time : Nat) (s : State) : State :=
  let q1 := restCredit s gap (s.port p)
  if portDeaf s p then s
  else match nextFrame q1 with
  | none => updPort p (fun _ => q1) s
  | some k =>
    let rate := lineRate p q1.stat.speedNow
    let ns : Rat := ((k.wire * 8 * 1000000 : Nat) : Int) / ((rate : Nat) : Int)
    let fall := fun (slope : Nat) (c : Rat) => c + ((slope : Nat) - (rate : Nat) : Int) * ns / 1000000
    let q2 := { q1 with queued := q1.queued.erase k,
                        credit6 := if k.queue = 6 then fall q1.cfg.idleA q1.credit6 else q1.credit6,
                        credit7 := if k.queue = 7 then fall q1.cfg.idleB q1.credit7 else q1.credit7,
                        stat := { q1.stat with txFrames := wrapAdd 64 q1.stat.txFrames 1,
                                               txBytes := wrapAdd 64 q1.stat.txBytes (k.wire - 20) } }
    let q3 := { restCredit s 0 { q2 with lastNs := 0 } with lastQueue := k.queue, lastNs := ns }
    let s := send (.frame p k) (updPort p (fun _ => frameLeft k q3) s)
    match k.tag with
    | some t => if p < 2 then pushTsq p t (s.txStamp p time).toNat s else s
    | none => s
def execTxFrameDone (port : Fin 3) (gap time : Nat) (s : State) : Host.Outcome State Fault Refusal := .next (sendNext port.val gap time s)

/-- Descriptors of a transmit ring that the MAC has not written back, and the ring without the sends it has, as far as room for
`n` more needs it: the oldest go first (R243: 256 descriptors). -/
def ringBusy (r : TxRing) : Nat := r.ring.foldl (fun a t => a + (t.descs.filter TxDesc.owned).length) 0
def makeRoom : Nat → List TxSend → List TxSend
  | _, [] => []
  | n, t :: r =>
    let held := (t :: r).foldl (fun a u => a + u.descs.length) 0
    if held + n ≤ 256 then t :: r else if t.descs.all (fun d => !d.owned) then makeRoom n r else t :: makeRoom n r

/-- TX_DESCRIPTOR_SEND (R243, R245 to R247): the send joins its ring; while the ring is disabled it stays there, owned by the
MAC. A send that the ring has no room for cannot be offered. -/
def sendChain (p ring : Nat) (chain : List TxDesc) (s : State) : State :=
  let r := (s.port p).tx.getD ring {}
  if chain.isEmpty || ringBusy r + chain.length > 256 then s
  else updPort p (fun q => takeSends { q with tx := setAt q.tx ring fun r => {
    r with sends := r.sends + 1
           ring := makeRoom chain.length r.ring ++ [{ id := r.sends, descs := chain.map fun d => { d with owned := true, done := false, error := false } }] } }) s
def execTxDescriptorSend (port : Fin 3) (ring : Fin 6) (chain : List TxDesc) (s : State) : Host.Outcome State Fault Refusal :=
  .next (sendChain port.val ring.val chain s)

end Sys2Proof.Machine
end

