-- ==== Sys2Proof/Machine/NoseMath.lean ====
section
/-!
DEFINITION. The mathematics of live calibration: codes (R176, R177), band filters (R178), spectra and responses (R185 to
R188), correction filters (R201), sweep excitations (R212).
-/
namespace Sys2Proof

/-- Degree of the Gold family and its period. -/
def goldN : Nat := 23
def goldP : Nat := 8388607

/-- Multiply a polynomial over GF(2), of degree below n, by x, modulo x^n + poly. -/
def gfX (n poly v : Nat) : Nat := let w := 2 * v; if w.testBit n then (w - 2 ^ n) ^^^ poly else w

/-- Product modulo x^n + poly, by the low `k` bits of b. -/
def gfMul (n poly a : Nat) : Nat → Nat → Nat → Nat
  | 0, _, acc => acc
  | k + 1, b, acc =>
    let acc := gfX n poly acc
    gfMul n poly a k b (if b.testBit k then acc ^^^ a else acc)

/-- x^i modulo x^n + poly, by the low `k` bits of i. -/
def gfPow (n poly i : Nat) : Nat → Nat → Nat
  | 0, acc => acc
  | k + 1, acc =>
    let acc := gfMul n poly acc n acc 0
    gfPow n poly i k (if i.testBit k then gfX n poly acc else acc)

/-- Number of bits set, modulo 2. -/
def parity (v : Nat) : Bool := (List.range 24).foldl (fun a i => a != v.testBit i) false

/-- Bit i of the maximal-length sequence of the register x^n + poly whose state is all ones at index 0 (R176, R212). -/
def mlsBit (n poly i : Nat) : Bool := parity (gfPow n poly i n 1)

/-- Sequence u, and v, its decimation by 3 (R176). -/
def goldU (i : Nat) : Bool := mlsBit goldN 0x21 (i % goldP)
def goldV (i : Nat) : Bool := goldU (3 * i % goldP)

/-- Bit i of code q (R176). -/
def codeBit (q i : Nat) : Bool :=
  if q = 0 then goldU i else if q = 1 then goldV i else goldU i != goldV ((i + q - 2) % goldP)

/-- The chip of an output at output stamp v (R176, R177). -/
def chipAt (base o v : Nat) : Int :=
  if codeBit ((base + o) % 8388609) (v % goldP) then -134217728 else 134217728

/-- Edges of the marker bands (Table 7.2). -/
def bandEdges : List Nat :=
  [20, 100, 200, 300, 400, 510, 630, 770, 920, 1080, 1270, 1480, 1720, 2000, 2320, 2700, 3150, 3700, 4400, 5300, 6400, 7700,
   9500, 12000, 15500]

/-- Tangent of π f ÷ hz: the prewarped edge (R178). -/
def warp (f hz : Nat) : Int := let x := Fx.pi * f / hz; Fx.div (Fx.sin x) (Fx.cos x)

/-- Pole pair of a band filter as s² + a s + b, the upper or the lower one (R178): the Butterworth pole p gives
s² − p B s + Ω² = 0. -/
def polePair (lower : Bool) (o2 bw : Int) : Int × Int :=
  let b2 := Fx.mul bw bw
  let mag := Fx.sqrt (Fx.mul b2 b2 + 16 * Fx.mul o2 o2)
  let re := Fx.sqrt ((mag - 4 * o2) / 2)
  let im := -Fx.sqrt ((mag + 4 * o2) / 2)
  let pb := Fx.mul bw (Fx.sqrt (Fx.one / 2))
  let sr := if lower then (-pb + re) / 2 else (-pb - re) / 2
  let si := if lower then (pb + im) / 2 else (pb - im) / 2
  (-2 * sr, Fx.mul sr sr + Fx.mul si si)

/-- The two biquads of band filter b at Heart code h (R178): the bilinear transform of a fourth-order Butterworth band-pass.
Their order and the gain of the first are the realisation's (assumption 6). -/
def bandFilter (h b : Nat) : List Biquad :=
  let hz := 48000 * 2 ^ h
  let lo := warp (bandEdges.getD b 0) hz
  let hi := warp (bandEdges.getD (b + 1) 0) hz
  let o2 := Fx.mul lo hi
  let bw := hi - lo
  let first := polePair (Config.bandLowFirst h b) o2 bw
  let second := polePair (!Config.bandLowFirst h b) o2 bw
  let den := fun (p : Int × Int) => Fx.one + p.1 + p.2
  let total := Fx.div (Fx.mul bw bw) (Fx.mul (den first) (den second))
  let g1 := Config.bandGain h b
  let g2 := if g1 = 0 then 0 else Fx.toRat total / g1
  let sec := fun (p : Int × Int) (g : Rat) => ({
    b0 := toC g, b1 := 0, b2 := toC (-g), a1 := toC (Fx.toRat (Fx.div (2 * p.2 - 2 * Fx.one) (den p)))
    a2 := toC (Fx.toRat (Fx.div (Fx.one - p.1 + p.2) (den p))), shift := 15 } : Biquad)
  [sec first g1, sec second g2]

/-- Frequency response of a biquad at angle w: real and imaginary part. -/
def bqResponse (k : Biquad) (w : Int) : Int × Int :=
  let s : Int := (2 ^ (15 + k.shift) : Nat)
  let c := fun (v : Int) => v * Fx.one / s
  let poly := fun (a b d : Int) =>
    (a + Fx.mul b (Fx.cos w) + Fx.mul d (Fx.cos (2 * w)), -(Fx.mul b (Fx.sin w)) - Fx.mul d (Fx.sin (2 * w)))
  let n := poly (c k.b0) (c k.b1) (c k.b2)
  let d := poly Fx.one (c k.a1) (c k.a2)
  let m := Fx.mul d.1 d.1 + Fx.mul d.2 d.2
  (Fx.div (Fx.mul n.1 d.1 + Fx.mul n.2 d.2) m, Fx.div (Fx.mul n.2 d.1 - Fx.mul n.1 d.2) m)

/-- H_b at bin k of 8,192 of a spectrum at Heart ÷ dec (R186), as binary32. -/
def bandResponse (h b dec k : Nat) : Rat × Rat :=
  let w := 2 * Fx.pi * k / (8192 * (dec : Int))
  let r := (bandFilter h b).foldl (fun (a : Int × Int) q =>
    let x := bqResponse q w
    (Fx.mul a.1 x.1 - Fx.mul a.2 x.2, Fx.mul a.1 x.2 + Fx.mul a.2 x.1)) (Fx.one, 0)
  (r32 (Fx.toRat r.1), r32 (Fx.toRat r.2))

/-- Impulse response energy of a biquad cascade: 2^18 terms, by when it has died away (R178). -/
def impulseGo (ks : List Biquad) : Nat → List (Rat × Rat × Rat × Rat) → Rat → Rat → Rat
  | 0, _, _, acc => acc
  | n + 1, st, x, acc =>
    let o := (ks.zip st).foldl (fun (a : Rat × List (Rat × Rat × Rat × Rat)) e =>
      let k := e.1
      let (x1, x2, y1, y2) := e.2
      let u : Rat := ((2 ^ (15 + k.shift) : Nat) : Rat)
      let y := (k.b0 * a.1 + k.b1 * x1 + k.b2 * x2 - k.a1 * y1 - k.a2 * y2) / u
      let y := Fx.toRat (Fx.ofRat y)
      (y, a.2 ++ [(a.1, x1, y, y1)])) (x, [])
    impulseGo ks n o.2 0 (acc + o.1 * o.1)

/-- Pc[b]: the variance of band-filtered chips (R178), as binary32. -/
def chipPower (h b : Nat) : Rat :=
  r32 (((2 ^ 54 : Nat) : Rat) * impulseGo (bandFilter h b) (2 ^ 18) [(0, 0, 0, 0), (0, 0, 0, 0)] 1 0)

/-- Sum in binary32, in order. -/
def sum32 (l : List Rat) : Rat := l.foldl add32 0

/-- M[b] before the cap (R179): spreading over the bands and the offset 14.5 + b + margin. -/
def maskGain (p : SMap Rat) (margin b : Nat) : Rat :=
  let s := sum32 ((List.range 24).map fun (j : Nat) =>
    let x : Rat := if b ≥ j then -((b : Rat) - j) else -(mul32 (5 / 2) ((j : Rat) - b))
    mul32 (SMap.get 0 p j) (pow32 10 x))
  mul32 s (pow32 10 (div32 (-(add32 (r32 (29 / 2 + (b : Rat))) (div32 margin 100))) 10))

/-- The band gains of an output (R179). -/
def bandGains (h : Nat) (p : SMap Rat) (margin : Nat) (cap : Int) : SMap Int :=
  let m := (List.range 24).map (maskGain p margin)
  let total := sum32 m
  let lim := mul32 ((2 ^ 54 : Nat) : Rat) (pow32 10 (div32 cap 1000))
  let m := if total > lim then m.map fun x => div32 (mul32 x lim) total else m
  (m.zipIdx.map fun e => (e.2, toC (sqrt32 (div32 e.1 (chipPower h e.2))))).filter fun e => e.2 != 0

/-- Periodic Hann window of 8,192 points (R185). -/
def hann (n : Nat) : Rat := r32 (Fx.toRat ((Fx.one - Fx.cos (2 * Fx.pi * n / 8192)) / 2))

/-- Bin k of the FFT of 8,192 binary32 values: the transform's value, in binary32, with a rounding error the manual leaves
open (R185; assumption 6). -/
def fftBin (x : List Rat) (k : Nat) (re : Bool) : Rat :=
  let v := x.zipIdx.foldl (fun (a : Int) e =>
    let w := 2 * Fx.pi * ((e.2 * k % 8192 : Nat) : Int) / 8192
    a + Fx.mul (Fx.ofRat e.1) (if re then Fx.cos w else -Fx.sin w)) 0
  r32 (Fx.toRat v + Config.fftErr x k re)

/-- Windowed spectrum of samples, bins 0 to 4,095. -/
def spectrum (x : List Int) : List (Rat × Rat) :=
  let y := x.zipIdx.map fun e => mul32 (r32 e.1) (hann e.2)
  (List.range 4096).map fun k => (fftBin y k true, fftBin y k false)

/-- conj(c) × y in binary32. -/
def conjMul (c y : Rat × Rat) : Rat × Rat :=
  (add32 (mul32 c.1 y.1) (mul32 c.2 y.2), sub32 (mul32 c.1 y.2) (mul32 c.2 y.1))

/-- Quotient of two complex values in binary32. -/
def cDiv (n d : Rat × Rat) : Rat × Rat :=
  let m := add32 (mul32 d.1 d.1) (mul32 d.2 d.2)
  let p := conjMul d n
  (div32 p.1 m, div32 p.2 m)

/-- |z|² in binary32. -/
def mag2 (z : Rat × Rat) : Rat := add32 (mul32 z.1 z.1) (mul32 z.2 z.2)

/-- λ of R185. -/
def lambdaOf (k : Nat) : Rat := 1 - 1 / ((2 ^ k : Nat) : Rat)

/-- λ a + v for accumulators: bin by bin. -/
def accumulate (k : Nat) (a : SMap (Rat × Rat)) (v : List (Rat × Rat)) : SMap (Rat × Rat) :=
  let l := lambdaOf k
  ((v.zipIdx).map fun e =>
    let o := SMap.get (0, 0) a e.2
    (e.2, (add32 (mul32 l o.1) e.1.1, add32 (mul32 l o.2) e.1.2))).filter fun e => e.2 != (0, 0)
def accumulate1 (k : Nat) (a : SMap Rat) (v : List Rat) : SMap Rat :=
  let l := lambdaOf k
  ((v.zipIdx).map fun e => (e.2, add32 (mul32 l (SMap.get 0 a e.2)) e.1)).filter fun e => e.2 != 0

/-- K_W = 2^54 Σ W² (R186): the sum of the squares of the window is 3,072. -/
def kW : Rat := ((2 ^ 54 * 3072 : Nat) : Rat)

/-- Σ_b γ_b × H_b(k) for every bin. -/
def shaping (h dec : Nat) (gamma : SMap Rat) : List (Rat × Rat) :=
  (List.range 4096).map fun k => gamma.foldl (fun a e =>
    let r := bandResponse h e.1 dec k
    (add32 a.1 (mul32 e.2 r.1), add32 a.2 (mul32 e.2 r.2))) (0, 0)

/-- H(k) (R186): `acc` over `f` K_W times the shaping sum; bins whose shaping sum lies below 10^-6 of its largest are 0.
`good` tells the others. -/
def response (f : Nat) (shape acc : List (Rat × Rat)) : List (Rat × Rat × Bool) :=
  let top := shape.foldl (fun m z => if mag2 z > m then mag2 z else m) 0
  let lim := mul32 top (r32 (1 / 1000000000000))
  (acc.zip shape).map fun e =>
    if mag2 e.2 < lim ∨ mag2 e.2 = 0 then (0, 0, false)
    else
      let k : Rat := (f : Rat) * kW
      let q := cDiv e.1 (mul32 k e.2.1, mul32 k e.2.2)
      (q.1, q.2, true)

/-- Sample j of the analytic response: h[j] and its quadrature part (R186, R187), in binary32. -/
def analytic (hs : List (Rat × Rat)) (j : Nat) : Rat × Rat :=
  let v := hs.zipIdx.foldl (fun (a : Int × Int) e =>
    let w := 2 * Fx.pi * ((e.2 * j % 8192 : Nat) : Int) / 8192
    let c := Fx.cos w
    let s := Fx.sin w
    let g : Int := if e.2 = 0 then 1 else 2
    let x := Fx.ofRat e.1.1
    let y := Fx.ofRat e.1.2
    (a.1 + g * (Fx.mul x c - Fx.mul y s), a.2 + g * (Fx.mul x s + Fx.mul y c))) (0, 0)
  (r32 (Fx.toRat v.1 / 8192 + Config.ifftErr hs j), r32 (Fx.toRat v.2 / 8192 + Config.ifftErr hs (8192 + j)))

/-- What R187 derives from a response: the tap j_a and δ of the arrival. -/
def arrivalOf (hs : List (Rat × Rat)) : Nat × Rat :=
  let e := (List.range 8192).map fun j => sqrt32 (mag2 (analytic hs j))
  let at_ := fun (j : Nat) => e.getD (j % 8192) 0
  let jm := (e.zipIdx.foldl (fun (b : Nat × Rat) x => if x.1 > b.2 then (x.2, x.1) else b) (0, -1)).1
  let ok := fun (j : Nat) => at_ j > at_ (j + 8191) && at_ j ≥ at_ (j + 1) && at_ j ≥ at_ jm / 2
  let ja := ((List.range (jm + 1)).find? ok).getD jm
  let den := mul32 2 (add32 (sub32 (at_ (ja + 8191)) (mul32 2 (at_ ja))) (at_ (ja + 1)))
  (ja, if den = 0 then 0 else div32 (sub32 (at_ (ja + 8191)) (at_ (ja + 1))) den)

/-- 10 log10 in 0.01 dB, held to a range. -/
def centiDb (lo hi : Int) (x : Rat) : Int :=
  if x ≤ 0 then lo
  else clampI lo hi (roundAway (1000 * Fx.toRat (Fx.div (Fx.ln (Fx.ofRat x)) (Fx.ln (10 * Fx.one)))))

/-- Level (R187): the energy of taps j_a − 48 to j_a + 191. -/
def levelOf (h : Nat → Rat) (ja : Nat) : Int :=
  centiDb (-14400) 2400 (sum32 ((List.range 240).map fun i =>
    let x := h ((ja + 8144 + i) % 8192)
    mul32 x x))

/-- Centre of band k in hertz (R188), and the bins of a band at bin spacing `rate` ÷ 8,192. -/
def bandCentre (k : Nat) : Rat := Fx.toRat (20 * Fx.exp (Fx.ln2 * k / 6))
def bandBins (rate : Rat) (k : Nat) : List Nat :=
  let half := Fx.toRat (Fx.exp (Fx.ln2 / 12))
  let f := bandCentre k
  let bins := (List.range 4096).filter fun (j : Nat) => f / half ≤ (j : Rat) * rate / 8192 && (j : Rat) * rate / 8192 < f * half
  if bins.isEmpty then [(roundAway (f * 8192 / rate)).toNat] else bins

/-- Coherence of two halves over a set of bins, scaled to 0 to 255 (R188). -/
def coherence (a b : List (Rat × Rat × Bool)) (bins : List Nat) : Nat :=
  let z := fun (l : List (Rat × Rat × Bool)) (k : Nat) => let x := l.getD k (0, 0, false); (x.1, x.2.1)
  let cross := bins.foldl (fun s k => let p := conjMul (z b k) (z a k); (add32 s.1 p.1, add32 s.2 p.2)) ((0, 0) : Rat × Rat)
  let pa := sum32 (bins.map fun k => mag2 (z a k))
  let pb := sum32 (bins.map fun k => mag2 (z b k))
  if pa = 0 ∨ pb = 0 then 0 else (clampI 0 255 (roundAway (255 * div32 (mag2 cross) (mul32 pa pb)))).toNat

/-- Weights of a raised-cosine taper over the ends of a sweep (R212); where a sweep is so short that the two overlap, both apply
(DESIGN CHOICE, assumption 53). -/
def taper (i len fade : Nat) : Int :=
  let w := fun (k : Nat) => (Fx.one - Fx.cos (Fx.pi * k / (fade : Int))) / 2
  let up := if i < fade then w i else Fx.one
  if len ≤ i + fade then Fx.mul up (w (len - 1 - i)) else up

/-- Register polynomials of the MLS orders (R212), without the leading term. -/
def mlsPoly (n : Nat) : Nat :=
  match n with
  | 15 => 0x3
  | 16 => 0x6801
  | 17 => 0x9
  | 18 => 0x81
  | 19 => 0x27
  | _ => 0x9

/-- Length of one sweep or MLS period, and of the whole excitation, and the periods captured in all (R210 to R212). -/
def SweepRec.unit (r : SweepRec) : Nat := if r.kind = 1 then 2 ^ r.mlsOrder - 1 else r.duration
def SweepRec.total (r : SweepRec) : Nat :=
  match r.kind with
  | 0 => r.repeats * (r.duration + r.tail)
  | 1 => (r.repeats + 1) * r.unit + r.tail
  | _ => r.duration

/-- Sample i of the excitation as a real value of H-format, before rounding (R212). -/
def SweepRec.real (hz : Nat) (r : SweepRec) (i : Nat) : Int :=
  let a := Fx.ofRat (134217728 * dbLin r.level)
  match r.kind with
  | 0 =>
    let per := r.duration + r.tail
    let k := i % per
    if i ≥ r.repeats * per || k ≥ r.duration then 0
    else
      let l := Fx.ln (Fx.one * r.fEnd / r.fStart)
      let ph := if l = 0 then 2 * Fx.pi * (r.fStart * k) / hz
        else Fx.mul (Fx.div (2 * Fx.pi * (r.fStart * r.duration) / hz) l) (Fx.exp (l * k / r.duration) - Fx.one)
      Fx.mul (Fx.mul a (Fx.sin ph)) (taper k r.duration r.fade)
  | 1 => if i ≥ (r.repeats + 1) * r.unit then 0 else if mlsBit r.mlsOrder (mlsPoly r.mlsOrder) (i % r.unit) then -a else a
  | _ => 0

/-- The excitation's word. -/
def SweepRec.word (hz : Nat) (r : SweepRec) (i : Nat) : Int := satH (roundAway (Fx.toRat (r.real hz i)))

/-- Tap j of the response a capture gives (R213), from the listed repeats: log sweeps are convolved with the time-reversed,
weighted sweep, MLS periods are correlated. `y` reads the capture by index from E. -/
def SweepRec.tap (hz : Nat) (r : SweepRec) (y : Nat → Int) (reps : List Nat) (lag : Nat) : Rat :=
  let n := reps.length
  if n = 0 then 0
  else match r.kind with
  | 0 =>
    let l := Fx.ln (Fx.one * r.fEnd / r.fStart)
    let w := fun (i : Nat) => Fx.exp (-(l * ((r.duration - 1 - i : Nat) : Int) / r.duration))
    let x := fun (i : Nat) => r.real hz i
    let norm := (List.range r.duration).foldl (fun a i => a + Fx.mul (w i) (Fx.mul (x i) (x i))) (0 : Int)
    let sum := reps.foldl (fun a k => (List.range r.duration).foldl (fun a i =>
      a + Fx.mul (w i) (x i) * y (k * (r.duration + r.tail) + i + lag)) a) (0 : Int)
    if norm = 0 then 0 else (sum : Rat) / ((norm * n : Int) : Rat)
  | _ =>
    let u := r.unit
    let x := fun (i : Nat) => r.real hz i
    let sum := reps.foldl (fun a k => (List.range u).foldl (fun a i => a + x (i % u) * y ((k + 1) * u + (i + lag) % u)) a) (0 : Int)
    let a2 := Fx.mul (x 0) (x 0)
    if a2 = 0 then 0 else (sum : Rat) / ((a2 * n * u : Int) : Rat)

/-- The value in dB of a correction curve at a frequency (R201): linear in log2 f between the centres from `lo` to `hi`,
held outside. -/
def curveAt (t : SMap Int) (lo hi : Nat) (f : Int) : Int :=
  let v := fun (k : Nat) => Fx.one * SMap.get 0 t k / 100
  if f ≤ 0 then v lo
  else
    let x := 6 * Fx.div (Fx.ln (f / 20)) Fx.ln2
    if x ≤ Fx.one * lo then v lo
    else if x ≥ Fx.one * hi then v hi
    else
      let k := (x / Fx.one).toNat
      v k + Fx.mul (v (k + 1) - v k) (x - Fx.one * k)

/-- Taps of the minimum-phase filter of a curve at a sampling rate, by the real cepstrum on 8,192 points (R201): the first
512, tapered, with the rounding of binary32 left open. -/
def minPhase (t : SMap Int) (lo hi rate : Nat) : List Rat :=
  let n : Nat := 8192
  let ang := fun (k : Nat) => 2 * Fx.pi * ((k % n : Nat) : Int) / n
  let lnMag := (List.range n).map fun (k : Nat) =>
    let m := if k ≤ n / 2 then k else n - k
    Fx.mul (curveAt t lo hi (Fx.one * (m * rate) / n)) (Fx.ln (10 * Fx.one)) / 20
  let cep := fun (j : Nat) => lnMag.zipIdx.foldl (fun a e => a + Fx.mul e.1 (Fx.cos (ang (e.2 * j)))) 0 / n
  let fold := (List.range (n / 2 + 1)).map fun j => if j = 0 || j = n / 2 then cep j else 2 * cep j
  let spec := (List.range n).map fun k =>
    let re := fold.zipIdx.foldl (fun a e => a + Fx.mul e.1 (Fx.cos (ang (e.2 * k)))) 0
    let im := fold.zipIdx.foldl (fun a e => a - Fx.mul e.1 (Fx.sin (ang (e.2 * k)))) 0
    (Fx.mul (Fx.exp re) (Fx.cos im), Fx.mul (Fx.exp re) (Fx.sin im))
  (List.range 512).map fun j =>
    let v := spec.zipIdx.foldl (fun a e => a + Fx.mul e.1.1 (Fx.cos (ang (e.2 * j))) - Fx.mul e.1.2 (Fx.sin (ang (e.2 * j)))) 0 / n
    r32 (Fx.toRat v + Config.designErr t j)

/-- The taper of taps 448 to 511 (R201). -/
def endTaper (j : Nat) (x : Rat) : Rat :=
  if j < 448 then x else let c := Fx.cos (Fx.pi * ((j - 448 : Nat) : Int) / 128); mul32 x (r32 (Fx.toRat (Fx.mul c c)))

/-- Words of real taps at a shift; a tap beyond C-format lowers the shift, which halves the words (R201). -/
def fitTaps : Nat → List Rat → List Int × Nat
  | 0, x => (x.map fun v => satC (roundAway (v * ((2 ^ 15 : Nat) : Rat))), 0)
  | s + 1, x =>
    let w := x.map fun v => roundAway (v * ((2 ^ (16 + s) : Nat) : Rat))
    if w.all fun v => satC v == v then (w, s + 1) else fitTaps s x

/-- A baseline FIR convolved with a correction filter: the first 512 taps, tapered, and the shift in which they fit. -/
def correctFir (base : SMap Int) (shift : Nat) (c : List Rat) : SMap Int × Nat :=
  let c := c.zipIdx.map fun e => endTaper e.2 e.1
  let u : Rat := ((2 ^ (15 + shift) : Nat) : Rat)
  let taps := (List.range 512).map fun j =>
    endTaper j (sum32 ((base.filter fun e => e.1 ≤ j).map fun e => mul32 (r32 (e.2 / u)) (c.getD (j - e.1) 0)))
  let w := fitTaps shift taps
  ((w.1.zipIdx.map fun e => (e.2, e.1)).filter fun e => e.2 != 0, w.2)

/-- The accord of a correction over a baseline (R201, R202). -/
def correctAccord (h lg : Nat) (baseOn : Bool) (base : Accord) (curve : TargetCurve) (t : SMap Int) (tag : Nat) : Accord :=
  let hz := 48000 * 2 ^ h
  let f := correctFir base.hfir base.hfirShift (minPhase t curve.loLimit curve.hiLimit hz)
  let b := if baseOn then correctFir base.bfir base.bfirShift (minPhase t curve.loLimit curve.hiLimit (hz / 2 ^ lg))
    else (base.bfir, base.bfirShift)
  { base with hfir := f.1, hfirShift := f.2, bfir := b.1, bfirShift := b.2, tag := tag }

/-- A binary32 value from its bits (Table 7.10). -/
def ofBits32 (n : Nat) : Rat :=
  let e := n / 8388608 % 256
  let m : Rat := ((n % 8388608 : Nat) : Rat)
  let v := if e = 0 then m * two (-149) else (8388608 + m) * two ((e : Int) - 150)
  if n.testBit 31 then -v else v

end Sys2Proof
end

