-- ==== Sys2Proof/Machine/RecNose.lean ====
section
/-!
DEFINITION. The calibration records as bytes (Tables 7.1, 7.3 to 7.6, 7.8 to 7.11, 7.13).
-/
namespace Sys2Proof

/-- Table 7.1, request part. -/
def noseFields0 : List Fld :=
  [kindFld 0, indexFld 0, ⟨8, 1, some 0, 0, 255, false, 0xFE, []⟩, ⟨9, 1, some 1, 2, 14, false, 0, []⟩,
   ⟨12, 4, some 2, 0, 8388608, false, 0, []⟩, ⟨16, 4, some 3, 10, 3600, false, 0, []⟩]

/-- Table 7.4. -/
def noseFields1 : List Fld :=
  [kindFld 1, indexFld 63, ⟨8, 2, some 0, 0, 1023, false, 0, [65535]⟩, ⟨10, 1, some 1, 0, 255, false, 0xF8, []⟩,
   ⟨11, 1, some 1, 8, 20, false, 0, []⟩, ⟨12, 12, some 2, 0, (2 ^ 96 : Nat), false, 0, []⟩,
   ⟨24, 4, some 3, 0, 0x00FF0000, false, 0, []⟩, ⟨28, 1, some 3, 0, 15, false, 0, []⟩,
   ⟨40, 1024, some 3, 0, (2 ^ 8192 : Nat), false, 0, []⟩]

/-- Table 7.11, record. -/
def noseFields2 : List Fld :=
  [kindFld 2, indexFld 511, ⟨8, 2, some 0, 0, 1023, false, 0, [65535]⟩, ⟨10, 2, some 0, 0, 1023, false, 0, [65535]⟩,
   ⟨12, 2, some 1, 1, 50000, false, 0, []⟩, ⟨14, 2, some 1, 1, 60000, false, 0, []⟩,
   ⟨16, 2, some 2, 100, 10000, false, 0, []⟩, ⟨18, 1, some 2, 5, 90, false, 0, []⟩,
   ⟨19, 1, some 3, 0, 255, false, 0xF8, []⟩, ⟨20, 4, some 2, 0, (2 ^ 32 : Nat), false, 0xFF000000, []⟩,
   ⟨24, 4, some 4, 1, 600, false, 0, []⟩]

/-- Table 7.9. -/
def noseFields3 : List Fld :=
  [kindFld 3, indexFld 63, ⟨8, 1, some 0, 0, 255, false, 0xFE, []⟩, ⟨10, 2, some 1, 0, 59, false, 0, []⟩,
   ⟨12, 2, some 1, 0, 59, false, 0, []⟩, ⟨14, 2, some 1, 0, 59, false, 0, []⟩, ⟨16, 2, some 1, 0, 59, false, 0, []⟩] ++
  ((List.range 60).map fun k => ⟨18 + 2 * k, 2, some 2, -2400, 2400, true, 0, []⟩)

/-- A NOSE_CFG payload obeys the table of its kind. -/
def nosePayloadOk (p : Bytes) : Bool :=
  match kindOf p with
  | 0 => recordOk noseFields0 4 32 p
  | 1 => recordOk noseFields1 4 1064 p
  | 2 => recordOk noseFields2 5 32 p
  | 3 => recordOk noseFields3 3 144 p &&
      (!(maskOf p).testBit 1 || (getU p 10 2 ≤ getU p 12 2 && getU p 14 2 ≤ getU p 16 2))
  | _ => false

/-- Header of a NOSE_CFG record. -/
def noseHead (kind i : Nat) : Bytes := le 4 0 ++ le 1 kind ++ zeros 1 ++ le 2 i

/-- Table 7.1 as bytes. -/
def NoseDev.bytes (d : NoseDev) : Bytes :=
  noseHead 0 0 ++ le 1 (bit d.run) ++ le 1 d.avgK ++ zeros 2 ++ le 4 d.codeBase ++ le 4 d.propInterval ++ zeros 12 ++
  le 8 d.frames ++ le 4 d.skipped ++ le 1 d.state ++ zeros 3 ++ le 8 d.lastRefresh

/-- Write the selected groups of an observation input; its running chain is kept. -/
def ObsIn.write (r : ObsIn) (b : Nat → Bool) (p : Bytes) : ObsIn :=
  { r with
    channel := pick (b 0) (getU p 8 2) r.channel
    flags := pick (b 1) (getU p 10 1) r.flags
    dcq := pick (b 1) (getU p 11 1) r.dcq
    pos := pick (b 2) (getPos p 12) r.pos
    firDelay := pick (b 3) (getU p 24 4) r.firDelay
    firShift := pick (b 3) (getU p 28 1) r.firShift
    fir := pick (b 3) (((List.range 256).map fun k => (k, getI p (40 + 4 * k) 4)).filter fun e => e.2 != 0) r.fir }

def ObsIn.bytes (r : ObsIn) (i : Nat) : Bytes :=
  noseHead 1 i ++ le 2 r.channel ++ le 1 r.flags ++ le 1 r.dcq ++ posBytes r.pos ++ le 4 r.firDelay ++ le 1 r.firShift ++
  zeros 11 ++ (List.range 256).flatMap fun k => leI 4 (((r.fir.find? fun e => e.1 == k).map Prod.snd).getD 0)

/-- Write the selected groups of a health record; the learn bit reads 0. -/
def Health.write (r : Health) (m : Nat) (p : Bytes) : Health :=
  let b := m.testBit
  { r with
    vChan := pick (b 0) (getU p 8 2) r.vChan
    iChan := pick (b 0) (getU p 10 2) r.iChan
    vFs := pick (b 1) (getU p 12 2) r.vFs
    iFs := pick (b 1) (getU p 14 2) r.iFs
    zNom := pick (b 2) (getU p 16 2) r.zNom
    zTol := pick (b 2) (getU p 18 1) r.zTol
    flags := pick (b 3) (getU p 19 1 % 4) r.flags
    bandMask := pick (b 2) (getU p 20 4) r.bandMask
    hold := pick (b 4) (getU p 24 4) r.hold }

def Health.bytes (r : Health) (i : Nat) : Bytes :=
  noseHead 2 i ++ le 2 r.vChan ++ le 2 r.iChan ++ le 2 r.vFs ++ le 2 r.iFs ++ le 2 r.zNom ++ le 1 r.zTol ++ le 1 r.flags ++
  le 4 r.bandMask ++ le 4 r.hold ++ zeros 4

/-- z_ref of a band: z_nom until learned (Table 7.11). -/
def Health.ref (r : Health) (b : Nat) : Nat := ((r.zRef.find? fun e => e.1 == b).map Prod.snd).getD r.zNom

/-- Table 7.11, status; `age` in seconds. -/
def Health.status (r : Health) (o health age : Nat) : Bytes :=
  le 2 o ++ le 1 health ++ le 1 r.evidence ++ le 4 age ++
  ((List.range 24).flatMap fun b => le 2 (((r.zMeas.find? fun e => e.1 == b).map Prod.snd).getD 65535)) ++
  ((List.range 24).flatMap fun b => le 2 (r.ref b)) ++ le 4 r.suspectCount ++ le 4 r.failedCount ++ le 8 r.lastChange

/-- Write and read a target curve. -/
def TargetCurve.write (r : TargetCurve) (m : Nat) (p : Bytes) : TargetCurve :=
  let b := m.testBit
  { on := pick (b 0) (getU p 8 1 == 1) r.on
    normLo := pick (b 1) (getU p 10 2) r.normLo
    normHi := pick (b 1) (getU p 12 2) r.normHi
    loLimit := pick (b 1) (getU p 14 2) r.loLimit
    hiLimit := pick (b 1) (getU p 16 2) r.hiLimit
    target := pick (b 2) (((List.range 60).map fun k => (k, getI p (18 + 2 * k) 2)).filter fun e => e.2 != 0) r.target }

/-- Sixty signed values of 16 bits. -/
def bands60 (m : SMap Int) (d : Int) : Bytes :=
  (List.range 60).flatMap fun k => leI 2 (((m.find? fun e => e.1 == k).map Prod.snd).getD d)

def TargetCurve.bytes (r : TargetCurve) (z : Nat) : Bytes :=
  noseHead 3 z ++ le 1 (bit r.on) ++ zeros 1 ++ le 2 r.normLo ++ le 2 r.normHi ++ le 2 r.loLimit ++ le 2 r.hiLimit ++
  bands60 r.target 0 ++ zeros 6

/-- Table 7.3, request part, at a Heart rate. -/
def markFields (hz : Nat) : List Fld :=
  [⟨4, 2, none, 0, 511, false, 0, []⟩, ⟨6, 2, none, 1, 512, false, 0, []⟩, ⟨8, 1, some 0, 0, 255, false, 0xFE, []⟩,
   ⟨10, 2, some 1, 600, 3000, false, 0, []⟩, ⟨12, 2, some 2, -8000, -2000, true, 0, []⟩,
   ⟨14, 2, some 3, -12000, -4000, true, 0, []⟩, ⟨16, 4, some 4, (hz / 500 : Nat), (hz / 10 : Nat), false, 0, []⟩]
def markPayloadOk (hz : Nat) (p : Bytes) : Bool := recordOk (markFields hz) 5 32 p && getU p 4 2 + getU p 6 2 ≤ 512

/-- Write the groups of a marker record that a test selects. -/
def MarkRec.write (r : MarkRec) (b : Nat → Bool) (p : Bytes) : MarkRec :=
  { enabled := pick (b 0) (getU p 8 1 == 1) r.enabled
    margin := pick (b 1) (getU p 10 2) r.margin
    cap := pick (b 2) (getI p 12 2) r.cap
    floor := pick (b 3) (getI p 14 2) r.floor
    release := pick (b 4) (some (getU p 16 4)) r.release }

/-- Table 7.5. -/
def pairFields : List Fld :=
  [⟨4, 2, none, 0, 4095, false, 0, []⟩, ⟨6, 2, some 0, 0, 511, false, 0, [65535]⟩, ⟨8, 1, some 0, 0, 63, false, 0, []⟩,
   ⟨9, 1, some 1, 0, 255, false, 0xE0, []⟩, ⟨10, 1, some 2, 0, 2, false, 0, []⟩, ⟨12, 2, some 2, 0, 511, false, 0, []⟩,
   ⟨14, 2, some 2, 0, 4095, false, 0, []⟩, ⟨16, 4, some 3, 0, 1048575, false, 0, []⟩,
   ⟨20, 4, some 4, -2147483647, 2147483647, true, 0, []⟩]
def pairPayloadOk (p : Bytes) : Bool :=
  recordOk pairFields 5 32 p &&
  (!(maskOf p).testBit 2 || (getU p 10 1 != 1 || getU p 12 2 ≤ 63))

def PairRec.write (r : PairRec) (m : Nat) (p : Bytes) : PairRec :=
  let b := m.testBit
  { output := pick (b 0) (getU p 6 2) r.output
    obs := pick (b 0) (getU p 8 1) r.obs
    flags := pick (b 1) (getU p 9 1 % 16) r.flags
    trackKind := pick (b 2) (getU p 10 1) r.trackKind
    trackTarget := pick (b 2) (getU p 12 2) r.trackTarget
    trackRef := pick (b 2) (getU p 14 2) r.trackRef
    window := pick (b 3) (getU p 16 4) r.window
    pathComp := pick (b 4) (getI p 20 4) r.pathComp }

def PairRec.bytes (r : PairRec) (i : Nat) : Bytes :=
  le 4 0 ++ le 2 i ++ le 2 r.output ++ le 1 r.obs ++ le 1 r.flags ++ le 1 r.trackKind ++ zeros 1 ++ le 2 r.trackTarget ++
  le 2 r.trackRef ++ le 4 r.window ++ leI 4 r.pathComp ++ zeros 8

/-- The pair is enabled and names an output. -/
def PairRec.live (r : PairRec) : Bool := r.flags.testBit 0 && r.output != 65535

/-- Table 7.6. -/
def Estimate.bytes (e : Estimate) (pair : Nat) : Bytes :=
  le 2 pair ++ le 1 e.flags ++ le 1 e.coh ++ le 4 e.frames ++ leI 8 e.arrival ++ le 4 e.arrivalSd ++ leI 2 e.level ++
  zeros 2 ++ le 8 e.refresh ++ bands60 e.mag (-32768) ++
  ((List.range 60).flatMap fun k => le 1 (((e.bandCoh.find? fun x => x.1 == k).map Prod.snd).getD 0)) ++ le 4 e.window ++
  zeros 8

/-- The estimate is converged (Table 7.6, flags [1]). -/
def Estimate.converged (e : Estimate) : Bool := e.flags.testBit 1

/-- Table 7.8. -/
def policyFields : List Fld :=
  [⟨4, 1, some 0, 0, 255, false, 0xF8, []⟩, ⟨5, 1, some 1, 0, 255, false, 0, []⟩, ⟨6, 2, some 2, 0, 600, false, 0, []⟩,
   ⟨8, 2, some 2, 0, 2400, false, 0, []⟩, ⟨10, 2, some 3, 1, 10000, false, 0, []⟩, ⟨12, 4, some 3, 0, 100000, false, 0, []⟩,
   ⟨16, 4, some 4, 1000, 1000000, false, 0, []⟩]
def policyPayloadOk (p : Bytes) : Bool := recordOk policyFields 5 32 p

def Policy.write (r : Policy) (m : Nat) (p : Bytes) : Policy :=
  let b := m.testBit
  { allow := pick (b 0) (getU p 4 1) r.allow
    cohMin := pick (b 1) (getU p 5 1) r.cohMin
    eqRate := pick (b 2) (getU p 6 2) r.eqRate
    eqTotal := pick (b 2) (getU p 8 2) r.eqTotal
    delaySlew := pick (b 3) (getU p 10 2) r.delaySlew
    delayTotal := pick (b 3) (getU p 12 4) r.delayTotal
    convSd := pick (b 4) (getU p 16 4) r.convSd }

def Policy.bytes (r : Policy) : Bytes :=
  le 4 0 ++ le 1 r.allow ++ le 1 r.cohMin ++ le 2 r.eqRate ++ le 2 r.eqTotal ++ le 2 r.delaySlew ++ le 4 r.delayTotal ++
  le 4 r.convSd ++ zeros 12

/-- The value field of an air proposal: u as binary32 and the temperature in 0.01 °C (Table 7.10). -/
def airValue (u : Rat) (temp : Int) : Nat := bits32 u + (temp % 65536).toNat * 4294967296

/-- Table 7.10. -/
def Proposal.bytes (r : Proposal) (kind target : Nat) : Bytes :=
  let val := fun (v : Int) (u : Rat) (t : Int) => if kind = 3 then le 8 (airValue u t) else leI 8 v
  le 4 r.id ++ le 1 kind ++ le 1 r.state ++ le 2 target ++ le 8 r.computed ++ val r.value r.u r.temp ++
  val r.current r.uCur r.tempCur ++ bands60 r.eqTotal 0 ++ bands60 r.eqStep 0 ++ le 4 r.tag ++ zeros 4

/-- Table 7.13 at a Heart rate. -/
def sweepFields (hz : Nat) : List Fld :=
  [⟨0, 2, none, 0, 511, false, 0, []⟩, ⟨2, 1, none, 0, 3, false, 0, []⟩, ⟨3, 1, none, 15, 20, false, 0, []⟩,
   ⟨4, 2, none, -6000, 0, true, 0, []⟩, ⟨6, 2, none, 1, 64, false, 0, []⟩, ⟨8, 4, none, 10, (9 * hz / 20 : Nat), false, 0, []⟩,
   ⟨12, 4, none, 10, (9 * hz / 20 : Nat), false, 0, []⟩, ⟨16, 4, none, 8192, (30 * hz : Nat), false, 0, []⟩,
   ⟨20, 4, none, 0, (10 * hz : Nat), false, 0, []⟩, ⟨24, 8, none, 0, (2 ^ 64 : Nat), false, 0, []⟩,
   ⟨32, 8, none, 0, (2 ^ 64 : Nat), false, 0, []⟩, ⟨40, 2, none, 16, 9600, false, 0, []⟩]
def sweepPayloadOk (hz : Nat) (p : Bytes) : Bool :=
  layoutOk (sweepFields hz) 0 48 (fun _ => true) p && getU p 8 4 ≤ getU p 12 4

def sweepOf (p : Bytes) : SweepRec :=
  { output := getU p 0 2, kind := getU p 2 1, mlsOrder := getU p 3 1, level := getI p 4 2, repeats := getU p 6 2,
    fStart := getU p 8 4, fEnd := getU p 12 4, duration := getU p 16 4, tail := getU p 20 4,
    obsMask := BitVec.ofNat 64 (getU p 24 8), start := getU p 32 8, fade := getU p 40 2 }

end Sys2Proof
end

