-- ==== Sys2Proof/Machine/Solver.lean ====
section
/-!
DEFINITION. The geometry solver's laws (chapter 3): triangulation and PAN (R65 to R68), DELAY (R69), DIST (R70), AMBI
(R71, R72), DIRECT (R73), air absorption (R74). Every formula is evaluated in binary32 in the order the manual writes it
(R63).
-/
namespace Sys2Proof.Machine

/-- A vector of binary32 values. -/
structure V3 where
  x : Rat := 0
  y : Rat := 0
  z : Rat := 0
deriving DecidableEq, Repr

def V3.sub (a b : V3) : V3 := ⟨sub32 a.x b.x, sub32 a.y b.y, sub32 a.z b.z⟩
def V3.dot (a b : V3) : Rat := add32 (add32 (mul32 a.x b.x) (mul32 a.y b.y)) (mul32 a.z b.z)
def V3.cross (a b : V3) : V3 :=
  ⟨sub32 (mul32 a.y b.z) (mul32 a.z b.y), sub32 (mul32 a.z b.x) (mul32 a.x b.z), sub32 (mul32 a.x b.y) (mul32 a.y b.x)⟩
def V3.len (a : V3) : Rat := sqrt32 (a.dot a)
def V3.over (a : V3) (k : Rat) : V3 := ⟨div32 a.x k, div32 a.y k, div32 a.z k⟩

/-- A position difference: integers first, then binary32 (R31). -/
def diff (a b : Pos) : V3 := ⟨r32 (a.x - b.x : Int), r32 (a.y - b.y : Int), r32 (a.z - b.z : Int)⟩

/-- Unit direction; a zero-length vector is replaced by +x (R63). -/
def V3.unit (a : V3) : V3 := let n := a.len; if n = 0 then ⟨1, 0, 0⟩ else a.over n
def dirOf (p : Pos) : V3 := (diff p {}).unit

/-- π, and an angle of 0.01° units in radians, in binary32: the exact product with π, rounded once. R63 gives neither the unit
of the argument of a trigonometric function nor its rounding (DESIGN CHOICE, assumption 26). -/
def pi32 : Rat := r32 (Fx.toRat Fx.pi)
def rad32 (a : Int) : Rat := r32 (Fx.toRat (Fx.pi * a / 18000))

/-- Azimuth of a direction; straight up or down has azimuth 0 (R65, step 4). -/
def azOf (v : V3) : Rat := if v.x = 0 ∧ v.y = 0 then 0 else atan32 v.y v.x
def azUnit (a : Rat) : V3 := ⟨cos32 a, sin32 a, 0⟩

/-- A vertex: its lowest output, its direction or azimuth vector, its azimuth, its members. -/
structure Vtx where
  low     : Nat
  dir     : V3
  az      : Rat := 0
  members : List Nat
deriving DecidableEq, Repr

/-- Directions less than 0.01° apart: the chord of their unit vectors (R65, step 2). -/
def near3 (a b : Vtx) : Bool := (a.dir.sub b.dir).len < rad32 1

/-- Azimuths less than 0.01° apart, the short way round. -/
def near2 (a b : Vtx) : Bool :=
  let d := sub32 a.az b.az
  let d := if d < 0 then -d else d
  let t := sub32 (mul32 2 pi32) d
  (if t < d then t else d) < rad32 1

/-- Put a vertex into groups, joining every group it is linked to. -/
def groupInto (near : Vtx → Vtx → Bool) (gs : List (List Vtx)) (v : Vtx) : List (List Vtx) :=
  let hit := gs.filter fun g => g.any (near v)
  (gs.filter fun g => !g.any (near v)) ++ [hit.flatten ++ [v]]

/-- Order by lowest output. -/
def byLow (l : List Vtx) : List Vtx := l.mergeSort fun a b => a.low ≤ b.low

/-- Direction groups (R65, step 2): each takes the direction of its lowest output. -/
def groups (near : Vtx → Vtx → Bool) (l : List Vtx) : List Vtx :=
  byLow ((l.foldl (groupInto near) []).filterMap fun g =>
    match byLow g with
    | [] => none
    | h :: _ => some { h with members := (g.flatMap fun v => v.members).mergeSort fun a b => a ≤ b })

/-- The supporting plane of three vertices: outward normal and distance, when no vertex lies outside it. -/
def planeOf (vs : List Vtx) (a b c : Vtx) : Option (V3 × Rat) :=
  let n := (b.dir.sub a.dir).cross (c.dir.sub a.dir)
  let l := n.len
  if l = 0 then none
  else
    let n := n.over l
    let d := n.dot a.dir
    let eps := r32 (1 / 100000)
    let side := fun (n : V3) (d : Rat) => vs.all fun v => sub32 (n.dot v.dir) d ≤ eps
    let flip : V3 := ⟨-n.x, -n.y, -n.z⟩
    if d ≥ r32 (1 / 1000) && side n d then some (n, d)
    else if -d ≥ r32 (1 / 1000) && side flip (-d) then some (flip, -d)
    else none

/-- The triangles of a hull face: a fan from the vertex of the lowest output, in angular order (R65, step 3). -/
def fan (n : V3) (on : List Vtx) : List (List Vtx) :=
  match byLow on with
  | [] => []
  | v0 :: rest =>
    let ord := rest.mergeSort fun p q => n.dot ((p.dir.sub v0.dir).cross (q.dir.sub v0.dir)) ≥ 0
    (ord.zip (ord.drop 1)).map fun e => byLow [v0, e.1, e.2]

/-- Pairs and triples of a list, in order. -/
def pairsOf {α : Type} : List α → List (α × α)
  | [] => []
  | a :: r => (r.map fun b => (a, b)) ++ pairsOf r
def triplesOf {α : Type} : List α → List (α × α × α)
  | [] => []
  | a :: r => ((pairsOf r).map fun e => (a, e.1, e.2)) ++ triplesOf r

/-- Lexicographic order of lists of numbers. -/
def lexLe : List Nat → List Nat → Bool
  | [], _ => true
  | _ :: _, [] => false
  | a :: r, b :: t => if a = b then lexLe r t else a < b

/-- Faces numbered by their sorted lists of lowest outputs (R65, step 7). -/
def numberFaces (fs : List (List Vtx)) : List (List Vtx) :=
  fs.mergeSort fun a b => lexLe (a.map Vtx.low) (b.map Vtx.low)

/-- Faces of the convex hull (R65, step 3). -/
def hullFaces (vs : List Vtx) : List (List Vtx) :=
  let eps := r32 (1 / 100000)
  let found := (triplesOf vs).foldl (fun (acc : List (List Nat × List (List Vtx))) t =>
    match planeOf vs t.1 t.2.1 t.2.2 with
    | none => acc
    | some (n, d) =>
      let on := vs.filter fun v => let e := sub32 (n.dot v.dir) d; (if e < 0 then -e else e) ≤ eps
      let key := (byLow on).map Vtx.low
      if acc.any fun a => a.1 == key then acc else acc ++ [(key, fan n on)]) []
  numberFaces (found.flatMap fun f => f.2)

/-- Arcs between neighbouring azimuths of at most 179.99° (R65, step 4). -/
def arcFaces (vs : List Vtx) : List (List Vtx) :=
  let l := vs.mergeSort fun a b => a.az ≤ b.az
  let next := l.drop 1 ++ l.take 1
  if l.length < 2 then []
  else numberFaces (((l.zip next).filter fun e =>
    let d := sub32 e.2.az e.1.az
    let d := if d < 0 then add32 d (mul32 2 pi32) else d
    d ≤ rad32 17999).map fun e => byLow [e.1, e.2])

/-- A zone's triangulation (R65): vertices, faces, and whether it is solved as in horizontal mode. -/
structure Tri where
  vs    : List Vtx := []
  faces : List (List Vtx) := []
  flat  : Bool := false
deriving DecidableEq, Repr

/-- Build it from outputs and positions (R65). -/
def triangulate (horizontal : Bool) (spks : List (Nat × Pos)) : Tri :=
  let vs := (spks.filter fun e => e.2 != {}).map fun e => ({ low := e.1, dir := dirOf e.2, members := [e.1] } : Vtx)
  let vs := groups near3 vs
  let hull := if horizontal then [] else hullFaces vs
  if !horizontal && !hull.isEmpty then ⟨vs, hull, false⟩
  else
    let fl := groups near2 (vs.map fun v => { v with az := azOf v.dir })
    let fl := fl.map fun v => { v with dir := azUnit v.az }
    ⟨fl, arcFaces fl, true⟩

/-- The components of a direction over a face by Cramer's rule (R67). -/
def solveFace (f : List Vtx) (p : V3) : List Rat :=
  match f with
  | [a, b] =>
    let d := sub32 (mul32 a.dir.x b.dir.y) (mul32 a.dir.y b.dir.x)
    [div32 (sub32 (mul32 p.x b.dir.y) (mul32 p.y b.dir.x)) d, div32 (sub32 (mul32 a.dir.x p.y) (mul32 a.dir.y p.x)) d]
  | [a, b, c] =>
    let d := a.dir.dot (b.dir.cross c.dir)
    [div32 (p.dot (b.dir.cross c.dir)) d, div32 (p.dot (c.dir.cross a.dir)) d, div32 (p.dot (a.dir.cross b.dir)) d]
  | _ => []

/-- Smallest of a list, 0 for none. -/
def minRat : List Rat → Rat
  | [] => 0
  | a :: r => r.foldl (fun m x => if x < m then x else m) a

/-- Sum two gain vectors by vertex. -/
def addVec (a b : SMap Rat) : SMap Rat := b.foldl (fun m e => SMap.ins m e.1 (add32 (SMap.get 0 m e.1) e.2)) a

/-- The gain vector of one direction by lowest output, before the energy scaling (R67). -/
def panVec (t : Tri) (p : V3) : SMap Rat :=
  let q := if t.flat then azUnit (azOf p) else p
  match t.faces with
  | [] =>
    match t.vs with
    | [v] => [(v.low, 1)]
    | vs =>
      let g := vs.map fun v => (v.low, let x := q.dot v.dir; if x < 0 then 0 else x)
      if g.all fun e => e.2 = 0 then vs.map fun v => (v.low, 1) else g
  | f0 :: fs =>
    let best := fs.foldl (fun (b : List Vtx × List Rat) f =>
      let h := solveFace f q
      if minRat h > minRat b.2 then (f, h) else b) (f0, solveFace f0 q)
    let g := (best.1.zip best.2).map fun e => (e.1.low, if e.2 < 0 then 0 else e.2)
    if g.all fun e => e.2 = 0 then
      match t.vs with
      | [] => []
      | v0 :: vs =>
        let n := vs.foldl (fun b v => if v.dir.dot q > b.dir.dot q then v else b) v0
        [(n.low, 1)]
    else g.filter fun e => e.2 != 0

/-- Directions of a spread (R68). The manual gives the cone's geometry and no formula: the model takes the tangent basis of the
upward (or +x) direction and its cross product with p, steps from the first towards the second, and does not scale the sums
to unit length again (DESIGN CHOICE, assumption 26). -/
def spreadDirs (flat : Bool) (p : V3) (spread : Nat) : List V3 :=
  if spread = 0 then [p]
  else
    let half := rad32 spread / 2
    if flat then
      (List.range 17).map fun (i : Nat) => azUnit (add32 (sub32 (azOf p) half) (div32 (mul32 (rad32 spread) (i : Rat)) 16))
    else
      let e1 : V3 := if p.x = 0 ∧ p.y = 0 then ⟨1, 0, 0⟩
        else V3.unit ⟨-(mul32 p.z p.x), -(mul32 p.z p.y), sub32 1 (mul32 p.z p.z)⟩
      let e2 := p.cross e1
      p :: (List.range 16).map fun (k : Nat) =>
        let a := rad32 (2250 * (k : Int))
        let c := mul32 (sin32 half) (cos32 a)
        let d := mul32 (sin32 half) (sin32 a)
        let f := fun (px x1 x2 : Rat) => add32 (add32 (mul32 (cos32 half) px) (mul32 c x1)) (mul32 d x2)
        ⟨f p.x e1.x e2.x, f p.y e1.y e2.y, f p.z e1.z e2.z⟩

/-- Scale to unit energy and share a group's component among its members (R67). -/
def panGains (t : Tri) (g : SMap Rat) : SMap Rat :=
  let e := sqrt32 (g.foldl (fun a x => add32 a (mul32 x.2 x.2)) 0)
  if e = 0 then []
  else t.vs.foldl (fun m v =>
    let h := SMap.get 0 g v.low
    if h = 0 then m
    else v.members.foldl (fun m o => SMap.ins m o (div32 (div32 h e) (sqrt32 v.members.length))) m) []

/-- PAN gains of a zone (R67, R68). -/
def pan (t : Tri) (p : V3) (spread : Nat) : SMap Rat :=
  panGains t ((spreadDirs t.flat p spread).foldl (fun m d => addVec m (panVec t d)) [])

/-- Legendre polynomials of degrees n and n − 1, exactly, by their recurrence; in binary32 within 1 ulp (R63, R72). -/
def legendreExact (x : Rat) : Nat → Rat × Rat
  | 0 => (1, 0)
  | n + 1 =>
    let q := legendreExact x n
    (if n = 0 then x else ((2 * n + 1 : Nat) * x * q.1 - (n : Nat) * q.2) / (n + 1 : Nat), q.1)
def legendre (x : Rat) (n : Nat) : Rat := near32 9 x n (legendreExact x n).1

/-- Order of a bed (Table 3.4). -/
def bedOrder (b : Nat) : Nat := if b = 1 then 3 else if b = 2 then 1 else 5

/-- K3 and K2 (R72). -/
def k3 (n : Nat) (x : Rat) : Rat :=
  let c := cos32 (div32 (r32 (24068 / 10000)) (add32 n (r32 (151 / 100))))
  (List.range (n + 1)).foldl (fun a i =>
    add32 a (mul32 (mul32 (2 * i + 1 : Nat) (legendre c i)) (legendre x i))) 0
def k2 (n : Nat) (g : Rat) : Rat :=
  add32 1 (mul32 2 ((List.range n).foldl (fun a i =>
    add32 a (mul32 (cos32 (div32 (mul32 (i + 1 : Nat) pi32) (2 * n + 2 : Nat))) (cos32 (mul32 (i + 1 : Nat) g)))) 0))

/-- The virtual layouts (R71). The manual names the elevation arcsin z and no formula for the vector: the model takes its cosine
as √(1 − z²) and its sine as z, without the arc (DESIGN CHOICE, assumption 26). -/
def layout3 : List V3 :=
  (List.range 240).map fun k =>
    let z := sub32 1 (div32 (2 * k + 1 : Nat) 240)
    let r := sqrt32 (sub32 1 (mul32 z z))
    let a := r32 (Fx.toRat (Fx.pi * (k * 13750776 : Nat) / 18000000))
    ⟨mul32 r (cos32 a), mul32 r (sin32 a), z⟩
def layout2 : List V3 := (List.range 72).map fun (k : Nat) => azUnit (rad32 (500 * (k : Int)))

/-- AMBI gains of a zone (R72). -/
def ambi (t : Tri) (p : V3) (bed : Nat) : SMap Rat :=
  let n := bedOrder bed
  let dirs := if bed = 3 then layout2 else layout3
  let e := dirs.foldl (fun m v =>
    let k := if bed = 3 then k2 n (sub32 (azOf v) (azOf p)) else k3 n (v.dot p)
    (pan t v 0).foldl (fun m g => SMap.ins m g.1 (add32 (SMap.get 0 m g.1) (mul32 g.2 k))) m) []
  let s := sqrt32 (e.foldl (fun a x => add32 a (mul32 x.2 x.2)) 0)
  if s = 0 then [] else e.map fun x => (x.1, div32 x.2 s)

/-- Gain of 0.01 dB in binary32, mute at or below −144 dB (R61). -/
def gain32 (g : Int) : Rat := if g ≤ -14400 then 0 else if g = 0 then 1 else pow32 10 (div32 g 2000)

/-- Speed of sound in m/s, binary32 (R47). -/
def speedOf (temp : Int) (hum : Nat) : Rat :=
  let t := r32 (temp / 100 : Rat)
  let h := r32 (hum / 100 : Rat)
  add32 (mul32 (r32 (3313 / 10)) (sqrt32 (add32 1 (div32 t (r32 (27315 / 100))))))
    (mul32 h (add32 (r32 (21 / 10000)) (mul32 (r32 (16 / 100000)) t)))

/-- u: millimetres per period; with source TRACKED the Nose's (R47, R63). -/
def State.uNow (s : State) : Rat :=
  match s.scene.air.source, s.scene.airSt.noseU with
  | 1, some u => u
  | _, _ => div32 (mul32 (speedOf s.scene.air.temp s.scene.air.humidity) 1000) s.hz

/-- Temperature of the absorption model in °C. -/
def State.airTemp (s : State) : Rat :=
  match s.scene.air.source, s.scene.airSt.noseU with
  | 1, some _ => s.scene.airSt.noseTemp
  | _, _ => r32 (s.scene.air.temp / 100 : Rat)

/-- Table 3.5, rows −10 to 30 °C, columns 20, 50, 80 %RH. -/
def absTable : List (List Rat) :=
  [[25, 21, 16], [30, 18, 13], [33, 31 / 2, 23 / 2], [26, 14, 21 / 2], [17, 25 / 2, 10]]

/-- Absorption in dB per 100 m: bilinear, held at the edges (R74). -/
def absorption (temp : Rat) (hum : Nat) : Rat :=
  let hold := fun (lo hi x : Rat) => if x < lo then lo else if x > hi then hi else x
  let t := div32 (sub32 (hold (-10) 30 temp) (-10)) 10
  let h := div32 (sub32 (hold 20 80 (r32 (hum / 100 : Rat))) 20) 30
  let i := if t.floor > 3 then 3 else t.floor.toNat
  let j := if h.floor > 1 then 1 else h.floor.toNat
  let f := fun (a b w : Rat) => add32 a (mul32 (sub32 b a) w)
  let row := fun k => let r := absTable.getD k []; f (r.getD j 0) (r.getD (j + 1) 0) (sub32 h j)
  f (row i) (row (i + 1)) (sub32 t i)

/-- The air coefficient of a tap, in 1/65,536 (R74). -/
def airCoef (hz : Nat) (alpha r : Rat) : Nat :=
  let a := div32 (mul32 alpha r) 100000
  let a := if a > 30 then 30 else a
  let g := pow32 10 (div32 (-a) 20)
  let g2 := mul32 g g
  let e := sub32 1 g2
  if a = 0 ∨ e = 0 then 0
  else
    let c := cos32 (div32 (mul32 (mul32 2 pi32) 10000) hz)
    let m := sub32 1 (mul32 g2 c)
    let v := div32 (sub32 m (sqrt32 (sub32 (mul32 m m) (mul32 e e)))) e
    (clampI 0 65535 (roundAway (v * 65536))).toNat

/-- Exponents k_n of the directivity classes, doubled (Table 3.3). -/
def classK2 : List Nat := [0, 1, 2, 4, 6, 8, 12, 16, 24, 32, 48, 64, 96, 128, 192, 256]

/-- D_n of a cosine (R64). -/
def directivity (n : Nat) (c : Rat) : Rat :=
  let k := classK2.getD n 0
  let x := div32 (add32 1 c) 2
  let v := if k = 0 then 1 else if x = 0 then 0 else pow32 x (k / 2 : Rat)
  if v < r32 (1 / 100) then r32 (1 / 100) else v

/-- Base 2 logarithm in binary32. -/
def log2of (x : Rat) : Rat := near32 7 x 0 (Fx.toRat (Fx.div (Fx.ln (Fx.ofRat x)) Fx.ln2))

/-- Distance gain (R69). -/
def distGain (o : ObjRec) (r : Rat) : Rat :=
  let ref : Rat := r32 o.refDist
  let m := if r < ref then ref else r
  match o.distModel with
  | 0 => 1
  | 1 => div32 ref m
  | _ => pow32 10 (mul32 (div32 (-(r32 (o.rolloff / 10 : Rat))) 20) (log2of (div32 m ref)))

/-- The cosine of R69 between a loudspeaker's aim and the wavefront's direction, held to −1 to 1. -/
def aimCos (k : SpkRec) (d : V3) (r : Rat) : Rat :=
  if r = 0 then 1
  else
    let az := rad32 k.aimAz
    let el := rad32 k.aimEl
    let a : V3 := ⟨mul32 (cos32 el) (cos32 az), mul32 (cos32 el) (sin32 az), sin32 el⟩
    let c := div32 (a.dot d) r
    if c < -1 then -1 else if c > 1 then 1 else c

/-- What a law gives for a loudspeaker: gain, delay in periods, air coefficient. -/
structure LawTap where
  output : Nat
  gain   : Rat
  tau    : Rat := 0
  air    : Nat := 0
deriving DecidableEq, Repr

/-- Loudspeakers taking part in a zone at the Heart rate, in output order (R43). -/
def State.zoneSpks (s : State) (z : Nat) : List (Nat × SpkRec) :=
  s.scene.speakers.filter fun e => e.2.takesPart && e.2.zone == z && outExists s.media.heart e.1

/-- One zone's candidates of an object (R60): each zone is solved on its own. -/
def zoneTaps (s : State) (o : ObjRec) (z : Nat) : List LawTap :=
  let spks := s.zoneSpks z
  let tri := fun (_ : Unit) => triangulate ((s.zone z).flags.testBit 0) (spks.map fun e => (e.1, e.2.pos))
  let alpha := fun (_ : Unit) => absorption s.airTemp s.scene.air.humidity
  let air := fun r => if o.flags.testBit 0 then airCoef s.hz (alpha ()) r else 0
  match o.law with
  | 0 => (pan (tri ()) (dirOf o.pos) o.spread).map fun e => ⟨e.1, e.2, 0, 0⟩
  | 3 => (ambi (tri ()) (dirOf o.pos) o.ambiBed).map fun e => ⟨e.1, e.2, 0, 0⟩
  | 1 => spks.map fun e =>
      let d := diff e.2.pos o.pos
      let r := d.len
      let c := aimCos e.2 d r
      ⟨e.1, mul32 (mul32 (distGain o r) (div32 (add32 1 c) 2)) (directivity e.2.directivity c),
       add32 (div32 r s.uNow) (s.zone z).precLead, air r⟩
  | _ =>
    let b := r32 (o.refDist : Nat)
    let a := div32 (r32 (o.rolloff / 10 : Rat)) (mul32 20 (near32 8 2 0 (Fx.toRat (Fx.div Fx.ln2 (Fx.ln (10 * Fx.one))))))
    let ds := spks.map fun e =>
      let r := (diff e.2.pos o.pos).len
      (e.1, r, sqrt32 (add32 (mul32 r r) (mul32 b b)))
    let p := fun (d e : Rat) => if e = 0 then 1 else pow32 d e
    let sum := sqrt32 (ds.foldl (fun m e => add32 m (p e.2.2 (mul32 (-2) a))) 0)
    ds.map fun e => ⟨e.1, div32 (p e.2.2 (-a)) sum, 0, air e.2.1⟩

/-- DIRECT candidates (R73): entries of one output are summed. -/
def directTaps (s : State) (o : ObjRec) : List LawTap :=
  let g := o.direct.foldl (fun m e =>
    if (s.spk e.1).takesPart && outExists s.media.heart e.1
    then SMap.ins m e.1 (add32 (SMap.get 0 m e.1) (gain32 e.2)) else m) ([] : SMap Rat)
  g.map fun e => ⟨e.1, e.2, 0, 0⟩

/-- An object's candidates (R60, R73). -/
def lawTaps (s : State) (o : ObjRec) : List LawTap :=
  if o.law = 4 then directTaps s o
  else ((List.range 64).filter fun z => o.zoneMask.getLsbD z).flatMap (zoneTaps s o)

end Sys2Proof.Machine
end

