-- ==== Sys2Proof/Machine/Taps.lean ====
section
/-!
DEFINITION. The tap table of a tick: composition (R61, R62, R91), the 128-tap limit (R82), SHALLOW's policy (R102), motion
(R79 to R81), budgets and tap pressure (R83 to R85).
-/
namespace Sys2Proof.Machine

/-- A tap the solver wants (R83): its pair, composed gain and target, and its object's motion. -/
structure Want1 where
  slot   : Nat
  obj    : Nat
  output : Nat
  g      : Rat
  gC     : Int
  sat    : Bool
  tau    : Nat
  deep   : Bool
  air    : Nat
  hop    : Bool
  fade   : Nat
  /-- SHALLOW's policy clamped the target (R102) -/
  cut    : Bool := false
deriving DecidableEq, Repr

/-- Largest tap delay (R91) and near limit (R90), in 1/65,536 period. -/
def maxDelay : Nat := 0x2EDC00000
def nearLimit : Nat := 0x1FE00000

/-- Compose one candidate (R61, R62, R91); none for a mute gain. -/
def compose (s : State) (slot id : Nat) (o : ObjRec) (t : LawTap) : Option Want1 :=
  let k := s.spk t.output
  let z := s.zone k.zone
  let g := mul32 (mul32 (mul32 (gain32 o.gain) (gain32 z.gain)) (gain32 k.trim)) t.gain
  let mag := if g < 0 then -g else g
  if g = 0 ∨ mag < pow32 10 (div32 (-14400) 2000) then none
  else
    let raw := roundAway (g * 1073741824)
    let tau : Int := (o.objDelay * 65536 + k.delayOffset : Nat) + z.delayTrim + roundAway (t.tau * 65536)
    let tau := if tau < 0 then 0 else tau.toNat
    some { slot := slot, obj := id, output := t.output, g := g, gC := satC raw, sat := satC raw != raw,
           tau := if tau > maxDelay then maxDelay else tau, deep := tau > maxDelay, air := t.air,
           hop := o.motion.testBit 0, fade := o.motion / 16 + 1 }

/-- Descending |g|, then lower slot, then lower output (R84). -/
def rankLe (a b : Want1) : Bool :=
  let m := fun (x : Rat) => if x < 0 then -x else x
  if m a.g = m b.g then (if a.slot = b.slot then a.output ≤ b.output else a.slot < b.slot) else m a.g > m b.g

/-- A zone clamps, or mutes, deep taps in SHALLOW (R102). -/
def shallowKeep (s : State) (w : Want1) : Option Want1 :=
  if !s.shallow || w.tau ≤ nearLimit then some w
  else if (s.zone (s.spk w.output).zone).flags.testBit 1 then some { w with tau := nearLimit, cut := true } else none

/-- Candidates of an object after R102 and the 128-tap limit (R82). -/
def objectWants (s : State) (slot id : Nat) : List Want1 :=
  let o := (s.obj id).cfg
  (((lawTaps s o).filterMap (compose s slot id o)).filterMap (shallowKeep s)).mergeSort rankLe |>.take 128

/-- The tap table's entry for a pair. -/
def tapOf (t : SMap (SMap Tap)) (slot output : Nat) : Option Tap := SMap.look ((SMap.look t slot).getD []) output

end Sys2Proof.Machine

namespace Sys2Proof

open Machine

/-- Delay of a tap's main read at period index i of the tick (R78, R80). -/
def Tap.delayAt (t : Tap) (i : Nat) : Nat :=
  if t.hop then t.delayB
  else ((t.delayA : Int) + (((t.delayB : Int) - t.delayA) * (i + 1 : Nat)) / 64).toNat

/-- The reads of a tap: whether it is the old one, and its delay at a period of the tick (R80). -/
def Tap.reads (t : Tap) : List Bool := if t.hop then [false, true] else [false]

def Tap.readDelay (t : Tap) (old : Bool) (i : Nat) : Nat := if old then t.delayH else t.delayAt i

/-- The tick in which a read of a tap began. -/
def Tap.began (t : Tap) (old : Bool) : Nat := if old then t.startOld else t.start

/-- The pair is rendered with a non-zero end gain (R83). -/
def Tap.lives (t : Tap) : Bool := t.gainB != 0

/-- A HOP fade runs on into the next tick (R80). -/
def Tap.carries (t : Tap) : Bool := t.hop && t.fadeIdx + 1 < t.fadeLen

end Sys2Proof

namespace Sys2Proof.Machine

/-- A tap that continues starts a HOP fade towards a target (R80, R81). -/
def startsHop (prev : Tap) (w : Want1) : Bool := w.hop && !prev.carries && w.tau != prev.delayB

/-- Largest delay a read reaches in the block whose first period is index i0 of the tick (R90). -/
def readMax (t : Tap) (old : Bool) (i0 : Nat) : Nat := max (t.readDelay old i0) (t.readDelay old (i0 + 15))
def isLong (t : Tap) (old : Bool) (i0 : Nat) : Bool := readMax t old i0 > nearLimit

/-- In SHALLOW's clamp, a tap that read the long line in the last block of the tick before is replaced by a new tap (R90, R102). -/
def replacedByClamp (prev : Tap) (w : Want1) : Bool :=
  w.cut && prev.reads.any fun old => isLong prev old 48

/-- Running totals of the four Quays and the device. -/
structure Totals where
  quay : List Nat := [0, 0, 0, 0]
  all  : Nat := 0
deriving DecidableEq, Repr

def Totals.add (t : Totals) (q n : Nat) : Totals := ⟨t.quay.set q (t.quay.getD q 0 + n), t.all + n⟩
def Totals.quayFits (t : Totals) (h q n : Nat) : Bool := t.quay.getD q 0 + n ≤ quayTapCap h
def Totals.allFits (t : Totals) (h n : Nat) : Bool := t.all + n ≤ tapCap h

/-- The walk of R84: the wants that join T. A tap that would exceed both its Quay's total and the device total is passed over:
R84 says both that it is passed over and that the walk stops, and the model tests the Quay first (DESIGN CHOICE, assumption 26). -/
def walk (h : Nat) (cost : Want1 → Nat) : List Want1 → Totals → List Want1 → List Want1
  | [], _, acc => acc.reverse
  | w :: r, t, acc =>
    let q := w.output / 128
    let n := cost w
    if !t.quayFits h q n then walk h cost r t acc
    else if !t.allFits h n then acc.reverse
    else walk h cost r (t.add q n) (w :: acc)

/-- Admission in rank order (R84): of the wants that need `need` more (1 for a new tap, 1 for the second read of a HOP
fade), those that fit every budget. -/
def admitTaps (h : Nat) (need : Want1 → Nat) : List Want1 → Totals → List (Nat × Nat) → List (Nat × Nat)
  | [], _, acc => acc
  | w :: r, t, acc =>
    let n := need w
    let q := w.output / 128
    if n = 0 then admitTaps h need r t acc
    else if t.quayFits h q n && t.allFits h n then admitTaps h need r (t.add q n) ((w.slot, w.output) :: acc)
    else admitTaps h need r t acc

/-- A new tap of tick k (R75). -/
def newTap (k : Nat) (w : Want1) : Tap :=
  { gainB := w.gC, delayA := w.tau, delayB := w.tau, airA := w.air, airB := w.air, isNew := true, start := k }

/-- A tap that continues in tick k (R79, R80): `hopOk` admits a HOP fade that starts, in which the read goes on as the old one
and a new read begins (R96). -/
def nextTap (k : Nat) (p : Tap) (w : Want1) (hopOk : Bool) : Tap :=
  let b : Tap := { gainA := p.gainB, gainB := w.gC, delayA := p.delayB, delayB := p.delayB, airA := p.airB, airB := w.air,
                   y := p.y, yOld := p.yOld, start := p.start }
  if p.carries then
    { b with delayH := p.delayH, fadeLen := p.fadeLen, fadeIdx := p.fadeIdx + 1, hop := true, startOld := p.startOld }
  else if w.hop then
    if w.tau = p.delayB || !hopOk then b
    else { b with delayA := w.tau, delayB := w.tau, delayH := p.delayB, fadeLen := w.fade, hop := true,
                    start := k, startOld := p.start }
  else
    let d := clampI (-209664) 209664 ((w.tau : Int) - p.delayB)
    { b with delayB := ((p.delayB : Int) + d).toNat, clamped := d != (w.tau : Int) - p.delayB }

/-- A tap that fades out over the tick (R75, R80): its delay and coefficient are held. -/
def fadeTap (p : Tap) : Tap :=
  let b : Tap := { gainA := p.gainB, delayA := p.delayB, delayB := p.delayB, airA := p.airB, airB := p.airB,
                   fadingOut := true, y := p.y, yOld := p.yOld, start := p.start }
  if p.carries then
    { b with delayH := p.delayH, fadeLen := p.fadeLen, fadeIdx := p.fadeIdx + 1, hop := true, startOld := p.startOld }
  else b

/-- List a tap in a table. -/
def putTap (t : SMap (SMap Tap)) (slot output : Nat) (v : Tap) : SMap (SMap Tap) :=
  SMap.ins t slot (SMap.ins ((SMap.look t slot).getD []) output v)

/-- Every pair of a table. -/
def tapList (t : SMap (SMap Tap)) : List (Nat × Nat × Tap) := t.flatMap fun e => e.2.map fun f => (e.1, f.1, f.2)

/-- A tick's solution. -/
structure Solved where
  wants    : List Want1
  table    : SMap (SMap Tap)
  /-- wants that exceed a budget, and the wants not rendered at their solved gain (R85) -/
  pressure : Bool
  missed   : List Want1
  /-- taps of T and taps rendered, per Quay and for the device (Table 10.2, kind 7) -/
  counts   : List (Nat × Nat) := []
deriving DecidableEq, Repr

/-- The wants that pass a test, in order, of each Quay no more than its number. -/
def firstOf (n : Nat → Nat) (f : Want1 → Bool) (l : List Want1) : List Want1 :=
  (l.foldl (fun (a : List Want1 × List Nat) w =>
    let q := w.output / 128
    if f w && a.2.getD q 0 < n q then (w :: a.1, a.2.set q (a.2.getD q 0 + 1)) else a) ([], [0, 0, 0, 0])).1.reverse

/-- Solve tick k from the records and a table solved before it (R59, R83, R84). With the active's check record of the tick (R300)
its counts decide how many ranked wants of a Quay join T and how many new taps are admitted. -/
def solveFrom (k : Nat) (s : State) (prev : SMap (SMap Tap)) (check : Option (List (Nat × Nat))) : Solved :=
  let h := s.media.heart
  let wants := ((s.scene.stats.filterMap fun e => e.2.slot.map fun n => (n, e.1)).flatMap
    fun e => objectWants s e.1 e.2).mergeSort rankLe
  let before := fun (w : Want1) => match tapOf prev w.slot w.output with
    | some p => if p.lives && !replacedByClamp p w then some p else none
    | none => none
  let cost := fun (w : Want1) => match before w with
    | some p => if p.carries || startsHop p w then 2 else 1
    | none => 1
  let t := match check with
    | none => walk h cost wants {} []
    | some cs => firstOf (fun q => (cs.getD q (0, 0)).1) (fun _ => true) wants
  let inT := fun (w : Want1) => t.any fun x => x.slot == w.slot && x.output == w.output
  let live := (tapList prev).filter fun e => e.2.2.lives
  let base := live.foldl (fun (a : Totals) e => a.add (e.2.1 / 128) (if e.2.2.carries then 2 else 1)) {}
  let need := fun (w : Want1) => match before w with
    | some p => if startsHop p w then 1 else 0
    | none => 1
  let ok := admitTaps h need t base []
  let news := match check with
    | none => []
    | some cs => firstOf (fun q => (cs.getD q (0, 0)).2 - t.countP fun (w : Want1) => w.output / 128 == q && (before w).isSome)
        (fun w => (before w).isNone) t
  let admitted := fun (w : Want1) =>
    if check.isSome && (before w).isNone then news.any fun x => x.slot == w.slot && x.output == w.output
    else ok.contains (w.slot, w.output)
  let faded := live.foldl (fun m e => putTap m e.1 e.2.1 (fadeTap e.2.2)) ([] : SMap (SMap Tap))
  let table := t.foldl (fun m w => match before w with
    | some p => putTap m w.slot w.output (nextTap k p w (admitted w))
    | none => if admitted w then putTap m w.slot w.output (newTap k w) else m) faded
  let total := wants.foldl (fun (a : Totals) w => a.add (w.output / 128) (cost w)) {}
  let fits := fun (w : Want1) => (before w).isSome || admitted w
  let count := fun (l : List Want1) => (l.length, l.countP fits)
  { wants := wants, table := table,
    counts := ((List.range 4).map fun q => count (t.filter fun w => w.output / 128 == q)) ++ [count t]
    pressure := total.all > tapCap h || total.quay.any (· > quayTapCap h)
    missed := wants.filter fun w => !inT w || ((before w).isNone && !admitted w) }

/-- Solve tick k from the table solved before it (R59). -/
def solve (k : Nat) (s : State) : Solved := solveFrom k s s.rend.nextTaps none

/-- Status of an object after a solve (Table 2.3, R39, R79, R85). -/
def solvedStat (r : Solved) (id : Nat) (t : ObjStat) : ObjStat :=
  match t.slot with
  | none => t
  | some n =>
    let row := (SMap.look r.table n).getD []
    let clamped := row.any fun e => e.2.clamped
    let lost := r.missed.countP fun w => w.obj == id
    { t with
      taps := row.length, clamped := clamped, clamps := if clamped then wrapAdd 32 t.clamps 1 else t.clamps,
      pressure := r.pressure && lost > 0
      dropped := if r.pressure then wrapAdd 32 t.dropped lost else t.dropped,
      gainSat := wrapAdd 32 t.gainSat (r.wants.countP fun w => w.obj == id && w.sat) }

/-- Tap pressure runs (R85, R341): the event in every affected tick, a log entry at each run's begin and end. -/
def pressureEvent (k : Nat) (r : Solved) (s : State) : State :=
  let n := r.missed.length
  if r.pressure then
    match s.host.tapRun with
    | none => logEvent 10 0 srcDevice [k % 2 ^ 32, 1, n] { s with host.tapRun := some ⟨k, 1, n, k⟩ }
    | some u => raise 10 { s with host.tapRun := some { u with len := u.len + 1, total := u.total + n, last := k } }
  else
    match s.host.tapRun with
    | some u => logEvent 10 1 srcDevice [u.first % 2 ^ 32, u.len, u.total] { s with host.tapRun := none }
    | none => s

/-- r_max of R195: the largest object-to-loudspeaker distance among the DELAY-law taps of a table. -/
def longest (s : State) (t : SMap (SMap Tap)) : Rat :=
  (tapList t).foldl (fun m e =>
    match s.scene.stats.find? fun x => x.2.slot == some e.1 with
    | some x =>
      let o := (s.obj x.1).cfg
      if o.law = 1 then (let d := (diff (s.spk e.2.1).pos o.pos).len; if d > m then d else m) else m
    | none => m) 0

/-- The counts of a tick with pressure (R290): the active sends a check record, the standby keeps its own to compare. -/
def checkCounts (k : Nat) (r : Solved) (s : State) : State :=
  if !r.pressure || !s.isPair then s
  else if s.flag mActive then sendTwin 7 true (k :: r.counts.flatMap fun e => [e.1, e.2]) [] s
  else { s with twin.checks := SMap.ins (s.twin.checks.filter fun e => e.1 + 4096 ≥ 2 * k) (2 * k) r.counts }

/-- Solve tick k into the next table (R59). Every want whose composed delay passes the maximum counts as a clamped tap-tick,
also one that tap pressure leaves unrendered or that SHALLOW clamps further: R91 does not say whether "each tap clamped in this
way" means a rendered tap (DESIGN CHOICE, assumption 26). -/
def solveTick (k : Nat) (s : State) : State :=
  let r := solve k s
  let s := checkCounts k r s
  pressureEvent k r
    { s with rend.nextTaps := r.table, rend.nextTick := some k,
             rend.spkNext := (s.scene.speakers.filter fun e => e.2.outKind != 0).map fun e =>
               (e.1, e.2.outKind * 65536 + e.2.outIndex),
             rend.depthClamps := wrapAdd 32 s.rend.depthClamps (r.wants.countP Want1.deep),
             rend.shallowPolicy := s.shallow,
             rend.fetchFrom := if s.rend.shallowPolicy && !s.shallow then k else s.rend.fetchFrom,
             scene.airSt := { s.scene.airSt with rMax := longest s r.table },
             scene.stats := SMap.mapVals {} (solvedStat r) s.scene.stats }

/-- The air states of a tap run on into the table that becomes current (R77, R80). -/
def carryTap (cur : SMap (SMap Tap)) (slot output : Nat) (t : Tap) : Tap :=
  match tapOf cur slot output with
  | none => t
  | some p => if t.isNew then t else { t with y := p.y, yOld := if t.hop && t.fadeIdx = 0 then p.y else p.yOld }

/-- The solved table becomes current at the start of its tick's first compute slot (R59), with the slots of that tick; the
line of a slot that an object takes reads zero below k + 4 (R38, R89). -/
def swapTables (k : Nat) (s : State) : State :=
  if s.rend.nextTick ≠ some k || s.rend.tapTick = some k then s
  else
    let act := s.scene.stats.foldl (fun m e => match e.2.slot with | some n => SMap.ins m n e.1 | none => m) ([] : SMap Nat)
    let fresh := act.filter fun e => SMap.look s.rend.slots e.1 != some e.2
    let drop := fun (m : SMap (SMap Int)) => m.filter fun e => !(fresh.any fun f => f.1 == e.1)
    let mark := fun (m : SMap Nat) => fresh.foldl (fun m e => SMap.ins m e.1 (k + 4)) m
    { s with rend.taps := s.rend.nextTaps.map fun e => (e.1, e.2.map fun f => (f.1, carryTap s.rend.taps e.1 f.1 f.2)),
             rend.tapTick := some k, rend.spkNow := s.rend.spkNext, rend.slots := act, rend.gone := s.rend.leaving,
             rend.near := drop s.rend.near, rend.long := drop s.rend.long,
             rend.nearMark := mark s.rend.nearMark, rend.longMark := mark s.rend.longMark }

/-- HOP_FADE_END (R80): a fade whose F-th tick has been rendered reads at delay_b alone. -/
def execHopFadeEnd (slot o : Fin 512) (s : State) : Host.Outcome State Fault Refusal :=
  match tapOf s.rend.taps slot.val o.val with
  | some t =>
    if t.hop && !t.carries && (match s.rend.tapTick with | some k => k + 48 ≤ (s.media.computed.getD 0) | none => false)
    then .next { s with rend.taps := putTap s.rend.taps slot.val o.val { t with hop := false, yOld := 0 } }
    else .next s
  | none => .next s

end Sys2Proof.Machine
end

