-- ==== Sys2Proof/Machine/Nose.lean ====
section
/-!
DEFINITION. The Nose (chapter 7): its configuration, markers, observation inputs, frames, estimates, air-path tracking,
correction proposals, speaker health, and SWEEP runs.
-/
namespace Sys2Proof.Machine

def State.pair (s : State) (i : Nat) : PairRec := SMap.get {} s.nose.pairs i
def State.acc (s : State) (i : Nat) : PairAcc := SMap.get {} s.nose.accs i
def State.obs (s : State) (i : Nat) : ObsIn := SMap.get {} s.nose.obs i
def State.health (s : State) (o : Nat) : Health := SMap.get {} s.nose.health o
def State.curve (s : State) (z : Nat) : TargetCurve := SMap.get {} s.nose.curves z
def State.markRec (s : State) (o : Nat) : MarkRec := SMap.get {} s.rend.markRecs o
def updAcc (i : Nat) (f : PairAcc → PairAcc) (s : State) : State := { s with nose.accs := SMap.upd {} s.nose.accs i f }
def updHealth (o : Nat) (f : Health → Health) (s : State) : State := { s with nose.health := SMap.upd {} s.nose.health o f }
def updObs (i : Nat) (f : ObsIn → ObsIn) (s : State) : State := { s with nose.obs := SMap.upd {} s.nose.obs i f }

/-- N of an observation input: 1 unless it is decimated (R185). -/
def State.decOf (s : State) (o : ObsIn) : Nat := if o.flags.testBit 0 then 2 ^ s.media.baseLog2 else 1

/-- Samples stamped below this index have passed their input chains. -/
def State.heardTo (s : State) : Nat := match s.media.computed with | some b => b + 20 | none => 0

/-- The unit takes decisions: the active unit of a pair, or a solo unit (R215). -/
def State.decides (s : State) : Bool := !s.flag mStandby

/-- A channel has a source (R41): an open berth, an analogue input, a TDM port or the replay store (R24, R206). -/
def State.sourced (s : State) (c : Nat) : Bool :=
  (s.net.rx.any fun e => e.2.state != 0 && e.2.cfg.first ≤ c && c < e.2.cfg.first + e.2.cfg.channels) ||
  (c != 65535 && s.io.anaIn.any fun e => e.2.channel == c) || (s.rend.replay.any fun e => e.1 == c) ||
  (s.io.tdm.any fun e => e.2.inFirst != 65535 && e.2.inFirst ≤ c && c < e.2.inFirst + e.2.slots)

/-- State the Nose belongs in (R174, R175, Table 12.4 note 8): 0 STOPPED, 1 RUNNING, 3 SUSPENDED. -/
def State.noseWant (s : State) : Nat :=
  let swept := match s.nose.sweep with | some r => r.begun (s.toCompute + 48) | none => false
  if !s.nose.dev.run || s.flag mDoze || s.flag mSafe then 0
  else if s.flag mShallow || swept then 3 else 1

/-- Bring the Nose towards the state it belongs in: a stop from RUNNING drains first (R174). -/
def noseFollow (s : State) : State :=
  let w := s.noseWant
  match s.nose.dev.state with
  | 2 => s
  | 1 => if w = 1 then s else { s with nose.dev := { s.nose.dev with state := 2, drainAt := s.idx + 32 } }
  | _ => { s with nose.dev := { s.nose.dev with state := w } }

/-- The drain completes (R174); a NOSE_CFG that waited for it is answered. -/
def execNoseDrainEnd (s : State) : Host.Outcome State Fault Refusal :=
  if s.nose.dev.state = 2 then
    .next (settleOwed .noseCfg 0 .ok [] { s with nose.dev := { s.nose.dev with state := s.noseWant } })
  else .next s

/-- Leaving SHALLOW clears every accumulator and every converged flag (R175). -/
def noseLeaveShallow (s : State) : State :=
  { s with nose.accs := SMap.mapVals {} (fun _ (a : PairAcc) =>
      { a with a := [], b := [], gammaA := [], gammaB := [], frames := 0, diffs := []
               est := { a.est with flags := a.est.flags &&& 0xFD } }) s.nose.accs }

/-- w of a pair (R184): floor(r ÷ u + path_comp + fir_delay) − 256 with the automatic window. -/
def windowOf (s : State) (r : PairRec) : Nat :=
  let ob := s.obs r.obs
  let w : Int := if r.flags.testBit 1 then
      let d := (diff (s.spk r.output).pos ob.pos).len
      ((if s.uNow = 0 then 0 else d / s.uNow) + (r.pathComp + (ob.firDelay : Int) : Rat) / 65536).floor - 256
    else r.window
  let w := (clampI 0 1048575 w).toNat
  floorTo (s.decOf ob) w

/-- Clear a pair's accumulators (R184, R376). They start afresh over the w in use now; for an automatic window the manual sets w
at a refresh and gives none before the first (DESIGN CHOICE, assumption 53). -/
def clearAcc (i : Nat) (s : State) : State :=
  updAcc i (fun a => { a with a := [], b := [], gammaA := [], gammaB := [], frames := 0, diffs := [], level0 := none,
                              window := windowOf s (s.pair i), clear := false }) s

/-- Anchors that a change of the records removes (R196): the tracking pairs a test names. -/
def dropAnchors (f : Nat → PairRec → Bool) (s : State) : State :=
  { s with nose.anchors := s.nose.anchors.filter fun e => !f e.1 (s.pair e.1) }

/-- A host write to a target's trim field gives its pairs a new anchor (R196). -/
def trimWritten (kind target : Nat) (s : State) : State :=
  dropAnchors (fun _ r => r.trackKind == kind && r.trackTarget == target) s

/-- A host wrote OK: evidence that stands does not count until it forms anew (R45, R208). -/
def healthCleared (o : Nat) (s : State) : State := updHealth o (fun h => { h with stale := h.evidence, since := [] }) s

/-- A host wrote an output's health: a change that the Nose decided before it and that is not yet in force is dropped, since it
rests on the state and the evidence from before (R45, R208). -/
def dropHealth (o : Nat) (s : State) : State :=
  { s with host.cmds := s.host.cmds.filter fun c => c.applied || c.origin != .nose || c.units != [⟨.spkSet, o, 6⟩] }

/-- A sense channel that a record names exists at the Heart rate (R12, Table 7.11). -/
def senseOk (h : Nat) (p : Bytes) : Bool :=
  !(maskOf p).testBit 0 || [getU p 8 2, getU p 10 2].all fun c => c == 65535 || c < chanCount h

/-- NOSE_CFG of kinds 0, 2 and 3 is written (R172). -/
def writeNoseCfg (p : Bytes) (s : State) : State :=
  let i := indexOf p
  let m := maskOf p
  match kindOf p with
  | 0 =>
    let d := s.nose.dev
    noseFollow { s with nose.dev := {
      d with run := pick (m.testBit 0) (getU p 8 1 == 1) d.run
             avgK := pick (m.testBit 1) (getU p 9 1) d.avgK
             codeBase := pick (m.testBit 2) (getU p 12 4) d.codeBase
             propInterval := pick (m.testBit 3) (getU p 16 4) d.propInterval } }
  | 2 =>
    let learn := m.testBit 3 && (getU p 19 1).testBit 2
    updHealth i (fun h =>
      let h := h.write m p
      if learn then { h with learnFrom := some s.idx, learn := [], evidence := h.evidence &&& 0xEF } else h) s
  | 3 => { s with nose.curves := SMap.upd {} s.nose.curves i fun r => r.write m p }
  | _ => s

/-- NOSE_CFG, kinds 0, 2 and 3, and reads (R172). A stop is answered at the end of its drain (R174). -/
def doNoseCfg (p : Bytes) (s : State) : Reply :=
  let i := indexOf p
  let m := maskOf p
  if !nosePayloadOk p then no .badParam
  else match kindOf p with
  | 0 =>
    if m = 0 then .done s s.nose.dev.bytes
    else
      let t := writeNoseCfg p s
      if m.testBit 0 && !t.nose.dev.run && t.nose.dev.state = 2 then .owe t 0 else .done t []
  | 2 =>
    if m = 0 then
      let age := match SMap.look (s.health i).since 0 with | some t => (s.idx - t) / s.hz | none => 0
      .done s ((s.health i).bytes i ++ (s.health i).status i (s.spk i).health age)
    else if !senseOk s.heartNext p then no .badParam
    else .done (writeNoseCfg p s) []
  | 3 =>
    if m = 0 then .done s ((s.curve i).bytes i)
    else .done (writeNoseCfg p s) []
  | _ => .done s ((s.obs i).bytes i)

/-- An observation input's record at acceptance: the channel exists. -/
def checkNoseObs (p : Bytes) (s : State) : Option Status :=
  if !nosePayloadOk p || ((maskOf p).testBit 0 && getU p 8 2 ≠ 65535 && getU p 8 2 ≥ chanCount s.heartNext) then some .badParam
  else none

/-- NOSE_CFG kind 1 at its block (R183): the pairs that use the input lose their accumulators; a new channel or decimation
starts the chain afresh. -/
def applyNoseObs (c : Cmd) (s : State) : State :=
  let i := indexOf c.payload
  let m := wonMask c
  let old := s.obs i
  let new := old.write m.testBit c.payload
  let new := if new.channel != old.channel || new.flags % 2 != old.flags % 2
    then { new with q := 0, dec := {}, decHist := [], hist := [], out := [] } else new
  let s := { s with nose.obs := SMap.put {} s.nose.obs i new }
  s.nose.pairs.foldl (fun s e => if e.2.obs = i then clearAcc e.1 s else s) s

/-- PAIR_SET is written (R184, R196). A change between the automatic and the written window counts as a change of window (DEDUCED,
assumption 53). -/
def writePair (p : Bytes) (s : State) : State :=
  let i := getU p 4 2
  let m := maskOf p
  let old := s.pair i
  let new := old.write m p
  let moved := new.output != old.output || new.obs != old.obs || new.window != old.window || new.pathComp != old.pathComp ||
    new.flags.testBit 1 != old.flags.testBit 1
  let again := m.testBit 1 && (getU p 9 1).testBit 4
  let s := { s with nose.pairs := SMap.put {} s.nose.pairs i new }
  let s := if moved then updAcc i (fun a => { a with clear := true }) s else s
  dropAnchors (fun j r => (j == i && again) || (new != old && (j == i || r.trackRef == i))) s

/-- PAIR_SET (R184, R196): pairs beyond the limit of Table 1.2 are refused; a tracking pair needs its reference. A write that
disables or moves the reference of an enabled tracking pair is accepted, and that pair goes on with the reference's last converged
estimate (DESIGN CHOICE, assumption 32: the manual tests the tracking pair's own write alone). -/
def doPairSet (p : Bytes) (s : State) : Reply :=
  let i := getU p 4 2
  let m := maskOf p
  if !pairPayloadOk p then no .badParam
  else if i ≥ pairCap s.heartNext then no .noResource
  else if m = 0 then .done s ((s.pair i).bytes i)
  else
    let new := (s.pair i).write m p
    let ref := if new.trackRef = i then new else s.pair new.trackRef
    if new.flags.testBit 0 && new.trackKind ≠ 0 && (!ref.flags.testBit 0 || ref.obs ≠ new.obs) then no .badParam
    else if new.flags.testBit 0 && new.output ≠ 65535 && !outExists s.heartNext new.output then no .badParam
    else .done (writePair p s) []

/-- MARK_SET: the units are each group of each output. -/
def markOuts (p : Bytes) : List Nat := (List.range (getU p 6 2)).map fun i => getU p 4 2 + i
def markUnits (p : Bytes) : List UnitKey := (markOuts p).flatMap fun o => maskUnits .markSet o (maskOf p)
def checkMarkSet (p : Bytes) (s : State) : Option Status :=
  if markPayloadOk (heartHz s.heartNext) p then none else some .badParam

/-- MARK_SET at its block (R182). -/
def applyMarkSet (c : Cmd) (s : State) : State :=
  { s with rend.markRecs := (markOuts c.payload).foldl (fun m o => SMap.upd {} m o fun r =>
      r.write (fun g => (maskOf c.payload).testBit g && !cmdLost c ⟨.markSet, o, g⟩) c.payload) s.rend.markRecs }

/-- MARK_SET with mask 0: the record of the first output and the gate states of the range. -/
def readMarkSet (p : Bytes) (s : State) : Reply :=
  if !markPayloadOk s.hz p then no .badParam
  else
    let r := s.markRec (getU p 4 2)
    let n := getU p 6 2
    let open_ := fun o => (SMap.get {} s.rend.markers o).gate
    .done s (le 4 0 ++ slice p 4 4 ++ le 1 (bit r.enabled) ++ zeros 1 ++ le 2 r.margin ++ leI 2 r.cap ++ leI 2 r.floor ++
      le 4 (r.release.getD (s.hz / 100)) ++ zeros 12 ++
      (List.range ((n + 7) / 8)).flatMap fun k => le 1 ((List.range 8).foldl (fun a j =>
        if 8 * k + j < n && open_ (getU p 4 2 + 8 * k + j) then a + 2 ^ j else a) 0))

/-- POLICY_SET (R191). -/
def doPolicySet (p : Bytes) (s : State) : Reply :=
  if !policyPayloadOk p then no .badParam
  else if maskOf p = 0 then .done s s.nose.policy.bytes
  else .done { s with nose.policy := s.nose.policy.write (maskOf p) p } []

/-- EST_READ (R189). -/
def doEstRead (p : Bytes) (s : State) : Reply :=
  let n := getU p 2 2
  let o := getU p 4 1
  if p.length ≠ 8 || getU p 0 2 > 4095 || n = 0 || n > 64 || getU p 0 2 + n > 4096 || o > 3 || getU p 5 3 ≠ 0 then no .badParam
  else
    let es := (List.range n).map fun k =>
      let i := getU p 0 2 + k
      (i, if o.testBit 1 then (s.acc i).sweep else (s.acc i).est)
    .done s ((es.flatMap fun e => e.2.bytes e.1) ++
      (if o.testBit 0 then es.flatMap fun e => (List.range 8192).flatMap fun j => leI 4 (SMap.get 0 e.2.taps j) else []))

/-- Key of a proposal: its kind and target. -/
def propKey (kind target : Nat) : Nat := 65536 * kind + target

/-- PROPOSAL_READ (R204). -/
def doProposalRead (p : Bytes) (s : State) : Reply :=
  let n := getU p 4 2
  let k := getU p 0 1
  let cap := match k with | 0 => 64 | 3 => 1 | _ => 512
  if p.length ≠ 8 || k > 3 || getU p 1 1 ≠ 0 || n = 0 || n > 64 || getU p 2 2 + n > cap || getU p 6 2 ≠ 0 then no .badParam
  else .done s ((List.range n).flatMap fun j =>
    let t := getU p 2 2 + j
    (SMap.get {} s.nose.proposals (propKey k t)).bytes k t)

/-- HEALTH_READ (R205). -/
def doHealthRead (p : Bytes) (s : State) : Reply :=
  let n := getU p 2 2
  if p.length ≠ 8 || n = 0 || n > 64 || getU p 0 2 + n > 512 || getU p 4 4 ≠ 0 then no .badParam
  else .done s ((List.range n).flatMap fun j =>
    let o := getU p 0 2 + j
    let h := s.health o
    h.status o (s.spk o).health (match SMap.look h.since 0 with | some t => (s.idx - t) / s.hz | none => 0))

/-- What a proposal sets, as the payload of its change: PROPOSAL_APPLY's eight bytes, kind, target, value, and the band
totals of a correction (R203, R204). -/
def proposalChange (id fade shape kind target : Nat) (value : Int) (eq : SMap Int) : Bytes :=
  le 4 id ++ le 2 fade ++ le 1 shape ++ zeros 1 ++ le 1 kind ++ zeros 1 ++ le 2 target ++ leI 8 value ++
  (if kind = 2 then bands60 eq 0 else [])

/-- The units it sets (R34, R335). -/
def changeUnits (p : Bytes) : List UnitKey :=
  let t := getU p 10 2
  match getU p 8 1 with
  | 0 => [⟨.zoneSet, t, 2⟩]
  | 1 => [⟨.spkSet, t, 4⟩]
  | 2 => [⟨.accordLoad, t, 0⟩, ⟨.accordSwap, t, 0⟩]
  | _ => [⟨.proposalApply, 0, 3⟩]

/-- A corrected accord takes effect at a block; trims, offsets and u at a tick (R48, R195, R203). -/
def changeTiming (p : Bytes) : Timing := if getU p 8 1 = 2 then .block else .tick

/-- A change of the Quaymaster's own, with an apply period of 0 (R192, R209). A full queue leaves it unissued. -/
def issue (origin : Origin) (op : Opcode) (t : Timing) (p : Bytes) (units : List UnitKey) (proposal : Nat) (s : State) :
    State :=
  if s.host.cmds.length ≥ 4096 then s
  else
    let a := s.rTen
    let fseq := s.forwardSeq
    let s := forwardCmd origin op 0 a p s
    { s with host.nextId := s.host.nextId + 1
             host.cmds := s.host.cmds ++ [{ id := s.host.nextId, op := op, origin := origin, rank := 0, seq := 0, timing := t,
                                            apply := a, effect := boundaryOf t a, accepted := s.idx, payload := p,
                                            units := units, select := false, answered := true, proposal := proposal, fseq := fseq }] }

/-- The proposal with an id, and its key. -/
def State.proposal (s : State) (id : Nat) : Option (Nat × Proposal) := s.nose.proposals.find? fun e => e.2.id == id && e.2.state != 0

/-- A proposal of a target (R192): it replaces the one held. Within the policy, in LEARN, `step` is applied. -/
def propose (kind target : Nat) (p : Proposal) (step : Int) (stepEq : SMap Int) (s : State) : State :=
  let id := s.nose.dev.nextId
  let p := { p with id := id, tag := if kind = 2 then 2 ^ 31 + id % 2 ^ 31 else 0 }
  let allowed := s.nose.policy.allow.testBit (match kind with | 2 => 2 | 3 => 1 | _ => 0)
  let claimed := kind = 0 && (s.host.claims.any fun c => c.zone && c.id == target)
  let apply := p.state = 1 && s.flag mLearn && allowed && !claimed && !s.flag mShallow
  let p := if apply then { p with state := 2 } else p
  let s := { s with nose.dev := { s.nose.dev with nextId := id % (2 ^ 32 - 1) + 1 }
                    nose.proposals := SMap.ins s.nose.proposals (propKey kind target) p }
  let s := forwardNose [5, propKey kind target] (p.bytes kind target) s
  let s := if p.state = 3 then logEvent 12 0 srcDevice [id, kind, target] s else s
  if apply then
    let c := proposalChange id 64 0 kind target step stepEq
    issue .nose .proposalApply (changeTiming c) c (changeUnits c) id s
  else s

/-- A proposed change at its tick or block. -/
def applyChange (c : Cmd) (s : State) : State :=
  let p := c.payload
  let t := getU p 10 2
  let won := fun (u : UnitKey) => !cmdLost c u
  let done := fun (s : State) => { s with nose.proposals := s.nose.proposals.map fun e =>
    if e.2.id = c.proposal then (e.1, { e.2 with state := 2 }) else e }
  match getU p 8 1 with
  | 0 =>
    if won ⟨.zoneSet, t, 2⟩ then
      done { s with scene.zones := SMap.upd {} s.scene.zones t fun z => { z with delayTrim := getI p 12 8 } }
    else s
  | 1 =>
    if won ⟨.spkSet, t, 4⟩ then
      done { s with scene.speakers := SMap.upd {} s.scene.speakers t fun k => { k with delayOffset := getU p 12 8 } }
    else s
  | 2 =>
    if won ⟨.accordLoad, t, 0⟩ && won ⟨.accordSwap, t, 0⟩ then
      let eq : SMap Int := ((List.range 60).map fun k => (k, getI p (20 + 2 * k) 2)).filter fun e => e.2 != 0
      let a := correctAccord s.media.heart s.media.baseLog2 (s.outChain t).cfg.base (s.accord t).baseline
        (s.curve (s.spk t).zone) eq (2 ^ 31 + c.proposal % 2 ^ 31)
      let s := loadOutput c (fun _ => a) s t
      if (s.accord t).pendingNose = c.proposal && (s.accord t).pending.isSome then
        done (swapOutput c { s with nose.loadEq := SMap.put [] s.nose.loadEq t eq } t)
      else s
    else s
  | _ =>
    if won ⟨.proposalApply, 0, 3⟩ && s.scene.air.source = 1 then
      done { s with scene.airSt := { s.scene.airSt with noseU := some (ofBits32 (getU p 12 4))
                                                        noseTemp := r32 (getI p 16 2 / 100 : Rat) } }
    else s

/-- PROPOSAL_APPLY at acceptance (R204): the change it makes, whole. -/
def proposalApplied (p : Bytes) (s : State) : Status ⊕ Bytes :=
  if p.length ≠ 8 || getU p 4 2 = 0 || getU p 4 2 > 256 || getU p 6 1 > 1 || getU p 7 1 ≠ 0 then .inl .badParam
  else match s.proposal (getU p 0 4) with
  | none => .inl .notFound
  | some (k, q) =>
    if q.state = 4 then .inl .badParam
    else
      let v := if k / 65536 = 3 then (airValue q.u q.temp : Int) else q.value
      .inr (proposalChange q.id (getU p 4 2) (getU p 6 1) (k / 65536) (k % 65536) v q.eqTotal)

/-- Marker gate (R180): what holds for the block about to be computed. A standby takes the Nose's state and the silence
states from the manifest (R287). -/
def markerGate (s : State) (o : Nat) : Bool :=
  let st := SMap.get ({} : MarkState) s.rend.markers o
  let r := s.markRec o
  let standby := s.flag mStandby
  let silent := fun c => if standby then s.twin.manSilent.contains c else (SMap.get {} s.rend.silence c).silent
  s.flag mMark && (if standby then s.twin.manNose else s.nose.dev.state == 1) && r.enabled &&
  (s.rend.taps.any fun e => (e.2.any fun t => t.1 == o) &&
    (match SMap.look s.rend.slots e.1 with
     | some id => (match (s.objStat id).bind with | some c => !silent c | none => false)
     | none => false)) &&
  sum32 ((List.range 24).map fun b => SMap.get 0 st.p b) ≥
    mul32 ((2 ^ 54 : Nat) : Rat) (pow32 10 (div32 r.floor 1000))

/-- The 24 band filters over sixteen samples: per band its outputs, and the states, two a band. -/
def bandsOver (fs : List (List Biquad)) (st : SMap BqState) (x : List Int) : List (List Int) × SMap BqState :=
  fs.zipIdx.foldl (fun (acc : List (List Int) × SMap BqState) e =>
    let k := 2 * e.2
    let ks : SMap Biquad := [(k, e.1.getD 0 {}), (k + 1, e.1.getD 1 {})]
    let o := x.foldl (fun (a : List Int × SMap BqState) v =>
      let r := bqCascade ks [k, k + 1] a.2 v []
      (a.1 ++ [r.1], r.2.1)) (([] : List Int), acc.2)
    (acc.1 ++ [o.1], o.2)) ([], st)

/-- An output's marker over block b (R179 to R181): its sixteen words from the stage-8 results `p8`, and its new state with
the gains for the next block. -/
def markerBlock (s : State) (b o : Nat) (p8 : List Int) : List Int × MarkState × Option MarkLog :=
  let st := SMap.get ({} : MarkState) s.rend.markers o
  let r := s.markRec o
  let fs := (List.range 24).map (bandFilter s.media.heart)
  let gate := markerGate s o
  let w := fun (i : Nat) => if gate then (if st.gate then unity else inWeight i) else if st.gate then outWeight i else 0
  let chips := bandsOver fs st.chips ((List.range 16).map fun i => chipAt s.nose.dev.codeBase o (b + 48 + i))
  let g := fun k => SMap.get 0 st.g k
  let m := (List.range 16).map fun i =>
    (stage 30 (chips.1.zipIdx.foldl (fun a e => a + rshift 30 (g e.2 * w i) * e.1.getD i 0) 0)).1
  let prog := bandsOver fs st.bands p8
  let kr := sub32 1 (exp32 (div32 (-16) (r.release.getD (s.hz / 100))))
  let p : SMap Rat := (prog.1.zipIdx.map fun e =>
    let x := div32 (sum32 (e.1.map fun (y : Int) => mul32 (r32 y) (r32 y))) 16
    let old := SMap.get 0 st.p e.2
    (e.2, if x > old then x else add32 old (mul32 kr (sub32 x old)))).filter fun e => e.2 != 0
  let mean := (isum ((List.range 16).map w)) / 16
  (m, { p := p, g := if p.isEmpty then [] else bandGains s.media.heart p r.margin r.cap, gate := gate, bands := prog.2,
        chips := chips.2 }, if gate then some ⟨mean, st.g⟩ else none)

/-- Keep what frames need of an output's markers (R185, R207). -/
def noteMarker (b o : Nat) (gate : Bool) (l : Option MarkLog) (s : State) : State :=
  let was := (SMap.get {} s.rend.markers o).gate
  let old := (SMap.get [] s.nose.marked o).filter fun e => e.1 + 1700000 ≥ b
  let g := SMap.get [] s.nose.gates o
  { s with nose.marked := SMap.put [] s.nose.marked o (match l with | some v => SMap.ins old b v | none => old)
           nose.gates := if gate = was then s.nose.gates
             else SMap.put [] s.nose.gates o ((b, gate) :: g.takeWhile fun e => e.1 + 601 * s.hz ≥ b) }

/-- Periods with an open gate among the last `span` before block b. -/
def gateOpen (b span : Nat) : List (Nat × Bool) → Nat → Nat
  | [], _ => 0
  | (t, v) :: r, hi =>
    let lo := if t + span < b then b - span else t
    (if v && lo < hi then hi - lo else 0) + (if t + span < b then 0 else gateOpen b span r t)

/-- One observation input over block b (R183): blocker, decimator, correction FIR. `x` is its channel's samples b + 4 to
b + 19. -/
def obsBlock (s : State) (b : Nat) (frozen : Nat → Bool) (x : List Int) (r : ObsIn) : ObsIn :=
  let lg := s.media.baseLog2
  let fir := fun (r : ObsIn) (key : Nat) (v : Int) =>
    let hist := (v :: r.hist).take 256
    let y := if r.flags.testBit 2 then (stage (15 + r.firShift) (firAcc r.fir hist)).1 else v
    { r with hist := hist, out := SMap.put 0 r.out key y }
  let r := x.zipIdx.foldl (fun (r : ObsIn) e =>
    let n := b + 4 + e.2
    let d := dcStep r.dcq (frozen n || r.flags.testBit 1) r.q e.1
    let r := { r with q := d.2.1 }
    if r.flags.testBit 0 then
      let o := decStep lg n r.dec r.decHist d.1
      let r := { r with dec := o.1, decHist := o.2.1 }
      match o.2.2 with | some v => fir r (n / 2 ^ lg) v.1 | none => r
    else fir r n d.1) r
  let dec := s.decOf r
  { r with out := r.out.filter fun e => (e.1 + 20480) * dec ≥ b }

/-- The reference of a frame: chips, or decimated chips in the phase of the input's decimator (R183, R185). -/
def refChips (base o lg dec v0 : Nat) : List Int :=
  if dec = 1 then (List.range 8192).map fun n => chipAt base o (v0 + n)
  else
    let warm := 64 * dec
    let from_ := if v0 < warm then 0 else v0 - warm
    let r := (List.range (v0 + 8192 * dec - from_)).foldl (fun (a : Cic × List Int × List Int) i =>
      let n := from_ + i
      let d := decStep lg n a.1 a.2.1 (chipAt base o n)
      (d.1, d.2.1, match d.2.2 with | some v => if n ≥ v0 then v.1 :: a.2.2 else a.2.2 | none => a.2.2))
      (({} : Cic), ([] : List Int), ([] : List Int))
    r.2.2.reverse

/-- Blocks whose chips lie in a span of output stamps. -/
def spanBlocks (v0 v1 : Nat) : List Nat :=
  let b0 := floorTo 16 (v0 - 48)
  (List.range ((v1 - 48 - b0) / 16 + 1)).map fun k => b0 + 16 * k

/-- A frame of a pair that ends at index `t` (R185); none where the pair takes no frame there. -/
def pairFrame (s : State) (t : Nat) (r : PairRec) (a : PairAcc) : Option PairAcc :=
  let ob := s.obs r.obs
  let dec := s.decOf ob
  let w := a.window
  if t % (4096 * dec) ≠ 0 || t < 8192 * dec + w + 48 then none
  else
    let y0 := t / dec - 8192
    let v0 := t - 8192 * dec - w
    let marks := (spanBlocks v0 (t - w - 1)).map fun b => SMap.look (SMap.get [] s.nose.marked r.output) b
    if marks.any Option.isNone then none
    else
      let ms := marks.filterMap id
      let y := (List.range 8192).map fun n => SMap.get 0 ob.out (y0 + n)
      let c := refChips s.nose.dev.codeBase r.output s.media.baseLog2 dec v0
      let prod := ((spectrum c).zip (spectrum y)).map fun e => conjMul e.1 e.2
      let g := (List.range 24).map fun b =>
        r32 ((isum (ms.map fun m => rshift 30 (SMap.get 0 m.g b * m.w)) : Rat) / ((ms.length * 1073741824 : Nat) : Rat))
      let k := s.nose.dev.avgK
      let a := { a with frames := holdAdd 4294967295 a.frames 1 }
      some (if y0 / 4096 % 2 = 0 then { a with a := accumulate k a.a prod, gammaA := accumulate1 k a.gammaA g }
            else { a with b := accumulate k a.b prod, gammaB := accumulate1 k a.gammaB g })

/-- Bins of a marker band at the Heart rate (R206). -/
def senseBins (hz b : Nat) : List Nat :=
  (List.range 4096).filter fun k => bandEdges.getD b 0 * 8192 ≤ k * hz && k * hz < bandEdges.getD (b + 1) 0 * 8192

/-- A frame of an output's health (R206), whether or not its check is on: the sums, the impedances, the reference being
learned. -/
def healthFrame (s : State) (t : Nat) (h : Health) : Health :=
  let absent := !s.sourced h.vChan || !s.sourced h.iChan
  let h := { h with evidence := if absent then h.evidence ||| 0x20 else h.evidence &&& 0xDF }
  if absent || t < 8192 then h
  else
    let spec := fun (m : SMap Int) => spectrum ((List.range 8192).map fun n => SMap.get 0 m (t - 8192 + n))
    let v := spec h.vSamples
    let i := spec h.iSamples
    let l := lambdaOf s.nose.dev.avgK
    (List.range 24).foldl (fun (h : Health) b =>
      let bins := senseBins s.hz b
      let vi := bins.foldl (fun a k =>
        let p := conjMul (i.getD k (0, 0)) (v.getD k (0, 0))
        (add32 a.1 p.1, add32 a.2 p.2)) ((0, 0) : Rat × Rat)
      let ii := sum32 (bins.map fun k => mag2 (i.getD k (0, 0)))
      let old := SMap.get (0, 0) h.viSum b
      let vi' := (add32 (mul32 l old.1) vi.1, add32 (mul32 l old.2) vi.2)
      let ii' := add32 (mul32 l (SMap.get 0 h.iiSum b)) ii
      let h := { h with viSum := SMap.put (0, 0) h.viSum b vi', iiSum := SMap.put 0 h.iiSum b ii' }
      if 2 * ii / (8192 * 3072) < ((2 ^ 54 : Nat) : Rat) / 1000000 ∨ ii' = 0 then { h with zMeas := SMap.del h.zMeas b }
      else
        let z := mul32 (div32 (sqrt32 (mag2 vi')) ii') (div32 (h.vFs / 100 : Rat) (h.iFs / 1000 : Rat))
        let h := { h with zMeas := SMap.ins h.zMeas b (clampI 0 65534 (roundAway (100 * z))).toNat }
        match h.learnFrom with
        | some _ =>
          let q := SMap.get (0, 0) h.learn b
          { h with learn := SMap.ins h.learn b (add32 q.1 z, q.2 + 1) }
        | none => h) h

/-- *Arrival missing* (R207): a health-evidence pair that was converged has lost its level or coherence with the gate open
for half of the hold, while another converged pair hears the same input. -/
def arrivalMissing (s : State) (o : Nat) (h : Health) : Bool :=
  let b := s.media.computed.getD 0 + 16
  let span := h.hold * s.hz
  let lively := 2 * gateOpen b span (SMap.get [] s.nose.gates o) b ≥ span
  h.flags.testBit 1 && lively && s.nose.pairs.any fun e =>
    let a := s.acc e.1
    e.2.live && e.2.output == o && e.2.flags.testBit 3 &&
    (match a.level0 with
     | some l => a.est.level + 1000 ≤ l || a.est.coh < s.nose.policy.cohMin
     | none => false) &&
    s.nose.pairs.any fun f =>
      let q := s.acc f.1
      f.1 != e.1 && f.2.live && f.2.obs == e.2.obs && q.est.converged && q.est.coh ≥ s.nose.policy.cohMin

/-- The evidence of R207 and since when each condition of Table 7.12 holds. -/
def healthEval (s : State) (o : Nat) (h : Health) : Health :=
  let zs := (List.range 24).filterMap fun b =>
    if h.bandMask.testBit b then (SMap.look h.zMeas b).map fun z => (z, h.ref b) else none
  let on := h.flags.testBit 0 && !h.evidence.testBit 5 && !zs.isEmpty
  let high := on && zs.any fun e => 100 * e.1 > e.2 * (100 + h.zTol)
  let low := on && zs.any fun e => 100 * e.1 < e.2 * (100 - h.zTol)
  let gone := on && ((zs.all fun e => e.1 > 4 * e.2) || zs.all fun e => 4 * e.1 < e.2)
  let ev := bit high + bit low 1 + bit gone 2 + bit (arrivalMissing s o h) 3 + (h.evidence &&& 0x30)
  let stale := h.stale &&& ev
  let cnt := fun (i : Nat) => ev.testBit i && !stale.testBit i
  let imp := cnt 0 || cnt 1
  let conds := [imp || cnt 2 || cnt 3, cnt 2, imp, (imp || cnt 2) && cnt 3]
  { h with
    evidence := ev, stale := stale
    since := conds.zipIdx.foldl (fun m e =>
      if e.1 then (if (SMap.look m e.2).isSome then m else SMap.ins m e.2 s.idx) else SMap.del m e.2) h.since }

/-- Every output's health passes a step (R206, R207), also of those whose record no one has written. -/
def eachHealth (f : Nat → Health → Health) (s : State) : State :=
  let hs := ((List.range 512).filter (outExists s.media.heart)).foldl
    (fun m o => SMap.put {} m o (f o (SMap.get {} m o))) s.nose.health
  { s with nose.health := hs }

/-- Bytes a second the cap of R380 gives at a rate; none at 8,533 MT/s. -/
def noseCap (rate : Nat) : Option Nat := match rate with | 0 => none | 1 => some 4000000000 | _ => some 2000000000

/-- Traffic of a frame (R380): 65,536 bytes per enabled pair. -/
def frameTraffic (s : State) : Rat := ((65536 * (s.nose.pairs.countP fun e => e.2.live) : Nat) : Rat)

/-- The Nose's credit now, in bytes (R380): earned at the cap for every frame interval since the last frame, up to two frames' worth.
No cap, no account. -/
def creditNow (s : State) : Option Rat :=
  (noseCap s.mem.rate).map fun c =>
    let n := s.heardTo / 4096 - s.nose.dev.frameIdx
    min (2 * frameTraffic s) (s.nose.dev.credit + (c : Rat) * (4096 * n : Nat) / s.hz)

/-- Whether the credit covers the frame now due, and what is left of it once the frame is taken (R380). -/
def frameCredit (s : State) : Bool × Rat :=
  match creditNow s with
  | none => (true, 0)
  | some v => (frameTraffic s ≤ v, v - frameTraffic s)

/-- A frame is skipped (R173, R380): its interval has earned its credit, its traffic costs none. -/
def skipFrame (s : State) : State :=
  { s with nose.dev := { s.nose.dev with
      skipped := wrapAdd 32 s.nose.dev.skipped 1, frameIdx := s.heardTo / 4096, credit := (creditNow s).getD 0 } }

/-- NOSE_FRAME (R185): the newest complete frame, once, while the Nose is RUNNING; without credit, or with its port
throttled (R375), it is skipped whole and counted (R173). -/
def execNoseFrame (s : State) : Host.Outcome State Fault Refusal :=
  let t := floorTo 4096 s.heardTo
  if s.nose.dev.state ≠ 1 || t < 8192 || t / 4096 ≤ s.nose.dev.frameIdx then .next s
  else
    let c := frameCredit s
    if !c.1 || (s.mem.throttled.any fun e => e.1 == 6) then .next (skipFrame s)
    else
      let s := { s with nose.dev := { s.nose.dev with frameIdx := t / 4096, credit := c.2, frames := s.nose.dev.frames + 1 } }
      let s := s.nose.pairs.foldl (fun s e =>
        if !e.2.live then s
        else
          let s := if (s.acc e.1).clear then clearAcc e.1 s else s
          match pairFrame s t e.2 (s.acc e.1) with
          | some a => { s with nose.accs := SMap.put {} s.nose.accs e.1 a }
          | none => s) s
      let s := eachHealth (fun _ h => healthFrame s t h) s
      .next (eachHealth (healthEval s) s)

/-- Arrival of a response in 1/65,536 period, and its tap (R187). -/
def arrivalAt (r : PairRec) (ob : ObsIn) (w dec : Nat) (h : List (Rat × Rat × Bool)) : Int × Nat :=
  let x := arrivalOf (h.map fun e => (e.1, e.2.1))
  ((w * 65536 : Nat) + roundAway (((x.1 : Rat) + x.2) * dec * 65536) - ob.firDelay - r.pathComp, x.1)

/-- arrival_sd in nanoseconds (R187): RMS of the half-differences. -/
def sdOf (hz : Nat) (diffs : List Int) : Nat :=
  if diffs.isEmpty then 4294967295
  else
    let ms : Rat := (isum (diffs.map fun d => d * d) : Rat) / diffs.length
    (clampI 0 4294967295 (roundAway (Fx.toRat (Fx.sqrt (Fx.ofRat ms)) * 1000000000 / (131072 * hz)))).toNat

/-- The estimate of a response and its two halves (R187, R188). The taps of a SWEEP result lie at Heart, also of a decimated
input, whose bands end at 0.375 × Base as ever (DESIGN CHOICE, assumption 53). -/
def formEstimate (s : State) (r : PairRec) (w frames refresh : Nat) (sweep : Option (Nat → Rat))
    (h ha hb : List (Rat × Rat × Bool)) (diffs : List Int) : Estimate :=
  let ob := s.obs r.obs
  let dec := s.decOf ob
  let step := if sweep.isSome then 1 else dec
  let rate : Rat := (s.hz : Rat) / step
  let hs := h.map fun e => (e.1, e.2.1)
  let tap := sweep.getD fun j => (analytic hs j).1
  let at_ := arrivalAt r ob w step h
  let good := (List.range 4096).filter fun k => (h.getD k (0, 0, false)).2.2
  let coh := coherence ha hb good
  let sd := sdOf s.hz diffs
  let valid := fun k => bandCentre k ≤ 15500 && (dec == 1 || bandCentre k ≤ (s.hz : Rat) / dec * 3 / 8)
  let conv := sd ≤ s.nose.policy.convSd && coh ≥ s.nose.policy.cohMin
  { flags := 1 + bit conv 1 + bit sweep.isSome 2 + bit (dec != 1) 3 + bit (at_.2 ≥ 7680) 4
    coh := coh, frames := frames, arrival := at_.1, arrivalSd := sd, level := levelOf tap at_.2, refresh := refresh
    mag := ((List.range 60).filter valid).map fun k =>
      let b := bandBins rate k
      (k, centiDb (-32768) 32767 (div32 (sum32 (b.map fun j => mag2 (hs.getD j (0, 0)))) b.length))
    bandCoh := (((List.range 60).filter valid).map fun k => (k, coherence ha hb (bandBins rate k))).filter fun e => e.2 != 0
    window := w
    taps := ((List.range 8192).map fun j => (j, toC (tap j))).filter fun e => e.2 != 0 }

/-- The refresh of a pair (R184, R186). -/
def refreshPair (s : State) (t : Nat) (r : PairRec) (a : PairAcc) : PairAcc :=
  let ob := s.obs r.obs
  let dec := s.decOf ob
  if t % (8192 * dec) ≠ 0 then a
  else
    let next := windowOf s r
    if a.a.isEmpty || a.b.isEmpty then { a with window := next }
    else
      let full := fun (m : SMap (Rat × Rat)) => (List.range 4096).map fun k => SMap.get (0, 0) m k
      let gamma := ((List.range 24).map fun b =>
        (b, div32 (add32 (SMap.get 0 a.gammaA b) (SMap.get 0 a.gammaB b)) 2)).filter fun e => e.2 != 0
      let h := response 2 (shaping s.media.heart dec gamma)
        (((full a.a).zip (full a.b)).map fun e => (add32 e.1.1 e.2.1, add32 e.1.2 e.2.2))
      let ha := response 1 (shaping s.media.heart dec a.gammaA) (full a.a)
      let hb := response 1 (shaping s.media.heart dec a.gammaB) (full a.b)
      let d := (arrivalAt r ob a.window dec ha).1 - (arrivalAt r ob a.window dec hb).1
      let diffs := (d :: a.diffs).take 8
      let e := formEstimate s r a.window a.frames t none h ha hb diffs
      { a with est := e, diffs := diffs, window := next,
               level0 := if e.converged && a.level0.isNone then some e.level else a.level0 }

/-- Lower median (R193, R197). -/
def lowerMedian (l : List Rat) : Option Rat :=
  let m := l.mergeSort (· ≤ ·)
  m[(m.length - 1) / 2]?

/-- u at a temperature, with the commanded humidity (R47, R194), in binary32. -/
def uAt (hz hum : Nat) (t : Rat) : Rat :=
  let h := r32 (hum / 100 : Rat)
  let c := add32 (mul32 (r32 (3313 / 10)) (sqrt32 (add32 1 (div32 t (r32 (27315 / 100))))))
    (mul32 h (add32 (r32 (21 / 10000)) (mul32 (r32 (16 / 100000)) t)))
  div32 (mul32 c 1000) hz

/-- The temperature that gives u, by bisection, in 0.01 °C (R194). -/
def inferGo (hz hum : Nat) (u : Rat) : Nat → Rat → Rat → Rat
  | 0, lo, hi => div32 (add32 lo hi) 2
  | n + 1, lo, hi =>
    let m := div32 (add32 lo hi) 2
    if uAt hz hum m < u then inferGo hz hum u n m hi else inferGo hz hum u n lo m
def inferTemp (hz hum : Nat) (u : Rat) : Int := roundAway (100 * inferGo hz hum u 14 (-40) 60)

/-- The commanded u (R47). -/
def State.uCommanded (s : State) : Rat := div32 (mul32 (speedOf s.scene.air.temp s.scene.air.humidity) 1000) s.hz

def absRat (x : Rat) : Rat := if x < 0 then -x else x

/-- Air-path tracking at a refresh (R193 to R195). -/
def trackAir (t : Nat) (s : State) : State :=
  let us := s.nose.pairs.filterMap fun e =>
    let a := (s.acc e.1).est
    if e.2.live && e.2.flags.testBit 2 && a.converged && a.arrival > 0 then
      some (div32 (diff (s.spk e.2.output).pos (s.obs e.2.obs).pos).len (r32 (a.arrival / 65536 : Rat)))
    else none
  let est := match lowerMedian us with | some u => some u | none => s.scene.airSt.uEst
  let s := { s with scene.airSt := { s.scene.airSt with uEst := est } }
  match est with
  | none => s
  | some u =>
    let cur := s.uNow
    if !s.decides || s.scene.air.source ≠ 1 || u = cur || u ≤ 0 || cur = 0 || s.uCommanded = 0 then s
    else
      let r := s.scene.airSt.rMax
      let lim : Rat := (s.nose.policy.delayTotal : Rat) * s.hz / 1000000
      let slew : Rat := (s.nose.policy.delaySlew : Rat) * 8192 / 1000000
      let d := div32 1 u - div32 1 cur
      let step := if r * absRat d ≤ slew then u
        else div32 1 (add32 (div32 1 cur) (div32 (if d < 0 then -slew else slew) r))
      let temp := fun v => inferTemp s.hz s.scene.air.humidity v
      let out := r * absRat (div32 1 u - div32 1 s.uCommanded) > lim
      propose 3 0 { state := if out then 3 else 1, computed := t, u := u, temp := temp u, uCur := cur, tempCur := temp cur }
        (airValue step (temp step)) [] s

/-- The trim field a tracking pair's target holds, and its range (Tables 2.4, 2.5). -/
def trimOf (s : State) (kind target : Nat) : Int :=
  if kind = 1 then (s.zone target).delayTrim else (s.spk target).delayOffset
def trimRange (kind : Nat) : Int × Int := if kind = 1 then (-314572800, 314572800) else (0, 0xBB800000)

/-- T* of a tracking pair with its anchor, in 1/65,536 period (R197). -/
def trimTarget (s : State) (r : PairRec) (aR aS : Int) (k : Anchor) : Rat :=
  let rho := (diff (s.spk (s.pair r.trackRef).output).pos (s.spk r.output).pos).len
  let inv := fun (u : Rat) => if u = 0 then 0 else 1 / u
  (k.t0 + (aR - aS) - (k.aR - k.aS) : Int) - rho * (inv s.uNow - inv k.u0) * 65536

/-- Anchors and trims at a refresh (R196 to R198). -/
def trackTrims (t : Nat) (s : State) : State :=
  let pairs := s.nose.pairs.filter fun e => e.2.live && e.2.trackKind != 0 &&
    (s.acc e.1).est.converged && (s.acc e.2.trackRef).est.converged
  if !s.decides then s
  else
    let est := fun (i : Nat) => (s.acc i).est.arrival
    let news := pairs.filter fun e => (SMap.look s.nose.anchors e.1).isNone
    let s := news.foldl (fun s e =>
      let k : Anchor := ⟨est e.2.trackRef, est e.1, trimOf s e.2.trackKind e.2.trackTarget, s.uNow⟩
      forwardNose [4, e.1] (leI 8 k.aR ++ leI 8 k.aS ++ leI 8 k.t0 ++ le 8 (bits64 k.u0))
        { s with nose.anchors := SMap.ins s.nose.anchors e.1 k }) s
    let targets := (pairs.map fun e => (e.2.trackKind, e.2.trackTarget)).eraseDups
    targets.foldl (fun s g =>
      let mine := pairs.filter fun e => e.2.trackKind == g.1 && e.2.trackTarget == g.2
      let ts := mine.filterMap fun e => (SMap.look s.nose.anchors e.1).map fun k =>
        (trimTarget s e.2 (est e.2.trackRef) (est e.1) k, k.t0)
      match lowerMedian (ts.map Prod.fst) with
      | none => s
      | some v =>
        let t0 := ((ts.find? fun e => e.1 == v).map Prod.snd).getD 0
        let cur := trimOf s g.1 g.2
        let v := roundAway v
        let lim : Rat := (s.nose.policy.delayTotal : Rat) * s.hz * 65536 / 1000000
        let rg := trimRange g.1
        let out := ((v - t0).natAbs : Rat) > lim || v < rg.1 || v > rg.2
        let slew : Int := ((s.nose.policy.delaySlew : Rat) * 8192 * 65536 / 1000000).floor
        if !out && 10 * (v - cur).natAbs < 65536 then s
        else propose (g.1 - 1) g.2 { state := if out then 3 else 1, computed := t, value := v, current := cur }
          (cur + clampI (-slew) slew (v - cur)) [] s) s

/-- NOSE_REFRESH (R186 to R188, R193 to R198): every 8,192 periods, once. -/
def execNoseRefresh (s : State) : Host.Outcome State Fault Refusal :=
  let t := floorTo 8192 s.heardTo
  if s.nose.dev.state ≠ 1 || t = 0 || t ≤ s.nose.dev.lastRefresh then .next s
  else
    let s := s.nose.pairs.foldl (fun s e =>
      if e.2.live then { s with nose.accs := SMap.put {} s.nose.accs e.1 (refreshPair s t e.2 (s.acc e.1)) } else s)
      { s with nose.dev := { s.nose.dev with lastRefresh := t } }
    .next (trackTrims t (trackAir t (eachHealth (healthEval s) s)))

/-- The correction an output's pairs ask for (R200). -/
def proposeEq (t : Nat) (s : State) (o : Nat) (k : TargetCurve) : State :=
  let pol := s.nose.policy
  let es := s.nose.pairs.filterMap fun e =>
    let a := (s.acc e.1).est
    if e.2.live && e.2.output == o && a.converged && a.coh ≥ pol.cohMin then some a else none
  let m : SMap Rat := (List.range 60).filterMap fun b =>
    let l := (es.filter fun a => SMap.get 0 a.bandCoh b ≥ pol.cohMin).filterMap fun a => SMap.look a.mag b
    if l.isEmpty then none else some (b, (isum l : Rat) / l.length)
  let tg := fun (b : Nat) => ((SMap.get (0 : Int) k.target b : Int) : Rat)
  let ns := m.filter fun e => k.normLo ≤ e.1 && e.1 ≤ k.normHi
  if es.isEmpty || ns.isEmpty then propose 2 o { state := 4, computed := t } 0 [] s
  else
    let n : Rat := (ns.map fun e => e.2 - tg e.1).foldl (· + ·) 0 / ns.length
    let cur := SMap.get [] s.nose.curEq o
    let lim : Rat := (pol.eqRate : Rat) * s.nose.dev.propInterval / 60
    let band := fun (b : Nat) =>
      let c := SMap.get 0 cur b
      match SMap.look m b with
      | some v => if k.loLimit ≤ b && b ≤ k.hiLimit then
          let e := tg b + n - v
          let st := if e > lim then lim else if e < -lim then -lim else e
          (c + roundAway e, c + roundAway st)
        else (c, c)
      | none => (c, c)
    let mk := fun (f : Nat → Int) => (((List.range 60).map fun b => (b, f b)).filter fun e => e.2 != 0 : SMap Int)
    let total := mk fun b => (band b).1
    let out := m.any fun e => k.loLimit ≤ e.1 && e.1 ≤ k.hiLimit && ((band e.1).1).natAbs > pol.eqTotal
    propose 2 o { state := if out then 3 else 1, computed := t, eqTotal := total,
                  eqStep := mk fun b => (band b).2 - SMap.get 0 cur b } 0 (mk fun b => (band b).2) s

/-- PROPOSAL_INTERVAL (R200): every prop_interval, for the outputs of zones with correction on. -/
def execProposalInterval (s : State) : Host.Outcome State Fault Refusal :=
  if s.nose.dev.state ≠ 1 || !s.decides || s.idx < s.nose.dev.lastProposal + s.nose.dev.propInterval * s.hz then .next s
  else
    let t := s.idx
    .next (((List.range 512).filter (outExists s.media.heart)).foldl (fun s o =>
      let k := s.curve (s.spk o).zone
      if k.on then proposeEq t s o k else s)
      { s with nose.dev := { s.nose.dev with lastProposal := t } })

/-- HEALTH_EVIDENCE_HOLD (R208, Table 7.12): a condition held for its time changes the health of a loudspeaker, as a change
of the Nose at a tick (R209). -/
def execHealthEvidenceHold (o : Fin 512) (s : State) : Host.Outcome State Fault Refusal :=
  let h := s.health o.val
  let k := s.spk o.val
  let held := fun c n => match SMap.look h.since c with | some t => t + n * h.hold * s.hz ≤ s.idx | none => false
  let now :=
    if k.health ≤ 1 && held 1 1 then some 2
    else if k.health = 1 && (held 2 6 || held 3 1) then some 2
    else if k.health = 0 && held 0 1 then some 1 else none
  let waits := s.host.cmds.any fun c => !c.applied && c.origin == .nose && c.units == [⟨.spkSet, o.val, 6⟩]
  match now with
  | some v =>
    if s.nose.dev.state = 1 && s.decides && !waits then
      .next (issue .nose .spkSet .tick (({ k with health := v } : SpkRec).bytes 64 o.val) [⟨.spkSet, o.val, 6⟩] 0 s)
    else .next s
  | none => .next s

/-- A health change of the Nose is in force: counted and logged (R208, R209). -/
def healthChanged (o v : Nat) (s : State) : State :=
  logEvent 12 1 srcNose [o, v, (s.health o).evidence]
    (updHealth o (fun h => { h with lastChange := s.idx
                                    suspectCount := if v = 1 then wrapAdd 32 h.suspectCount 1 else h.suspectCount
                                    failedCount := if v = 2 then wrapAdd 32 h.failedCount 1 else h.failedCount }) s)

/-- Z_REF_LEARN_END (R206): after 60 s the means become the reference; bands without data keep z_nom. -/
def execZRefLearnEnd (o : Fin 512) (s : State) : Host.Outcome State Fault Refusal :=
  match (s.health o.val).learnFrom with
  | some t =>
    if t + 60 * s.hz ≤ s.idx then
      .next (updHealth o.val (fun h =>
        { h with learnFrom := none, learn := [], evidence := h.evidence ||| 0x10
                 zRef := h.learn.map fun e => (e.1, (clampI 0 65535 (roundAway (100 * e.2.1 / e.2.2))).toNat) }) s)
    else .next s
  | none => .next s

/-- Bytes of a capture (R214). -/
def blotterNeed (r : SweepRec) (mask : BitVec 64) : Nat :=
  4 * r.total * ((List.range 64).countP fun i => mask.getLsbD i)

/-- Abort the active run (R210): the excitation fades out from the next output stamp. -/
def sweepAbort (s : State) : State :=
  match s.nose.sweep with
  | some r => if r.aborting.isSome then s else { s with nose.sweep := some { r with aborting := some (s.toCompute + 48) } }
  | none => s

/-- The start S of a run: its own, or the first period it may take where that is later (R9, R10, R284). -/
def sweepStart (p : Bytes) (first : Nat) : Nat := ceilTo 16 (max first (getU p 32 8))

/-- E of a run, from the state at S: the longest ramp among the outputs, and the fade (R211). -/
def sweepFirst (p : Bytes) (first : Nat) (at_ : State) : Nat :=
  let rmax := (List.range 512).foldl (fun a o => if outExists at_.heartNext o then max a (at_.mute o).r else a) (getU p 40 2)
  sweepStart p first + 16 * ((rmax + 15) / 16)

/-- A run from S with its excitation at E is the active one; the blotter is empty (R210, R214). -/
def startSweep (p : Bytes) (m first e : Nat) (s : State) : State :=
  let r := sweepOf p
  { s with nose.sweep := some { cfg := r, start := sweepStart p first, excite := e, last := e + r.total - 1, master := m }
           nose.blotter := [], nose.blotMask := r.obsMask, nose.blotFirst := e, nose.blotLast := e }

/-- SWEEP_RUN (R210): kind 3 aborts; a run starts at S with the excitation at E. `at_` is the state expected at S, which the mode,
the mutes and the ramps are judged by (R334), and `first` the earliest start. -/
def doSweepRun (p : Bytes) (m first : Nat) (at_ s : State) : Reply :=
  if !sweepPayloadOk s.hz p then no .badParam
  else
    let r := sweepOf p
    if r.kind = 3 then
      if s.nose.sweep.isNone then no .notFound else .done (sweepAbort s) []
    else if !outExists s.heartNext r.output then no .badParam
    else if !at_.flag mSweep || at_.flag mDark || at_.flag mShallow then no .refusedMode
    else if s.nose.sweep.isSome || at_.nose.sweep.isSome || (at_.mute r.output).muted then no .busy
    else if blotterNeed r r.obsMask > 268435456 then no .noResource
    else
      let e := sweepFirst p first at_
      .done (startSweep p m first e s) (le 8 e ++ le 8 (e + r.total - 1))

/-- A run begins: the Nose is suspended from S (R211). Markers fade as the Nose drains. -/
def sweepBegin (s : State) : State :=
  match s.nose.sweep with
  | some r => if r.begun (s.toCompute + 48) then noseFollow s else s
  | none => s

/-- Every other loudspeaker output is down (R211). -/
def othersDown (s : State) (o : Nat) : Bool :=
  (List.range 512).all fun i => i == o || !outExists s.media.heart i || (s.mute i).ph == 0

/-- Excitation begins when its stamp is next and the other outputs are down (R211). -/
def sweepExcite (s : State) : State :=
  match s.nose.sweep with
  | some r =>
    if !r.exciting && !r.void && r.excite ≤ s.toCompute + 48 + 15 && (r.cfg.kind = 2 || othersDown s r.cfg.output) then
      { s with nose.sweep := some { r with exciting := true } }
    else s
  | none => s
def execSweepExcitationStart (s : State) : Host.Outcome State Fault Refusal := .next (sweepExcite s)

/-- A run that drives every other ph to 0 (R211): which outputs, in the block of stamps from v on. -/
def sweepHolds (s : State) (o v : Nat) : Bool :=
  match s.nose.sweep with
  | some r => r.cfg.kind != 2 && r.cfg.output != o && r.begun v
  | none => false

/-- Weight of the programme of an output that was swept at stamp v, as it comes back (R211). -/
def backWeight (s : State) (o v : Nat) : Int :=
  match s.nose.sweepBack.find? fun e => e.1 == o with
  | some (_, from_, f) => if v < from_ || v - from_ ≥ f then unity else lerp16 0 unity (phi16 (v - from_) f)
  | none => unity

/-- Weight of the programme of an output at stamp v while a run uses it, and as it comes back (R211). -/
def sweepProgramme (s : State) (o v : Nat) : Int :=
  let back := backWeight s o v
  match s.nose.sweep with
  | some r =>
    if r.cfg.kind = 2 || r.cfg.output != o || !r.begun v then back
    else if v - r.start ≥ r.cfg.fade then 0
    else
      let down := lerp16 unity 0 (phi16 (v - r.start) r.cfg.fade)
      if back = unity then down else rshift 30 (back * down)
  | none => back

/-- The excitation of an output at stamp v (R211, R212), faded from the stamp of an abort. -/
def sweepWord (s : State) (o v : Nat) : Int :=
  match s.nose.sweep with
  | some r =>
    if r.cfg.output != o || !r.exciting || v < r.excite then 0
    else
      let x := r.cfg.word s.hz (v - r.excite)
      match r.aborting with
      | some a =>
        if v < a then x
        else if v - a ≥ r.cfg.fade then 0 else mulC x (lerp16 unity 0 (phi16 (v - a) r.cfg.fade))
      | none => x
  | none => 0

/-- The blockers of the captured inputs are frozen for the run, from S on (R211). -/
def sweepFrozen (s : State) (i n : Nat) : Bool :=
  match s.nose.sweep with | some r => r.cfg.obsMask.getLsbD i && r.begun n | none => false

/-- Capture the samples of block b (R214). The word of a decimated input at a period is that of its Base sample, which may form
up to N − 1 periods later (assumption 53). -/
def sweepCapture (b : Nat) (s : State) : State :=
  match s.nose.sweep with
  | some r =>
    if r.aborting.isSome then s
    else
      let within := fun (n : Nat) => r.excite ≤ n && n ≤ r.last
      let ns := ((List.range 16).map fun i => b + 4 + i).filter within
      let ins := (List.range 64).filter fun i => r.cfg.obsMask.getLsbD i
      { s with
        nose.blotter := ins.foldl (fun m i =>
          let o := s.obs i
          let dec := s.decOf o
          let new := ((List.range (15 + dec)).map fun k => b + 5 + k - dec).filter within
          SMap.put [] m i (new.foldl (fun l n => SMap.put 0 l n (SMap.get 0 o.out (n / dec))) (SMap.get [] m i))) s.nose.blotter
        nose.blotLast := ns.foldl max s.nose.blotLast }
  | none => s

/-- The response of a set of repeats as bins (R213). -/
def sweepResponse (hz : Nat) (r : SweepRun) (y : Nat → Int) (w : Nat) (reps : List Nat) : List (Rat × Rat × Bool) :=
  let h := (List.range 8192).map fun j => r32 (r.cfg.tap hz y reps (w + j))
  (List.range 4096).map fun k => (fftBin h k true, fftBin h k false, true)

/-- SWEEP results of the pairs (R213). With one repeat there are no halves, and coherence reads 0. -/
def sweepResults (r : SweepRun) (s : State) : State :=
  s.nose.pairs.foldl (fun s e =>
    if !e.2.live || e.2.output ≠ r.cfg.output || !r.cfg.obsMask.getLsbD e.2.obs || r.cfg.kind = 2 then s
    else
      let y := fun (i : Nat) => SMap.get 0 (SMap.get [] s.nose.blotter e.2.obs) (r.excite + i)
      let w := windowOf s e.2
      let reps := List.range r.cfg.repeats
      let f := sweepResponse s.hz r y w
      let half := fun (q : Nat) => if r.cfg.repeats = 1 then [] else f (reps.filter fun k => k % 2 == q)
      let ha := half 0
      let hb := half 1
      let ob := s.obs e.2.obs
      let d := if r.cfg.repeats = 1 then []
        else [(arrivalAt e.2 ob w 1 ha).1 - (arrivalAt e.2 ob w 1 hb).1]
      let tap := fun j => r32 (r.cfg.tap s.hz y reps (w + j))
      updAcc e.1 (fun a => { a with sweep := formEstimate s e.2 w 0 s.idx (some tap) (f reps) ha hb d }) s) s

/-- First stamp by which everything captured has been formed: a decimated input's last Base sample may come later (R214). -/
def sweepHeard (s : State) (r : SweepRun) : Nat :=
  let ins := (List.range 64).filter fun i => r.cfg.obsMask.getLsbD i
  ins.foldl (fun a i => max a (ceilTo (s.decOf (s.obs i)) (r.last + 1))) (r.last + 1)

/-- The run is over: complete once its last stamp has been heard, aborted once its fade has ended, at once where it had not
begun (R210, R211). -/
def sweepOver (s : State) : Option Bool :=
  match s.nose.sweep with
  | some r =>
    match r.aborting with
    | some a => if r.void || a + (if r.cfg.kind = 2 then 0 else r.cfg.fade) ≤ s.toCompute + 48 then some true else none
    | none => if sweepHeard s r ≤ s.heardTo then some false else none
  | none => none

/-- End the run (R211): results, the programme ramps back in, the Nose resumes, the Nose event. -/
def sweepFinish (aborted : Bool) (s : State) : State :=
  match s.nose.sweep with
  | some r =>
    let s := if aborted then s else sweepResults r s
    let v := s.toCompute + 48
    let on := s.nose.sweepBack.filter fun e => v < e.2.1 + e.2.2
    let s := { s with nose.sweep := none
                      nose.sweepBack := if r.cfg.kind = 2 || r.void then on
                        else (r.cfg.output, v, r.cfg.fade) :: on.filter fun e => e.1 != r.cfg.output }
    logEvent 12 2 r.master [r.cfg.output, bit aborted] (noseFollow s)
  | none => s

/-- A capture's words in order: period by period, input by input (R214). -/
def blotterBytes (s : State) : Bytes :=
  let ins := (List.range 64).filter fun i => s.nose.blotMask.getLsbD i
  (List.range (s.nose.blotLast + 1 - s.nose.blotFirst)).flatMap fun i =>
    ins.flatMap fun k => leI 4 (SMap.get 0 (SMap.get [] s.nose.blotter k) (s.nose.blotFirst + i))

end Sys2Proof.Machine
end

