-- ==== Sys2Proof/Machine/Sillage.lean ====
section
/-!
DEFINITION. Delay lines, fetches and tap reads (chapter 4, R76 to R78).
-/
namespace Sys2Proof.Machine

/-- Key of a granule, and of a read: its pair and the tick in which it began, which tells the old read of a HOP fade from the
new one, and a new tap from one that has faded out (R96). -/
def granuleKey (slot n : Nat) : Nat := slot * 2 ^ 54 + n
def readKey (slot output start : Nat) : Nat := start * 2 ^ 18 + (512 * slot + output)

/-- A sample of the near window and of the long line; below a mark it reads zero (R89). -/
def State.nearAt (s : State) (slot : Nat) (i : Int) : Int :=
  if i < (SMap.get 0 s.rend.nearMark slot : Nat) then 0 else SMap.get 0 (SMap.get [] s.rend.near slot) i.toNat
def State.longAt (s : State) (slot : Nat) (i : Int) : Int :=
  if i < (SMap.get 0 s.rend.longMark slot : Nat) then 0 else SMap.get 0 (SMap.get [] s.rend.long slot) i.toNat

end Sys2Proof.Machine

namespace Sys2Proof

open Machine

/-- A read awaits a fetch, for block b last. -/
def Fetch.join (f : Fetch) (read b : Nat) : Fetch :=
  if f.reads.any fun e => e.1 == read then { f with reads := f.reads.map fun e => if e.1 == read then (read, b) else e }
  else { f with reads := f.reads ++ [(read, b)] }

end Sys2Proof

namespace Sys2Proof.Machine

/-- Floor of n − τ. -/
def readFloor (n d : Nat) : Int := ((n : Int) * 65536 - d) / 65536

/-- The granules of a read's span in block b at or above the long mark (R93). -/
def spanGranules (t : Tap) (old : Bool) (b i0 mark : Nat) : List Nat :=
  let lo := readFloor b (t.readDelay old i0) - 3
  let hi := readFloor (b + 15) (t.readDelay old (i0 + 15)) + 4
  if hi < 0 then []
  else
    let g0 := lo.toNat / 32
    ((List.range (hi.toNat / 32 + 1 - g0)).map fun k => g0 + k).filter fun g => 32 * g + 31 ≥ mark && hi ≥ mark

/-- The tap table that serves block b: the current one, or the one solved for its tick. -/
def State.tableFor (s : State) (b : Nat) : SMap (SMap Tap) :=
  let k := floorTo 64 b
  if s.rend.tapTick = some k then s.rend.taps else if s.rend.nextTick = some k then s.rend.nextTaps else []

/-- Fetches for block b are stopped, and what is missing in it is not late: SHALLOW, and after it up to the first tick whose
snapshot follows its end (R101, R104). -/
def State.noFetch (s : State) (b : Nat) : Bool := s.shallow || s.rend.shallowPolicy || b < s.rend.fetchFrom

/-- The long mark that holds for block b: of a slot that an object takes in the tick solved and not yet current, k + 4 (R89). -/
def State.longMarkFor (s : State) (slot b : Nat) : Nat :=
  let k := floorTo 64 b
  let taken := s.scene.stats.any fun e => e.2.slot == some slot && SMap.look s.rend.slots slot != some e.1
  if s.rend.tapTick ≠ some k && s.rend.nextTick = some k && taken then k + 4 else SMap.get 0 s.rend.longMark slot

/-- Issue waiting fetches while a tag and a staging slot are free (R95); a Quay being gated issues none (R105). -/
def issueFetches : Nat → Quay → Quay
  | 0, q => q
  | n + 1, q =>
    match q.waiting with
    | [] => q
    | g :: r =>
      if q.gated || q.draining || q.flight.length ≥ 512 || q.flight.length + q.staged.length ≥ 4096 then q
      else
        let f := q.flight ++ [(q.nextTag, g)]
        issueFetches n { q with waiting := r, flight := f, nextTag := q.nextTag + 1, fetches := wrapAdd 64 q.fetches 1,
                                flightPeak := max q.flightPeak f.length }

/-- Request one granule for a read of block b (R94, R95): it shares a fetch that waits, is in flight or is staged; a fetch of
its own is not counted as shared (R106). -/
def requestGranule (q : Quay) (g read b : Nat) : Quay :=
  match (q.waiting ++ q.flight.map Prod.snd ++ q.staged).find? fun f => f.granule == g with
  | none => { q with waiting := q.waiting ++ [{ granule := g, reads := [(read, b)] }] }
  | some own =>
    let put := fun (f : Fetch) => if f.granule = g then f.join read b else f
    { q with waiting := q.waiting.map put, flight := q.flight.map fun e => (e.1, put e.2), staged := q.staged.map put,
             shared := if own.reads.any fun e => e.1 == read then q.shared else wrapAdd 64 q.shared 1 }

/-- The reads a Quay renders in block b: slot, output, tap, old. -/
def quayReads (s : State) (q b : Nat) : List (Nat × Nat × Tap × Bool) :=
  ((tapList (s.tableFor b)).filter fun e => e.2.1 / 128 == q).flatMap fun e => e.2.2.reads.map fun o => (e.1, e.2.1, e.2.2, o)

/-- A read was served from the long line in the block before b, so its window is not empty (R96). -/
def longBefore (s : State) (b slot output start : Nat) : Bool :=
  let c := b - 16
  match tapOf (s.tableFor c) slot output with
  | some t => t.reads.any fun old => t.began old == start && isLong t old (c % 64)
  | none => false

/-- Request what block b needs (R93). -/
def requestBlock (s : State) (b q : Nat) : Quay :=
  let i0 := b % 64
  let quay := s.quay q
  if quay.gated || quay.draining || quay.listTick != some (floorTo 64 b) then quay
  else
    let quay := (quayReads s q b).foldl (fun (a : Quay) r =>
      let t := r.2.2.1
      let old := r.2.2.2
      if isLong t old i0 then
        let key := readKey r.1 r.2.1 (t.began old)
        let have_ := if longBefore s b r.1 r.2.1 (t.began old) then (SMap.get {} a.windows key).granules else []
        ((spanGranules t old b i0 (s.longMarkFor r.1 b)).filter fun g => !have_.contains g).foldl
          (fun a g => requestGranule a (granuleKey r.1 g) key b) a
      else a) quay
    issueFetches 512 quay

/-- Replay reads are fetched in the fetch window of the block that needs them (R107). The table has no row for the end of such a
fetch: it completes at once (DESIGN CHOICE, assumption 27). -/
def fetchReplay (b : Nat) (s : State) : State :=
  { s with rend.replay := s.rend.replay.map fun e => (e.1, { e.2 with held := (e.2.held ++ e.2.needs b).eraseDups }) }

/-- FETCH_WINDOW_OPEN (R93, R107): block b with b + L − 16 the present index, once. -/
def execFetchWindowOpen (s : State) : Host.Outcome State Fault Refusal :=
  let b := floorTo 16 (s.idx + 16 - s.media.catchL)
  if !s.media.running || s.idx + 16 < s.media.catchL || s.media.windowed = some b then .next s
  else
    let s := { s with media.windowed := some b }
    if s.noFetch b then .next s
    else .next ((List.range 4).foldl (fun st q => updQuay q (fun _ => requestBlock st b q) st) (fetchReplay b s))

/-- FETCH_LIST_HANDOVER (R92): tick k with k + L − 16 the present index, once; a gated Quay takes no list (R105). -/
def execFetchListHandover (s : State) : Host.Outcome State Fault Refusal :=
  let k := floorTo 64 (s.idx + 16 - s.media.catchL)
  if !s.media.running || s.idx + 16 < s.media.catchL || s.media.handed = some k then .next s
  else .next ((List.range 4).foldl (fun s q => updQuay q (fun u =>
      if u.gated || u.draining then u else { u with listTick := some k }) s) { s with media.handed := some k })

/-- A granule is lost to an uncorrectable error: every read of a block whose fetch window is open finds it late, and it is
counted (R99). -/
def loseGranule (s : State) (g : Nat) (u : Quay) : Quay :=
  { u with lost := u.lost ++ [(g, s.media.windowed.getD 0)], eccSub := wrapAdd 32 u.eccSub 1 }

/-- GRANULE_FETCH_DONE (R95, R99, R101, R105): a granule is staged, or lost to an uncorrectable error; a gated Quay and SHALLOW
discard it, and so does a Quay none of whose reads awaits it any more (assumption 27). -/
def execGranuleFetchDone (q : Fin 4) (tag : Nat) (ecc : Bool) (s : State) : Host.Outcome State Fault Refusal :=
  let u := s.quay q.val
  match u.flight.find? fun f => f.1 == tag with
  | none => .next s
  | some f =>
    let fl := u.flight.filter fun e => e.1 != tag
    if u.draining || u.gated || s.noFetch (s.media.windowed.getD 0) || f.2.reads.isEmpty then
      .next (updQuay q.val (fun u => issueFetches 512 { u with flight := fl }) s)
    else if ecc then
      let t := { s with mem.stat := { s.mem.stat with dramUe := wrapAdd 32 s.mem.stat.dramUe 1 } }
      .next (updQuay q.val (fun u => issueFetches 512 (loseGranule s f.2.granule { u with flight := fl })) t)
    else
      let st := u.staged ++ [f.2]
      .next (updQuay q.val (fun u => issueFetches 512
        { u with flight := fl, staged := st, stagedPeak := max u.stagedPeak st.length }) s)

/-- A gated Quay has drained (R105): its tags and staging slots are free, and its windows are gone. -/
def execQuayGateDone (q : Fin 4) (s : State) : Host.Outcome State Fault Refusal :=
  if (s.quay q.val).draining then
    .next (updQuay q.val (fun u => { u with gated := true, draining := false, flight := [], waiting := [], staged := [], lost := [],
                                            windows := [], listTick := none }) s)
  else .next s

/-- A granule that a block's reads find lost (R99). -/
def isLost (u : Quay) (b key : Nat) : Bool := u.lost.any fun e => e.1 == key && b ≤ e.2

/-- What a block's long-line reads find (R96, R98): per read its window, the weight's direction (0 full, 1 fading out,
2 silent, 3 fading in), and the late granules of a Quay. A granule that was staged when SHALLOW began still enters the window:
R101 says that reads render from the granules already in the window and that fetches in flight are discarded, and leaves the
staged ones open (DESIGN CHOICE, assumption 27). -/
def enterWindow (s : State) (b : Nat) (u : Quay) (r : Nat × Nat × Tap × Bool) : ReadWin × Nat × List Nat :=
  let i0 := b % 64
  let w := SMap.get {} u.windows (readKey r.1 r.2.1 (r.2.2.1.began r.2.2.2))
  let need := spanGranules r.2.2.1 r.2.2.2 b i0 (s.longMarkFor r.1 b)
  let staged := fun k => (u.staged.any fun f => f.granule == k) && !isLost u b k
  let good := fun g => w.granules.contains g || staged (granuleKey r.1 g)
  let hold := need.filter good
  let kept := w.granules.filter fun g => need.all (g < ·) && hold.length < 2
  let late := need.filter fun g => !good g
  let win : ReadWin := { granules := if hold.isEmpty then w.granules else kept.drop (kept.length - (2 - hold.length)) ++ hold,
                         silent := !late.isEmpty }
  (win, if late.isEmpty then (if w.silent then 3 else 0) else if w.silent then 2 else 1, late)

/-- After block b a fetch no longer serves the reads that took its granule into their window, nor those that asked for it for b
or before and do not need it there (R96, R99; assumption 27). `res` lists reads by key with their slot, window and late granules. -/
def settleFetch (b : Nat) (res : List (Nat × Nat × ReadWin × List Nat)) (f : Fetch) : Fetch :=
  let took := fun r => res.any fun e => e.1 == r && e.2.2.1.granules.any fun g => granuleKey e.2.1 g == f.granule
  let waits := fun r => res.any fun e => e.1 == r && e.2.2.2.any fun g => granuleKey e.2.1 g == f.granule
  { f with reads := f.reads.filter fun e => !took e.1 && (b < e.2 || waits e.1) }

/-- The reads of a Quay enter their windows; a staged granule that every read awaiting it has taken leaves staging, and a
waiting fetch may start in its place (R95, R96); late granules are counted (R98, R99), not while R101 applies. A granule counts
once in a block for the Quay however many reads miss it, and again in each later block in which it is missing (DESIGN CHOICE,
assumption 27). With the reads' weights, and the granules found lost. -/
def enterWindows (s : State) (b q : Nat) : Quay × SMap Nat × List Nat :=
  let i0 := b % 64
  let u := s.quay q
  let longs := (quayReads s q b).filter fun r => isLong r.2.2.1 r.2.2.2 i0
  let res := longs.map fun r => (readKey r.1 r.2.1 (r.2.2.1.began r.2.2.2), r.1, enterWindow s b u r)
  let wins := res.foldl (fun m e => SMap.put {} m e.1 e.2.2.1) ([] : SMap ReadWin)
  let back := ((quayReads s q b).filter fun r => !isLong r.2.2.1 r.2.2.2 i0).filterMap fun r =>
    let k := readKey r.1 r.2.1 (r.2.2.1.began r.2.2.2)
    if (SMap.get {} u.windows k).silent then some (k, 3) else none
  let modes := res.foldl (fun m e => SMap.put 0 m e.1 e.2.2.2.1) (back.foldl (fun m e => SMap.put 0 m e.1 e.2) ([] : SMap Nat))
  let missed := (res.flatMap fun e => e.2.2.2.2.map fun g => granuleKey e.2.1 g).eraseDups
  let n := if s.noFetch b then 0 else missed.countP fun k => !isLost u b k
  let settle := settleFetch b (res.map fun e => (e.1, e.2.1, e.2.2.1, e.2.2.2.2))
  let u' := { u with windows := wins, staged := (u.staged.map settle).filter fun f => !f.reads.isEmpty
                     flight := u.flight.map fun e => (e.1, settle e.2), waiting := u.waiting.map settle
                     lost := u.lost.filter fun e => b < e.2, late := wrapAdd 32 u.late n }
  (issueFetches 512 u', modes, missed.filter (isLost u b))

/-- The events of the granules that a Quay's block finds lost (R100, Table 11.18). -/
def logLost (q : Nat) (gs : List Nat) (s : State) : State :=
  gs.foldl (fun s g => logEvent 11 2 srcDevice [q, g / 2 ^ 54] s) s

/-- The sample a read takes at a stamp: from its window, else zero (R98). -/
def windowAt (s : State) (w : ReadWin) (slot : Nat) (i : Int) : Int :=
  if i < 0 || i < (SMap.get 0 s.rend.longMark slot : Nat) then 0
  else if w.granules.contains (i.toNat / 32) then s.longAt slot i else 0

/-- Weight of a long-line read at period i of the block, in C-format (R98). -/
def lateWeight (mode i : Nat) : Int := if mode = 1 then outWeight i else if mode = 2 then 0 else if mode = 3 then inWeight i else unity

/-- A gain under a weight: (g W + 2^29) >> 30. -/
def weigh (g w : Int) : Int := if w = unity then g else rshift 30 (g * w)

/-- One period of one read (R76, R77): result, air state, clamps. -/
def readStep (at_ : Int → Int) (n d : Nat) (g air y : Int) : Int × Nat :=
  let p := (n : Int) * 65536 - d
  let f := p / 65536
  let w := tapWeights (p % 65536).toNat
  let acc := (w.zipIdx).foldl (fun a e => a + at_ (f - 3 + (e.2 : Int)) * e.1) 0
  let v := stage 30 acc
  let r := stage 30 (v.1 * g)
  let a30 := air * 16384
  let o := stage 30 (r.1 * (unity - a30) + y * a30)
  (o.1, bit v.2 + bit r.2 + bit o.2)

/-- A value interpolated over the tick (R78). -/
def rampAt (a b : Int) (i : Nat) : Int := a + ((b - a) * (i + 1 : Nat)) / 64

/-- One tap over the periods of a block (R78, R80): outputs, the tap with its air states, clamps. -/
def tapBlock (s : State) (b slot output : Nat) (u : Quay) (modes : SMap Nat) (t : Tap) : List Int × Tap × Nat :=
  let i0 := b % 64
  let src := fun old => if isLong t old i0
    then windowAt s (SMap.get {} u.windows (readKey slot output (t.began old))) slot else s.nearAt slot
  let mode := fun old => SMap.get 0 modes (readKey slot output (t.began old))
  (List.range 16).foldl (fun (acc : List Int × Tap × Nat) i =>
    let ii := i0 + i
    let n := b + i
    let g := rampAt t.gainA t.gainB ii
    let air := rampAt t.airA t.airB ii
    let cur := acc.2.1
    if t.hop then
      let wn := hopWeight t.fadeLen t.fadeIdx ii
      let a := readStep (src false) n t.delayB (weigh (rshift 30 (g * wn)) (lateWeight (mode false) i)) air cur.y
      let o := readStep (src true) n t.delayH (weigh (rshift 30 (g * (unity - wn))) (lateWeight (mode true) i)) air cur.yOld
      (acc.1 ++ [a.1 + o.1], { cur with y := a.1, yOld := o.1 }, acc.2.2 + a.2 + o.2)
    else
      let a := readStep (src false) n (t.delayAt ii) (weigh g (lateWeight (mode false) i)) air cur.y
      (acc.1 ++ [a.1], { cur with y := a.1 }, acc.2.2 + a.2)) ([], t, 0)

/-- Add two blocks of samples. -/
def addBlock (a b : List Int) : List Int := (List.range 16).map fun i => a.getD i 0 + b.getD i 0

/-- The tap engines over block b: feed accumulators by output, not yet saturated (R77). -/
def runTaps (b : Nat) (s : State) : SMap (List Int) × State :=
  let quays := (List.range 4).map fun q => enterWindows s b q
  let s := (quays.zipIdx).foldl (fun s e => logLost e.2 e.1.2.2 (updQuay e.2 (fun _ => e.1.1) s)) s
  if s.rend.tapTick ≠ some (floorTo 64 b) then ([], s)
  else
    (tapList s.rend.taps).foldl (fun acc e =>
      let q := e.2.1 / 128
      let r := tapBlock s b e.1 e.2.1 (s.quay q) ((quays.getD q ({}, [], [])).2.1) e.2.2
      (SMap.ins acc.1 e.2.1 (addBlock (SMap.get [] acc.1 e.2.1) r.1),
       updQuay q (fun u => { u with tapSat := holdAdd 65535 u.tapSat r.2.2 })
         { acc.2 with rend.taps := putTap acc.2.rend.taps e.1 e.2.1 r.2.1 })) ([], s)

/-- The sillage write of block b for one slot (R87): the samples stamped b + 4 to b + 19; the window keeps 8,192. -/
def writeNear (b slot : Nat) (x : List Int) (s : State) : State :=
  let line := (SMap.get [] s.rend.near slot).filter fun e => e.1 + 8172 ≥ b
  let line := x.zipIdx.foldl (fun m e => SMap.put 0 m (b + 4 + e.2) e.1) line
  { s with rend.near := SMap.put [] s.rend.near slot line }

/-- The long-line write of block b (R88, R101): granules of stamps b − 16 to b + 15 of every active slot. -/
def writeLong (b : Nat) (s : State) : State :=
  if b % 32 ≠ 16 || s.shallow then s
  else
    let slots := SMap.keys s.rend.slots
    slots.foldl (fun s slot =>
      let line := (SMap.get [] s.rend.long slot).filter fun e => e.1 + 191984 ≥ b
      let line := (List.range 32).foldl (fun m i => SMap.put 0 m (b - 16 + i) (s.nearAt slot (b - 16 + i : Nat))) line
      { s with rend.long := SMap.put [] s.rend.long slot line })
      { s with rend.granuleWrites := wrapAdd 64 s.rend.granuleWrites slots.length }

/-- Late-granule runs of a Quay (R100, R341): the event in each affected block, entries as a run begins and ends. -/
def sillageEvent (b q late : Nat) (s : State) : State :=
  match SMap.look s.host.lateRuns q with
  | none =>
    if late = 0 then s
    else logEvent 11 0 srcDevice [q, 1, late] { s with host.lateRuns := SMap.ins s.host.lateRuns q ⟨b, 1, late, b⟩ }
  | some r =>
    if late = 0 then logEvent 11 1 srcDevice [q, r.len, r.total] { s with host.lateRuns := SMap.del s.host.lateRuns q }
    else raise 11 { s with host.lateRuns := SMap.ins s.host.lateRuns q { r with len := r.len + 1, total := r.total + late, last := b } }

/-- SYS_INFO selector 3 (Table 4.4): the peaks restart (R106) from the fetches in flight and the granules staged at the read;
the staging peak counts granules staged and not slots that a fetch in flight has reserved (DESIGN CHOICE, assumption 27). -/
def sillageBody (s : State) : Bytes :=
  le 4 3 ++ zeros 4 ++
  ((List.range 4).flatMap fun q =>
    let u := s.quay q
    le 8 u.fetches ++ le 8 u.shared ++ le 4 u.late ++ le 4 u.eccSub ++ le 2 u.flightPeak ++ le 2 u.stagedPeak ++ zeros 4) ++
  le 4 s.rend.depthClamps ++ le 4 s.rend.shallowEntries ++ le 8 s.rend.granuleWrites ++ le 4 s.rend.replayLate ++ zeros 4
def sillageRead (s : State) : State :=
  (List.range 4).foldl (fun s q => updQuay q (fun u => { u with flightPeak := u.flight.length, stagedPeak := u.staged.length }) s) s

end Sys2Proof.Machine
end

