-- ==== Sys2Proof/Machine/Render.lean ====
section
/-!
DEFINITION. The compute slot of a block: sources and bridges (R117 to R123, R348), input chains (R124), the sillage write
(R42, R87), output chains (R127 to R136, R148 to R156), the router (R158 to R163), the silence detectors (R165).
-/
namespace Sys2Proof.Machine

/-- Received slots between slot n and the concealed one before it, up to 15 (R230). -/
def sinceConcealed (m : SMap Slot) : Nat → Nat → Option Nat
  | 0, _ => none
  | _, 0 => none
  | k + 1, n + 1 => match SMap.look m n with
    | none => none
    | some x => if x.concealed then some 0 else (sinceConcealed m k n).map (· + 1)

/-- The value read from a slot: an absent one gives zero; the sixteen received after a concealed one fade in (R230). -/
def slotValue (m : SMap Slot) (n : Nat) : Int :=
  match SMap.look m n with
  | none => 0
  | some x =>
    if x.concealed then x.value
    else match sinceConcealed m 16 n with
      | some j => mulC x.value (inWeight j)
      | none => x.value

/-- The channel a binding named at a stamp. -/
def boundAt (binds : List (Nat × Nat)) (v : Nat) : Option Nat :=
  (binds.find? fun b => b.1 ≤ v).bind fun b => if b.2 = 65535 then none else some b.2

/-- Who feeds a channel in block b: a receive berth, a TDM port as flow 256 + p, an analogue input as 512 + i, bound now or
at the block's first stamp (R405). -/
def State.feeder (s : State) (b c : Nat) : Option Nat :=
  match s.net.rx.find? fun e => e.2.state != 0 && e.2.cfg.first ≤ c && c < e.2.cfg.first + e.2.cfg.channels with
  | some e => some e.1
  | none =>
    match s.io.tdm.find? fun e => e.2.inFirst != 65535 && e.2.inFirst ≤ c && c < e.2.inFirst + e.2.slots with
    | some e => some (256 + e.1)
    | none => (s.io.anaIn.find? fun e => e.2.channel == c || boundAt e.2.binds (b + 4) == some c).map fun e => 512 + e.1

/-- The bridge of a feeder; an analogue input has none. -/
def State.flowBridge (s : State) (f : Nat) : Bridge := if f < 512 then s.bridge f else {}

/-- A flow whose declared rate is not Heart and whose bridge is NONE gives zeros (R117). -/
def foreign (s : State) (br : Bridge) : Bool := br.mode == 0 && br.rate != 48000 && br.rate != s.hz

/-- A flow whose samples cannot be used without a bridge: a foreign one, or a TDM follower's, which needs LOCKED or FREE (R413). -/
def unbridged (s : State) (f : Nat) : Bool :=
  foreign s (s.flowBridge f) || (256 ≤ f && f < 260 && (s.tdm (f - 256)).role == 2 && (s.bridge f).mode == 0)

/-- Index just past the newest sample a FREE flow has received: a berth's write pointer, or the end of a TDM port's
buffer. -/
def freeEnd (s : State) (f : Nat) : Option Nat :=
  match SMap.look s.net.rx f with
  | some x => if x.freeSeq.isSome then some x.freePtr else none
  | none =>
    if f < 256 then none
    else ((SMap.get [] s.net.jitter (s.tdm (f - 256)).inFirst).getLast?).map fun e => e.1 + 1

/-- Position of a FREE bridge for the first period of a block, and its loop (R121): in the first block that finds a sample it is
placed fill_target samples behind the newest, also where fewer have come. A slip fades the block out; the loop goes on with
the fill it measures, and the next block places p again. -/
def freeOwn (s : State) (f : Nat) (br : Bridge) : Bridge :=
  let fs : Rat := br.rate
  match freeEnd s f with
  | none => { br with state := 0 }
  | some e =>
    if !br.placed then
      { br with pos := ((e : Int) - 1 - br.fillTarget : Int), r := 0, integ := 0, placed := true, state := 1
                fill := (br.fillTarget : Int) * 65536 }
    else
      let br := if br.slipped then { br with pos := ((e : Int) - 1 - br.fillTarget : Int), slipped := false } else br
      let n : Int := (e : Int) - 1 - br.pos.floor
      let br := if n < 32 || n > 1472 then { br with fade := 1, slips := wrapAdd 32 br.slips 1 } else br
      let bw : Rat := [(1 / 2 : Rat), 1, 2, 5].getD br.loopBw 1
      let wn := r64 (r64 (2 * r64 (Fx.toRat Fx.pi)) * bw)
      let kp := r64 (r64 (141421 / 100000) * wn)
      let ki := r64 (wn * wn)
      let lim := r64 (1 / 1000)
      let hold := fun (x : Rat) => if x > lim then lim else if x < -lim then -lim else x
      let er := r64 (((n - br.fillTarget : Int) : Rat) / fs)
      let integ := hold (r64 (br.integ + r64 (r64 (ki * er) * r64 (16 / s.hz))))
      let r := hold (r64 (r64 (kp * er) + integ))
      { br with integ := integ, r := r, fill := n * 65536, state := if r = lim ∨ r = -lim then 2 else 1 }

/-- A standby takes position and r from the manifest of the block (R122). -/
def freeBlock (s : State) (b f : Nat) (br : Bridge) : Bridge :=
  let own := freeOwn s f br
  let entry : Option ManFree := match s.twin.manifest with
    | some m => if m.block = b then m.frees.find? fun (k : ManFree) => k.flow == f else none
    | none => none
  match entry with
  | some e => if s.flag mStandby && (own.placed || e.pos != 0) then { own with pos := (e.pos : Rat) / 65536, r := e.r, placed := true }
      else own
  | none => own

/-- What a bridge does at the end of a block: FREE advances; a block that faded out for new settings ends in the state cleared
(R123), one that slipped has p placed anew (R121), and the next block fades in. -/
def bridgeEnd (hz : Nat) (br : Bridge) : Bridge :=
  let br := if br.mode = 2 && br.placed then { br with pos := br.pos + 16 * ((br.rate : Rat) / hz * (1 + br.r)) } else br
  match br.fade with
  | 1 =>
    match br.pending with
    | some p => { stopBridge br with mode := p.1, rate := p.2, pending := none, fade := 2 }
    | none => { br with slipped := true, fade := 2 }
  | _ => { br with fade := 0 }

/-- Sixteen bridged samples of a channel, stamps b + 4 to b + 19, and the clamps (R117 to R121). -/
def readFlow (s : State) (b f c : Nat) : List Int × Nat :=
  let m := SMap.get [] s.net.jitter c
  let br := s.flowBridge f
  let hz := s.hz
  let at_ := fun (p : Int) =>
    let w := bridgeWeights br.rate hz (p % 65536).toNat
    stage 30 ((w.zipIdx).foldl (fun a e =>
      let n : Int := p / 65536 - 31 + (e.2 : Int)
      a + e.1 * (if n < 0 then 0 else slotValue m n.toNat)) 0)
  let xs := (List.range 16).map fun (i : Nat) =>
    if unbridged s f then (0, false)
    else match br.mode with
      | 0 => (slotValue m (b + 4 + i), false)
      | 1 => if br.rate = hz then (slotValue m (b + 4 + i), false) else at_ (lockedPos br.rate hz (b + 4 + i))
      | _ => if br.placed then at_ ((br.pos + (i : Rat) * ((br.rate : Rat) / hz * (1 + br.r))) * 65536).floor else (0, false)
  let fade := fun (x : List Int) =>
    if br.fade = 1 then x.zipIdx.map fun e => mulC e.1 (outWeight e.2)
    else if br.fade = 2 then x.zipIdx.map fun e => mulC e.1 (inWeight e.2) else x
  let closing := fun (x : List Int) => match SMap.look s.net.rx f with
    | some q =>
      if q.state = 2 && b = q.closeAt then x.zipIdx.map fun e => mulC e.1 (outWeight e.2)
      else if q.state = 2 && b > q.closeAt then x.map fun _ => 0 else x
    | none => x
  (closing (fade (xs.map Prod.fst)), xs.countP Prod.snd)

/-- Track sample of a replay entry that started at block `start`, at a stamp (R107, R348); none past its end. -/
def trackSample (s : State) (e : ReplayEntry) (start v : Nat) : Option Int :=
  (e.granuleAt start v).map fun g =>
    getI (SMap.get [] s.rend.store g) (3 * ((e.start + (v - start)) % (128 * e.granules) % 128)) 3 * 16

/-- A track's sample as a channel plays it: zero where its granule is not present (R98, R107). -/
def heldSample (s : State) (r : ReplayChan) (e : ReplayEntry) (start v : Nat) : Int :=
  match e.granuleAt start v with
  | some g => if r.held.contains g then (trackSample s e start v).getD 0 else 0
  | none => 0

/-- A channel's source over block b with its replay (R103, R348): a cross-fade in the start block and in the block of the
end. -/
def replayOver (s : State) (b : Nat) (live : List Int) (r : ReplayChan) : List Int :=
  let w8 := fun (i : Nat) (x : Int) => if r.late = 1 then mulC x (outWeight i) else if r.late = 2 then 0
    else if r.late = 3 then mulC x (inWeight i) else x
  let track := fun (e : ReplayEntry) (a : Nat) => (List.range 16).map fun i =>
    if s.shallow then 0 else w8 i (heldSample s r e a (b + 4 + i))
  let cross := fun (new old : List Int) => (List.range 16).map fun i =>
    let w := inWeight i
    (stage 30 (w * new.getD i 0 + (unity - w) * old.getD i 0)).1
  let now := track r.entry r.start
  let now := if b = r.start then cross now (match r.old with | some o => track o.1 o.2 | none => live) else now
  match r.ending with
  | some e => if e = b then cross live now else if e < b then live else now
  | none => if b < r.start then live else now

/-- A channel's source is present (R42, R103, R117, R235, R348). -/
def channelPresent (s : State) (b c : Nat) : Bool :=
  let live := match s.feeder b c with
    | some f =>
      let br := s.flowBridge f
      !unbridged s f && (br.mode != 2 || br.placed) &&
      (match SMap.look s.net.rx f with | some x => x.state == 1 || b ≤ x.closeAt | none => f ≥ 512 || !(s.tdm (f - 256)).starved)
    | none => false
  match SMap.look s.rend.replay c with
  | some r => if b < r.start || (match r.ending with | some e => e ≤ b | none => false) then live
              else !s.shallow && (trackSample s r.entry r.start (b + 19)).isSome
  | none => live

/-- Channels with anything to compute. -/
def State.liveChannels (s : State) : List Nat :=
  ((s.net.rx.flatMap fun e => if e.2.state = 0 then [] else (List.range e.2.cfg.channels).map fun i => e.2.cfg.first + i) ++
   (s.io.tdm.flatMap fun e => if e.2.inFirst = 65535 then [] else (List.range e.2.slots).map fun i => e.2.inFirst + i) ++
   (s.io.anaIn.flatMap fun e => e.2.channel :: e.2.binds.map Prod.snd) ++
   SMap.keys s.rend.replay ++ SMap.keys s.rend.chanOut ++
   (s.rend.inChains.filterMap fun e => if e.2.bqState.isEmpty then none else some e.1)).eraseDups.filter
    fun c => c < chanCount s.media.heart

/-- One channel through trim and biquads (R124, R125): sixteen words and its chain. -/
def chainBlock (r : InChain) (x : List Int) : List Int × InChain :=
  let g := gainOf r.trim
  let on := (List.range 8).filter fun i => r.bqEnable.testBit i
  x.foldl (fun (a : List Int × InChain) v =>
    let t := stage 30 (v * g)
    let o := bqCascade a.2.biquads on a.2.bqState t.1 a.2.satBq
    (a.1 ++ [o.1], { a.2 with bqState := o.2.1, satBq := o.2.2, satTrim := if t.2 then holdAdd 65535 a.2.satTrim 1 else a.2.satTrim }))
    ([], r)

/-- Input side of block b: every live channel's source, chain and hold for the router; the raw sources by channel. -/
def inputBlock (b : Nat) (s : State) : SMap (List Int) × State :=
  s.liveChannels.foldl (fun (a : SMap (List Int) × State) c =>
    let s := a.2
    let f := s.feeder b c
    let r := match f with | some f => readFlow s b f c | none => ((List.range 16).map fun _ => (0 : Int), 0)
    let x := match SMap.look s.rend.replay c with | some e => replayOver s b r.1 e | none => r.1
    let o := chainBlock (s.inChain c) x
    let old := SMap.get [] s.rend.chanOut c
    let keep := (List.range 4).map fun i => old.getD (16 + i) 0
    let all := keep ++ o.1
    let s := { s with rend.inChains := SMap.put {} s.rend.inChains c o.2
                      rend.chanOut := if all.all (· == 0) then SMap.del s.rend.chanOut c else SMap.ins s.rend.chanOut c all }
    let s := match f with
      | some f =>
        if r.2 = 0 then s else
        let m := SMap.upd {} s.rend.bridges f fun (b : Bridge) => { b with sat := holdAdd 65535 b.sat r.2 }
        { s with rend.bridges := m }
      | none => s
    (SMap.put [] a.1 c x, s)) ([], s)

/-- Words of a channel's chain stamped b + 4 to b + 19. -/
def chanNew (s : State) (c : Option Nat) : List Int :=
  match c with
  | some c => let l := SMap.get [] s.rend.chanOut c; (List.range 16).map fun i => l.getD (4 + i) 0
  | none => (List.range 16).map fun _ => 0

/-- The sillage write of every slot (R42, R87): over the block of a binding change the write cross-fades. -/
def sillageWrites (b : Nat) (s : State) : State :=
  let slots := s.rend.slots ++ (s.rend.gone.filter fun e => !(s.rend.slots.any fun x => x.1 == e.1))
  slots.foldl (fun s e =>
    let t := s.objStat e.2
    let new := chanNew s t.bind
    let x := match t.fade with
      | some f => if f.block = b then
          let old := chanNew s f.old
          (List.range 16).map fun i => (stage 30 (inWeight i * new.getD i 0 + (unity - inWeight i) * old.getD i 0)).1
        else if b < f.block then chanNew s f.old else new
      | none => new
    writeNear b e.1 x s) s

/-- After the block: cross-fades that are over are forgotten, and presence is noted (Table 2.3). -/
def objectsAfter (b : Nat) (s : State) : State :=
  let st := SMap.mapVals {} (fun _ (t : ObjStat) =>
    let t := match t.fade with | some f => if f.block ≤ b then { t with fade := none } else t | none => t
    { t with present := match t.bind with | some c => channelPresent s b c | none => false })
    s.scene.stats
  { s with scene.stats := st }

/-- Count clamps on a chain. -/
def tick16 (b : Bool) (n : Nat) : Nat := if b then holdAdd 65535 n 1 else n

/-- Stages 1 to 8 over one period (R127 to R134, R148): feed word `x`, period n. -/
def shapePeriod (lg n : Nat) (a : AccordSlots) (c : OutChain) (feed : Int) : Int × OutChain :=
  let x := satH feed
  let t := { c.stat with satFeed := tick16 (overH feed) c.stat.satFeed }
  let out := a.outgoing
  let bqs := fun (k : Accord) (st : SMap BqState) (v : Int) (sat : SMap Nat) => bqCascade k.biquads (List.range 24) st v sat
  let fin := fun (y : Int) (yo : Option Int) (c : OutChain) (t : OutStat) =>
    let r := bqs a.active c.bq y t.satBq
    match out, yo, a.fade with
    | some k, some v, some f =>
      let q := bqs k c.bqOut v r.2.2
      let ph := phi16 (n - f.start) (16 * f.len)
      let wa := if f.power then eqPower ph.toNat else ph * 16384
      let wo := if f.power then eqPower (65536 - ph).toNat else unity - wa
      let y := stage 30 (wa * r.1 + wo * q.1)
      (y.1, { c with bq := r.2.1, bqOut := q.2.1,
                     stat := { t with satBq := if y.2 then SMap.upd 0 q.2.2 23 (holdAdd 65535 · 1) else q.2.2 } })
    | _, _, _ => (r.1, { c with bq := r.2.1, stat := { t with satBq := r.2.2 } })
  if !c.cfg.base then
    let hist := (x :: c.hist).take 512
    let y := stage (15 + a.active.hfirShift) (firAcc a.active.hfir hist)
    let yo := out.map fun k => stage (15 + k.hfirShift) (firAcc k.hfir hist)
    let t := { t with satHfir := tick16 (match yo with | some v => v.2 | none => false) (tick16 y.2 t.satHfir) }
    fin y.1 (yo.map Prod.fst) { c with hist := hist } t
  else
    let w := c.base
    let d := decStep lg n w.dec w.decHist x
    let new := d.2.2
    let bHist := match new with | some v => (v.1 :: w.bHist).take 512 | none => w.bHist
    let t := match new with | some v => { t with satDfir := tick16 v.2 t.satDfir } | none => t
    let l0 := intStep lg n w.lane0 w.lane0Hist (new.map Prod.fst)
    let bfir := fun (k : Accord) => new.map fun _ => stage (15 + k.bfirShift) (firAcc k.bfir bHist)
    let fa := bfir a.active
    let l1 := intStep lg n w.lane1 w.lane1Hist (fa.map Prod.fst)
    let fo := match out with | some k => bfir k | none => none
    let l1o := intStep lg n w.lane1Out w.lane1OutHist (fo.map Prod.fst)
    let delay := (x :: w.delay).take (baseD lg + 1)
    let diff := delay.getD (baseD lg) 0 - l0.2.2.1
    let hist := (satH diff :: c.hist).take 512
    let y := stage (15 + a.active.hfirShift) (firAcc a.active.hfir hist)
    let yo := out.map fun k => stage (15 + k.hfirShift) (firAcc k.hfir hist)
    let sum := stage 30 (a.active.gH * y.1 + a.active.gL * l1.2.2.1)
    let so := match out, yo with | some k, some v => some (stage 30 (k.gH * v.1 + k.gL * l1o.2.2.1)) | _, _ => none
    let ov := fun (o : Option (Int × Bool)) => match o with | some v => v.2 | none => false
    let t := { t with
      satXsub := tick16 (overH diff) t.satXsub
      satHfir := tick16 (ov yo) (tick16 y.2 t.satHfir)
      satBfir := tick16 (ov fo) (tick16 (ov fa) t.satBfir)
      satIfir := holdAdd 65535 t.satIfir (l0.2.2.2 + l1.2.2.2 + (if out.isSome then l1o.2.2.2 else 0))
      satXsum := tick16 (ov so) (tick16 sum.2 t.satXsum) }
    let base : BaseState := { dec := d.1, decHist := d.2.1, bHist := bHist, lane0 := l0.1, lane0Hist := l0.2.1,
                              lane1 := l1.1, lane1Hist := l1.2.1, delay := delay,
                              lane1Out := if out.isSome then l1o.1 else {}, lane1OutHist := if out.isSome then l1o.2.1 else [] }
    fin sum.1 (so.map Prod.fst) { c with hist := hist, base := base } t

/-- Stages 10 and 11 over one period (R135, R136, R148, R152, R155): `x` after stage 9. `up` is whether the mute phase would
rise if the polarity agreed. -/
def gainPeriod (n : Nat) (a : AccordSlots) (up : Bool) (c : OutChain) (m : MuteRamp) (x : Int) : Int × OutChain × MuteRamp :=
  let r := c.cfg
  let lim := if r.limOn then limStep (limAttC r.limAtt) (limRelC r.limRel) (limAttC 8) (thresholdOf r.limThr) c.env c.limG x
    else (x, 0, unity, false)
  let y := lim.1
  let g := lim.2.2.1
  let t := { c.stat with
    satLim := tick16 lim.2.2.2 c.stat.satLim
    grPeak := max c.stat.grPeak (reduction g)
    limActive := if g < unity then wrapAdd 32 c.stat.limActive 1 else c.stat.limActive }
  let pol := if m.ph = 0 then r.polarity else c.polNow
  let mu := m.step (up && pol == r.polarity)
  let ga := gainOf a.active.outGain
  let gain := match a.outgoing, a.fade with
    | some k, some f => lerp16 (gainOf k.outGain) ga (phi16 (n - f.start) (16 * f.len))
    | _, _ => ga
  let w := rshift 30 (gain * muteWeight mu.1 m.r)
  let o := stage 30 (y * (if pol then -w else w))
  (o.1, { c with env := lim.2.1, limG := g, polNow := pol, stat := { t with satGain := tick16 o.2 t.satGain } }, mu.2)

/-- An output over block b: sixteen words after stage 11; the state with its chain, ramp and marker advanced. -/
def outputBlock (b o : Nat) (feed : List Int) (s : State) : List Int × State :=
  let a := s.accord o
  let lg := s.media.baseLog2
  let p := (List.range 16).foldl (fun (acc : List Int × OutChain) i =>
    let r := shapePeriod lg (b + i) a acc.2 (feed.getD i 0)
    (acc.1 ++ [r.1], r.2)) (([] : List Int), s.outChain o)
  let p8 := p.1.zipIdx.map fun e =>
    let w := sweepProgramme s o (b + 48 + e.2)
    if w = unity then e.1 else mulC e.1 w
  let mk := markerBlock s b o p8
  let up := fun i => !(s.mute o).muted && !s.flag mDark && !sweepHolds s o (b + 48 + i)
  let q := (List.range 16).foldl (fun (acc : List Int × OutChain × MuteRamp) i =>
    let x9 := p8.getD i 0 + mk.1.getD i 0 + sweepWord s o (b + 48 + i)
    let c := acc.2.1
    let c := { c with stat := { c.stat with satMarker := tick16 (overH x9) c.stat.satMarker } }
    let r := gainPeriod (b + i) a (up i) c acc.2.2 (satH x9)
    (acc.1 ++ [r.1], r.2.1, r.2.2)) (([] : List Int), p.2, s.mute o)
  let s := noteMarker b o mk.2.1.gate mk.2.2 s
  (q.1, { s with
    rend.outChains := SMap.put {} s.rend.outChains o q.2.1
    rend.mutes := SMap.put {} s.rend.mutes o q.2.2
    rend.markers := SMap.put {} s.rend.markers o mk.2.1 })

/-- Outputs with anything to compute. -/
def State.liveOutputs (s : State) (feeds : SMap (List Int)) : List Nat :=
  (SMap.keys feeds ++ SMap.keys s.scene.speakers ++ SMap.keys s.rend.outChains ++ SMap.keys s.rend.mutes ++
   SMap.keys s.rend.accords ++ (match s.nose.sweep with | some r => [r.cfg.output] | none => [])).eraseDups.filter
    (outExists s.media.heart)

/-- One period of a crosspoint (R161 to R163): the gain, its new state, whether it cut, whether it fell back. -/
def xpStep (hz n : Nat) (x : Xpoint) (v prev : Int) : Int × Xpoint × Bool × Bool :=
  let fade := fun (x : Xpoint) => match x.move with
    | .fade g0 g1 len start r =>
      if n < start then (g0, x)
      else if n < start + len then (lerp16 g0 g1 (phi16 (n - start) len), x)
      else (g1, if r then x else { x with move := .steady })
    | _ => (x.gain, x)
  match x.move with
  | .watch g0 g1 start _ r =>
    if n < start then (g0, x, false, false)
    else if n ≥ start + hz / 200 then
      let y := fallbackXp hz x
      ((fade y).1, (fade y).2, false, true)
    else if v = 0 || (v > 0 && prev ≤ 0) || (v < 0 && prev ≥ 0) then (g1, { x with gain := g1, move := .steady }, r, false)
    else (g0, { x with move := .watch g0 g1 start (some v) r }, false, false)
  | _ => ((fade x).1, (fade x).2, false, false)

/-- A crosspoint over block b: its gains before the mute weight, its state, whether a removal cut, fallbacks. -/
def xpBlock (hz b : Nat) (src : List Int) (prev : Int) (x : Xpoint) : List Int × Xpoint × Bool × Nat :=
  let r := (List.range 16).foldl (fun (a : List Int × Xpoint × Bool × Nat × Int) i =>
    let v := src.getD i 0
    let o := if a.2.2.1 then (0, a.2.1, false, false) else xpStep hz (b + i) a.2.1 v a.2.2.2.2
    (a.1 ++ [o.1], o.2.1, a.2.2.1 || o.2.2.1, a.2.2.2.1 + bit o.2.2.2, v)) (([] : List Int), x, false, 0, prev)
  (r.1, r.2.1, r.2.2.1, r.2.2.2.1)

/-- The router over block b (R154, R158): `outs` are the stage-11 words; `prevs` the last sample of each source. -/
def routeBlock (b : Nat) (outs : SMap (List Int)) (prevChan prevOut : Nat → Int) (s : State) : SMap (List Int) × State :=
  let src := fun (c : Nat) => if c < 0x400 then (SMap.get [] s.rend.chanOut c).take 16 else SMap.get [] outs (c - 0x400)
  let prev := fun (c : Nat) => if c < 0x400 then prevChan c else prevOut (c - 0x400)
  let xs := s.rend.xpoints.map fun x => (x, xpBlock s.hz b (src x.source) (prev x.source) x)
  let codes := (SMap.keys s.rend.dests ++ s.rend.xpoints.map Xpoint.dest).eraseDups
  let ds := codes.map fun c =>
    let d := s.dest c
    let mine := xs.filter fun e => e.1.dest == c
    let r := (List.range 16).foldl (fun (a : List Int × MuteRamp × Nat) i =>
      let m := a.2.1.step (!d.ramp.muted && !s.flag mDark)
      let w := muteWeight m.1 a.2.1.r
      let y := stage 30 (mine.foldl (fun acc e => acc + rshift 30 (e.2.1.getD i 0 * w) * (src e.1.source).getD i 0) 0)
      (a.1 ++ [y.1], m.2, a.2.2 + bit y.2)) (([] : List Int), d.ramp, 0)
    (c, r.1, { d with ramp := r.2.1, sat := holdAdd 65535 d.sat r.2.2 })
  (ds.foldl (fun m e => SMap.put [] m e.1 e.2.1) [],
   { s with
     rend.xpoints := (xs.filter fun e => !e.2.2.2.1).map fun e => e.2.2.1
     rend.ghosts := s.rend.ghosts ++ (xs.filter fun e => e.2.2.2.1).map fun e =>
       (e.1.source, e.1.dest, (xpEnd s.hz e.1).getD 0)
     rend.fallbacks := wrapAdd 32 s.rend.fallbacks ((xs.map fun e => e.2.2.2.2).foldl (· + ·) 0)
     rend.dests := ds.foldl (fun m e => SMap.put {} m e.1 e.2.2) s.rend.dests })

/-- The test of one channel's silence detector at the end of block b (R165). -/
def silenceTest (s : State) (b c : Nat) (r : Silence) : Silence :=
  let thr := thresholdOf r.threshold
  let hit := (chanNew s (some c)).zipIdx.foldl (fun (a : Option Nat) e => if (e.1.natAbs : Int) ≥ thr then some (b + 4 + e.2) else a) none
  match hit with
  | some v => { r with last := some v, silent := false }
  | none => if !r.silent && b + 19 ≥ (r.last.getD 0) + r.hold then { r with silent := true } else r

/-- The silence detectors, with the events of channels that ask for them (R165, Table 11.18). -/
def silenceBlock (b : Nat) (s : State) : State :=
  (s.liveChannels ++ (SMap.keys s.rend.silence)).eraseDups.foldl (fun s c =>
    let r := SMap.get ({} : Silence) s.rend.silence c
    let n := silenceTest s b c r
    let s := { s with rend.silence := SMap.put {} s.rend.silence c n }
    if n.silent != r.silent && n.flags.testBit 1 then logEvent 14 0 srcDevice [c, bit n.silent] s else s) s

/-- Observation inputs and sense channels over block b (R183, R206): `raw` are the sources by channel. An analogue input
without a channel still serves an observation input that names its channel. -/
def listenBlock (b : Nat) (raw : SMap (List Int)) (s : State) : State :=
  let x := fun c => let l := SMap.get [] raw c; (List.range 16).map fun i => l.getD i 0
  let put := fun (m : SMap Int) c => (x c).zipIdx.foldl (fun m e => SMap.put 0 m (b + 4 + e.2) e.1) (m.filter fun e => e.1 + 16384 ≥ b)
  let s := { s with
    nose.obs := SMap.mapVals {} (fun i (r : ObsIn) =>
      if r.channel = 65535 then r else obsBlock s b (sweepFrozen s i) (x r.channel) r) s.nose.obs
    nose.health := SMap.mapVals {} (fun _ (h : Health) =>
      { h with vSamples := if h.vChan = 65535 then h.vSamples else put h.vSamples h.vChan
               iSamples := if h.iChan = 65535 then h.iSamples else put h.iSamples h.iChan }) s.nose.health }
  sweepCapture b s

/-- Sources as the observation inputs of a standby hear them (R289): its own samples of its local inputs. -/
def ownInputs (b : Nat) (raw : SMap (List Int)) (s : State) : SMap (List Int) :=
  if !s.flag mStandby then raw
  else
    let at_ := fun (f : Nat → Int) => (List.range 16).map fun i => f (b + 4 + i)
    let m := s.io.anaIn.foldl (fun m e =>
      if e.2.channel = 65535 then m else SMap.ins m e.2.channel (at_ (SMap.get 0 e.2.samples))) raw
    s.io.tdm.foldl (fun m e =>
      if e.2.inFirst = 65535 || (s.bridge (256 + e.1)).mode == 2 || s.locked (256 + e.1) then m
      else (List.range e.2.slots).foldl (fun m k =>
        SMap.ins m (e.2.inFirst + k) (at_ fun v => (SMap.get [] e.2.samples v).getD k 0)) m) m

/-- A flow delivers in block b: its berth is open, or drains no later than that block (R123, R235). -/
def flowOpen (s : State) (b f : Nat) : Bool :=
  256 ≤ f || match SMap.look s.net.rx f with | some x => x.state == 1 || (x.state == 2 && b ≤ x.closeAt) | none => false

/-- Every bridge as block b starts, and as it ends. A FREE bridge whose berth is closed has stopped (R123). -/
def bridgesStart (b : Nat) (s : State) : State :=
  { s with rend.bridges := SMap.mapVals {} (fun f (br : Bridge) =>
      if br.mode ≠ 2 then br else if flowOpen s b f then freeBlock s b f br else stopBridge br) s.rend.bridges }
def bridgesEnd (s : State) : State :=
  let hz := s.hz
  let changed := (s.rend.bridges.filter fun e => e.2.fade = 1 && e.2.pending.isSome).map Prod.fst
  let s := { s with rend.bridges := SMap.mapVals {} (fun _ br => bridgeEnd hz br) s.rend.bridges }
  let owned := fun (c : Nat) => changed.any fun f => match SMap.look s.net.rx f with
    | some x => x.cfg.first ≤ c && c < x.cfg.first + x.cfg.channels
    | none => let t := s.tdm (f - 256); f ≥ 256 && t.inFirst ≤ c && c < t.inFirst + t.slots
  changed.foldl (fun s f => updRx f (fun x => { x with decided := none, freeSeq := none }) s)
    { s with net.jitter := s.net.jitter.filter fun e => !owned e.1 }

/-- Replay channels as block b starts: the weight of each by the granules it finds (R98), and the count of those missing, not
while R101 applies (R107). -/
def replayStart (b : Nat) (s : State) : State :=
  let missing := fun (r : ReplayChan) => (r.needs b).filter fun g => !r.held.contains g
  let away := fun (r : ReplayChan) => r.late == 1 || r.late == 2
  let n := (s.rend.replay.map fun e => (missing e.2).length).foldl (· + ·) 0
  { s with
    rend.replay := s.rend.replay.map fun e => (e.1, { e.2 with late :=
      if (missing e.2).isEmpty then (if away e.2 then 3 else 0) else if away e.2 then 2 else 1 })
    rend.replayLate := if s.noFetch b then s.rend.replayLate else wrapAdd 32 s.rend.replayLate n }

/-- Replay channels as block b ends: a fade back to the live source is over, and granules that the next block does not need
are dropped (R107, R348). -/
def replayEnd (b : Nat) (s : State) : State :=
  { s with rend.replay := (s.rend.replay.filter fun e => match e.2.ending with | some k => b < k | none => true).map fun e =>
      (e.1, { e.2 with held := e.2.held.filter fun g => (e.2.needs (b + 16)).contains g || (e.2.needs (b + 32)).contains g
                       old := if b ≥ e.2.start then none else e.2.old }) }

/-- Input side of a block: what P2 keeps running (R352). -/
def computeInputs (b : Nat) (s : State) : State :=
  let s := bridgesStart b (replayStart b s)
  let r := inputBlock b s
  objectsAfter b (replayEnd b (bridgesEnd (listenBlock b (ownInputs b r.1 r.2) r.2)))

/-- The compute slot of block b while rendering (Table 1.3). -/
def computeBlock (b : Nat) (s : State) : State :=
  let was := s.rend.chanOut
  let lastOut := s.rend.outs.find? fun e => e.block + 16 == b
  let s := bridgesStart b (replayStart b s)
  let r := inputBlock b s
  let s := sillageWrites b r.2
  let lateBefore := fun (s : State) (q : Nat) => (s.quay q).late
  let before := s
  let f := runTaps b s
  let s := f.2
  let s := (List.range 4).foldl (fun s q => sillageEvent b q ((lateBefore s q + 2 ^ 32 - lateBefore before q) % 2 ^ 32) s) s
  let o := (s.liveOutputs f.1).foldl (fun (a : SMap (List Int) × State) k =>
    let w := outputBlock b k (SMap.get [] f.1 k) a.2
    (SMap.put [] a.1 k w.1, w.2)) ([], s)
  let s := o.2
  let d := routeBlock b o.1 (fun c => (SMap.get [] was c).getD 15 0)
    (fun k => match lastOut with | some e => (SMap.get [] e.outs k).getD 15 0 | none => 0) s
  let s := silenceBlock b d.2
  let s := writeLong b s
  let bind := (s.rend.dests.filter fun e => e.2.outKind != 0).map fun e => (e.1, e.2.outKind * 65536 + e.2.outIndex)
  let s := objectsAfter b (replayEnd b (bridgesEnd (listenBlock b (ownInputs b r.1 s) s)))
  { s with rend.outs := (s.rend.outs.filter fun e => e.block + 64 ≥ b) ++
      [{ block := b, outs := o.1, dests := d.1, chans := s.rend.chanOut.map fun e => (e.1, e.2.take 16), spk := s.rend.spkNow,
         bind := bind }] }

/-- The compute slot of block b in P2 (R352): input chains and silence detectors run, and every output word is zero. -/
def dozeBlock (b : Nat) (s : State) : State :=
  let s := silenceBlock b (computeInputs b s)
  { s with rend.outs := (s.rend.outs.filter fun e => e.block + 64 ≥ b) ++ [{ block := b, spk := s.rend.spkNow, paused := true }] }

end Sys2Proof.Machine
end

