-- ==== Sys2Proof/Machine/Emit.lean ====
section
/-!
DEFINITION. The emit slot of a block: network channels, converters and TDM frames (R20, R21, R237, R238), the Heart-to-Top
interpolator (R137), who may send in a pair (R293, R306, R307, R310), the output digest (R294, R295).
-/
namespace Sys2Proof.Machine

/-- The block computed as b, if it is held. -/
def State.outAt (s : State) (b : Nat) : BlockOut :=
  (s.rend.outs.find? fun e => e.block == b).getD { block := b, paused := true }

/-- Sixteen words, zeros where none are listed. -/
def words16 (m : SMap (List Int)) (k : Nat) : List Int :=
  let l := SMap.get [] m k
  (List.range 16).map fun i => l.getD i 0

/-- Heart words of an output (kind × 65,536 + index): the loudspeaker or router destination that holds it (R44, R159). -/
def heartWords (o : BlockOut) (key : Nat) : Option (List Int) :=
  match o.spk.find? fun e => e.2 == key with
  | some e => some (words16 o.outs e.1)
  | none =>
    match o.dests.find? fun e => !isTop e.1 && ownOutput e.1 == some (key / 65536, key % 65536) with
    | some e => some (words16 o.dests e.1)
    | none => (o.bind.find? fun e => !isTop e.1 && e.2 == key).map fun e => words16 o.dests e.1

/-- The Top destination bound to an output in a block. -/
def topHolder (o : BlockOut) (key : Nat) : Option Nat := (o.bind.find? fun e => isTop e.1 && e.2 == key).map Prod.fst

/-- Thirty-two Top words of block b − 16 of a Top destination, and the clamps (R20, R137). -/
def topWords (s : State) (b code : Nat) : List Int × Nat :=
  let x := words16 (s.outAt (b - 32)).dests code ++ words16 (s.outAt (b - 16)).dests code ++ words16 (s.outAt b).dests code
  (List.range 16).foldl (fun (a : List Int × Nat) i =>
    let past := ((x.drop (1 + i)).take 16).reverse
    let next := (x.drop (17 + i)).take 16
    let t := topPair past next
    (a.1 ++ [t.1, t.2.1], a.2 + bit t.2.2)) ([], 0)

/-- Words of an output at the emit slot of block b: 16 at Heart, or 32 at Top of the block before; and whether Top. -/
def emitWords (s : State) (b key : Nat) : Option (List Int × Bool) :=
  match heartWords (s.outAt b) key with
  | some w => some (w, false)
  | none => (topHolder (s.outAt (b - 16)) key).map fun c => ((topWords s b c).1, true)

/-- Rows of a transmit berth: one word per channel for each index (R237, R238). -/
def berthRows (s : State) (b : Nat) (r : TxRec) : List (List Int) :=
  let cols := (List.range r.channels).map fun j =>
    let key := 65536 + r.first + j
    if r.top then match topHolder (s.outAt (b - 16)) key with
      | some c => (topWords s b c).1
      | none => []
    else (heartWords (s.outAt b) key).getD []
  (List.range (if r.top then 32 else 16)).map fun i => cols.map fun c => c.getD i 0

/-- Heart stamp of a packet's last sample. -/
def lastStampOf (s : State) (k : TxPkt) : Nat :=
  let top := match k.berth.bind (SMap.look s.net.tx) with | some x => x.cfg.top | none => false
  if top then (k.upto - 1) / 2 else k.upto - 1

/-- This unit queues a packet of the emit slot of block b (R20, R306 to R308, R310). -/
def sendsPkt (s : State) (b : Nat) (k : TxPkt) : Bool :=
  !s.isPair ||
  (match s.twin.handOver with
   | some (true, h) => lastStampOf s k < h
   | some (false, h) => h ≤ lastStampOf s k
   | none => match s.twin.stopAt with
     | some n => b < n
     | none => s.flag mActive)

/-- Rows a transmit berth takes in a berth loopback with the counter pattern (R400), else the programme. -/
def rowsOf (s : State) (b t v0 : Nat) (r : TxRec) : List (List Int) :=
  if s.boot.loops.any fun l => l.iface == 8 && l.index2 == t && l.pattern == 4 then
    (List.range (if r.top then 32 else 16)).map fun i => (List.range r.channels).map fun c => Config.counterWord (v0 + i) c
  else berthRows s b r

/-- Form the packets of every transmit berth for block b. -/
def formPackets (b : Nat) (s : State) : List (Nat × TxPkt) × State :=
  s.net.tx.foldl (fun (a : List (Nat × TxPkt) × State) e =>
    let r := e.2.cfg
    let blk := if r.top then b - 16 else b
    let v0 := if r.top then 2 * (b + 32) else b + 48
    let o := berthPackets s e.1 blk v0 (if e.2.state = 0 || r.format ≥ 3 then [] else rowsOf s b e.1 v0 r) e.2
    (a.1 ++ o.2, updTx e.1 (fun _ => o.1) a.2)) ([], s)

/-- The receive berth a packet goes to in a berth loopback (R400). -/
def loopBerth (s : State) (k : TxPkt) : Option Nat :=
  match k.berth with
  | some t => (s.boot.loops.find? fun l => l.iface == 8 && l.index2 == t).map Loopback.index
  | none => none

/-- Feed looped packets to their receive berths; the others go on (R400). -/
def feedLoops (ps : List (Nat × TxPkt)) (s : State) : List (Nat × TxPkt) × State :=
  let looped := ps.filterMap fun e => (loopBerth s e.2).map fun b => (b, e)
  (ps.filter fun e => (loopBerth s e.2).isNone,
   looped.foldl (fun s e =>
     let k := e.2.2
     let f : Frame := { da := 0, time := s.ptpNs }
     let ip : Ipv4 := { src := k.src, dst := k.dst, sport := k.sport, dport := k.dport, payload := k.data }
     match SMap.look s.net.rx e.1 with
     | some x => if x.cfg.format < 2 then receiveRtp e.2.1 e.1 f ip s else receivePgx e.2.1 e.1 f ip s
     | none => s) s)

/-- Queue or keep packets (R306): after a claim the kept ones from the last confirmation on go first, in stamp order; a
standby keeps what
it forms for the time of Table 10.1. -/
def deliver (b : Nat) (ps : List (Nat × TxPkt)) (s : State) : State :=
  if !s.isPair then queuePackets ps s
  else
    let go := ps.filter fun e => sendsPkt s b e.2
    let rest := ps.filter fun e => !sendsPkt s b e.2
    if s.flag mActive then
      let first := (s.twin.kept.filter fun e => lastStampOf s e.2 ≥ s.twin.confirm).mergeSort
        fun a b => lastStampOf s a.2 ≤ lastStampOf s b.2
      queuePackets (first ++ go) { s with twin.kept := [] }
    else
      let hold := s.msPeriods s.twin.cfg.retain
      let kept := (s.twin.kept ++ rest).filter fun e => lastStampOf s e.2 + hold ≥ b + 64
      queuePackets go { s with twin.kept := kept }

/-- Weight of the rendered part at the converters and TDM frames in this block (R293). -/
def driveWeight (was now : Bool) (i : Nat) : Int :=
  match was, now with
  | true, true => unity
  | false, false => 0
  | false, true => inWeight i
  | true, false => outWeight i

/-- The rendered part may reach the local outputs (R293). -/
def State.drives (s : State) : Bool := !s.isPair || s.flag mActive || s.twin.cfg.flags.testBit 2

end Sys2Proof.Machine

namespace Sys2Proof

open Machine

/-- An analogue output carries its words (R407, R409, R424). -/
def AnaOut.open_ (s : State) (a : AnaOut) : Bool :=
  s.boot.postPass && a.written && !a.hold && !a.supply && !s.flag mSafe

end Sys2Proof

namespace Sys2Proof.Machine

/-- The DAC words of an output over a block, with what each clamps (R168): the rendered signal at 384 kHz and the short path,
summed, through sat(), to 24 bits. Without a rendered signal there is the short path alone. -/
def dacWords (hz : Nat) (before now short : List Int) : List (Int × Bool) :=
  (List.range (if now.isEmpty && short.isEmpty then 0 else 16 * (384000 / hz))).map fun i =>
    let r := if now.isEmpty then 0 else Config.dacSample before now i
    toL 24 (satH (r + short.getD i 0))

/-- Hand a block's words to the converters: 24-bit words, clamps counted after the short-path sum (Table 15.3), zero scale while
the output is closed. -/
def emitAnalogue (b : Nat) (s : State) : State :=
  (List.range 8).foldl (fun s n =>
    let now := match emitWords s b (2 * 65536 + n) with
      | none => []
      | some (w, top) => w.zipIdx.map fun e => mulC e.1 (driveWeight s.twin.driving s.drives (e.2 / (if top then 2 else 1)))
    let a := s.anaOut n
    let v := dacWords s.hz a.heart now a.short
    let up := a.open_ s && !looped s 9 n
    updAnaOut n (fun a => { a with
      heart := now, words := v.zipIdx.map fun e => if up then a.ramp.word e.2 e.1.1 else 0
      ramp := a.ramp.on v.length
      clamps := holdAdd 65535 a.clamps (v.countP Prod.snd) }) s) s

/-- Hand a block's words to the TDM frames of a leader port: one list of slots per frame; a follower's data output stays low
(R413). -/
def emitTdm (b : Nat) (s : State) : State :=
  (List.range 4).foldl (fun s p =>
    let t := s.tdm p
    if t.role != 1 || looped s 7 p then updTdm p (fun t => { t with words := [] }) s
    else
      let n := if t.top then 32 else 16
      let cols := (List.range t.slots).map fun k =>
        match emitWords s b (3 * 65536 + 16 * p + k) with
        | some (w, top) => (List.range n).map fun i =>
            toL 24 (mulC (w.getD i 0) (driveWeight s.twin.driving s.drives (if top then i / 2 else i)))
        | none => []
      let cl := (cols.map fun c => c.countP Prod.snd).foldl (· + ·) 0
      updTdm p (fun t => { t with
        words := (List.range n).map fun i => cols.map fun c => (c.getD i (0, false)).1
        clamps := holdAdd 65535 t.clamps cl }) s) s

/-- Top clamps of the block (Table 5.10, kind 0). -/
def countTop (b : Nat) (s : State) : State :=
  let codes := ((s.outAt (b - 16)).bind.filter fun e => isTop e.1).map Prod.fst
  let n := (codes.map fun c => (topWords s b c).2).foldl (· + ·) 0
  { s with rend.topSat := wrapAdd 32 s.rend.topSat n }

/-- Router destinations in the code order of Table 6.6. -/
def destCodes (h : Nat) : List Nat := (List.range 0x340).filter fun d => destOk h d

/-- CRC-32 of a block (R294): for each period the loudspeaker outputs, then the router destinations, at Heart. -/
def digestOf (h : Nat) (o : BlockOut) : Nat :=
  let outs := ((List.range 512).filter (outExists h)).map fun k => words16 o.outs k
  let dests := (destCodes h).map fun c => words16 o.dests c
  let cols := outs ++ dests
  crc32 ((List.range 16).flatMap fun i => cols.flatMap fun c => le 4 (wordNat (c.getD i 0)))

/-- Compare the two digests of a block, once both are held (R295): an ADRIFT standby compares only in phase 5 of a warp. -/
def compareDigest (b : Nat) (s : State) : State :=
  let verifying := match s.twin.warp with | some w => w.phase == 5 && w.since ≤ b | none => false
  match SMap.look s.twin.digests b, SMap.look s.twin.partner b with
  | some x, some y =>
    let s := { s with twin.digests := SMap.del s.twin.digests b, twin.partner := SMap.del s.twin.partner b }
    if !s.flag mStandby || (s.flag mAdrift && !verifying) then s
    else if x = y then
      let s := { s with twin.stat.digestsOk := wrapAdd 32 s.twin.stat.digestsOk 1, twin.missRun := 0 }
      { s with twin.warp := s.twin.warp.map fun w =>
          if w.phase = 5 then { w with equal := w.equal + 1, phase := if w.equal + 1 = 16 then 6 else 5 } else w }
    else
      let s := logEvent 16 6 srcDevice [s.twin.epoch, b % 2 ^ 32] { s with
        twin.stat.mismatches := wrapAdd 32 s.twin.stat.mismatches 1, twin.missRun := s.twin.missRun + 1 }
      if verifying then abandonWarp s
      else if s.twin.missRun ≥ 2 then setAdrift 2 { s with twin.missRun := 0 } else s
  | _, _ => s

/-- The digest at the end of the emit slot (R294, R295). -/
def emitDigest (b : Nat) (s : State) : State :=
  let o := s.outAt b
  if !s.isPair || o.paused then s
  else
    let d := digestOf s.media.heart o
    let s := { s with twin.digests := SMap.ins (s.twin.digests.filter fun e => e.1 + 1024 ≥ b) b d }
    compareDigest b (sendTwin 6 true [b, d] [] s)

/-- The emit slot of block b (R17, R20). -/
def emitBlock (b : Nat) (s : State) : State :=
  let f := formPackets b s
  let g := feedLoops f.1 f.2
  let s := deliver b g.1 g.2
  let s := emitTdm b (emitAnalogue b (countTop b s))
  let s := { s with twin.driving := s.drives
                    twin.handOver := match s.twin.handOver with
                      | some (_, h) => if b + 32 ≥ h then none else s.twin.handOver
                      | none => none }
  emitDigest b s

end Sys2Proof.Machine
end

