-- ==== Sys2Proof/Machine/Power.lean ====
section
/-!
DEFINITION. The mode word and power states (chapter 12): SYS_MODE_SET (R346 to R350), replay (R348), DOZE (R352, R353), wakes
(R356), P1 gating (R351), drydown (R359), and the choice of a state (R358).
-/
namespace Sys2Proof.Machine

/-- A set of one flag that Table 12.4 refuses with the flags in force. -/
def refusesSet (w : BitVec 16) (i : Nat) : Bool :=
  let f := fun k => w.getLsbD k
  !f i && ((i == mLive && f mLoop) || (i == mLoop && (f mLive || f mActive || f mDoze)) || (i == mDoze && f mLoop))

/-- The event a set waits for (Table 12.4 D6, D19; R357): 0 the wake, 1 the end of a SWEEP run, 2 the resume of rendering. -/
def waitsFor (w : BitVec 16) (run waking : Bool) (i : Nat) : Option Nat :=
  let f := fun k => w.getLsbD k
  if (i == mLive || i == mDark) && f mDoze then some 0
  else if i == mDoze && f mSweep && run && !f mDoze then some 1
  else if i == mDoze && waking then some 2
  else none

/-- What a request makes of the mode word: the word, the resume flag (1 LIVE, 2 DARK), whether it wakes, the bits that wait and
their events, the bits refused. -/
structure ModeOut where
  word   : BitVec 16
  resume : Nat
  wake   : Bool := false
  waits  : List (Nat × Nat) := []
  left   : List Nat := []

/-- Set one flag that nothing refuses or defers: LIVE and DARK replace each other, DOZE sets DARK (note 1). -/
def setIn (w : BitVec 16) (i : Nat) : BitVec 16 :=
  if i = mLive then withFlag (withFlag w mLive true) mDark false
  else if i = mDark then withFlag (withFlag w mDark true) mLive false
  else if i = mDoze then withFlag (withFlag (withFlag w mDoze true) mDark true) mLive false
  else withFlag w i true

/-- The resume flag a DOZE entry keeps (notes 1 and 3). -/
def resumeOf (w : BitVec 16) : Nat := if w.getLsbD mLive then 1 else 2

/-- One set of a request (R350). -/
def modeSet (run waking : Bool) (o : ModeOut) (i : Nat) : ModeOut :=
  if refusesSet o.word i then { o with left := o.left ++ [i] }
  else match waitsFor o.word run waking i with
  | some 0 => { o with resume := if i = mLive then 1 else 2, waits := o.waits ++ [(0, i)] }
  | some e => { o with waits := o.waits ++ [(e, i)] }
  | none =>
    if i = mDoze && !o.word.getLsbD mDoze then { o with word := setIn o.word i, resume := resumeOf o.word }
    else { o with word := setIn o.word i }

/-- Clears, then sets in ascending order (R350). A request that clears DOZE is a wake: DOZE and DARK stay until the resume,
and LIVE or DARK becomes the resume flag. -/
def modeOnce (w : BitVec 16) (resume : Nat) (run waking : Bool) (set clear : Nat) : ModeOut :=
  let wakes := w.getLsbD mDoze && clear.testBit mDoze
  let o := ((List.range 14).filter fun i => set.testBit i).foldl (modeSet run waking)
    { word := w &&& ~~~(BitVec.ofNat 16 clear), resume := resume }
  if wakes && !o.word.getLsbD mDoze then
    { o with word := setIn o.word mDoze, wake := true
             resume := if o.word.getLsbD mLive then 1 else if set.testBit mDark then 2 else resume }
  else o

/-- As modeOnce, with LIVE and DARK one unit: if a set of either is refused, both keep their value (R347). -/
def modeOutcome (w : BitVec 16) (resume : Nat) (run waking : Bool) (set clear : Nat) : ModeOut :=
  let o := modeOnce w resume run waking set clear
  if o.left.any fun i => i ≤ 1 then
    let o2 := modeOnce w resume run waking (set / 4 * 4) (clear / 4 * 4)
    { o2 with left := ([0, 1].filter fun i => (set ||| clear).testBit i) ++ o2.left }
  else o

/-- A wake is under way (R357). -/
def State.waking (s : State) : Bool := s.power.wake != .none || s.power.resumeTick.isSome

/-- The outcome of a SYS_MODE_SET against the state's mode word. -/
def State.modeOf (s : State) (set clear : Nat) : ModeOut :=
  modeOutcome s.power.word s.power.resume s.nose.sweep.isSome s.waking set clear

/-- Bits a host may name: LIVE to REPLAY, LOOPBACK, DOZE (R346). -/
def hostBits : Nat := 0x303F

/-- SYS_MODE_SET at acceptance: R346, then Table 12.4 against the word expected at its block (R347). -/
def checkModeSet (p : Bytes) (s expected : State) : Option Status :=
  let set := getU p 0 2
  let clear := getU p 2 2
  let map := replayOf p
  let o := expected.modeOf set clear
  if !modePayloadOk p || set &&& clear != 0 || (set ||| clear) &&& (0xFFFF - hostBits) != 0 then some .badParam
  else if !map.isEmpty && !set.testBit mReplay then some .badParam
  else if map.any fun e => e.channel ≥ chanCount s.heartNext then some .badParam
  else if (map.map ReplayEntry.channel).eraseDups.length != map.length then some .badParam
  else if s.isPair && (set ||| clear).testBit mLoop && (set ||| clear) != 2 ^ mLoop then some .badParam
  else if !wordOk s.isPair o.word then some .badParam
  else if !o.left.isEmpty then some .refusedMode
  else none

/-- Units of a SYS_MODE_SET (R347). -/
def modeUnits (p : Bytes) : List UnitKey :=
  let m := getU p 0 2 ||| getU p 2 2
  (((List.range 16).filter fun i => m.testBit i).map fun i => (⟨.sysModeSet, 0, if i = 1 then 0 else i⟩ : UnitKey)).eraseDups

/-- The masks of a command without the bits of the units it lost. -/
def modeMasks (c : Cmd) : Nat × Nat :=
  let keep := fun (m : Nat) => (List.range 16).foldl (fun a i =>
    if m.testBit i && !c.lost.any (fun u => u.group == (if i = 1 then 0 else i)) then a + 2 ^ i else a) 0
  (keep (getU c.payload 0 2), keep (getU c.payload 2 2))

/-- Bits a SYS_MODE_SET lost, as its body gives them (R347). -/
def modeLost (c : Cmd) : Nat :=
  let m := modeMasks c
  (getU c.payload 0 2 ||| getU c.payload 2 2) - (m.1 ||| m.2)

/-- Power-state event (Table 11.18). -/
def setPstate (n : Nat) (s : State) : State :=
  if s.power.pstate = n then s else logEvent 17 0 srcDevice [s.power.pstate, n] { s with power.pstate := n }

/-- Replay from block b (R348): a map replaces the one in force; unmapped channels return to their live sources. The windows of
its first two blocks opened before it, and their granules are there (R107). -/
def startReplay (b : Nat) (map : List ReplayEntry) (s : State) : State :=
  let kept := s.rend.replay.map fun e => (e.1, if e.2.ending.isSome then e.2 else { e.2 with ending := some b })
  { s with rend.replay := map.foldl (fun m e =>
      let old := match SMap.look s.rend.replay e.channel with
        | some r => if r.ending.isSome then none else some (r.entry, r.start)
        | none => none
      let r : ReplayChan := { entry := e, start := b, old := old }
      SMap.ins m e.channel { r with held := (r.needs b ++ r.needs (b + 16)).eraseDups }) kept }

/-- DARK has come into force: a SWEEP run is aborted (note 2). -/
def darkRises (old : BitVec 16) (s : State) : State :=
  if s.flag mDark && !old.getLsbD mDark then sweepAbort s else s

/-- DOZE from block b (R352): the resume flag is kept, every ph is driven to 0, the Nose stops. LOOPBACK in force refuses it
(Table 12.4). -/
def enterDoze (b src : Nat) (drydown : Bool) (s : State) : State :=
  if s.flag mDoze || s.flag mSafe || s.flag mLoop then s
  else
    let old := s.power.word
    let s := setWord (setIn old mDoze) src { s with
      power.resume := resumeOf old, power.stage := 1, power.dozeAt := b, power.byDrydown := drydown, power.lastEntry := b
      power.entry := s.power.policy
      power.wake := .none, power.wakeHeld := false, power.resumeTick := none }
    noseFollow (darkRises old s)

/-- Wake events and the states they wake from (R356). -/
def wakesFrom (s : State) (k : WakeKind) (stage : Nat) : Bool :=
  match k with
  | .none => false
  | .wakeN => stage == 2 || stage == 3 || stage == 4
  | .timer => stage == 3 || stage == 4
  | .activity => stage == 2 && s.power.byDrydown
  | .command => stage == 2

/-- Wake reason codes (Table 12.11). -/
def wakeCode : WakeKind → Nat
  | .none => 0
  | .wakeN => 1
  | .timer => 2
  | .activity => 3
  | .command => 4

/-- The resume tick W (R353): the next tick whose compute slot has not begun; in a pair at least two ticks ahead. -/
def State.resumeAt (s : State) : Nat := if s.isPair then max s.rTen (ceilTo 64 s.nextBlock) else ceilTo 64 s.nextBlock

/-- A wake starts (R353): from P2 with its resume tick, which the active of a pair forwards. -/
def startWake (k : WakeKind) (s : State) : State :=
  let s := { s with power.wake := k, power.wakeReason := wakeCode k, power.nextReason := wakeCode k }
  if s.power.stage = 2 then
    let w := s.resumeAt
    forwardDecision [2, w] { s with power.resumeTick := some w }
  else s

/-- A wake event (R353, R356, R357). During an entry to a state it is held; the wake timer counts from the entry. A standby resumes as
the active forwards. -/
def wakeUp (k : WakeKind) (s : State) : State :=
  if s.flag mStandby || s.waking then s
  else if s.power.stage = 1 then
    (if s.power.wakeHeld || k == .timer || k == .none || (k == .activity && !s.power.byDrydown) then s
     else { s with power.wakeHeld := true, power.wake := k })
  else if !wakesFrom s k s.power.stage then s
  else startWake k s

/-- The word a request leaves keeps the invariants of R344: where it would break them, LIVE, DARK and DOZE keep their values. -/
def legalWord (pair : Bool) (old new : BitVec 16) : BitVec 16 :=
  let kept := (new &&& ~~~0x2003) ||| (old &&& 0x2003)
  if wordOk pair new then new else if wordOk pair kept then kept else old

/-- A SYS_MODE_SET takes effect at block b (R347 to R350). -/
def applyModeSet (b : Nat) (c : Cmd) (s : State) : State :=
  if s.flag mSafe then s
  else
    let m := modeMasks c
    let old := s.power.word
    let o := s.modeOf m.1 m.2
    let src := match c.origin with | .master n => n | _ => srcDevice
    let doze := o.word.getLsbD mDoze && !old.getLsbD mDoze
    let w0 := if doze then withFlag (withFlag o.word mDoze false) mLive (o.resume == 1) else o.word
    let w0 := if doze then withFlag w0 mDark (o.resume == 2) else w0
    let s := setWord (legalWord s.isPair old (if doze then w0 else o.word)) src { s with power.resume := if doze then s.power.resume else o.resume }
    let s := if doze then enterDoze b src false s else s
    let events := (o.waits.map Prod.fst).eraseDups
    let waits := events.map fun e => (e, c.apply, BitVec.ofNat 16 ((o.waits.filter fun q => q.1 == e).foldl (fun a q => a + 2 ^ q.2) 0), src)
    let s := { s with power.deferred := (if m.2.testBit mDoze then s.power.deferred.filter (fun e => e.1 == 0) else s.power.deferred) ++ waits }
    let s := if m.1.testBit mReplay && s.flag mReplay then startReplay b (replayOf c.payload) s
      else if m.2.testBit mReplay && old.getLsbD mReplay then startReplay b [] s else s
    let s := if s.flag mLoop && !old.getLsbD mLoop then setAdrift 6 s else s
    let s := noseFollow (darkRises old s)
    if o.wake then wakeUp .command s else s

/-- Mode bits that waited for an event take effect (Table 12.4 D6, D19; R357). -/
def runDeferred (event : Nat) (s : State) : State :=
  let mine := s.power.deferred.filter fun e => e.1 == event
  let s := { s with power.deferred := s.power.deferred.filter fun e => e.1 != event }
  if event = 0 then s
  else mine.foldl (fun s e => if e.2.2.1.getLsbD mDoze then enterDoze s.toCompute e.2.2.2 false s else s) s

/-- SYS_MODE_GET (R348): Table 12.5. `pend` are the commands not yet in effect. -/
def modeGetBody (s : State) : Bytes :=
  let pend := (s.host.cmds.filter fun c => c.op == .sysModeSet && !c.applied).map fun c =>
    (c.apply, getU c.payload 0 2, getU c.payload 2 2, originNumber c.origin, false)
  let defer := s.power.deferred.map fun e => (e.2.1, e.2.2.1.toNat, 0, e.2.2.2, true)
  let all := ((defer ++ pend).mergeSort fun a b => a.1 ≤ b.1).take 16
  le 2 s.power.word.toNat ++ le 2 (if s.flag mDoze then s.power.resume else 0) ++ le 1 s.power.pstate ++ le 1 all.length ++
  zeros 2 ++ le 8 s.idx ++
  all.flatMap fun e => le 8 e.1 ++ le 2 e.2.1 ++ le 2 e.2.2.1 ++ le 1 e.2.2.2.1 ++ le 1 (bit e.2.2.2.2) ++ zeros 2

/-- Every ph is 0 (R352). -/
def allDown (s : State) : Bool := (s.rend.mutes.all fun e => e.2.ph == 0) && (s.rend.dests.all fun e => e.2.ramp.ph == 0)

/-- The part of the state that outlives a loss of the main rails or a reset: flash and fuses, the lantern, pins; and the
model's own queue and counter of free values. -/
def coldState (s : State) : State :=
  { State.reset with
    pending := s.pending, media.fresh := s.media.fresh
    boot.records := s.boot.records, boot.images := s.boot.images, boot.creds := s.boot.creds, boot.floor := s.boot.floor
    boot.revoked := s.boot.revoked, boot.pattern := s.boot.pattern, boot.boots := s.boot.boots, boot.tap := s.boot.tap
    power.holdCount := s.power.holdCount, power.vkeep := s.power.vkeep, power.pwrEn := s.power.pwrEn
    power.pgood := s.power.pgood, power.nextReason := s.power.nextReason, power.timer := s.power.timer
    host.perst := s.host.perst }

/-- States excluded at an entry (Table 12.10): what excludes P3 apart from SHALLOW, then P4. -/
def excludesDeep (s : State) : Bool :=
  !s.power.entry.flags.testBit 2 || s.flag mActive || s.flag mStandby ||
  (s.power.byDrydown && !s.power.entry.flags.testBit 4) ||
  !s.host.transfers.isEmpty || s.boot.staging.isSome || s.host.resetDue
def excludesP4 (s : State) : Bool :=
  !s.power.entry.flags.testBit 3 || excludesDeep s || (s.io.loops.any fun e => e.2.mode != 0)

/-- The state chosen at block P (R358), by the policy that stood at A (R357). -/
def choosePower (s : State) : Nat :=
  let p := s.power.entry
  if !excludesP4 s && 1800000 + 1000 * p.boardRamp ≤ p.wakeTol && p.idleExp ≥ 120000 then 4
  else if !excludesDeep s && !s.flag mShallow && 60000 ≤ p.wakeTol && p.idleExp ≥ 5000 then 3
  else 2

/-- Gate and ungate every Quay's tap engine at once (Table 12.6). -/
def gateQuays (on : Bool) (s : State) : State :=
  (List.range 4).foldl (fun s q => updQuay q (fun u =>
    if on then { u with draining := !u.gated, waiting := [] } else { u with gated := false, draining := false }) s) s

/-- Every channel of DRAM enters self-refresh; those that enter are counted (R374). -/
def allAsleep (s : State) : State :=
  let asleep := (List.range 8).countP fun c => s.mem.selfRefresh.getLsbD c
  { s with mem.selfRefresh := 0xFF, mem.stat := { s.mem.stat with srEntries := wrapAdd 32 s.mem.stat.srEntries (8 - asleep) } }

/-- Entry to P2: DRAM in self-refresh, tap engines gated, the Nose stopped (R352, R374). -/
def enterP2 (s : State) : State :=
  let s := gateQuays true (allAsleep s)
  setPstate 2 { s with power.stage := 2, power.p2 := wrapAdd 32 s.power.p2 1, power.gated := 0x10F }

/-- Entry to P3 (R354, Table 12.6): links down, the servo in HOLD with COAST set, local outputs off; what the resume image
does not keep is lost; the newest 4,096 log entries are kept. -/
def enterP3 (s : State) : State :=
  let s := enterHold 3 s
  let s := setFlag mCoast true srcDevice s
  let s := setPstate 3 (allAsleep s)
  let s := { s with
    net.ports := SMap.mapVals {} (fun _ (q : Port) => { q with stat := { q.stat with link := 0 }, queued := [] }) s.net.ports
    net.jitter := [], twin.lanes := 0, twin.moorUp := false }
  discardRender 0 { s with
    power.stage := 3, power.p3 := wrapAdd 32 s.power.p3 1, power.timer := s.power.entry.wakeTimer, media.running := false
    host.ready := false, host.log := s.host.log.drop (s.host.log.length - 4096), rend.store := [], nose.blotter := []
    nose.blotMask := 0, nose.accs := []
    io.anaOut := SMap.mapVals {} (fun _ (a : AnaOut) => { a with heart := [], words := [], short := [] }) s.io.anaOut
    io.tdm := SMap.mapVals {} (fun _ (t : Tdm) => { t with words := [] }) s.io.tdm }

/-- Entry to P4 (R355, Table 12.8): the hold count rises, PWR_EN goes low, the main rails are removed. -/
def enterP4 (s : State) : State :=
  let s := { s with power.holdCount := wrapAdd 32 s.power.holdCount 1, power.pwrEn := false, power.pgood := false
                    power.timer := s.power.entry.wakeTimer, power.nextReason := 0 }
  let kept := s.power
  let t := coldState s
  { t with power.stage := 4, power.wakeHeld := kept.wakeHeld, power.wake := .none }

/-- A warp in progress starts again once rendering has resumed (Table 12.4 note 16). -/
def pauseWarp (s : State) : State :=
  if s.twin.warp.isSome then { s with twin.warp := none, twin.stash := [], twin.retry := s.flag mStandby || s.twin.retry } else s

/-- DOZE_PAUSE (R352): at the first block boundary with every ph at 0 rendering pauses and the state is chosen. A wake that
came during the entry starts at once (R357). -/
def dozePause (s : State) : State :=
  if s.power.stage ≠ 1 || s.flag mSafe || !allDown s then s
  else
    let held := if s.power.wakeHeld then some s.power.wake else none
    let n := choosePower s
    let s := { pauseWarp s with power.chosen := n, power.wake := .none, power.wakeHeld := false }
    let s := if n = 4 then enterP4 s else if n = 3 then enterP3 s else enterP2 s
    match held with
    | some k => if s.flag mStandby then s else startWake k s
    | none => s
def execDozePause (s : State) : Host.Outcome State Fault Refusal := .next (dozePause s)

/-- DOZE_RESUME (R353): at tick W rendering restarts, the states of stages 2 to 10 are zero (the limiter's gain too), DOZE clears, the
resume flag is restored. -/
def dozeResume (w : Nat) (s : State) : State :=
  let slots := s.scene.stats.filterMap fun e => e.2.slot
  let marks := slots.foldl (fun m n => SMap.ins m n (w + 4)) ([] : SMap Nat)
  let quiet := fun (t : SMap (SMap Tap)) => t.map fun e => (e.1, e.2.map fun f => (f.1, { f.2 with y := 0, yOld := 0 }))
  let out := fun (_ : Nat) (c : OutChain) => { c with hist := [], base := {}, bq := [], bqOut := [], env := 0, limG := 0 }
  let s := { s with
    rend.nearMark := marks, rend.longMark := marks, rend.taps := quiet s.rend.taps, rend.nextTaps := quiet s.rend.nextTaps
    rend.outChains := SMap.mapVals {} out s.rend.outChains
    rend.markers := SMap.mapVals {} (fun _ (m : MarkState) => { m with bands := [], chips := [], p := [], g := [], gate := false }) s.rend.markers
    power.stage := 0, power.resumeTick := none, power.wake := .none, power.lastWake := w, power.gated := 0
    power.byDrydown := false, mem.selfRefresh := 0 }
  let live : Bool := s.power.resume == 1
  let word := setIn (withFlag s.power.word mDoze false) (if live then mLive else mDark)
  let s := setWord word srcDevice { s with power.resume := 0 }
  runDeferred 2 (runDeferred 0 (noseFollow (setPstate 0 (gateQuays false s))))
def execDozeResume (s : State) : Host.Outcome State Fault Refusal :=
  match s.power.resumeTick with
  | some w => if s.power.stage = 2 && !s.flag mSafe && s.nextBlock ≤ w + 16 && w + s.media.catchL + 16 ≤ s.idx then .next (dozeResume w s) else .next s
  | none => .next s

/-- The glitch filter of WAKE_N in ns (R26, Table 16.12). -/
def wakeFilter : Nat := min 1000 Config.wakeFilter

/-- Widths of a low on WAKE_N in ns: those below the first are rejected, those from the second on are seen. In P4 the lantern
samples at 1 kHz; elsewhere the filter setting and three fabric cycles of 1.2 GHz count (R356, Table 16.12). -/
def wakeWidths (s : State) : Nat × Nat := if s.power.stage = 4 then (1000000, 2000000) else (wakeFilter, wakeFilter + 3)

/-- WAKE_N_LOW (R356): between the two widths the sampling decides, which the manual leaves open (assumption 7). -/
def execWakeNLow (ns : Nat) (s : State) : Host.Outcome State Fault Refusal :=
  if (wakeWidths s).2 ≤ ns then .next (wakeUp .wakeN s)
  else if ns < (wakeWidths s).1 then .next s
  else
    let t := { s with media.fresh := s.media.fresh + 1 }
    if Config.freeNat s.media.fresh % 2 = 1 then .next (wakeUp .wakeN t) else .next t

/-- WAKE_TIMER (R356): the timer armed at the entry expires. -/
def execWakeTimer (s : State) : Host.Outcome State Fault Refusal :=
  if s.power.timer = 0 then .next s else .next (wakeUp .timer s)

/-- Blocks of the device with nothing to do (R351): tap engines, shaping engines, the Nose; berth banks. A router destination
is computed on the Quay of its code modulo 4. -/
def idleBlocks (s : State) : BitVec 16 :=
  let reads := fun q => (tapList s.rend.taps ++ tapList s.rend.nextTaps).any fun e => e.2.1 / 128 == q
  let shapes := fun q => (s.liveChannels.any fun c => c % 4 == q) ||
    (s.scene.speakers.any fun e => e.1 / 128 == q && e.2.enabled) ||
    ((s.rend.xpoints.map Xpoint.dest).any fun d => d % 4 == q)
  BitVec.ofNat 16 ((List.range 4).foldl (fun a q => a + bit (!reads q) q + bit (!shapes q) (4 + q)) 0 + bit (s.nose.dev.state == 0) 8)
def idleBanks (s : State) : BitVec 16 :=
  BitVec.ofNat 16 ((List.range 8).foldl (fun a j => a + bit (!s.net.rx.any fun e => e.1 / 32 == j && e.2.state != 0) j) 0 +
    (List.range 4).foldl (fun a j => a + bit (!s.net.tx.any fun e => e.1 / 32 == j && e.2.state != 0) (8 + j)) 0)

/-- P1 holds while a block is gated (R351). -/
def trimState (s : State) : State :=
  if s.power.stage ≠ 0 then s else setPstate (if s.power.gated = 0 && s.power.banks = 0 then 0 else 1) s

/-- Ungate every block that has work (R351): before the snapshot or block that needs it. In P2 the tap engines and the Nose stay gated
whatever there is to do (Table 12.6). -/
def ungateNeeded (s : State) : State :=
  if s.power.stage > 2 then s
  else
    let g := s.power.gated &&& (if s.power.stage = 2 then idleBlocks s ||| 0x10F else idleBlocks s)
    let s := (List.range 4).foldl (fun s q =>
      if (s.power.gated &&& ~~~g).getLsbD q then updQuay q (fun u => { u with gated := false, draining := false }) s else s) s
    trimState { s with power.gated := g, power.banks := s.power.banks &&& idleBanks s }

/-- P1_GATE_CHANGE (R351): every idle block is gated, every other ungated; a tap engine drains first (R105). -/
def execP1GateChange (s : State) : Host.Outcome State Fault Refusal :=
  if s.power.stage ≠ 0 || s.flag mSafe || !s.boot.postDone then .next (ungateNeeded s)
  else if !s.power.policy.flags.testBit 0 then
    .next (trimState { gateQuays false s with power.gated := 0, power.banks := 0 })
  else
    let want := idleBlocks s
    let s := ungateNeeded s
    let s := (List.range 4).foldl (fun s q =>
      if want.getLsbD q && !s.power.gated.getLsbD q then updQuay q (fun u => { u with draining := true, waiting := [] }) s else s) s
    .next (trimState { s with power.gated := want, power.banks := idleBanks s })

/-- Channels counted for drydown (Table 6.11), and whether a channel is SILENT: a standby uses the active's states (R166, R359). -/
def State.counted (s : State) : List Nat :=
  (List.range (chanCount s.media.heart)).filter fun c => (SMap.get ({} : Silence) s.rend.silence c).flags.testBit 0
def State.silentAt (s : State) (c : Nat) : Bool :=
  if s.flag mStandby then s.twin.manSilent.contains c else (SMap.get ({} : Silence) s.rend.silence c).silent
def drydownQuiet (s : State) : Bool := !s.counted.isEmpty && s.counted.all s.silentAt

/-- Drydown time is counted (R359). -/
def drydownCounts (s : State) : Bool :=
  s.power.policy.flags.testBit 1 && (s.flag mLive || s.flag mDark) && s.nose.sweep.isNone && !s.flag mLoop && !s.flag mDoze &&
  !s.flag mSafe && drydownQuiet s

/-- The drydown count after the silence tests of a block (R359); a counted channel that has become ACTIVE since `was` wakes a drydown's
P2 (R356). -/
def drydownStep (was s : State) : State :=
  let s := if s.counted.any fun c => was.silentAt c && !s.silentAt c then wakeUp .activity s else s
  if drydownCounts s then
    match s.power.dryFrom with
    | some _ => s
    | none => { s with power.dryFrom := some s.idx }
  else { s with power.dryFrom := none }

/-- Seconds until drydown; none while not counting (Table 12.11). -/
def dryLeft (s : State) : Option Nat :=
  s.power.dryFrom.map fun i => (s.power.policy.dryTime * s.hz + i - s.idx + s.hz - 1) / s.hz

/-- DRYDOWN (R359): dry_time is reached, and DOZE is due at the next block boundary; in a pair at the boundary the active
forwards. -/
def execDrydown (s : State) : Host.Outcome State Fault Refusal :=
  match s.power.dryFrom with
  | some i =>
    if s.decides && s.power.dryAt.isNone && drydownCounts s && i + s.power.policy.dryTime * s.hz ≤ s.idx then
      let b := if s.isPair then s.rTen else s.nextBlock
      .next (forwardDecision [1, b] { s with power.dryAt := some b, power.dryRaised := s.idx })
    else .next s
  | none => .next s

/-- Drydown's DOZE was raised after the settle point, A + L − 48, of the commands of its block, and acts after them (R333, R350). -/
def drydownLate (s : State) : Bool :=
  match s.power.dryAt with
  | some k => k + s.media.catchL < s.power.dryRaised + 48
  | none => false

/-- Drydown's DOZE at block b. -/
def drydownBlock (b : Nat) (s : State) : State :=
  match s.power.dryAt with
  | some k => if k ≤ b then enterDoze b srcDevice true { s with power.dryAt := none } else s
  | none => s

/-- PWR_POLICY (R358). -/
def doPwrPolicy (p : Bytes) (s : State) : Reply :=
  if !powerPayloadOk p then no .badParam
  else if maskOf p = 0 then .done s (s.power.policy.bytes 0)
  else .done { s with power.policy := s.power.policy.write (maskOf p) p } []

/-- PWR_STAT (R360): Table 12.11. -/
def pwrStatBody (s : State) : Bytes :=
  le 1 s.power.pstate ++ le 1 s.power.chosen ++ le 2 s.power.gated.toNat ++ le 2 s.power.banks.toNat ++ le 1 s.power.wakeReason ++
  zeros 1 ++ le 4 ((dryLeft s).getD 0xFFFFFFFF) ++ le 4 s.power.holdCount ++ le 4 s.power.p2 ++ le 4 s.power.p3 ++
  le 4 s.power.resumeFails ++ zeros 4 ++ le 8 s.power.lastEntry ++ le 8 s.power.lastWake

/-- SWEEP_END (R211): the run ends, and a DOZE that waited for it takes effect (note 6). -/
def execSweepEnd (s : State) : Host.Outcome State Fault Refusal :=
  match sweepOver s with
  | some aborted => .next (runDeferred 1 (sweepFinish aborted s))
  | none => .next s

end Sys2Proof.Machine
end

