-- ==== Sys2Proof/Machine/Safe.lean ====
section
/-!
DEFINITION. Entry to SAFE (R394, Table 14.6), the release of an active unit (R307), and the answers of commands that go with
them.
-/
namespace Sys2Proof.Machine

/-- The body of a SUPERSEDED answer (R335, R347): the bits or groups lost, else the count of units lost. -/
def lostBody (c : Cmd) : Bytes :=
  if c.op == .sysModeSet then le 4 (modeLost c)
  else if isSelect c.op then le 4 (c.lost.foldl (fun m u => m ||| 2 ^ u.group) 0)
  else le 4 c.lost.length

/-- Answer a command of a master that has not been answered (R333). -/
def answerCmd (c : Cmd) (st : Status) (body : Bytes) (s : State) : State :=
  match c.origin with
  | .master m =>
    if c.answered then s
    else respond { opcode := c.op.code, master := m, status := st, seq := c.seq, apply := c.apply, accepted := c.accepted,
                   body := body } s
  | _ => s

/-- The block whose emit slot begins at the next block boundary. -/
def State.nextEmit (s : State) : Nat := (s.idx / 16 + 1) * 16 - s.media.catchL - 32

/-- The next block boundary. -/
def State.nextBoundary (s : State) : Nat := (s.idx / 16 + 1) * 16

/-- An active unit releases its role (R307): the record names the block from which it stops sending. -/
def releaseRole (s : State) : State :=
  if s.flag mActive then
    let n := s.nextEmit
    sendTwin 10 true [n] [] (sendTwin 10 false [n] []
      (setFlag mActive false srcDevice { s with twin.stopAt := some n }))
  else s

/-- Commands of a crane transfer that a stop ends (R325, R366). -/
def endTransfers (f : Transfer → Bool) (st : Status) (s : State) : State :=
  let mine := s.host.transfers.filter f
  let s := { s with host.transfers := s.host.transfers.filter fun t => !f t }
  mine.foldl (fun s t =>
    let s := updMaster t.req.master.val (fun x => if x.chunk = some t.id then { x with chunk := none, chunkData := [] } else x) s
    respond { opcode := t.op.code, master := t.req.master.val, status := st, seq := t.req.seq, accepted := t.accepted }
      (dropSeq t.req.master.val t.req.seq s)) s

/-- Commands not yet in effect are discarded, each unanswered one answered SUPERSEDED with every unit lost (R394). -/
def discardCmds (s : State) : State :=
  let gone := s.host.cmds.filter fun c => !c.applied
  gone.foldl (fun s c => answerCmd c .superseded (lostBody { c with lost := c.units }) s)
    { s with host.cmds := s.host.cmds.filter fun c => c.applied }

/-- Every berth closes: transmit berths at once, receive berths with their drain (R235, R394). Frames of service berths already
queued still leave: a release among them (R307). -/
def closeAll (s : State) : State :=
  let b := s.toCompute
  let now := s.net.tx.foldl (fun s e => settleOwed .berthClose (512 + e.1) .ok [] s) s
  { now with
    net.tx := now.net.tx.map fun e => (e.1, { e.2 with state := 0, part := [] })
    net.ports := SMap.mapVals {} (fun _ (q : Port) => { q with queued := q.queued.filter fun k => !(k.berth.isSome && k.queue ≥ 6) }) now.net.ports
    net.rx := now.net.rx.map fun e => (e.1, if e.2.state = 1 then { e.2 with state := 2, closeAt := b } else e.2) }

/-- Step of a loop's fall in SAFE (R410): the configured one, or what brings it to 0 mA within 250 ms. -/
def safeStep (l : Loop) : Nat :=
  let n := 250 / l.interval
  max l.step (if n = 0 then l.out else (l.out + n - 1) / n)

/-- The words of a DAC from the entry to SAFE on: down to zero scale over 1 ms (R394), at once in a span change (R408). -/
def safeWords (a : AnaOut) : List Int :=
  (List.range 384).map fun j =>
    if a.change.isSome then 0 else DieRamp.word (.limit 1) j (a.words.getLastD 0)

/-- Changes accepted, answered, and waiting for a boundary or an event. -/
def dropWaiting (s : State) : State :=
  { s with
    media.newHeart := none, media.newCatch := none, time.newDev := none, time.newRef := none, time.newCfgs := []
    time.servo.pending := none, twin.newCfg := none, twin.handOver := none, twin.claimAt := none, twin.warp := none
    twin.retry := false, twin.asked := false, twin.stash := [], twin.followAt := none, twin.decisions := [], twin.kept := []
    power.deferred := [], power.dryAt := none, power.dryFrom := none
    power.resumeTick := none, power.wake := .none, power.wakeHeld := false, host.clearDue := false, nose.sweep := none
    mem.clearing := false
    time.trigs := SMap.mapVals {} (fun _ (t : Trigger) => { t with next := none, newNext := none, pulse := none }) s.time.trigs
    rend.shorts := SMap.mapVals {} (fun _ (r : ShortRoute) => { r with enabled := false }) s.rend.shorts
    io.loops := SMap.mapVals {} (fun _ (l : Loop) => { l with target := 0, fall := safeStep l }) s.io.loops
    io.anaOut := SMap.mapVals {} (fun _ (a : AnaOut) => { a with
      change := none, waiting := none, ramp := .steady, short := [], words := safeWords a }) s.io.anaOut
    boot.loops := s.boot.loops.map fun l => { l with stopping := true } }

/-- Window masters' rings are ready with every index at 0 (R319); held responses go out. -/
def readyRings (s : State) : State :=
  [0, 1, 2, 3].foldl (fun s m =>
    if s.hasMaster m then
      flushHeld 64 m (updMaster m (fun x => { x with
        reqHead := 0, reqTail := 0, rspHead := 0, rspTail := 0, chkDev := 0, chkHost := 0, ready := true, ringErr := false
        resetting := false, bulk := [], chunk := none, chunkData := [] }) s)
    else s) s

/-- Entry to SAFE with a reason of Table 14.6 (R394, R395, Table 12.1); only a reset leaves it. -/
def enterSafe (reason : Nat) (s : State) : State :=
  if s.flag mSafe then s
  else
    let s := releaseRole (readyRings s)
    let s := discardCmds s
    let s := endTransfers (fun t => t.out) .busy (endTransfers (fun t => !t.out) .superseded s)
    let s := closeAll (dropWaiting s)
    let s := setWord (BitVec.ofNat 16 (2 ^ mSafe)) srcDevice s
    let s := logEvent 9 0 srcDevice [reason] s
    let s := gateQuays true (noseFollow s)
    let s := setPstate 0 s
    { s with
      media.running := false, power.stage := 0, power.resume := 0, host.ready := true, io.uart := { use := 1 }
      boot.report := { s.boot.report with
        result := if s.boot.postPass then 3 else 2, reason := reason
        faultIndex := if s.boot.postPass then s.idx else 0 } }

/-- A fatal fault with its address and master (R395). -/
def fatalFault (reason addr : Nat) (master : Nat) (s : State) : State :=
  if s.flag mSafe then s
  else enterSafe reason { s with boot.report := { s.boot.report with faultAddr := addr, faultMaster := master } }

/-- The fabric and memories are powered and out of reset, and rendering rails are up. -/
def State.alive (s : State) : Bool := s.boot.up && s.power.stage < 3

end Sys2Proof.Machine
end

