-- ==== Sys2Proof/Machine/Memory.lean ====
section
/-!
DEFINITION. Fabric, SRAM and DRAM (chapter 13): decode errors, port resets, ECC outcomes, training and the rate ladder,
SHALLOW, refresh, throttling, the memory status.
-/
namespace Sys2Proof.Machine

/-- Target of a fabric address (Table 13.2); 9 is the default target. -/
def fabricTarget (addr : Nat) : Nat :=
  let a := addr % 2 ^ 36
  if a < 0x100000 then 0
  else if 0x4000000 ≤ a && a < 0x8000000 then 1
  else if 0x8000000 ≤ a && a < 0xC000000 then 2
  else if 0xC000000 ≤ a && a < 0xC100000 then 3
  else if 0x10000000 ≤ a && a < 0x12000000 then 4
  else if 0x12000000 ≤ a && a < 0x14000000 then 5
  else if 0x200000000 ≤ a && a < 0x400000000 then (if a / 1024 % 2 = 0 then 6 else 7)
  else if 0x100000000 ≤ a && a < 0x200000000 then 8
  else 9

/-- DECODE_ERROR (R362, R365): the debug master's is returned to the debugger and has no other effect; any other is counted and
fatal. -/
def execDecodeError (p : Fin 14) (addr : Nat) (s : State) : Host.Outcome State Fault Refusal :=
  if !s.alive || fabricTarget addr ≠ 9 then .next s
  else if p.val = 13 then .next (send (.decodeError (addr % 2 ^ 36)) s)
  else .next (fatalFault 0x0A (addr % 2 ^ 36) p.val (updMemStat (fun t => { t with decodeErrors := wrapAdd 32 t.decodeErrors 1 }) s))

/-- A host write that a reset of the PCIe inbound port cuts short holds its leading bytes (R366). A register takes whole words only. -/
def cutWrite (addr : Nat) (d : Bytes) (s : State) : State :=
  let area := fun (lo hi : Nat) => lo ≤ addr && addr + d.length ≤ hi
  if !s.pcie then s
  else if area 0x10000 0x30000 || area 0x80000 0xA0000 then { s with host.mem := writeBytes s.host.mem addr d }
  else if area 0xF0000 0xF0050 then { s with host.msixTab := writeBytes s.host.msixTab (addr - 0xF0000) d }
  else s

/-- FABRIC_PORT_RESET (R366, Table 13.3): fetches in flight of a Quay fetcher are discarded; the transfer on a crane channel is answered
BUSY; a host write cut short holds its leading bytes, and a frame cut short in reception comes back with the discard flag; a warp is
abandoned with both mooring lanes lost. The Quaymaster's ports, the Nose's and the debugger's have no effect for the user. -/
def execFabricPortReset (p : PortReset) (s : State) : Host.Outcome State Fault Refusal :=
  let n := p.port.val
  if !s.alive then .next s
  else if 2 ≤ n && n ≤ 5 then .next (updQuay (n - 2) (fun u => { u with flight := [] }) s)
  else if n = 7 then .next (endTransfers (fun t => t.channel == some p.channel) .busy s)
  else if n = 8 then .next (match p.write with | some e => cutWrite e.1 e.2 s | none => s)
  else if 9 ≤ n && n ≤ 11 then .next (match p.frame with | some e => cutFrame (n - 9) e.1 e.2 s | none => s)
  else if n = 12 then .next (if s.twin.lanes = 0 then abandonWarp s else s)
  else .next s

/-- PCIE_PERST_N (R366, R429): low holds the link down. -/
def execPciePerstN (low : Bool) (s : State) : Host.Outcome State Fault Refusal :=
  let t := { s with host.perst := low }
  if low && s.alive && s.pcie then .next (endTransfers (fun t => t.via == 0) .busy t) else .next t

/-- LOCKSTEP_MISMATCH and COMPANION_LINK_LOST (Table 14.6). -/
def execLockstepMismatch (s : State) : Host.Outcome State Fault Refusal := if s.alive then .next (enterSafe 0x09 s) else .next s
def execCompanionLinkLost (s : State) : Host.Outcome State Fault Refusal :=
  if s.alive && s.boot.postDone && !s.flag mSafe then
    .next (enterSafe 0x0C { s with boot.report := { s.boot.report with test := { s.boot.report.test with dieLink := false } } })
  else .next s

/-- THERMAL_SENSOR_READ (R438): two consecutive readings above 125 °C. -/
def execThermalSensorRead (temp : Int) (s : State) : Host.Outcome State Fault Refusal :=
  if !s.alive then .next s
  else
    let t := { s with boot.hot := decide (temp > 125) }
    if temp > 125 && s.boot.hot then .next (enterSafe 0x0D t) else .next t

/-! Uncorrectable words. -/

/-- A word of a biquad's coefficients reads as zero. -/
def zeroCoef (k : Biquad) (w : Nat) : Biquad :=
  if w = 0 then { k with b0 := 0 } else if w = 1 then { k with b1 := 0 } else if w = 2 then { k with b2 := 0 }
  else if w = 3 then { k with a1 := 0 } else { k with a2 := 0 }

/-- Word w of the record of Table 6.1 reads as zero. -/
def zeroAccord (a : Accord) (w : Nat) : Accord :=
  if w < 512 then { a with hfir := SMap.del a.hfir w }
  else if w < 1024 then { a with bfir := SMap.del a.bfir (w - 512) }
  else if w < 1144 then
    { a with biquads := SMap.upd {} a.biquads ((w - 1024) / 5) fun k => zeroCoef k ((w - 1024) % 5) }
  else if w < 1147 then
    { a with biquads := (List.range 8).foldl (fun m i =>
        SMap.upd {} m (8 * (w - 1144) + i) fun k => { k with shift := 0 }) a.biquads }
  else if w = 1147 then { a with hfirShift := 0, bfirShift := 0 }
  else if w = 1148 then { a with gH := 0 }
  else if w = 1149 then { a with gL := 0 }
  else if w = 1150 then { a with outGain := 0 }
  else { a with tag := 0 }

/-- A slot of an output's accords: 0 active, 1 outgoing, 2 pending. -/
def slotOf (a : AccordSlots) (slot : Nat) : Option Accord :=
  if slot = 0 then some a.active else if slot = 1 then a.outgoing else a.pending
def putSlot (a : AccordSlots) (slot : Nat) (v : Accord) : AccordSlots :=
  if slot = 0 then { a with active := v }
  else if slot = 1 then { a with outgoing := a.outgoing.map fun _ => v }
  else { a with pending := a.pending.map fun _ => v }

/-- The next block boundary restores the accords hit (Table 13.6). -/
def restoreAccords (s : State) : State :=
  s.rend.accordHits.foldl (fun s e => updAccord e.1 (fun a => putSlot a e.2.1 e.2.2) s) { s with rend.accordHits := [] }

/-- A state word of a biquad is cleared. -/
def zeroBq (k : BqState) (w : Nat) : BqState :=
  if w = 0 then { k with x1 := 0 } else if w = 1 then { k with x2 := 0 } else if w = 2 then { k with y1 := 0 }
  else if w = 3 then { k with y2 := 0 } else { k with e := 0 }

/-- A state word of an output chain is cleared: envelope, limiter gain, biquads, crossover and Base histories. -/
def zeroChain (c : OutChain) (w : Nat) : OutChain :=
  if w = 0 then { c with env := 0 }
  else if w = 1 then { c with limG := 0 }
  else if w < 122 then { c with bq := SMap.upd {} c.bq ((w - 2) / 5) fun k => zeroBq k ((w - 2) % 5) }
  else if w < 242 then { c with bqOut := SMap.upd {} c.bqOut ((w - 122) / 5) fun k => zeroBq k ((w - 122) % 5) }
  else if w < 2048 then { c with base := { c.base with delay := c.base.delay.set (w - 242) 0 } }
  else { c with hist := c.hist.set (w - 2048) 0 }

/-- A word of a CIC section is cleared: integrators, then comb delays. -/
def zeroCic (c : Cic) (w : Nat) : Cic :=
  if w < 4 then { c with integ := c.integ.set w 0 } else { c with comb := c.comb.set (w - 4) 0 }

/-- A word of an output's Base path is cleared: 0 decimator, 1 its history, 2 Base history, 3 and 4 the two interpolator lanes, 5 and 6
their histories, 7 and 8 the lane of the outgoing accord. -/
def zeroBase (b : BaseState) (part w : Nat) : BaseState :=
  match part with
  | 0 => { b with dec := zeroCic b.dec w }
  | 1 => { b with decHist := b.decHist.set w 0 }
  | 2 => { b with bHist := b.bHist.set w 0 }
  | 3 => { b with lane0 := zeroCic b.lane0 w }
  | 4 => { b with lane1 := zeroCic b.lane1 w }
  | 5 => { b with lane0Hist := b.lane0Hist.set w 0 }
  | 6 => { b with lane1Hist := b.lane1Hist.set w 0 }
  | 7 => { b with lane1Out := zeroCic b.lane1Out w }
  | _ => { b with lane1OutHist := b.lane1OutHist.set w 0 }

/-- A state word of a bridge is cleared: position, rate, integrator, fill. -/
def zeroBridge (b : Bridge) (w : Nat) : Bridge :=
  if w = 0 then { b with pos := 0 } else if w = 1 then { b with r := 0 } else if w = 2 then { b with integ := 0 } else { b with fill := 0 }

/-- Answer a request entry that the device cannot carry out after an error (Table 13.6, R376). -/
def failRequest (m op seq : Nat) (st : Status) (s : State) : State :=
  let s := updMaster m (fun x => { x with reqHead := (x.reqHead + 1) % 128, unanswered := x.unanswered + 1 }) s
  respond { opcode := op, master := m, status := st, seq := seq, accepted := s.idx } s

/-- A word of a jitter buffer is lost: the sample is absent, and is concealed at once if its catch has passed (R230,
Table 13.6). -/
def jitterHit (c n : Nat) (s : State) : State :=
  let m := SMap.get [] s.net.jitter c
  let past := fun (x : RxBerth) => x.state != 0 && x.cfg.first ≤ c && c < x.cfg.first + x.cfg.channels &&
    (match x.decided with | some d => decide (n < d) | none => false)
  if (SMap.look m n).isNone then s
  else match s.net.rx.find? fun e => past e.2 with
    | some e =>
      updRx e.1 (fun x => { x with stat := { x.stat with concealed := wrapAdd 32 x.stat.concealed 1 } })
        { s with net.jitter := SMap.put [] s.net.jitter c (concealOne (SMap.del m n, 0) n).1 }
    | none => { s with net.jitter := SMap.put [] s.net.jitter c (SMap.del m n) }

/-- What an uncorrectable SRAM word does (Table 13.6). A fatal one is reported with its fabric address (Table 14.7, R368) and
with no master, since the scrubber and not a master has read it (DESIGN CHOICE, assumption 44). A scene record is restored before
the next snapshot, which alone reads it: until then the last tick's answer stands in the tap tables, so nothing else changes. -/
def sramHit (site : SramSite) (s : State) : State :=
  match site with
  | .nearWindow slot stamp =>
    let line := (SMap.get [] s.rend.near slot).filter fun e => nearAddr slot e.1 != nearAddr slot stamp
    { s with rend.near := SMap.put [] s.rend.near slot line }
  | .tapTable slot output =>
    match tapOf s.rend.taps slot output with
    | some t => { s with rend.taps := putTap s.rend.taps slot output { t with gainA := 0, gainB := 0 } }
    | none => s
  | .accord o slot w =>
    match slotOf (s.accord o) slot with
    | some a => updAccord o (fun x => putSlot x slot (zeroAccord a w))
        (if s.rend.accordHits.any fun e => e.1 == o && e.2.1 == slot then s
         else { s with rend.accordHits := s.rend.accordHits ++ [(o, slot, a)] })
    | none => s
  | .jitter c n => jitterHit c n s
  | .staging q g =>
    if (s.quay q).staged.any fun f => f.granule == g then
      updQuay q (fun u => loseGranule s g { u with staged := u.staged.filter fun f => f.granule != g }) s
    else s
  | .chainState o w => updOutChain o (fun c => zeroChain c w) s
  | .inputState c w =>
    { s with rend.inChains := SMap.upd {} s.rend.inChains c fun r =>
        { r with bqState := SMap.upd {} r.bqState (w / 5) fun k => zeroBq k (w % 5) } }
  | .baseState o part w => updOutChain o (fun c => { c with base := zeroBase c.base part w }) s
  | .bridgeState f w => { s with rend.bridges := SMap.upd {} s.rend.bridges f fun b => zeroBridge b w }
  | .nose =>
    if s.nose.dev.state = 1 then skipFrame s else s
  | .scene => s
  | .requestEntry m op seq => failRequest m op seq .badParam s
  | .rxDescriptor p r => updPortStat p (fun t => { t with noBuffer := setAt t.noBuffer r (wrapAdd 32 · 1) }) s
  | .quaymaster w => fatalFault 0x0B (quaymasterAddr w) 255 s
  | .general w => fatalFault 0x0B (generalAddr w) 255 s

/-- SRAM_SCRUB (R369). -/
def execSramScrub (corrected : Nat) (bad : Option SramSite) (s : State) : Host.Outcome State Fault Refusal :=
  if !s.alive then .next s
  else
    let s := updMemStat (fun t => { t with sramCe := wrapAdd 32 t.sramCe corrected }) s
    match bad with
    | none => .next s
    | some site => .next (sramHit site (updMemStat (fun t => { t with sramUe := wrapAdd 32 t.sramUe 1 }) s))

/-- What an uncorrectable DRAM read does (R376). -/
def dramHit (site : DramSite) (s : State) : State :=
  match site with
  | .replay c =>
    match SMap.look s.rend.replay c with
    | some r =>
      let next := match s.media.computed with | some b => b + 16 | none => 0
      let r := { r with held := r.held.filter fun g => (r.needs next).getLast? != some g }
      { s with rend.replay := SMap.ins s.rend.replay c r }
    | none => s
  | .crossSpectra i => clearAcc i s
  | .blotter i v => { s with nose.blotter := SMap.put [] s.nose.blotter i (SMap.del (SMap.get [] s.nose.blotter i) v) }
  | .sceneStore m op seq => failRequest m op seq .noResource s
  | .general n => { s with host.log := s.host.log.filter fun e => e.lseq != n }
  | .rxFrame p r n => updPort p (fun q => { q with rx := setAt q.rx r fun x => { x with returned := dropFrame n [] x.returned } }) s
  | .txFrame p n => updPort p (fun q => match q.queued[n]? with
      | some k => if k.berth.isSome then q else frameLeft k { q with queued := q.queued.eraseIdx n }
      | none => q) s

/-- DRAM_SCRUB (R372, R376). -/
def execDramScrub (corrected link forwarded : Nat) (bad : Option DramSite) (s : State) : Host.Outcome State Fault Refusal :=
  if !s.alive then .next s
  else
    let s := updMemStat (fun t => { t with dramCe := wrapAdd 32 t.dramCe corrected, linkCe := wrapAdd 32 t.linkCe link
                                           forwarded := wrapAdd 64 t.forwarded forwarded }) s
    match bad with
    | none => .next s
    | some site => .next (dramHit site (updMemStat (fun t => { t with dramUe := wrapAdd 32 t.dramUe 1 }) s))

/-! SHALLOW. -/

/-- The tick a SHALLOW decision of the active names (R291): its snapshot is at least two blocks ahead. -/
def State.shallowTick (s : State) : Nat := ceilTo 64 (s.idx + 80 - s.media.catchL)

/-- The active has entered SHALLOW, as its decisions say (R291). -/
def State.activeShallow (s : State) : Bool :=
  match s.twin.followAt with | some (on, _, _) => on | none => s.twin.follow

/-- The fetchers stop issuing (R101). -/
def dropWaits (s : State) : State :=
  { s with rend.quays := SMap.mapVals {} (fun _ (u : Quay) => { u with waiting := [] }) s.rend.quays }

/-- Entry to SHALLOW (R101, R175, R214, R243, R291, R301, R379, R381). -/
def enterShallow (s : State) : State :=
  if s.flag mShallow || s.flag mSafe then s
  else
    let s := setFlag mShallow true srcDevice s
    let s := { s with rend.shallowEntries := wrapAdd 32 s.rend.shallowEntries 1, mem.clearing := false
                      rend.shallowPolicy := true }
    let s := logEvent 11 3 srcDevice [] s
    let s := endTransfers (fun _ => true) .noResource (dropRings s)
    let s := sweepAbort { s with nose.blotter := [], nose.blotMask := 0 }
    let s := dropWaits s
    let s := if s.activeShallow then noseFollow s else setAdrift 1 (noseFollow s)
    let s := if s.flag mStandby then abandonWarp s else s
    forwardDecision [0, 1, s.shallowTick, 0] s

/-- First stamp of the first long-line write from block b on (R104). -/
def markFrom (b : Nat) : Nat := (b + 15) / 32 * 32

/-- Long marks after SHALLOW: a higher one stays (R104). -/
def raiseMarks (mark : Nat) (s : State) : State :=
  let slots := SMap.keys s.rend.slots ++ (s.scene.stats.filterMap fun e => e.2.slot)
  { s with rend.longMark := slots.foldl (fun m n => SMap.put 0 m n (max mark (SMap.get 0 m n))) s.rend.longMark }

/-- Leave SHALLOW at the boundary of block b (R104, R175, R382, R291). -/
def leaveShallow (b : Nat) (s : State) : State :=
  if !s.mem.clearing || !s.flag mShallow then s
  else
    let s := setFlag mShallow false srcDevice s
    let s := logEvent 11 4 srcDevice [] s
    let s := { s with mem.rate := if s.mem.byLoop then s.mem.rate else 2, mem.byLoop := false, mem.clearing := false
                      mem.degraded := 0, mem.searches := [], mem.settings := [] }
    let s := raiseMarks (markFrom b) s
    forwardDecision [0, 0, s.shallowTick, markFrom b] (noseFollow (noseLeaveShallow s))

/-- A standby follows the active's SHALLOW from the tick it names (R291). -/
def followShallow (k : Nat) (s : State) : State :=
  match s.twin.followAt with
  | some (on, tick, mark) =>
    if tick ≤ k then
      let s := { s with twin.follow := on, twin.followAt := none }
      if on then dropWaits { s with rend.shallowPolicy := true } else raiseMarks mark s
    else s
  | none => s

/-! Training and the rate ladder. -/

/-- RETRAIN_STEP (R377): the setting in force moves by at most one increment towards the centre of its margin, counted in increments
from the stored setpoint; where the measurement shows it failing, there is no centre and a search starts. A change of spread_dram comes
into force in a step (R276). -/
def execRetrainStep (ch : Fin 8) (centre : Option Int) (s : State) : Host.Outcome State Fault Refusal :=
  if !s.alive || !s.boot.postDone || s.flag mShallow then .next s
  else
    let s := updMemStat (fun t => { t with retrainSteps := wrapAdd 64 t.retrainSteps 1 })
      { s with time.spreadDram := s.time.dev.spreadDram }
    if (SMap.look s.mem.searches ch.val).isSome then .next s
    else match centre with
    | some c => .next { s with mem.settings := SMap.upd 0 s.mem.settings ch.val fun v => if v < c then v + 1 else if c < v then v - 1 else v }
    | none =>
      let s := updMemStat (fun t => { t with searches := wrapAdd 32 t.searches 1 }) s
      .next { s with mem.searches := SMap.ins s.mem.searches ch.val 0, mem.degraded := setBit8 s.mem.degraded ch.val true }

/-- DRAM_SEARCH_STEP (R377, R379): at most 64 steps, one per block; the setting found is installed. -/
def execDramSearchStep (ch : Fin 8) (found : Option Int) (s : State) : Host.Outcome State Fault Refusal :=
  match SMap.look s.mem.searches ch.val with
  | none => .next s
  | some n =>
    match found with
    | some v =>
      .next { s with mem.searches := SMap.del s.mem.searches ch.val, mem.degraded := setBit8 s.mem.degraded ch.val false
                     mem.settings := SMap.put 0 s.mem.settings ch.val v }
    | none =>
    if n + 1 < 64 then .next { s with mem.searches := SMap.ins s.mem.searches ch.val (n + 1) }
    else
      let s := updMemStat (fun t => { t with searchFails := wrapAdd 32 t.searchFails 1 }) s
      .next { s with mem.searches := SMap.del s.mem.searches ch.val, mem.stepWanted := true }

/-- DRAM_STEP_DOWN (R379): the next rung down, or SHALLOW at the last. -/
def execDramStepDown (s : State) : Host.Outcome State Fault Refusal :=
  if !s.mem.stepWanted || !s.alive then .next s
  else
    let s := { s with mem.stepWanted := false }
    if s.mem.rate < 2 then .next { s with mem.rateWanted := some (s.mem.rate + 1), mem.lastStep := some s.idx }
    else .next (enterShallow { s with mem.searches := [] })

/-- A change of rate (R378): stored setpoints load on every channel, and each takes a retraining step. -/
def setRate (r : Nat) (s : State) : State :=
  updMemStat (fun t => { t with retrainSteps := wrapAdd 64 t.retrainSteps 8 })
    { s with mem.rate := r, mem.degraded := 0, mem.searches := [], mem.settings := [], mem.rateWanted := none, time.spreadDram := s.time.dev.spreadDram }

/-- DRAM_RATE_CHANGE (R378): the step down that is due. -/
def execDramRateChange (s : State) : Host.Outcome State Fault Refusal :=
  match s.mem.rateWanted with
  | some r => .next (updMemStat (fun t => { t with stepDowns := wrapAdd 32 t.stepDowns 1 }) (setRate r s))
  | none => .next s

/-- SHALLOW_SEARCH (R382, R400): a search of every channel, then a pattern test; after a DRAM loopback it runs at the rate in
force before the test. -/
def execShallowSearch (pass pattern : Bool) (s : State) : Host.Outcome State Fault Refusal :=
  if !s.flag mShallow || s.mem.clearing || !s.alive || (s.boot.loops.any fun l => l.iface == 6) then .next s
  else
    let s := updMemStat (fun t => { t with searches := wrapAdd 32 t.searches 1
                                           searchFails := if pass then t.searchFails else wrapAdd 32 t.searchFails 1 }) s
    if pass && pattern then .next { s with mem.clearing := true } else .next { s with mem.byLoop := false }

/-- A climb is allowed now (R382). -/
def State.climbOk (s : State) : Bool :=
  s.mem.rate > 0 && !s.flag mShallow && (s.flag mDark || s.power.stage == 2) &&
  (match s.mem.lastStep with | some i => i + 60 * s.hz ≤ s.idx | none => true)

/-- RATE_CLIMB (R382): a rate change and a search; a failed search goes back. -/
def execRateClimb (pass : Bool) (s : State) : Host.Outcome State Fault Refusal :=
  if !s.climbOk || !s.alive then .next s
  else
    let old := s.mem.rate
    let s := updMemStat (fun t => { t with searches := wrapAdd 32 t.searches 1 }) (setRate (old - 1) s)
    if pass then .next (updMemStat (fun t => { t with climbs := wrapAdd 32 t.climbs 1 }) s)
    else .next (updMemStat (fun t => { t with searchFails := wrapAdd 32 t.searchFails 1 })
      (setRate old { s with mem.lastStep := some s.idx }))

/-- DRAM_TEMP_READ (R373). -/
def refreshOf (t : Int) : Nat := if t > 95 then 2 else if t > 85 then 1 else 0
def execDramTempRead (t0 t1 : Int) (s : State) : Host.Outcome State Fault Refusal :=
  if !s.alive then .next s
  else .next { s with mem.temp0 := t0, mem.temp1 := t1, mem.refresh0 := refreshOf t0, mem.refresh1 := refreshOf t1 }

/-- HAMMER_WINDOW_RESET and HAMMER_THROTTLE (R375): a requester over 16,384 activations of a row-group is throttled for the
rest of the window. -/
def execHammerWindowReset (s : State) : Host.Outcome State Fault Refusal := .next { s with mem.throttled := [] }
def execHammerThrottle (p : Fin 14) (ch : Fin 8) (group count : Nat) (s : State) : Host.Outcome State Fault Refusal :=
  if count ≤ 16384 || !s.alive || s.mem.throttled.contains (p.val, ch.val, group) then .next s
  else .next (updMemStat (fun t => { t with hammer := wrapAdd 32 t.hammer 1 })
    { s with mem.throttled := s.mem.throttled ++ [(p.val, ch.val, group)] })

/-- CHANNEL_SELF_REFRESH (R374): `idle` is how long, in µs, the channel has had no request; a request ends it. -/
def execChannelSelfRefresh (ch : Fin 8) (idle : Nat) (s : State) : Host.Outcome State Fault Refusal :=
  if s.power.stage ≥ 3 || !s.alive then .next s
  else if idle < 1000 then .next { s with mem.selfRefresh := setBit8 s.mem.selfRefresh ch.val false }
  else if s.mem.selfRefresh.getLsbD ch.val then .next s
  else .next (updMemStat (fun t => { t with srEntries := wrapAdd 32 t.srEntries 1 })
    { s with mem.selfRefresh := setBit8 s.mem.selfRefresh ch.val true })

/-- SYS_INFO selector 4 (Table 13.8). -/
def memoryBody (s : State) : Bytes :=
  let t := s.mem.stat
  le 4 4 ++ le 1 s.mem.rate ++
  le 1 (bit (s.flag mShallow) + bit (!s.mem.searches.isEmpty) 1 + bit s.climbOk 2 + bit (s.time.spreadDram != 0) 3) ++
  le 1 s.mem.degraded.toNat ++ le 1 (s.mem.refresh0 + 4 * s.mem.refresh1) ++ leI 1 s.mem.temp0 ++ leI 1 s.mem.temp1 ++
  zeros 2 ++ le 4 (match noseCap s.mem.rate with | some c => c / 1000000 | none => 0) ++ le 4 t.stepDowns ++ le 4 t.climbs ++
  le 4 t.searches ++ le 4 t.searchFails ++ le 8 t.retrainSteps ++ le 4 t.dramCe ++ le 4 t.dramUe ++ le 4 t.linkCe ++
  le 4 t.sramCe ++ le 4 t.sramUe ++ le 4 t.hammer ++ le 4 t.decodeErrors ++ le 4 t.srEntries ++ le 8 t.forwarded

end Sys2Proof.Machine
end

