-- ==== Sys2Proof/Machine/Io.lean ====
section
/-!
DEFINITION. Analogue and local I/O (chapter 15, R424, R426): converters, spans, current loops, TDM ports, GPIO, alarm plans,
UART, I2C and pad groups.
-/
namespace Sys2Proof.Machine

/-! Analogue inputs. -/

/-- ANA_IN_CFG at acceptance: the channel exists and no berth or other local input holds it (R405, R226). -/
def checkAnaIn (p : Bytes) (s : State) (views : List State) : Option Status :=
  let c := getU p 8 2
  if !anaInPayloadOk p then some .badParam
  else if (maskOf p).testBit 2 && c ≠ 65535 &&
      (c ≥ chanCount s.heartNext || views.any fun v => channelsHeld v (256 + getU p 4 1) c 1) then some .noResource
  else none

/-- ANA_IN_CFG (R405, R406): the gain waits for its switch, the channel for the block boundary; a write of the flags ends a
phantom fault. -/
def doAnaInCfg (p : Bytes) (views : List State) (s : State) : Reply :=
  match checkAnaIn p s views with
  | some st => no st
  | none =>
    let i := getU p 4 1
    let m := maskOf p
    let a := s.anaIn i
    if m = 0 then .done (updAnaIn i (fun a => { a with clips := 0, peak := -14400 }) s) (anaInBytes a 0 i)
    else
      let g := getU p 5 1
      let ph := getU p 6 1 == 1
      .done (updAnaIn i (fun a => { a with
        want := if m.testBit 0 then (if g = a.gain then none else some g) else a.want
        phantom := pick (m.testBit 1) ph a.phantom
        fault := if m.testBit 1 then false else a.fault
        ramping := if m.testBit 1 && ph != (a.phantom && !a.fault) then true else a.ramping
        newChannel := if m.testBit 2 then some (getU p 8 2) else a.newChannel }) s) []

/-- INPUT_GAIN_SWITCH (R405). -/
def execInputGainSwitch (i : Fin 8) (s : State) : Host.Outcome State Fault Refusal :=
  .next (updAnaIn i.val (fun a => { a with gain := a.want.getD a.gain, want := none }) s)

/-- PHANTOM_RAMP_DONE (R405). -/
def execPhantomRampDone (i : Fin 8) (s : State) : Host.Outcome State Fault Refusal :=
  .next (updAnaIn i.val (fun a => { a with ramping := false }) s)

/-- PHANTOM_FAULT (R406): power is removed, which P12 follows over 100 ms (R405), and held off. -/
def execPhantomFault (i : Fin 8) (s : State) : Host.Outcome State Fault Refusal :=
  let a := s.anaIn i.val
  if !a.phantom || a.fault then .next s
  else
    let s := updAnaIn i.val (fun a => { a with fault := true, ramping := true }) s
    .next (localFault 0 i.val (bit a.overload + 2) s)

/-- Bindings of local inputs change at the block boundary (R405, R413). -/
def bindLocal (s : State) : State :=
  { s with
    io.anaIn := SMap.mapVals {} (fun _ (a : AnaIn) => match a.newChannel with
      | some c => { a with channel := c, newChannel := none, binds := ((s.idx, c) :: a.binds).take 4 }
      | none => a) s.io.anaIn
    io.tdm := SMap.mapVals {} (fun _ (t : Tdm) => match t.newFirst with
      | some c => { t with inFirst := c, newFirst := none, binds := ((s.idx, c) :: t.binds).take 4 }
      | none => t) s.io.tdm }

/-! Analogue outputs. -/

/-- A request for a span (R408): a running change goes first, a later request replaces a waiting one; one that finds the output at
its current limit waits for its return (DESIGN CHOICE, assumption 47). -/
def wantSpan (v : Nat) (a : AnaOut) : AnaOut :=
  let a := { a with span := v, written := true }
  if a.change.isSome || a.limit then { a with waiting := some v }
  else if v = a.spanNow then a else { a with change := some v, ramp := .span 0 }

/-- ANA_OUT_CFG (R407, R408). -/
def doAnaOutCfg (p : Bytes) (s : State) : Reply :=
  if !anaOutPayloadOk p then no .badParam
  else
    let o := getU p 4 1
    let m := maskOf p
    if m = 0 then .done (updAnaOut o (fun a => { a with clamps := 0 }) s) (anaOutBytes (s.anaOut o) 0 o)
    else
      let s := if m.testBit 0 then updAnaOut o (wantSpan (getU p 5 1)) s else s
      .done (if m.testBit 1 then updAnaOut o (fun a => { a with hold := getU p 6 1 == 1 }) s else s) []

/-- SPAN_CHANGE_DONE (Table 15.4): a waiting request begins. -/
def execSpanChangeDone (o : Fin 8) (s : State) : Host.Outcome State Fault Refusal :=
  match (s.anaOut o.val).change with
  | none => .next s
  | some v =>
    .next (updAnaOut o.val (fun a =>
      let w := a.waiting
      let a := { a with spanNow := v, change := none, waiting := none, ramp := .steady }
      match w with
      | some x => if x = v then a else { a with change := some x, ramp := .span 0 }
      | none => a) s)

/-- OUTPUT_CURRENT_LIMIT (R409): the output falls within 1 ms; in a span change, which is abandoned, at once (R408). -/
def execOutputCurrentLimit (o : Fin 8) (s : State) : Host.Outcome State Fault Refusal :=
  let a := s.anaOut o.val
  if a.limit || a.supply || !a.written then .next s
  else
    let fall := DieRamp.limit (if a.change.isSome then 384 else 0)
    let s := updAnaOut o.val (fun a => { a with limit := true, change := none, waiting := none, ramp := fall }) s
    .next (localFault 1 o.val (s.anaOut o.val).state s)

/-- OUTPUT_LIMIT_RETRY (R409): the output comes back as after a span change; a span that waited is taken on the way, from the
hold at 0 V (R408). -/
def execOutputLimitRetry (o : Fin 8) (s : State) : Host.Outcome State Fault Refusal :=
  .next (updAnaOut o.val (fun a =>
    if !a.limit then a
    else match a.waiting with
      | some v =>
        if v = a.spanNow then { a with limit := false, waiting := none, ramp := .back 0 }
        else { a with limit := false, waiting := none, change := some v, ramp := .span 1920 }
      | none => { a with limit := false, ramp := .back 0 }) s)

/-- ANALOGUE_SUPPLY_FAULT (R424): outputs at 0 V, loops at 0 mA and latched, phantom power removed, one local fault. -/
def execAnalogueSupplyFault (s : State) : Host.Outcome State Fault Refusal :=
  if s.io.supplyFault then .next s
  else
    let out := fun (s : State) (o : Nat) =>
      updAnaOut o (fun a => {
        a with supply := true, limit := false, change := none, waiting := none, ramp := .steady, short := []
               words := a.words.map fun _ => 0 }) s
    let s := (List.range 8).foldl out s
    let s := { s with
      io.supplyFault := true
      io.anaIn := SMap.mapVals {} (fun _ (a : AnaIn) => { a with phantom := false, ramping := false }) s.io.anaIn
      io.loops := SMap.mapVals {} (fun _ (l : Loop) => { l with out := 0, latched := l.configured }) s.io.loops }
    .next (localFault 1 0 (s.anaOut 0).state s)

/-- ANALOGUE_SUPPLY_RESTORED (R424). -/
def execAnalogueSupplyRestored (s : State) : Host.Outcome State Fault Refusal :=
  .next { s with io.supplyFault := false
                 io.anaOut := SMap.mapVals {} (fun _ (a : AnaOut) => { a with supply := false }) s.io.anaOut }

/-! Current loops. -/

/-- LOOP_CFG (R410 to R412). -/
def doLoopCfg (p : Bytes) (s : State) : Reply :=
  if !loopPayloadOk p then no .badParam
  else
    let i := getU p 4 1
    let m := maskOf p
    if m = 0 then .done s (loopBytes (s.loop i) 0 i)
    else .done (updLoop i (fun l =>
      let l := l.write m p
      { l with target := if l.mode = 0 then 0 else if l.mode = 1 then l.value else l.target }) s) []

/-- A local I/O fault that stands, loop l's own apart (R412). -/
def otherFault (l : Nat) (s : State) : Bool :=
  (s.io.anaIn.any fun e => e.2.fault) || (s.io.anaOut.any fun e => e.2.limit || e.2.supply) ||
  (s.io.loops.any fun e => e.1 != l && e.2.faults != 0)

/-- A status condition selected by the loop's mask holds (Table 15.5). -/
def loopWarn (l : Nat) (r : Loop) (s : State) : Bool :=
  let m := r.condMask.testBit
  (m 0 && s.flag mCoast) || (m 1 && s.flag mShallow) || (m 2 && s.flag mAdrift) ||
  (m 3 && s.scene.speakers.any fun e => e.2.health ≥ 2) || (m 4 && otherFault l s) || (m 5 && s.flag mDoze)

/-- Targets of the loops in mode 2 at a block boundary (R412). -/
def loopTargets (s : State) : State :=
  if s.flag mSafe then s
  else { s with io.loops := SMap.mapVals {} (fun i (l : Loop) =>
    if l.mode = 2 then { l with target := if loopWarn i l s then l.warnUa else l.okUa } else l) s.io.loops }

/-- Move a current towards a target by at most a step. -/
def slewTo (step target out : Nat) : Nat :=
  if out < target then min target (out + step) else max target (out - step)

/-- LOOP_SLEW (R410, R411): one interval; a latched loop stays at 0 mA. -/
def execLoopSlew (l : Fin 4) (s : State) : Host.Outcome State Fault Refusal :=
  if s.power.stage = 4 then .next s
  else .next (updLoop l.val (fun r =>
    if r.latched || s.io.supplyFault then { r with out := 0 }
    else { r with out := slewTo (if s.flag mSafe then r.fall else r.step) r.target r.out }) s)

/-- Milliseconds a condition has held. -/
def tickMs (c : Bool) (n : Nat) : Nat := if c then n + 1 else 0

/-- LOOP_CHECK (R411), each 1 ms. -/
def execLoopCheck (l : Fin 4) (m : LoopSense) (s : State) : Host.Outcome State Fault Refusal :=
  if s.power.stage = 4 || s.io.supplyFault then .next s
  else
    let r := s.loop l.val
    let tests := r.target ≥ 2000 && !r.latched
    let comp := tickMs (m.headroom < 1000) r.compMs
    let clear := tickMs (m.headroom > 1500) r.clearMs
    let openMs := tickMs (tests && m.headroom < 200 && m.current * 10 < r.target * 9) r.openMs
    let short := tickMs (tests && m.volts < 250 && m.current ≥ 2000) r.shortMs
    let r := { r with nowUa := m.current, volts := m.volts, compMs := comp, clearMs := clear, openMs := openMs, shortMs := short }
    let newComp := comp ≥ 10 && !r.compliance
    let r := { r with compliance := comp ≥ 10 || (r.compliance && clear < 10) }
    let newOpen := openMs ≥ 50
    let newShort := short ≥ 50
    let r := if newOpen || newShort then
        { r with openF := r.openF || newOpen, shortF := r.shortF || newShort, latched := true, out := 0, openMs := 0, shortMs := 0
                 count := wrapAdd 32 r.count (bit newOpen + bit newShort) }
      else r
    let s := updLoop l.val (fun _ => r) s
    .next (if newComp || newOpen || newShort then localFault 2 l.val r.faults s else s)

/-! TDM ports. -/

/-- TDM_CFG at acceptance (R413). -/
def checkTdm (p : Bytes) (s : State) (views : List State) : Option Status :=
  let i := getU p 4 1
  let old := s.tdm i
  let m := maskOf p
  let new := old.write m p
  let first := if m.testBit 2 then getU p 10 2 else old.newFirst.getD old.inFirst
  let rate := heartHz s.heartNext * (if new.top then 2 else 1)
  if !tdmPayloadOk p then some .badParam
  else if m.testBit 0 && new.role != 2 && (rate * new.slots * 32 > 49152000 || (new.top && s.heartNext = 2)) then some .badParam
  else if (new.role, new.slots, new.top) != (old.role, old.slots, old.top) && !(views.headD s).flag mDark then some .refusedMode
  else if (m.testBit 0 || m.testBit 2) && first ≠ 65535 &&
      (first + new.slots > chanCount s.heartNext || views.any fun v => channelsHeld v (264 + i) first new.slots) then some .noResource
  else none

/-- TDM_CFG (R413). -/
def doTdmCfg (p : Bytes) (views : List State) (s : State) : Reply :=
  match checkTdm p s views with
  | some st => no st
  | none =>
    let i := getU p 4 1
    let m := maskOf p
    if m = 0 then .done (updTdm i (fun t => { t with clamps := 0 }) s) (tdmBytes (s.tdm i) 0 i)
    else .done (updTdm i (fun t =>
      { t.write m p with newFirst := if m.testBit 2 then some (getU p 10 2) else t.newFirst }) s) []

/-- TDM_SYNC_ERROR (R414): counted on a follower; the local cause at most once a second. The record of Table 15.6 has no
status byte for the fault bits, which are free (assumption 7). -/
def execTdmSyncError (p : Fin 4) (s : State) : Host.Outcome State Fault Refusal :=
  let t := s.tdm p.val
  if t.role ≠ 2 then .next s
  else
    let due : Bool := match t.lastFault with | some i => decide (i + s.hz ≤ s.idx) | none => true
    let s := updTdm p.val (fun t => { t with syncErr := wrapAdd 32 t.syncErr 1, starved := false
                                             lastFault := if due then some s.idx else t.lastFault }) s
    if due then
      .next (localFault 3 p.val (Config.freeNat s.media.fresh % 2 ^ 32) { s with media.fresh := s.media.fresh + 1 })
    else .next s

/-- TDM_SYNC_LOSS (R414): the port's bridge receives nothing. -/
def execTdmSyncLoss (p : Fin 4) (s : State) : Host.Outcome State Fault Refusal :=
  if (s.tdm p.val).role = 2 then .next (updTdm p.val (fun t => { t with starved := true }) s) else .next s

/-! GPIO, UART, I2C, pad groups. -/

/-- Levels at the pins (Table 15.7): what a pin drives, or what is applied to it. -/
def pinLevels (s : State) : Nat :=
  (List.range 16).foldl (fun a i =>
    let p := s.pin i
    let v := if p.function = 1 then p.level else if p.function = 2 then p.level && p.pinLevel else p.pinLevel
    a + bit v i) 0

/-- A write of a pin record. A pin that stops being the alarm input it was is asserted no more (R416). -/
def rewritePin (m : Nat) (p : Bytes) (r : Pin) : Pin :=
  let n := r.write m p
  { n with asserted := n.asserted && n.function == r.function && n.alarm == r.alarm }

/-- A payload of an alarm plan (R416): empty, or a ROUTE_SET of kind 0 or 1 that passes its checks. -/
def planPart (check : Bytes → Option Status) (p : Bytes) : Option Status :=
  if p.isEmpty then none else if getU p 0 1 > 1 then some .badParam else check p

/-- An alarm plan record (Table 15.7 kind 1). -/
def planOk (p : Bytes) : Bool :=
  let a := getU p 8 2
  let r := getU p 10 2
  maskOf p == 0 && getU p 5 1 == 0 && getU p 6 2 ≤ 3 && a ≤ 3080 && r ≤ 3080 && getU p 12 4 == 0 && p.length == 16 + a + r

/-- A UART record and an I2C record. -/
def uartOk (p : Bytes) : Bool :=
  maskOf p == 0 && getU p 5 3 == 0 && p.length == 16 && 9600 ≤ getU p 8 4 && getU p 8 4 ≤ 921600 && getU p 12 1 ≤ 2 &&
  getU p 13 3 == 0
def i2cOk (p : Bytes) : Bool :=
  maskOf p == 0 && getU p 5 3 == 0 && 8 ≤ getU p 8 1 && getU p 8 1 ≤ 0x77 && getU p 9 1 ≤ 2 && getU p 10 1 ≤ 64 &&
  getU p 11 1 ≤ 64 && p.length == 12 + getU p 10 1

/-- GPIO_SET (R415 to R417, R426). `check` is ROUTE_SET's check of a payload; an I2C transfer is owed its answer. -/
def doGpioSet (p : Bytes) (check : Bytes → Option Status) (s : State) : Reply :=
  let i := indexOf p
  let m := maskOf p
  match kindOf p with
  | 0 =>
    if !recordOk pinFields 5 16 p then no .badParam
    else if m = 0 then .done s (pinBytes (s.pin i) 0 i (pinLevels s))
    else .done (updPin i (fun r => rewritePin m p r) s) []
  | 1 =>
    if !planOk p then no .badParam
    else
      let a := slice p 16 (getU p 8 2)
      let r := slice p (16 + getU p 8 2) (getU p 10 2)
      match planPart check a with
      | some st => no st
      | none => match planPart check r with
        | some st => no st
        | none => .done { s with io.plans := SMap.upd {} s.io.plans i fun x => { x with assertP := a, releaseP := r } } []
  | 2 => if !uartOk p then no .badParam else .done { s with io.uart := ⟨getU p 8 4, getU p 12 1⟩ } []
  | 3 => if !i2cOk p then no .badParam else if s.io.i2c.isSome then no .busy else .owe s 0
  | 4 =>
    if !padPayloadOk p then no .badParam
    else if m = 0 then .done s (padBytes (SMap.get (padDefault i) s.io.pads i) 0 i)
    else .done { s with io.pads := SMap.put (padDefault i) s.io.pads i (getU p 8 1) } []
  | _ => no .badParam

/-- I2C_TRANSFER_DONE (R417). -/
def execI2cTransferDone (status : Fin 3) (data : Bytes) (s : State) : Host.Outcome State Fault Refusal :=
  match s.io.i2c with
  | none => .next s
  | some o => .next (answerOwed o .ok (le 1 status.val ++ slice data 0 (getU o.payload 11 1)) { s with io.i2c := none })

/-- I2C_BUS_HELD (R417): status 3; the bytes read are unstated and free (assumption 7). -/
def execI2cBusHeld (s : State) : Host.Outcome State Fault Refusal :=
  match s.io.i2c with
  | none => .next s
  | some o =>
    let n := getU o.payload 11 1
    let f := s.media.fresh
    let body := le 1 3 ++ (List.range n).map fun i => BitVec.ofNat 8 (Config.freeNat (f + i))
    .next (localFault 5 0 3 (answerOwed o .ok body { s with io.i2c := none, media.fresh := f + n }))

end Sys2Proof.Machine
end

