-- ==== Sys2Proof/Machine/System.lean ====
section
/-!
DEFINITION. The system commands (R339 to R341, R336, R395): identity, the log, claims, resets, the report; clearing of counters;
the host window's registers (Tables 11.3 to 11.9).
-/
namespace Sys2Proof.Machine

/-! Identity and the master table. -/

/-- The credential of a master, with the defaults of a part that holds no block (R329). -/
def State.credOf (s : State) (m : Nat) : Cred := match s.host.cred with | some c => c.creds.getD m {} | none => {}

/-- Slot number of the running image as the identity and the window give it. -/
def State.imageNow (s : State) : Nat := if s.boot.running = 1 then 1 else 0

/-- SYS_INFO selector 0 (Table 11.16). -/
def identityBody (s : State) : Bytes :=
  le 4 0 ++ le 2 0x0512 ++ le 1 (bit Config.variant) ++ le 1 1 ++ le 4 fwRelease ++ le 2 0x0302 ++ le 2 Config.pciVendor ++
  le 8 Config.serial ++ le 4 (s.peer 0).nodeId ++ le 1 s.media.heart ++ le 1 s.imageNow ++
  le 2 (match s.host.cred with | some c => c.version % 65536 | none => 0) ++ le 8 s.idx

/-- SYS_INFO selector 1 (R339): one line a master. -/
def masterLine (s : State) (m : Nat) : Bytes :=
  let x := s.master m
  let st := if m < 4 then (if s.hasMaster m then 1 else 0) else if x.peer.isSome then 3 else 2
  let p := x.peer.getD { ip := 0, port := 0 }
  le 1 st ++ le 1 (s.credOf m).maxRank ++ le 2 (s.host.claims.countP fun c => c.master == m) ++ le 2 x.unanswered ++ zeros 2 ++
  le 4 p.ip ++ le 2 p.port ++ zeros 2
def mastersBody (s : State) : Bytes := (List.range 8).flatMap (masterLine s)

/-- SYS_INFO (R339); selector 3 restarts its peaks (R106). -/
def doSysInfo (p : Bytes) (s : State) : Reply :=
  if p.length ≠ 8 || getU p 4 4 ≠ 0 then no .badParam
  else match getU p 0 4 with
    | 0 => .done s (identityBody s)
    | 1 => .done s (mastersBody s)
    | 3 => .done (sillageRead s) (sillageBody s)
    | 4 => .done s (memoryBody s)
    | _ => no .badParam

/-! The log. -/

end Sys2Proof.Machine

namespace Sys2Proof

open Machine

/-- A log entry's bytes (Table 11.17). -/
def LogEntry.bytes (e : LogEntry) : Bytes :=
  le 8 e.lseq ++ le 8 e.index ++ le 1 e.cause ++ le 1 e.sub ++ le 2 e.source ++
  (List.range 3).flatMap fun i => le 4 (e.args.getD i 0)

end Sys2Proof

namespace Sys2Proof.Machine

/-- Entries a read reaches: in SHALLOW the newest 4,096 (R381). -/
def logView (s : State) : List LogEntry :=
  if s.flag mShallow then s.host.log.drop (s.host.log.length - 4096) else s.host.log

/-- SYS_LOG_READ (R341). -/
def doSysLogRead (p : Bytes) (s : State) : Reply :=
  let from_ := getU p 0 8
  let n := getU p 8 2
  if p.length ≠ 16 || n = 0 || n > 128 || getU p 10 6 ≠ 0 then no .badParam
  else
    let es := ((logView s).filter fun e => from_ ≤ e.lseq).take n
    let first := match es with | [] => 0 | e :: _ => e.lseq
    let lost := first > from_ && first > 1
    let top := es.foldl (fun a e => max a e.lseq) s.host.highRead
    .done { s with host.highRead := top }
      (le 4 first ++ le 2 es.length ++ le 1 (bit lost) ++ zeros 1 ++ es.flatMap LogEntry.bytes)

/-- The overflow entry of a block in which entries were overwritten unread (R341). The entry it overwrites itself is counted by
the next one and brings about none in the next block. -/
def overflowEntry (s : State) : State :=
  if !s.host.overflowDue then s
  else
    let t := logEvent 19 0 srcDevice [s.host.overwritten % 2 ^ 32] { s with host.overwritten := 0 }
    { t with host.overflowDue := false }

/-- Event datagrams of a block (R327): for each cause due, the newest entry of that cause. -/
def eventDatagrams (s : State) : State :=
  (SMap.keys s.host.masters).foldl (fun s m =>
    let due := (s.master m).dueCauses
    let s := updMaster m (fun x => { x with dueCauses := [] }) s
    due.foldl (fun s c => match s.host.log.reverse.find? fun e => e.cause == c with
      | some e => sendDatagram m 7 0 e.bytes s
      | none => s) s) s

/-! Claims. -/

/-- Table 11.14, response. -/
def claimBody (s : State) (zone : Bool) (id : Nat) : Bytes :=
  match s.host.claims.find? fun c => c.zone == zone && c.id == id with
  | some c => le 1 c.master ++ le 1 c.rank ++ zeros 6
  | none => le 1 0xFF ++ zeros 7

/-- OBJ_CLAIM (R336). -/
def doObjClaim (p : Bytes) (m rank : Nat) (s : State) : Reply :=
  let zone := getU p 0 1 == 1
  let id := getU p 2 2
  let held := s.host.claims.find? fun c => c.zone == zone && c.id == id
  let rest := s.host.claims.filter fun c => !(c.zone == zone && c.id == id)
  if p.length ≠ 8 || getU p 0 1 > 1 || getU p 1 1 > 2 || getU p 4 4 ≠ 0 || (if zone then id > 63 else id = 0) then no .badParam
  else match getU p 1 1 with
    | 0 =>
      let mine : Bool := match held with | some c => c.master == m || c.rank < rank | none => true
      if !mine then no .owned
      else if held.isNone && s.host.claims.length ≥ 1024 then no .noResource
      else
        let t := { s with host.claims := rest ++ [⟨zone, id, m, rank⟩] }
        .done t (claimBody t zone id)
    | 1 =>
      match held with
      | some c =>
        if c.master = m then
          let t := { s with host.claims := rest }
          .done t (claimBody t zone id)
        else no .notFound
      | none => no .notFound
    | _ => .done s (claimBody s zone id)

/-! Resets and reports. -/

/-- SYS_RESET (R340): kind 0 releases the role (R307) and resets 1 ms later; kind 1 clears counters at the next boundary. -/
def doSysReset (p : Bytes) (s : State) : Reply :=
  if p.length ≠ 8 || getU p 0 1 > 1 || (slice p 1 7).any (· != 0) then no .badParam
  else if getU p 0 1 = 0 then .done (releaseRole { s with host.resetDue := true }) []
  else .done { s with host.clearDue := true } []

/-- POST_REPORT (R395). -/
def doPostReport (p : Bytes) (s : State) : Reply := if p.length ≠ 0 then no .badParam else .done s s.boot.report.bytes

/-- TWIN_STAT, SYS_MODE_GET, PWR_STAT carry no payload. -/
def plain (p : Bytes) (body : Bytes) (s : State) : Reply := if p.length ≠ 0 then no .badParam else .done s body

/-- Every cumulative counter is cleared (R340): Tables 2.3, 2.8, 4.4, 5.3, 5.10, 6.4, 6.10, 7.1, 7.11, 8.3, 8.10, 8.11, 9.9,
9.12, 10.13, 12.11, 13.8, 15.2, 15.3, 15.5, 15.6. -/
def clearCounters (s : State) : State :=
  let rx := fun (t : RxStat) => ({ lastIndex := t.lastIndex } : RxStat)
  let port := fun (t : PortStat) => ({ link := t.link, speedNow := t.speedNow } : PortStat)
  let v := s.time.servo
  { s with
    host.clearDue := false
    scene.stats := SMap.mapVals {} (fun _ (t : ObjStat) => { t with dropped := 0, clamps := 0, gainSat := 0 }) s.scene.stats
    scene.peerSt := SMap.mapVals {} (fun _ (t : PeerStat) => { t with late := 0, lost := 0, superseded := 0 }) s.scene.peerSt
    rend.quays := SMap.mapVals {} (fun _ (q : Quay) => { q with fetches := 0, shared := 0, late := 0, eccSub := 0, tapSat := 0 }) s.rend.quays
    rend.depthClamps := 0, rend.shallowEntries := 0, rend.granuleWrites := 0, rend.replayLate := 0, rend.fallbacks := 0
    rend.topSat := 0
    rend.inChains := SMap.mapVals {} (fun _ (c : InChain) => { c with satTrim := 0, satBq := [] }) s.rend.inChains
    rend.outChains := SMap.mapVals {} (fun _ (c : OutChain) => { c with stat := { grPeak := c.stat.grPeak } }) s.rend.outChains
    rend.bridges := SMap.mapVals {} (fun _ (b : Bridge) => { b with slips := 0, sat := 0 }) s.rend.bridges
    rend.accords := SMap.mapVals {} (fun _ (a : AccordSlots) => { a with swaps := 0, replaced := 0 }) s.rend.accords
    rend.dests := SMap.mapVals {} (fun _ (d : Dest) => { d with sat := 0 }) s.rend.dests
    nose.dev := { s.nose.dev with frames := 0, skipped := 0 }
    nose.health := SMap.mapVals {} (fun _ (h : Health) => { h with suspectCount := 0, failedCount := 0 }) s.nose.health
    net.ports := SMap.mapVals {} (fun _ (q : Port) => { q with stat := port q.stat }) s.net.ports
    net.rx := s.net.rx.map fun e => (e.1, { e.2 with stat := rx e.2.stat })
    net.tx := s.net.tx.map fun e => (e.1, { e.2 with pktsA := 0, pktsB := 0, clamps := 0, dropped := 0 })
    time.trigs := SMap.mapVals {} (fun _ (t : Trigger) => { t with fired := 0 }) s.time.trigs
    time.servo := { v with steps := 0, reroutes := 0, holdMs := 0, holdFrom := s.idx }
    time.tsqOver := []
    twin.stat := { lastClaim := s.twin.stat.lastClaim, claimUs := s.twin.stat.claimUs }
    power.holdCount := 0, power.p2 := 0, power.p3 := 0, power.resumeFails := 0
    mem.stat := {}
    io.anaIn := SMap.mapVals {} (fun _ (a : AnaIn) => { a with clips := 0 }) s.io.anaIn
    io.anaOut := SMap.mapVals {} (fun _ (a : AnaOut) => { a with clamps := 0 }) s.io.anaOut
    io.loops := SMap.mapVals {} (fun _ (l : Loop) => { l with count := 0 }) s.io.loops
    io.tdm := SMap.mapVals {} (fun _ (t : Tdm) => { t with clamps := 0, syncErr := 0 }) s.io.tdm }

/-! The host window. -/

/-- HW_ID (Table 11.4). -/
def hwId : Nat := 0x0512 + 0x10000 + bit Config.variant 20 + 0x56000000

/-- STRAP_TWIN as HW_STATUS gives it (Tables 11.5, 14.1). -/
def State.twinCode (s : State) : Nat := if s.isPair then s.boot.straps.twin else 0

/-- Firmware runs: the Quaymaster answers (R396). -/
def State.firmware (s : State) : Bool := s.boot.running ≤ 2

/-- HW_STATUS (Table 11.5). -/
def hwStatus (s : State) : Nat :=
  bit s.host.ready + bit (s.flag mSafe) 1 + bit s.boot.postDone 2 + bit s.boot.postPass 3 + bit s.enforced 4 +
  min s.power.pstate 3 * 32 + s.boot.straps.host * 256 + s.twinCode * 1024 + bit (s.boot.running == 1) 12 +
  (if s.firmware then 0x03020000 else 0)

/-- The window transport reaches master m (R316, R317). -/
def State.windowMaster (s : State) (m : Nat) : Bool := m < 4 && s.hasMaster m

def ringHeadReg (x : Master) : Nat :=
  x.reqHead + x.rspHead * 256 + x.chkDev * 65536 + bit x.ready 31
def ringTailReg (x : Master) : Nat := x.reqTail + x.rspTail * 256 + x.chkHost * 65536

/-- A register of the window as a read returns it (Table 11.3); offsets not named, and write-only registers, read zero. -/
def readReg (s : State) (a : Nat) : Nat :=
  if a = 0 then hwId
  else if a = 4 then hwStatus s
  else if a = 8 then s.power.word.toNat
  else if a = 0x10 then s.host.irqCause.toNat
  else if a = 0x14 then s.host.irqMask.toNat
  else if 0x100 ≤ a && a < 0x200 then getU s.boot.report.bytes (a - 0x100) 4
  else if 0x200 ≤ a && a < 0x280 then
    let m := (a - 0x200) / 16
    if !s.windowMaster m then 0
    else match a % 16 with
      | 4 => 0x10000 + 0x8000 * m
      | 8 => ringHeadReg (s.master m)
      | 12 => ringTailReg (s.master m)
      | _ => 0
  else 0

/-- A word of the host address map as a window master reads it (R316, Table 11.2). -/
def readWindow (s : State) (a size : Nat) : Nat :=
  let area := fun (lo hi : Nat) => lo ≤ a && a < hi
  if size ≠ 4 || a % 4 ≠ 0 || s.boot.straps.host ≥ 2 || (s.pcie && s.host.perst) then 0
  else if a < 0x1000 then readReg s a
  else if area 0x10000 0x30000 || area 0x80000 0xA0000 then unLe (readBytes s.host.mem a 4)
  else if area 0xF0000 0xF0050 && s.pcie then unLe (readBytes s.host.msixTab (a - 0xF0000) 4)
  else if area 0xF8000 0xF8008 && s.pcie then s.host.msixPend.toNat / 2 ^ (8 * (a - 0xF8000)) % 2 ^ 32
  else 0

/-- The PCIe function's identity and capacities (R314). -/
structure PcieFunction where
  classCode   : Nat := 0x040100
  device      : Nat := 0x0512
  vendor      : Nat
  barBytes    : Nat := 1048576
  lanes       : Nat := 2
  vectors     : Nat := 5
  maxPayload  : Nat := 256
  maxReadReq  : Nat := 512
deriving DecidableEq, Repr

def pcieFunction : PcieFunction := { vendor := Config.pciVendor }

/-- The row of Table 11.2 that an address lies in: its first address, and the one after its last. -/
def hostRow (a : Nat) : Option (Nat × Nat) :=
  let area := fun (lo hi : Nat) => lo ≤ a && a < hi
  if a < 0x1000 then some (0, 0x1000)
  else if area 0x10000 0x30000 || area 0x80000 0xA0000 then some (a / 0x4000 * 0x4000, a / 0x4000 * 0x4000 + 0x4000)
  else if area 0xF0000 0xF0050 then some (0xF0000, 0xF0050)
  else if area 0xF8000 0xF8008 then some (0xF8000, 0xF8008)
  else none

/-- Words of a burst of the quad SPI target that stay within the row it starts in (R315). -/
def burstLen (a n : Nat) : Nat :=
  match hostRow a with
  | some r => if a % 4 = 0 then min n ((r.2 - a) / 4) else 0
  | none => 0

/-- A word as the lines carry it: least significant byte first, each byte's high nibble first (R315). -/
def wordNibbles (v : Nat) : List (BitVec 4) :=
  (List.range 4).flatMap fun k => [BitVec.ofNat 4 (v / 2 ^ (8 * k + 4)), BitVec.ofNat 4 (v / 2 ^ (8 * k))]

/-- What the quad SPI target answers to a read of n words (instruction 0xEB, R315): zeros beyond the row. -/
def spiRead (s : State) (a n : Nat) : List (BitVec 4) :=
  (List.range n).flatMap fun i => wordNibbles (if i < burstLen a n then readWindow s (a + 4 * i) 4 else 0)

end Sys2Proof.Machine
end

