-- ==== Sys2Proof/Machine/Pair.lean ====
section
/-!
DEFINITION. The pair (chapter 10): the commands TWIN_CFG, TWIN_STAT, TWIN_WARP, TWIN_SWITCH, WITNESS_SET; lanes and liveness
(R279, R302, R303); claims, yields, leases and hand-overs (R304 to R310).
-/
namespace Sys2Proof.Machine

/-! Identity of the pair. -/

/-- Unit of the pair (Table 10.3): 0 A, 1 B. -/
def State.unitCode (s : State) : Nat := if s.boot.straps.twin = 2 then 1 else 0

/-- Role as Table 10.13 gives it. -/
def State.roleCode (s : State) : Nat := if !s.isPair then 0 else if s.flag mActive then 2 else 1

/-- The pair's identifier at its witness (R304): unit A's node identifier. -/
def State.pairId (s : State) : Nat :=
  if s.unitCode = 0 then (s.peer 0).nodeId else (s.partnerPeer.map PeerRec.nodeId).getD 0

/-- Emit confirmation (R306): every packet whose last sample lies below it has left. A berth at Top runs 16 periods behind. -/
def State.emitConfirm (s : State) : Nat :=
  let waiting := (s.net.ports.flatMap fun e => e.2.queued).filterMap fun k => if k.berth.isSome && k.queue ≥ 6 then some (lastStampOf s k) else none
  let top := s.net.tx.any fun e => e.2.state != 0 && e.2.cfg.top
  let past := match s.media.emitted with | some b => b + (if top then 48 else 64) | none => 0
  waiting.foldl min past

/-! TWIN_CFG, TWIN_STAT, WITNESS_SET. -/

/-- TWIN_CFG (R281): in force from the next block boundary. -/
def doTwinCfg (p : Bytes) (s : State) : Reply :=
  if !twinPayloadOk p then no .badParam
  else if maskOf p = 0 then .done s (s.twin.cfg.bytes 0)
  else .done { s with twin.newCfg := some ((s.twin.newCfg.getD s.twin.cfg).write (maskOf p) p) } []

/-- WITNESS_SET (R304). -/
def doWitnessSet (p : Bytes) (s : State) : Reply :=
  if !witnessPayloadOk p then no .badParam
  else if maskOf p = 0 then .done s (s.twin.witness.bytes 0)
  else .done { s with twin.witness := s.twin.witness.write (maskOf p) p } []

/-- TWIN_STAT (R311): Table 10.13. -/
def twinStatBody (s : State) : Bytes :=
  let t := s.twin
  let w := t.warp.getD {}
  let differs := t.partnerFw != 0 && t.partnerFw != fwRelease
  le 1 s.roleCode ++ le 1 (if s.isPair then s.unitCode else 0xFF) ++
  le 2 (bit (s.flag mAdrift) + bit t.moorUp 1 + bit (t.lanes.getLsbD 0) 2 + bit (t.lanes.getLsbD 1) 3 + bit t.netSeen 4 +
    bit t.flowSeen 5 + bit t.lease 6 + bit t.warp.isSome 7 + bit differs 8) ++
  le 4 t.epoch ++ le 1 w.phase ++ zeros 7 ++ le 8 w.done ++ le 8 w.total ++ le 8 t.stat.digestsOk ++ le 4 t.stat.mismatches ++
  le 4 t.stat.adrift ++ le 4 t.stat.warps ++ le 4 t.stat.warpFails ++ le 4 t.stat.claims ++ le 4 t.stat.yields ++
  le 4 t.stat.manifestMiss ++ le 4 t.stat.cmdLate ++ le 4 t.stat.repairMiss ++ le 4 t.stat.mirrorMiss ++ le 8 t.stat.lastClaim ++
  le 4 t.stat.claimUs ++ zeros 4

/-! Warp: start and abandonment. -/

/-- Occupied accord slots (R144). -/
def slotsUsed (a : AccordSlots) : Nat := bit (a.active != {}) + bit a.outgoing.isSome + bit a.pending.isSome

/-- Bytes of a catalogue entry (Table 10.8). -/
def catalogueBytes (e : ObjEntry) : Nat := if e.cfg.direct.isEmpty then 64 else 576

/-- Bytes of the whole warp image (Table 10.8 and the worked example after R301). -/
def warpTotal (s : State) : Nat :=
  let objects := s.activeIds.length
  let taps := (s.rend.taps.map fun e => e.2.length).foldl (· + ·) 0
  2097152 + (s.scene.objects.map fun e => catalogueBytes e.2).foldl (· + ·) 0 +
  4608 * (s.rend.accords.map fun e => slotsUsed e.2).foldl (· + ·) 0 + 260 * chanCount s.media.heart +
  800768 * objects + 11264 * (s.scene.speakers.countP fun e => e.2.enabled) + 40 * taps

/-- The conditions on which a warp starts (R296). -/
def warpOk (s : State) : Bool :=
  let standbyShallow := if s.flag mStandby then s.flag mShallow else s.twin.partnerMode.testBit mShallow
  let standbyAdrift := if s.flag mStandby then s.flag mAdrift else s.flag mActive && s.twin.partnerAdrift
  standbyAdrift && s.twin.moorUp && s.twin.partnerFw == fwRelease && !s.flag mSafe && !s.twin.partnerSafe && !standbyShallow

/-- Start a warp (R296, Table 10.9): the active picks tick X, at least 4 ticks after the start; a standby asks the active. The
record carries the sender's replay-store version. -/
def startWarp (s : State) : State :=
  let v := s.rend.storeVersion
  if s.flag mActive then
    let x := ceilTo 64 (s.idx + 256)
    let n := warpTotal s
    sendTwin 9 true [0, x, n, v] [] { s with twin.warp := some { tick := x, total := n, active := true }, twin.asked := false
                                             twin.stash := [] }
  else sendTwin 9 true [0, 0, 0, v] [] { s with twin.warp := some {}, twin.retry := false, twin.stash := [] }

/-- TWIN_WARP (R296, Table 10.11). In DOZE the warp waits until rendering resumes (Table 12.4 note 16). -/
def doTwinWarp (p : Bytes) (s : State) : Reply :=
  if p.length ≠ 8 || getU p 0 1 > 1 || (slice p 1 7).any (· != 0) then no .badParam
  else if getU p 0 1 = 0 then
    if s.twin.warp.isSome then no .busy
    else if !warpOk s then no .refusedMode
    else if s.flag mDoze then .done { s with twin.retry := s.flag mStandby || s.twin.retry, twin.asked := s.flag mActive } []
    else .done (startWarp s) []
  else if s.twin.warp.isNone then no .notFound
  else .done (endWarp false s) []

/-- An automatic warp, one to be started again, or one that the standby has asked the active for, begins as soon as the
conditions hold (R295, R296, R301) and rendering is not in DOZE (Table 12.4 note 16). -/
def autoWarp (s : State) : State :=
  let wanted := if s.flag mStandby then s.twin.cfg.flags.testBit 0 || s.twin.retry else s.flag mActive && s.twin.asked
  if s.twin.warp.isNone && wanted && warpOk s && !s.flag mDoze then startWarp s else s

/-! Hand-over. -/

/-- TWIN_SWITCH is refused (R310, Table 12.4): the standby ADRIFT or in LOOPBACK, a warp running, the mooring link down. -/
def switchRefused (s : State) : Bool :=
  let adrift := s.flag mAdrift || (s.flag mActive && s.twin.partnerAdrift)
  let loops := if s.flag mStandby then s.flag mLoop else s.twin.partnerMode.testBit mLoop
  adrift || loops || s.twin.warp.isSome || !s.twin.moorUp || !(s.flag mActive || s.flag mStandby)

/-- The hand-over at stamp h (R310): this unit sends below it, or from it. -/
def armHandOver (h : Nat) (s : State) : State :=
  { s with twin.handOver := some (s.flag mActive, h) }

/-- The active names the stamp of a hand-over (R310): the outputs of the first block boundary at or after the apply period. -/
def startHandOver (apply : Nat) (s : State) : State :=
  let h := ceilTo 16 (max apply s.rTen) + 48
  sendTwin 11 true [h] [] (armHandOver h s)

/-- TWIN_SWITCH (R310). A standby passes it to the active as a command record; the active sends the hand-over record (DESIGN
CHOICE, assumption 54). -/
def doTwinSwitch (p : Bytes) (s : State) : Reply :=
  let a := getU p 0 8
  if p.length ≠ 8 || a > s.idx + 2 ^ 31 then no .badParam
  else if switchRefused s then no .refusedMode
  else if s.twin.handOver.isSome then no .busy
  else if s.flag mActive then .deferred (startHandOver a s)
  else .deferred (sendTwin 1 true [s.twin.sendSeq, originNumber .device, 0, max a s.rTen, Opcode.twinSwitch.code] p
    { s with twin.sendSeq := wrapAdd 32 s.twin.sendSeq 1 })

/-- Running loopbacks stop. -/
def stopLoops (s : State) : State := { s with boot.loops := s.boot.loops.map fun l => { l with stopping := true } }

/-- The roles change places at block h − 48 (R310); LOOPBACK ends on the unit that becomes active (Table 12.4 note 18). -/
def handOverBlock (b : Nat) (s : State) : State :=
  match s.twin.handOver with
  | some (true, h) =>
    if h ≤ b + 48 && s.flag mActive then
      twinEvent 5 s.twin.epoch (setWord (withFlag (withFlag s.power.word mActive false) mStandby true) srcDevice s)
    else s
  | some (false, h) =>
    if h ≤ b + 48 && s.flag mStandby then
      let e := max s.twin.epoch s.twin.seenEpoch
      twinEvent 5 e (setWord (withFlag (withFlag (withFlag (withFlag s.power.word mActive true) mStandby false) mAdrift false) mLoop false) srcDevice
        { stopLoops s with twin.epoch := e, twin.kept := [], twin.stopAt := none })
    else s
  | none => s

/-! Liveness, claims and yields. -/

/-- Modulus of the sequence numbers of a berth's packets. -/
def seqMod (x : RxBerth) : Nat := if x.cfg.format = 2 then 2 ^ 32 else 65536

/-- The unit takes presence from its own arrivals (R303): packets of FREE flows held for the manifest are placed. -/
def takeOwn (s : State) : State :=
  if s.twin.ownPresence then s
  else s.net.rx.foldl (fun s e =>
    let s := updRx e.1 (fun x => { x with held := [] }) s
    e.2.held.foldl (fun s h => placeFree (seqMod e.2) e.1 h.1 h.2 s) s) { s with twin.ownPresence := true }

/-- All three signals are silent (R302). -/
def State.allSilent (s : State) : Bool := s.twin.ownPresence && !s.netAlive && !s.flowsAlive

/-- A witness is configured (Table 10.12). -/
def State.hasWitness (s : State) : Bool := s.twin.witness.witness != 0

/-- Ask the witness for the lease (Table 10.2, kind 12), on the twin-control berths (R280). -/
def askLease (s : State) : State := sendTwin 12 false [s.pairId, s.unitCode, s.twin.epoch] [] s

/-- With all three signals silent, or on a release, the standby claims at the next block boundary, an ADRIFT one only with flags
[1]. With a witness it claims only while it holds the lease, which it requests only when all three are silent; without one,
unit B waits b_delay, but not on a release (R303, R304, R307, R309). -/
def considerClaim (s : State) : State :=
  if !s.flag mStandby || !(s.twin.released || s.allSilent) || (s.flag mAdrift && !s.twin.cfg.flags.testBit 1) ||
      s.twin.claimAt.isSome then s
  else if s.hasWitness && !s.twin.lease then (if s.allSilent then askLease s else s)
  else
    let wait := if s.unitCode = 1 && !s.hasWitness && !s.twin.released then s.msPeriods s.twin.cfg.bDelay else 0
    { s with twin.claimAt := some (ceilTo 16 (s.nextBoundary + wait)) }

/-- The rules of SHALLOW end with the role of standby (R104, R291). -/
def unfollow (s : State) : State :=
  if s.twin.follow then raiseMarks (markFrom s.toCompute) { s with twin.follow := false, twin.followAt := none }
  else { s with twin.followAt := none }

/-- A claim (R305): the role, the epoch, the burst; the kept packets go in the first emit slot (R306). -/
def claimRole (s : State) : State :=
  let e := max s.twin.epoch s.twin.seenEpoch + 1
  let w := withFlag (withFlag (withFlag (withFlag s.power.word mActive true) mStandby false) mAdrift false) mLoop false
  let s := stopLoops (unfollow (takeOwn (setWord w srcDevice s)))
  let us := (s.idx - s.twin.lastHeard) * 1000000 / s.hz
  let s := { s with
    twin.epoch := e % 2 ^ 32, twin.burstUntil := s.idx + s.msPeriods 8, twin.claimAt := none, twin.stopAt := none
    twin.handOver := none, twin.warp := none, twin.retry := false, twin.released := false
    twin.stat := { s.twin.stat with
      claims := wrapAdd 32 s.twin.stat.claims 1, lastClaim := s.idx, claimUs := us % 2 ^ 32 } }
  noseFollow (twinEvent 1 s.twin.epoch s)

/-- A claim due may be made (R303, R304, R307): after a release, or with every signal silent; with a witness only while the unit
holds the lease. -/
def State.mayClaim (s : State) : Bool := (s.twin.released || s.allSilent) && (!s.hasWitness || s.twin.lease)

/-- TWIN_CLAIM (R303, R305): at the block boundary the claim waited for. A signal that came back withdraws it. -/
def execTwinClaim (s : State) : Host.Outcome State Fault Refusal :=
  match s.twin.claimAt with
  | some n =>
    if s.idx < n || !s.flag mStandby then .next s
    else if s.mayClaim then .next (claimRole s) else .next { s with twin.claimAt := none }
  | none => .next s

/-- An active unit yields (R308): it stops queuing at its next block boundary and becomes an ADRIFT standby. -/
def yieldRole (s : State) : State :=
  let s := setWord (withFlag (withFlag s.power.word mActive false) mStandby true) srcDevice { s with
    twin.stopAt := some s.nextEmit, twin.warp := none, twin.stat.yields := wrapAdd 32 s.twin.stat.yields 1 }
  noseFollow (setAdrift 7 (twinEvent 2 s.twin.epoch s))

/-- A decision of the active takes effect (R290, R291, R353, R359). -/
def followDecision (d : Decision) (s : State) : State :=
  match d with
  | .shallow on tick mark => { s with twin.followAt := some (on, tick, mark) }
  | .drydown b => { s with power.dryAt := some b }
  | .resume w => { s with power.resumeTick := some w }
  | .noseU u temp => { s with scene.airSt := { s.scene.airSt with noseU := some u, noseTemp := temp } }
  | .anchor i a => { s with nose.anchors := match a with
      | some k => SMap.ins s.nose.anchors i k
      | none => SMap.del s.nose.anchors i }
  | .proposal k p => { s with
      nose.proposals := SMap.put {} s.nose.proposals k p
      nose.dev := { s.nose.dev with nextId := p.id % (2 ^ 32 - 1) + 1 } }
  | .phaseStep => abandonWarp (setAdrift 5 s)

/-- Decisions of the active's Nose that are due take effect (R290). -/
def takeDecisions (due : Nat × Decision → Bool) (s : State) : State :=
  (s.twin.decisions.filter due).foldl (fun s e => followDecision e.2 s)
    { s with twin.decisions := s.twin.decisions.filter fun e => !due e }

/-! Mooring lanes. -/

/-- A heartbeat has arrived in the last moor_hold intervals (R279). -/
def State.heartFresh (s : State) : Bool :=
  match s.twin.lastBeat with | some i => s.idx < i + 16 * s.twin.cfg.moorHold | none => false

/-- Hold-offs of the three signals (R302): each is silent a time after the last sign of the active, or after this unit's start. -/
def State.moorHeld (s : State) : Bool := s.idx < s.twin.moorHeard.getD 0 + 16 * s.twin.cfg.moorHold
def State.netHeld (s : State) : Bool := s.idx < s.twin.netHeard.getD 0 + s.msPeriods s.twin.cfg.netHold
def State.flowsHeld (s : State) : Bool := s.idx < s.twin.flowHeard.getD 0 + s.msPeriods s.twin.cfg.flowHold

/-- The mooring link goes down (R279, R301). -/
def moorDown (s : State) : State := if s.twin.moorUp then abandonWarp { s with twin.moorUp := false } else s

/-- MOORING_LANE_LOCK (R279): a lane in a loopback, and a solo unit's, stay idle (R277, R400). -/
def execMooringLaneLock (lane : Fin 2) (s : State) : Host.Outcome State Fault Refusal :=
  if !s.isPair || !s.alive || looped s (2 + lane.val) 0 then .next s
  else
    let s := { s with twin.lanes := s.twin.lanes ||| BitVec.ofNat 2 (2 ^ lane.val) }
    .next (autoWarp { s with twin.moorUp := s.heartFresh })

/-- A lane loses lock: the other carries everything (R279). -/
def loseLane (lane : Nat) (s : State) : State :=
  let s := { s with twin.lanes := s.twin.lanes &&& ~~~(BitVec.ofNat 2 (2 ^ lane)) }
  if s.twin.lanes = 0 then moorDown s else s

/-- MOORING_LANE_LOCK_LOSS (R279). -/
def execMooringLaneLockLoss (lane : Fin 2) (s : State) : Host.Outcome State Fault Refusal := .next (loseLane lane.val s)

/-- MOORING_SILENT (R279, R302, R303): without any heartbeat the link is down; without one of the active, a standby takes presence
from its own arrivals. -/
def execMooringSilent (s : State) : Host.Outcome State Fault Refusal :=
  if !s.isPair then .next s
  else
    let s := if s.heartFresh then s else moorDown s
    .next (if s.flag mStandby && !s.moorHeld then considerClaim (aliveElsewhere (takeOwn s)) else s)

/-- NETWORK_SILENT (R302): net_hold ms without a heartbeat of the active on the network. -/
def execNetworkSilent (s : State) : Host.Outcome State Fault Refusal :=
  .next (if s.netHeld then s else considerClaim { s with twin.netSeen := false })

/-- FLOWS_SILENT (R302): flow_hold ms without a watched packet. -/
def execFlowsSilent (s : State) : Host.Outcome State Fault Refusal :=
  .next (if s.flowsHeld then s else considerClaim { s with twin.flowSeen := false })

/-! Heartbeats. -/

/-- The unit's heartbeat record (Table 10.3). -/
def State.heartbeat (s : State) : Heartbeat :=
  { unit := s.unitCode, active := s.flag mActive, adrift := s.flag mAdrift, lease := s.twin.lease, warp := s.twin.warp.isSome
    safe := s.flag mSafe, epoch := s.twin.epoch, fw := fwRelease, mode := s.power.word.toNat, confirm := s.emitConfirm
    leaseEnd := if s.twin.lease then s.twin.leaseEnd else 0 }

/-- TWIN_HEARTBEAT_SEND (R282): on the mooring link, or on the twin-control berths. -/
def execTwinHeartbeatSend (network : Bool) (s : State) : Host.Outcome State Fault Refusal :=
  if !s.isPair || !s.alive || !s.boot.postDone || (if network then !s.twinBerths else s.twin.lanes == 0) then .next s
  else .next (sendTwin 0 (!network) [] (heartbeatBytes s.heartbeat) s)

/-- An active unit that hears an active partner yields to a higher epoch, and unit B to an equal one (R308). -/
def mustYield (hb : Heartbeat) (s : State) : Bool :=
  s.flag mActive && hb.active && (s.twin.epoch < hb.epoch || (s.twin.epoch == hb.epoch && s.unitCode == 1))

/-- A heartbeat of the partner is heard (R302); its epoch is the last one seen (R305). -/
def hearBeat (network : Bool) (hb : Heartbeat) (s : State) : State :=
  let s := { s with
    twin.seenEpoch := hb.epoch, twin.partnerFw := hb.fw, twin.partnerSafe := hb.safe
    twin.partnerAdrift := hb.adrift, twin.partnerMode := hb.mode }
  let s := if network then s else { s with twin.lastBeat := some s.idx, twin.moorUp := true }
  let s := if !hb.active then s
    else if network then { s with twin.netHeard := some s.idx } else { s with twin.moorHeard := some s.idx }
  if !hb.active || s.flag mActive then s
  else
    let s := { s with
      twin.lastHeard := s.idx, twin.confirm := max s.twin.confirm hb.confirm, twin.claimAt := none, twin.released := false }
    if network then aliveElsewhere { s with twin.netSeen := true } else { s with twin.ownPresence := false }

/-- TWIN_HEARTBEAT (R302, R303, R308, R309). -/
def execTwinHeartbeat (network : Bool) (hb : Heartbeat) (s : State) : Host.Outcome State Fault Refusal :=
  let deaf := if network then !s.twinNet else s.twin.lanes == 0
  if !s.isPair || !s.alive || !s.boot.postDone || deaf || hb.unit == s.unitCode then .next s
  else
    let s := hearBeat network hb s
    .next (autoWarp (if mustYield hb s then yieldRole s else s))

/-! Releases, hand-overs and leases. -/

/-- TWIN_RELEASE (R307): the standby claims at the next block boundary, without hold-offs or b_delay; with a witness once it holds
the lease (R304). The block named tells when the active stops; the kept packets go from its last confirmation on, whatever it
is (R306). -/
def execTwinRelease (_block : Nat) (s : State) : Host.Outcome State Fault Refusal :=
  if !s.flag mStandby || (s.flag mAdrift && !s.twin.cfg.flags.testBit 1) then .next s
  else .next (considerClaim { s with twin.released := true, twin.claimAt := none })

/-- TWIN_HAND_OVER (R310): the active names the stamp. -/
def execTwinHandOver (stamp : Nat) (s : State) : Host.Outcome State Fault Refusal :=
  if s.flag mActive || switchRefused s || s.twin.handOver.isSome then .next s else .next (armHandOver stamp s)

/-- LEASE_REQUEST (R304): the witness grants to the holder, to the first, or a millisecond after expiry; none for lease_ms
+ 1 ms after its own start; at most 64 pairs. -/
def execLeaseRequest (pair : Nat) (unit : Fin 2) (epoch : Nat) (s : State) : Host.Outcome State Fault Refusal :=
  let w := s.twin.witness
  let held := s.twin.leases.find? fun l => l.pair == pair
  let may : Bool := match held with
    | some l => l.holder == unit.val || decide (l.expiry + s.msPeriods 1 ≤ s.idx)
    | none => decide (s.twin.leases.length < 64)
  if !s.twinBerths || !w.serve || !may || !s.boot.postDone || s.flag mSafe || s.idx < s.twin.servedFrom + s.msPeriods (w.leaseMs + 1) then .next s
  else
    let e := s.idx + s.msPeriods w.leaseMs
    .next (sendTwin 13 false [pair, unit.val, epoch, e] []
      { s with twin.leases := (s.twin.leases.filter fun l => l.pair != pair) ++ [⟨pair, unit.val, epoch, e⟩] })

/-- LEASE_GRANT (R304): the standby that asked may claim. The grant's epoch is the one of its request. -/
def execLeaseGrant (holder : Fin 2) (_epoch expiry : Nat) (s : State) : Host.Outcome State Fault Refusal :=
  if !s.isPair || !s.twinBerths || !s.hasWitness || holder.val ≠ s.unitCode || expiry ≤ s.idx then .next s
  else .next (considerClaim { s with twin.lease := true, twin.leaseEnd := expiry })

/-- LEASE_RENEW (R304): the active asks again every renew_ms; so does a standby that waits for the lease to claim with. -/
def execLeaseRenew (s : State) : Host.Outcome State Fault Refusal :=
  .next (if !s.hasWitness then s else if s.flag mActive then askLease s else considerClaim s)

/-- LEASE_EXPIRE (R304, R307): the active releases, stops queuing at the next block boundary and becomes standby. -/
def execLeaseExpire (s : State) : Host.Outcome State Fault Refusal :=
  if !s.twin.lease || s.idx < s.twin.leaseEnd then .next s
  else
    let active := s.flag mActive
    let s := releaseRole { s with twin.lease := false, twin.leaseEnd := 0 }
    .next (if active then noseFollow (setFlag mStandby true srcDevice s) else s)

end Sys2Proof.Machine
end

