-- ==== Sys2Proof/Machine/Boot.lean ====
section
/-!
DEFINITION. Start-up, self-test, flash and field service (chapter 14), PORST_N and the lantern (R355, R422, R423), the wake from
P3 (R354), boundary scan and debug (R401, R402).
-/
namespace Sys2Proof

/-! The image header (Table 14.4). -/

def Image.release (m : Image) : Nat := getU m.data 8 4
def Image.rbIndex (m : Image) : Nat := getU m.data 14 2
def Image.length (m : Image) : Nat := getU m.data 16 4
def Image.keySlot (m : Image) : Nat := getU m.data 24 1 % 4
def Image.revoke (m : Image) : Nat := getU m.data 25 1 % 16
def Image.digest (m : Image) : Bytes := slice m.data 32 48
def Image.pubkey (m : Image) : Bytes := slice m.data 80 97
def Image.signature (m : Image) : Bytes := slice m.data 180 96

/-- The payload: `length` bytes after the header; flash that nothing programmed reads as ones. -/
def Image.payload (m : Image) : Bytes :=
  (m.data.drop 512).take m.length ++ List.replicate (m.length - (m.data.length - 512)) 0xFF

/-- The values Table 14.4 allows: magic, hdr_version, rollback index, length, key slot. -/
def Image.headerOk (m : Image) : Bool :=
  getU m.data 0 4 == 0x494D0512 && getU m.data 4 4 == 1 && m.rbIndex ≤ 64 && 1 ≤ m.length && m.length ≤ 6291456 &&
  getU m.data 24 1 ≤ 3

/-- A load has brought the image whole, as far as its header tells (R390). -/
def Image.arrived (m : Image) : Bool := 512 ≤ m.data.length && (6291456 < m.length || 512 + m.length ≤ m.data.length)

end Sys2Proof

namespace Sys2Proof.Machine

/-! The boot record (R387). -/

/-- The copy in force: the present one with the higher sequence, modulo 2^32. -/
def recordAt (m : SMap BootRec) : Option Nat :=
  match SMap.look m 0, SMap.look m 1 with
  | none, none => none
  | some _, none => some 0
  | none, some _ => some 1
  | some a, some b =>
    let d := (b.sequence + 2 ^ 32 - a.sequence) % 2 ^ 32
    if 0 < d && d < 2 ^ 31 then some 1 else some 0

/-- The record in force; the defaults of Table 14.3 where neither copy is valid. -/
def State.bootRec (s : State) : BootRec := ((recordAt s.boot.records).bind (SMap.look s.boot.records)).getD {}

/-- Write a record into the copy not in force. -/
def writeRecord (f : BootRec → BootRec) (s : State) : State :=
  let r := s.bootRec
  let slot := if recordAt s.boot.records = some 0 then 1 else 0
  { s with boot.records := SMap.ins s.boot.records slot { f r with sequence := (r.sequence + 1) % 2 ^ 32 } }

/-- Image slot i's bad flag. -/
def badFlag (r : BootRec) (i : Nat) : Bool := r.flags.testBit (1 + i)

/-- R388 apart from the bad flag: the header; the key hash in fuse slot key_slot, not revoked; the signature over the header's bytes 0 to
179; the digest of the payload; the rollback floor. -/
def imagePasses (s : State) (m : Image) : Bool :=
  m.headerOk && Config.sha384 m.pubkey == Config.keyHash m.keySlot && !s.boot.revoked.testBit m.keySlot &&
  Config.ecdsaValid m.pubkey (Config.sha384 (slice m.data 0 180)) m.signature && m.digest == Config.sha384 m.payload &&
  m.rbIndex ≥ s.boot.floor

/-- Slot i holds an image that passes R388. -/
def slotPasses (s : State) (i : Nat) : Bool :=
  match SMap.look s.boot.images i with | some m => imagePasses s m && !badFlag s.bootRec i | none => false

/-! Self-test (R391, R392). -/

/-- Steps 3 to 6: the first that fails, with its reason (Table 14.6). -/
def failedStep (t : SelfTest) : Option (Nat × Nat) :=
  if t.dramRates % 8 ≠ 7 || t.dramChan ≠ 0 then some (3, 3)
  else if !t.dramRates.testBit 3 then some (3, 4)
  else if t.serdes ≠ 0 || t.prbsErr.any (· ≠ 0) then some (4, 5)
  else if (t.adcLevel.any fun x => x.natAbs > 50) || (t.thdn.any fun x => x > -9000) || t.loops ≠ 0 || !t.dieLink || !t.supplyOk
  then some (5, 6)
  else if t.sigFail ≠ 0 then some (6, 7)
  else none

/-- The report's fields of the steps that ran; the others at the defaults of Table 14.7. -/
def upToStep (n : Nat) (t : SelfTest) : SelfTest :=
  { t with
    dramRates := if n ≥ 3 then t.dramRates else 0, dramChan := if n ≥ 3 then t.dramChan else 0
    serdes := if n ≥ 4 then t.serdes else 0, prbsErr := if n ≥ 4 then t.prbsErr else []
    adcLevel := if n ≥ 5 then t.adcLevel else [], thdn := if n ≥ 5 then t.thdn else []
    loops := if n ≥ 5 then t.loops else 0, dieLink := n ≥ 5 && t.dieLink
    sigFail := if n ≥ 6 then t.sigFail else 0, stepMs := t.stepMs.take n }

/-- The step is complete: its findings are in the report. -/
def reportStep (n : Nat) (t : SelfTest) (s : State) : State := { s with boot.report := { s.boot.report with test := upToStep n t } }

/-- Self-test fails in a step: SAFE (R394). The report keeps the step. -/
def failBoot (step reason : Nat) (t : SelfTest) (s : State) : State :=
  let s := reportStep step t { s with boot.postDone := true, boot.postPass := false, boot.loading := false }
  enterSafe reason { s with boot.report := { s.boot.report with step := step } }

/-- Debug access opens (R402): no credential block is in force; logged. -/
def openDebug (s : State) : State :=
  logEvent 19 2 srcDevice [srcDevice, 3, 0] { s with boot.debugOpen := true, host.cred := none }

/-- The credential block of the boot record comes into force (R329, R341). -/
def loadCreds (s : State) : State :=
  match SMap.look s.boot.creds s.bootRec.cred with
  | some c => if s.boot.debugOpen then s else logEvent 19 2 srcDevice [srcDevice, 1, c.version] { s with host.cred := some c }
  | none => s

/-- After a passing boot with flag [0] of the record set, the Pilot raises the floor, revokes keys, and clears the flag
(R389). -/
def raiseFloor (m : Image) (s : State) : State :=
  if !s.bootRec.flags.testBit 0 || s.boot.running > 1 then s
  else
    let revoke := if m.revoke.testBit m.keySlot then m.revoke - 2 ^ m.keySlot else m.revoke
    let rises := m.rbIndex > s.boot.floor
    let floor := max s.boot.floor m.rbIndex
    let s := writeRecord (fun r => { r with flags := setBitN r.flags 0 false })
      { s with boot.floor := floor, boot.revoked := s.boot.revoked ||| revoke }
    { s with boot.report := { s.boot.report with
        floor := floor, imgFlags := if rises then s.boot.report.imgFlags + 32 else s.boot.report.imgFlags } }

/-- The word after self-test (R345); a unit of a pair enters ADRIFT. -/
def firstWord (s : State) : State :=
  if s.isPair then
    let w := BitVec.ofNat 16 (2 ^ mDark + 2 ^ mStandby + 2 ^ mAdrift)
    let s := setWord w srcDevice { s with twin.ownPresence := true, twin.stat.adrift := wrapAdd 32 s.twin.stat.adrift 1 }
    twinEvent 0 (Config.adriftReason 8 % 2 ^ 32) s
  else setWord (BitVec.ofNat 16 (2 ^ mDark)) srcDevice s

/-- Self-test passed (Table 14.5, R345, R393): the interface is ready, ports carry their defaults, the PLLs are locked, the
outputs have their default span. -/
def passBoot (m : Image) (t : SelfTest) (s : State) : State :=
  let s := reportStep 6 t s
  let s := { s with
    boot.postDone := true, boot.postPass := true, host.ready := true, time.pllLock := 0xFF, mem.temp0 := t.temp0
    mem.temp1 := t.temp1, boot.report := { s.boot.report with result := 1 } }
  let s := (List.range 8).foldl (fun s o => updAnaOut o (fun a => { a with written := true }) s) s
  let s := raiseFloor m (firstWord (readyRings s))
  if s.boot.straps.safe then enterSafe 0x08 s else s

/-- The management port's address until PORT_CFG sets one (R393). -/
def linkLocal (s : State) : State :=
  updPort 2 (fun q => { q with cfg := { q.cfg with ipv4 := 0xA9FEFEF0 + s.boot.straps.node, prefixLen := 16 } }) s

/-- The image runs (R388, R391): steps 3 to 6. -/
def runImage (slot : Nat) (m : Image) (t : SelfTest) (s : State) : State :=
  let s := { s with
    boot.running := slot, boot.loading := false, io.uart := {}
    boot.report := { s.boot.report with fw := m.release, image := if slot < 2 then slot else 255, rbIndex := m.rbIndex } }
  if t.stalls then reportStep 2 t { s with boot.stalled := true }
  else match failedStep t with
    | some (n, r) => failBoot n r t s
    | none => passBoot m t s

/-- The Pilot boots from flash (R389). -/
def bootFlash (watchdog : Bool) (t : SelfTest) (s : State) : State :=
  let first := s.bootRec.preferred % 2
  let flags := bit (slotPasses s 0) + bit (slotPasses s 1) 1
  let pick := if slotPasses s first then some first else if slotPasses s (1 - first) then some (1 - first) else none
  match pick with
  | none => failBoot 2 0x02 t { s with boot.report := { s.boot.report with imgFlags := flags } }
  | some i =>
    let s := { s with boot.report := { s.boot.report with imgFlags := flags + bit (i != first) 2 + bit watchdog 3 } }
    match SMap.look s.boot.images i with
    | some m => runImage i m t s
    | none => s

/-- A reserved strap value is logged (Table 14.1). -/
def logStraps (s : State) : State :=
  let note := fun (s : State) => logEvent (8 + Config.strapLog 0 % 12) (Config.strapLog 1 % 256) srcDevice [Config.strapLog 2 % 2 ^ 32] s
  let s := if s.boot.straps.twin = 3 then note s else s
  if s.boot.straps.host = 3 then note s else s

/-- A boot from a release of PORST_N or a reset, with the straps and the lantern's wake reason (R50, R385, R391, Table 14.5);
at its end the device waits for an image, or has finished self-test. -/
def bootFrom (straps : Straps) (reason : Nat) (watchdog : Bool) (t : SelfTest) (s : State) : State :=
  let c := coldState s
  let c := { c with
    boot.straps := straps, boot.boots := s.boot.boots + 1, boot.up := true, media.heart := straps.heart
    time.spread := straps.spread, time.dev.spreadFabric := straps.spread, power.wakeReason := reason, power.pwrEn := true, power.pgood := true
    scene.peers := [(0, { roles := 1, nodeId := 0xFFFF0 + straps.node })], net.phy := (List.range 32).find? Config.phyAnswers
    boot.report := {
      straps := straps, wakeReason := reason, floor := s.boot.floor
      test := { upToStep 1 t with stepMs := t.stepMs.take 1 } } }
  let c := logStraps (linkLocal c)
  let c := loadCreds (if straps.dbg && Config.debugLockIntact then openDebug c else c)
  if t.sramCount ≠ 0 then failBoot 1 0x01 t c
  else if straps.boot = 0 then bootFlash watchdog t c
  else { c with boot.loading := true, io.uart := if straps.boot = 3 then { baud := 921600, use := 1 } else {} }

/-- A reset that samples no straps (R340, R389). -/
def rebootDevice (watchdog : Bool) (t : SelfTest) (s : State) : State :=
  bootFrom s.boot.straps s.power.nextReason watchdog t s

/-- PORST_N_RELEASE (R391): the straps are sampled and the lantern's wake reason latched. While PWR_EN is low, as it is while VKEEP
is absent, the device is unpowered (R355, R423). -/
def execPorstNRelease (straps : Straps) (t : SelfTest) (s : State) : Host.Outcome State Fault Refusal :=
  if s.boot.up || !s.power.vkeep || !s.power.pwrEn then .next s
  else .next (bootFrom straps s.power.nextReason false t s)

/-- PORST_N asserted: the device is in reset (R422); from P2 or P3 the next boot's reason is 5 (R357). -/
def resetDevice (s : State) : State :=
  let deep := s.power.stage = 2 || s.power.stage = 3
  coldState { s with power.nextReason := if deep then 5 else s.power.nextReason }

/-- PORST_N_ASSERT (R430, Table 16.12): 2 µs always resets, 1 µs or less never; between them the manual leaves it open (assumption 7). In P4 the
rails are off. -/
def execPorstNAssert (ns : Nat) (s : State) : Host.Outcome State Fault Refusal :=
  if s.power.stage = 4 || ns ≤ 1000 then .next s
  else if ns ≥ 2000 then .next (resetDevice s)
  else
    let t := { s with media.fresh := s.media.fresh + 1 }
    if Config.freeNat s.media.fresh % 2 = 1 then .next (resetDevice t) else .next t

/-- RESET_BEGIN (R340, R399). -/
def execResetBegin (t : SelfTest) (s : State) : Host.Outcome State Fault Refusal :=
  if s.host.resetDue then .next (rebootDevice false t s) else .next s

/-- BOOT_WATCHDOG (R389): the running image is marked bad, and the device resets. -/
def execBootWatchdog (t : SelfTest) (s : State) : Host.Outcome State Fault Refusal :=
  if !s.boot.stalled then .next s
  else
    let s := if s.boot.running < 2 then writeRecord (fun r => { r with flags := setBitN r.flags (1 + s.boot.running) true }) s else s
    .next (rebootDevice true t s)

/-- The image that a load has brought: over the window what its chunk stream carried, over the UART the operand (R390). -/
def loadedImage (img : Image) (s : State) : Image := if s.boot.straps.boot = 3 then img else ⟨s.boot.loaded⟩

/-- BOOT_LOAD_DONE (R390): R388 in full, for an image in no slot. -/
def execBootLoadDone (img : Image) (t : SelfTest) (s : State) : Host.Outcome State Fault Refusal :=
  if !s.boot.loading || s.flag mSafe || !(loadedImage img s).arrived then .next s
  else
    let img := loadedImage img s
    let s := { s with boot.report := { s.boot.report with imgFlags := 16 } }
    .next (if imagePasses s img then runImage 2 img t s else failBoot 2 0x02 t s)

/-! The lantern. -/

/-- VKEEP_RISE (R355): PWR_EN goes high, and the wake reason is 0. -/
def execVkeepRise (s : State) : Host.Outcome State Fault Refusal :=
  if s.power.vkeep then .next s
  else .next { s with power.vkeep := true, power.pwrEn := true, power.nextReason := 0 }

/-- VKEEP_LOSS (R357, R423): the lantern loses what it keeps; PWR_EN is low and the device unpowered. -/
def execVkeepLoss (s : State) : Host.Outcome State Fault Refusal :=
  let c := coldState s
  if !s.power.vkeep && s.power.stage ≠ 4 then .next s
  else .next { c with
    boot.tap := .idcode, power.vkeep := false, power.pwrEn := false, power.pgood := false, power.holdCount := 0, power.nextReason := 0, power.timer := 0 }

/-- PGOOD_FALL (R355, R422): 10 µs or more while PWR_EN is high is recorded. -/
def execPgoodFall (ns : Nat) (s : State) : Host.Outcome State Fault Refusal :=
  if ns < 10000 then .next s
  else .next { s with power.pgood := false, power.nextReason := if s.power.pwrEn then 7 else s.power.nextReason }

/-- PWR_EN_RAISE (R355, Table 12.8): after a wake from P4. -/
def execPwrEnRaise (s : State) : Host.Outcome State Fault Refusal :=
  if s.power.stage = 4 && s.power.wake ≠ .none then .next { s with power.pwrEn := true } else .next s

/-- What a wake from P3 restores (R353, R354, R382, Table 12.7): the Quaymaster runs, groups are joined, the DRAM runs at
8,533 MT/s from its stored setpoints, rendering starts at W. -/
def restoreP3 (kind : WakeKind) (s : State) : State :=
  let s := s.net.members.foldl (fun s m => report m true s) s
  let s := { s with
    power.stage := 2, power.wake := kind, power.wakeReason := wakeCode kind, power.nextReason := wakeCode kind
    host.ready := true, mem.rate := 0, mem.degraded := 0, mem.searches := [], mem.settings := [], mem.stepWanted := false, mem.rateWanted := none
    media.running := true, media.snapped := none, media.caught := none, media.computed := none, media.emitted := none
    media.handed := none, media.windowed := none }
  { s with power.resumeTick := some s.resumeAt }

/-- P3_WAKE_RESTORE (R354): with a broken seal or no working DRAM setting the device boots cold, wake reason 6. -/
def execP3WakeRestore (kind : WakeKind) (sealed trained : Bool) (t : SelfTest) (s : State) : Host.Outcome State Fault Refusal :=
  if s.power.stage ≠ 3 || !(wakesFrom s kind 3 || (kind != .none && s.power.wake == kind)) then .next s
  else if sealed && trained then .next (restoreP3 kind s)
  else
    let n := wrapAdd 32 s.power.resumeFails 1
    let c := bootFrom s.boot.straps 6 false t { s with power.nextReason := 6 }
    .next { c with power.resumeFails := n }

/-! Boundary scan and debug. -/

/-- IDCODE (R401): version 1, part number 0x0512, the manufacturer of the BSDL file, and the 1 that IEEE 1149.1 ends it with. -/
def idcode : Nat := 1 * 2 ^ 28 + 0x0512 * 2 ^ 12 + Config.jtagMaker % 2 ^ 11 * 2 + 1

/-- TAP_INSTRUCTION (R401, Table 14.6): IDCODE shifts its word out, SAMPLE what the chain captures (assumption 4); every instruction but
BYPASS, IDCODE and SAMPLE/PRELOAD enters SAFE. TRST_N does not affect the device. -/
def execTapInstruction (i : TapInstr) (s : State) : Host.Outcome State Fault Refusal :=
  let t := { s with boot.tap := i }
  .next (
    if !s.boot.up then s
    else match i with
    | .bypass => t
    | .trst => { s with boot.tap := .idcode }
    | .idcode => send (.tdo ((List.range 32).map idcode.testBit)) t
    | .samplePreload =>
      let n := s.media.fresh
      send (.tdo ((List.range Config.scanCells).map fun k => Config.freeNat (n + k) % 2 == 1))
        { t with media.fresh := n + Config.scanCells }
    | .extest | .clamp | .highz | .extestPulse | .extestTrain => enterSafe 0x0E t)

/-- DEBUG_UNLOCK (R402): the token covers the serial number and the boot's challenge. -/
def execDebugUnlock (token : Bytes) (s : State) : Host.Outcome State Fault Refusal :=
  if s.boot.up && s.boot.straps.dbg && !s.boot.debugOpen &&
      Config.unlockValid Config.serial (Config.challenge s.boot.boots) token then .next (openDebug s)
  else .next s

/-! Firmware and credentials. -/

/-- The image slot a stage writes (R398): the one not running; after a loaded image, the one not preferred. -/
def State.idleSlot (s : State) : Nat :=
  if s.boot.running = 0 then 1 else if s.boot.running = 1 then 0 else 1 - s.bootRec.preferred % 2

/-- The credential slot not in force (R398). -/
def State.idleCred (s : State) : Nat := if s.bootRec.cred = 0 then 1 else 0

/-- A credential block's bytes (R329). -/
def credOk (p : Bytes) : Bool :=
  p.length == 328 && getU p 4 1 &&& 0xFC == 0 && getU p 5 3 == 0 &&
  (List.range 8).all fun m => getU p (40 + 40 * m) 1 ≤ 7 && getU p (41 + 40 * m) 1 &&& 0xFE == 0 && getU p (42 + 40 * m) 6 == 0
def credBlockOf (p : Bytes) : CredBlock :=
  { version := getU p 0 4, enforce := (getU p 4 1).testBit 0, dtlsOnly := (getU p 4 1).testBit 1
    creds := (List.range 8).map fun m =>
      { key := slice p (8 + 40 * m) 32, maxRank := getU p (40 + 40 * m) 1, enabled := getU p (41 + 40 * m) 1 == 1 } }

/-- FW_STAGE at acceptance (R329, R398): header, then the data the crane brought. -/
def checkFwStage (p : Bytes) (m : Nat) (s : State) : Option Status :=
  let target := getU p 0 1
  let n := getU p 4 4
  let data := p.drop 8
  if p.length < 8 || target > 1 || getU p 1 3 ≠ 0 || data.length ≠ n || n > (if target = 0 then 8388608 else 328) then
    some .badParam
  else if s.boot.staging.isSome || s.host.resetDue then some .busy
  else if target = 0 then none
  else if s.enforced && (s.credOf m).maxRank < 7 then some .authFail
  else if !credOk data || getU data 0 4 ≤ (match s.host.cred with | some c => c.version | none => 0) && s.host.cred.isSome then
    some .badParam
  else none

/-- FW_STAGE (R398): the slot is invalid from here to the end of the check, which answers. A stage of an image leaves the
training-pattern sector holding its pattern (R432). -/
def doFwStage (p : Bytes) (m : Nat) (s : State) : Reply :=
  match checkFwStage p m s with
  | some st => no st
  | none =>
    let target := getU p 0 1
    let slot := if target = 0 then s.idleSlot else s.idleCred
    let hold : Owed := { id := 0, op := .fwStage, master := m, seq := 0, apply := 0, accepted := 0, payload := p }
    .owe { s with
      boot.staging := some (target, slot, hold), boot.staged := SMap.del s.boot.staged target
      boot.images := if target = 0 then SMap.del s.boot.images slot else s.boot.images
      boot.creds := if target = 1 then SMap.del s.boot.creds slot else s.boot.creds
      boot.pattern := if target = 0 then true else s.boot.pattern } 0

/-- The staged image carries the release expected (R399). -/
def expectOk (s : State) (target slot expect : Nat) : Bool :=
  expect == 0 || (target == 0 && match SMap.look s.boot.images slot with | some m => m.release == expect | none => false)

/-- FW_COMMIT (R399): a record names the staged item; the reset begins 1 ms later. -/
def doFwCommit (p : Bytes) (s : State) : Reply :=
  let target := getU p 0 1
  let flag := (getU p 1 1).testBit 0
  if p.length ≠ 8 || target > 1 || getU p 1 1 > 1 || getU p 2 2 ≠ 0 then no .badParam
  else if s.host.resetDue then no .busy
  else match SMap.look s.boot.staged target with
    | none => no .notFound
    | some slot =>
      if !expectOk s target slot (getU p 4 4) then no .badParam
      else
        let s := writeRecord (fun r =>
          let r := { r with flags := setBitN r.flags 0 flag }
          if target = 0 then { r with preferred := slot } else { r with cred := slot }) s
        .done (releaseRole { s with host.resetDue := true }) []

end Sys2Proof.Machine
end

