-- ==== Sys2Proof/Machine/Loopback.lean ====
section
/-!
DEFINITION. Loopback tests (R400, Table 14.8).
-/
namespace Sys2Proof.Machine

/-- Patterns an interface takes at a depth (Table 14.8): 0 PRBS7, 1 PRBS31, 2 frames, 3 sine, 4 counter, 5 count only. -/
def loopPatterns (iface depth : Nat) : List Nat :=
  if iface ≤ 3 then (match depth with | 0 => [2] | 1 => [2, 1] | 2 => [0, 1] | 3 => [0, 1] | _ => [])
  else if iface = 4 then (if depth = 0 then [2] else [])
  else if iface = 5 then (if depth = 0 then [5] else [])
  else if iface = 6 then (if depth ≤ 1 then [1] else [])
  else if iface = 7 then (if depth = 0 then [4] else [])
  else if iface = 8 then (if depth = 0 then [4, 5] else [])
  else if iface = 9 then (if depth = 0 then [3] else [])
  else []

/-- Number of indices of an interface, and of its second index. -/
def loopIndices (iface : Nat) : Nat × Nat :=
  if iface = 6 then (8, 1) else if iface = 7 then (4, 1) else if iface = 8 then (256, 128) else if iface = 9 then (8, 8) else (1, 1)

/-- Interfaces tested only in DARK. -/
def loopDark (iface : Nat) : Bool := iface ≤ 3 || iface == 6 || iface == 7 || iface == 9

/-- A TEST_LOOP payload. -/
def testLoopOk (p : Bytes) : Bool :=
  let n := loopIndices (getU p 0 1)
  p.length == 24 && (loopPatterns (getU p 0 1) (getU p 1 1)).contains (getU p 6 1) && getU p 2 2 < n.1 && getU p 4 2 < n.2 &&
  getU p 7 1 ≤ 1 && 1 ≤ getU p 8 4 && getU p 8 4 ≤ 60000 && getU p 14 2 == 0 && getU p 20 4 == 0 &&
  (getU p 6 1 != 3 || (20 ≤ getU p 16 4 && getU p 16 4 ≤ 20000))

/-- What the start of a test does to its interface: media and mooring links go down, a DRAM test sets SHALLOW. -/
def openLoop (iface : Nat) (s : State) : State :=
  if iface ≤ 1 then linkLost iface s
  else if iface ≤ 3 then loseLane (iface - 2) s
  else if iface = 6 then enterShallow { s with mem.byLoop := true, mem.clearing := false }
  else s

/-- TEST_LOOP (R400): a start or a stop; the answer is owed to the end of the test. `at_` is the state expected at the next block
boundary, which the mode is judged by (R334). -/
def doTestLoop (p : Bytes) (at_ s : State) : Reply :=
  let iface := getU p 0 1
  let index := getU p 2 2
  let mine := fun (l : Loopback) => l.iface == iface && l.index == index
  let hold : Owed := { id := 0, op := .testLoop, master := 0, seq := 0, apply := 0, accepted := 0, payload := p }
  if !testLoopOk p then no .badParam
  else if !at_.flag mLoop || (loopDark iface && !at_.flag mDark) then no .refusedMode
  else if getU p 7 1 = 1 then
    match s.boot.loops.find? mine with
    | none => no .notFound
    | some l =>
      if l.stopping then no .busy
      else .owe { s with boot.loops := s.boot.loops.map fun l => if mine l then { l with stopping := true, stop := some hold } else l } 0
  else if s.boot.loops.any mine then no .busy
  else
    let l : Loopback := ⟨iface, getU p 1 1, index, getU p 4 2, getU p 6 1, getU p 8 4, s.idx, false, hold, none⟩
    .owe (openLoop iface { s with boot.loops := s.boot.loops ++ [l] }) 0

/-- Keep who is owed the answer of a start or a stop. -/
def parkLoop (o : Owed) (s : State) : State :=
  let mine := fun (l : Loopback) => l.iface == getU o.payload 0 1 && l.index == getU o.payload 2 2
  { s with boot.loops := s.boot.loops.map fun l =>
      if !mine l then l else if getU o.payload 7 1 = 1 then { l with stop := some o } else { l with owed := o } }

/-- Outcome of a test: 0 pass, 1 fail, 2 stopped, 3 no lock or no signal. A sine passes under step 5 of R392. -/
def loopStatus (l : Loopback) (r : LoopResult) : Nat :=
  if l.stopping then 2
  else if !r.locked then 3
  else if (if l.pattern = 3 then r.levelOk && decide (r.thdn ≤ -9000) else r.errors == 0) then 0 else 1

/-- The result record. -/
def loopResult (l : Loopback) (r : LoopResult) (ms : Nat) : Bytes :=
  le 1 l.iface ++ le 1 l.depth ++ le 2 (loopStatus l r) ++ zeros 4 ++ le 4 ms ++ zeros 12 ++ le 8 r.compared ++ le 8 r.errors ++
  le 4 r.latency ++ leI 2 r.level ++ leI 2 r.thdn

/-- TEST_LOOP_END (R400): the duration has passed, or the test is stopping; whoever is owed an answer has the record. -/
def execTestLoopEnd (iface index : Nat) (res : LoopResult) (s : State) : Host.Outcome State Fault Refusal :=
  match s.boot.loops.find? fun l => l.iface == iface && l.index == index with
  | none => .next s
  | some l =>
    let ran := (s.idx - l.start) * 1000 / s.hz
    if !l.stopping && ran < l.duration then .next s
    else
      let body := loopResult l res (min ran l.duration)
      let s := answerOwed l.owed .ok body { s with boot.loops := s.boot.loops.filter fun k => !(k.iface == iface && k.index == index) }
      match l.stop with
      | some o => .next (answerOwed o .ok body s)
      | none => .next s

end Sys2Proof.Machine
end

