-- ==== Sys2Proof/Machine/Apply.lean ====
section
/-!
DEFINITION. Commands accepted and not yet in effect: what each does at its tick or block, the projection that checks are made
against (R334), arbitration (R34, R55, R335), the settle point and its answer (R333).
-/
namespace Sys2Proof.Machine

/-! The effect of one command. -/

/-- What a reply leaves, for a command whose answer was given elsewhere. -/
def afterReply (s : State) : Reply → State
  | .refuse _ _ => s
  | .done t _ => t
  | .owe t _ => t
  | .deferred t => t

/-- The master a command came from; 0 for the device's own. -/
def masterOf : Origin → Nat | .master m => m | _ => 0

/-- Write data to the replay store (R107, R324): a whole granule at a time; each write raises the version (Table 10.8). -/
def writeStore (offset : Nat) (data : Bytes) (s : State) : State :=
  let g := (List.range (data.length / 384)).foldl (fun (m : SMap Bytes) i =>
    let part := slice data (384 * i) 384
    SMap.put [] m (offset / 384 + i) (if part.all (· == 0) then [] else part)) s.rend.store
  { s with rend.store := g, rend.storeVersion := s.rend.storeVersion + 1 }

/-- The payload a standby has of a store transfer (R324): its header's offset, then the data. -/
def storePayload (offset : Nat) (data : Bytes) : Bytes := le 8 offset ++ data

/-- Commands that a solo unit carries out at acceptance, and the units of a pair at the apply period (R284, R285); a claim acts on
the active at acceptance (R336). Of a select-mask record the groups won are written; what was accepted is not judged again. -/
def applyForwarded (c : Cmd) (s : State) : State :=
  let m := masterOf c.origin
  let p := le 4 (wonMask c) ++ c.payload.drop 4
  match c.op with
  | .objClaim => afterReply s (doObjClaim c.payload m c.rank s)
  | .timeCfg => writeTimeCfg p s
  | .noseCfg => writeNoseCfg p s
  | .pairSet => writePair p s
  | .policySet => afterReply s (doPolicySet p s)
  | .sweepRun =>
    if !c.lost.isEmpty then s
    else if getU c.payload 2 1 = 3 then sweepAbort s
    else startSweep c.payload m c.apply c.excite s
  | .pwrPolicy => afterReply s (doPwrPolicy p s)
  | .storeTransfer => writeStore (getU c.payload 0 8) (c.payload.drop 8) s
  | _ => s

/-- What follows a host's or the Nose's write of a trim, an offset or a health state (R45, R196, R205, R208). -/
def afterWrite (c : Cmd) (s : State) : State :=
  let w := wonMask c
  match c.op, c.origin with
  | .zoneSet, .master _ => if w.testBit 2 then trimWritten 1 (getU c.payload 4 1) s else s
  | .spkSet, .master _ =>
    let o := getU c.payload 4 2
    let s := if w.testBit 4 then trimWritten 2 o s else s
    let s := if w.testBit 6 then dropHealth o s else s
    if w.testBit 6 && (s.spk o).health = 0 then healthCleared o s else s
  | .spkSet, .nose => if w.testBit 6 then healthChanged (getU c.payload 4 2) (s.spk (getU c.payload 4 2)).health s else s
  | _, _ => s

/-- A command takes effect, on the units it has won. -/
def applyCmd (c : Cmd) (s : State) : State :=
  match c.op with
  | .objSet => applyObjSet c s
  | .objBind => if c.lost.isEmpty then applyObjBind c s else s
  | .spkSet => afterWrite c (applySpkSet c s)
  | .zoneSet => afterWrite c (applyZoneSet c s)
  | .airSet => applyAirSet c s
  | .peerSet => applyPeerSet c s
  | .chainSet => applyChainSet c s
  | .bridgeSet => applyBridgeSet c s
  | .accordLoad => applyAccordLoad c s
  | .accordSwap => applyAccordSwap c s
  | .routeSet => applyRouteSet c s
  | .silenceSet => applySilenceSet c s
  | .berthOpen => if c.lost.isEmpty then applyBerthOpen c s else s
  | .berthClose => if c.lost.isEmpty then applyBerthClose c s else s
  | .sysModeSet => applyModeSet c.effect c s
  | .markSet => applyMarkSet c s
  | .noseCfg => if kindOf c.payload = 1 then applyNoseObs c s else applyForwarded c s
  | .proposalApply => applyChange c s
  | _ => applyForwarded c s

/-- The units of state a command sets (R335, R347). -/
def unitsOf (op : Opcode) (p : Bytes) : List UnitKey :=
  match op with
  | .objSet | .objBind | .spkSet | .zoneSet | .airSet | .peerSet => sceneUnits op p
  | .chainSet => chainUnits p
  | .bridgeSet => bridgeUnits p
  | .accordLoad | .accordSwap => accordUnits op p
  | .routeSet => routeUnits p
  | .silenceSet => silenceUnits p
  | .berthOpen | .berthClose => berthUnits op p
  | .sysModeSet => modeUnits p
  | .markSet => markUnits p
  | .noseCfg => maskUnits .noseCfg (65536 * (kindOf p - 1) + indexOf p) (maskOf p)
  | .pairSet => maskUnits op (getU p 4 2) (maskOf p)
  | .policySet | .pwrPolicy | .timeCfg => maskUnits op 0 (maskOf p)
  | .sweepRun => [⟨op, 0, 0⟩]
  | .proposalApply => changeUnits p
  | _ => []

/-! Arbitration. -/

/-- Of two colliding commands the first wins (R34, R55, R335, R416): the device's own over all; the Nose below all; rank; a
scene-bus update over a command of its rank; the lower master or node; of one sender the later. -/
def winsOver (a b : Cmd) : Bool :=
  match a.origin, b.origin with
  | .device, .device => b.id < a.id
  | .device, _ => true
  | _, .device => false
  | .nose, .nose => b.id < a.id
  | .nose, _ => false
  | _, .nose => true
  | .master m, .master n => if m = n then b.id < a.id else b.rank < a.rank || (a.rank == b.rank && m < n)
  | .bus m, .bus n => if m = n then b.id < a.id else b.rank < a.rank || (a.rank == b.rank && m < n)
  | .bus _, .master _ => b.rank ≤ a.rank
  | .master _, .bus _ => b.rank < a.rank

/-- The command that wins a unit among those with effect together: each sender's latest, and of them the strongest. A re-send
takes no part (R57). -/
def unitWinner (cs : List Cmd) (effect : Nat) (u : UnitKey) : Option Cmd :=
  let rivals := cs.filter fun c => c.effect == effect && !c.applied && !c.resend && c.units.contains u
  let last := rivals.filter fun c => !rivals.any fun d => d.origin == c.origin && c.id < d.id
  last.foldl (fun best c => match best with
    | none => some c
    | some b => if winsOver c b then some c else some b) none

/-- Units a command loses to others. -/
def lostUnits (cs : List Cmd) (c : Cmd) : List UnitKey :=
  if c.resend then []
  else c.units.filter fun u => match unitWinner cs c.effect u with
    | some w => w.id != c.id
    | none => false

/-- The command with what it has lost by now. -/
def asSettled (cs : List Cmd) (c : Cmd) : Cmd := if c.settled then c else { c with lost := lostUnits cs c }

/-- Order in which commands of one boundary act: loads before the rest (R147), re-sends last (R57), then as accepted. -/
def orderOf (c : Cmd) : Nat := if c.op == .accordLoad then 0 else if c.resend then 2 else 1
def before (a b : Cmd) : Bool :=
  a.effect < b.effect || (a.effect == b.effect && (orderOf a < orderOf b || (orderOf a == orderOf b && a.id < b.id)))
def inOrder (cs : List Cmd) : List Cmd := cs.mergeSort fun a b => before a b || a.id == b.id

/-- A projection passes to a later tick: slots left in a tick before are free (R38). -/
def freeLeft (b b' : Nat) (s : State) : State := if floorTo 64 b < floorTo 64 b' then { s with rend.leaving := [] } else s

/-- A projection passes from one block to another: fades end and waiting swaps start (R149), the destinations' phases move on
(R159), and slots left are free (R38). -/
def ageTo (b0 b1 : Nat) (s : State) : State := ageDests b1 (b1 - b0) (ageAccords b0 b1 (freeLeft b0 b1 s))

/-- One accepted command of a projection acts, the time up to its block having passed. -/
def projectOne (cs : List Cmd) (t : State × Nat) (c : Cmd) : State × Nat :=
  let b := max t.2 c.effect
  (applyCmd (asSettled cs c) (ageTo t.2 b t.1), b)

/-- The state that the commands accepted so far lead to, those chosen acting in order (R334), and its block. -/
def projectFrom (f : Cmd → Bool) (s : State) : State × Nat :=
  (inOrder (s.host.cmds.filter fun c => !c.applied && f c)).foldl (projectOne s.host.cmds) (s, s.toCompute)
def projectWith (f : Cmd → Bool) (s : State) : State := (projectFrom f s).1

/-- The state at a boundary, the chosen commands having acted. -/
def projectTo (f : Cmd → Bool) (s : State) (at_ : Nat) : State :=
  let t := projectFrom f s
  ageTo t.2 (max t.2 at_) t.1

/-- The state with everything in effect at or before a boundary. -/
def project (s : State) (at_ : Nat) : State := projectTo (fun c => c.effect ≤ at_) s at_

/-- The state just before a command acts. -/
def projectBefore (s : State) (c : Cmd) : State := projectTo (fun d => before d c) s c.effect

/-- The state at a swap's block before the swaps of that block start: of two on one output only the winner acts (R146, R147). -/
def beforeStarts (s : State) (c : Cmd) : State :=
  projectTo (fun d => d.effect < c.effect || (d.effect == c.effect && orderOf d == 0)) s c.effect

/-- Boundaries from a command's own on at which something takes effect. -/
def laterTicks (s : State) (eff : Nat) : List Nat :=
  (eff :: ((s.host.cmds.filter fun c => !c.applied && eff < c.effect).map Cmd.effect)).eraseDups

/-- The state with a command among those accepted. -/
def withCmd (c : Cmd) (s : State) : State := { s with host.cmds := s.host.cmds ++ [c] }

/-! The settle point. -/

/-- Change a command of the list. -/
def updCmd (id : Nat) (f : Cmd → Cmd) (s : State) : State :=
  { s with host.cmds := s.host.cmds.map fun c => if c.id = id then f c else c }

/-- Commands that have acted and been answered are forgotten. -/
def prune (s : State) : State := { s with host.cmds := s.host.cmds.filter fun c => !(c.applied && c.answered) }

/-- The pending slot of an output is empty where a swap's fade would start (R146): at its start block, or at the end of the fade
that runs then, after the loads of that block. `b` is the state just before the swap acts. -/
def emptyStart (s b : State) (o : Nat) : Bool :=
  match (b.accord o).fade with
  | none => (b.accord o).pending.isNone
  | some f => ((projectWith (fun d => d.effect < f.ends || (d.effect == f.ends && orderOf d == 0)) s).accord o).pending.isNone

/-- Units lost for another reason than arbitration, and whether some of the effect waits, as the accepted commands show it
(R146, R149, R347, R350). -/
def outcomeOf (s : State) (c : Cmd) : List UnitKey × Bool :=
  match c.op with
  | .accordSwap =>
    let b := projectBefore s c
    let won := fun o => !cmdLost c ⟨.accordSwap, o, 0⟩
    let empty := (rangeOf c.payload).filter fun o => won o && emptyStart s b o
    (empty.map fun o => ⟨.accordSwap, o, 0⟩,
     (rangeOf c.payload).any fun o => won o && !empty.contains o && (b.accord o).fade.isSome)
  | .sysModeSet =>
    let m := modeMasks c
    let o := (projectBefore s c).modeOf m.1 m.2
    ((o.left.map fun i => (⟨.sysModeSet, 0, if i = 1 then 0 else i⟩ : UnitKey)).eraseDups, !o.waits.isEmpty)
  | .proposalApply =>
    let t := getU c.payload 10 2
    ([], getU c.payload 8 1 == 2 && c.lost.isEmpty && ((projectBefore s c).accord t).fade.isSome)
  | _ => ([], false)

/-- Record what losing means to a sender other than a master (R34, R55). -/
def noteLoss (c : Cmd) (s : State) : State :=
  match c.origin, c.lost with
  | _, [] => s
  | .bus n, _ => countSuperseded n 1 s
  | .nose, u :: _ =>
    let w := match unitWinner s.host.cmds c.effect u with | some w => w.origin.arg | none => srcDevice
    noseReplaced c.proposal w s
  | _, _ => s

/-- Resolve a command's collisions. -/
def resolveCmd (c : Cmd) (s : State) : State :=
  if c.settled then s
  else
    let c := { c with lost := lostUnits s.host.cmds c, settled := true }
    let o := outcomeOf s c
    let c := { c with lost := c.lost ++ o.1, deferred := o.2 }
    updCmd c.id (fun _ => c) (noteLoss c s)

/-- Body of an OK answer: PEER_SET returns the record with its status (Table 11.19). -/
def okBody (c : Cmd) (s : State) : Bytes :=
  if c.op == .peerSet then peerBody (project s c.effect) (getU c.payload 4 2) else []

/-- Answer a command at its settle point (R333). BERTH_CLOSE is answered at the end of its drain. -/
def settleAnswer (c : Cmd) (s : State) : State :=
  if c.answered || (c.op == .berthClose && c.lost.isEmpty) then s
  else
    let s1 := updCmd c.id (fun c => { c with answered := true }) s
    if !c.lost.isEmpty then answerCmd c .superseded (lostBody c) s1
    else if c.deferred then answerCmd c .deferred [] s1
    else answerCmd c .ok (okBody c s) s1

/-- Run a step for each listed command, as it then stands. -/
def forCmds (ids : List Nat) (f : Cmd → State → State) (s : State) : State :=
  ids.foldl (fun s i => match s.host.cmds.find? fun c => c.id == i with
    | some c => f c s
    | none => s) s

/-- Commands whose settle point A + L − 48 has come are resolved and answered, in order (R333). -/
def settleDue (s : State) : State :=
  let ids := (inOrder (s.host.cmds.filter fun c => c.effect + s.media.catchL ≤ s.idx + 48)).map Cmd.id
  prune (forCmds ids settleAnswer (forCmds ids resolveCmd s))

/-- COMMAND_SETTLE (R333). -/
def execCommandSettle (s : State) : Host.Outcome State Fault Refusal := .next (settleDue s)

/-- The commands chosen take effect, in order; a BERTH_CLOSE that did not lose is then owed its
answer by its berth (R235), one that lost is answered at its settle point (R333). -/
def applyDue (f : Cmd → Bool) (s : State) : State :=
  let ids := (inOrder (s.host.cmds.filter fun c => !c.applied && f c)).map Cmd.id
  let s := forCmds ids resolveCmd s
  prune (forCmds ids (fun c s =>
    updCmd c.id (fun c => { c with applied := true, answered := c.answered || (c.op == .berthClose && c.lost.isEmpty) }) (applyCmd c s)) s)

/-! Classes of boundary. -/

/-- Commands that act at the media instant of their block: berths (R226, R235), and those that a solo unit carries out at
acceptance (R284). -/
def instantOp : Opcode → Bool
  | .berthOpen | .berthClose | .objClaim | .timeCfg | .pairSet | .policySet | .sweepRun | .pwrPolicy | .storeTransfer => true
  | _ => false
def atInstant (c : Cmd) : Bool := instantOp c.op || (c.op == .noseCfg && kindOf c.payload != 1)

/-- Tick-timed commands due at the snapshot of tick k. -/
def tickDue (k : Nat) (c : Cmd) : Bool := c.timing == .tick && c.effect ≤ k

/-- Block-timed commands due at the compute slot of block b. -/
def blockDue (b : Nat) (c : Cmd) : Bool := c.timing == .block && !atInstant c && c.effect ≤ b

/-- Commands due at a media instant. -/
def instantDue (i : Nat) (c : Cmd) : Bool := atInstant c && c.effect ≤ i

end Sys2Proof.Machine
end

