-- ==== Sys2Proof/Machine/Accept.lean ====
section
/-!
DEFINITION. Acceptance of a request (R320 to R338): the duplicate rule, authentication, mode and role, payloads by crane, the
checks, the apply period, claims, and the answer or the queue. The 57 commands of the Efvex set.
-/
namespace Sys2Proof.Machine

/-! Answers. -/

/-- Answer a request; one that is refused is no accepted request (R331). `answerCrane` answers one whose data a crane has carried
(Table 11.11). -/
def answerReq (op : Opcode) (r : Req) (accepted apply : Nat) (st : Status) (body : Bytes) (s : State) : State :=
  let m := r.master.val
  let s := if st.accepted then s else dropSeq m r.seq s
  respond { opcode := op.code, master := m, status := st, seq := r.seq, apply := apply, accepted := accepted, body := body } s

def answerCrane (op : Opcode) (r : Req) (accepted apply : Nat) (body : Bytes) (s : State) : State :=
  respond { opcode := op.code, master := r.master.val, status := .ok, seq := r.seq, apply := apply, accepted := accepted
            crane := true, body := body } s

/-- Sequence numbers of requests that may still be refused: their data are under way, or an image is being checked. -/
def State.undecided (s : State) (m : Nat) : List Nat :=
  (s.host.transfers.filter fun t => t.req.master.val == m).map (fun t => t.req.seq) ++
  (match s.boot.staging with | some (_, _, o) => if o.master = m then [o.seq] else [] | none => [])

/-- Of a list of sequence numbers, newest first, the first `n` of accepted requests, and those still undecided. -/
def keepNewest (undecided : List Nat) : Nat → List Nat → List Nat
  | _, [] => []
  | n, q :: qs =>
    if undecided.contains q then q :: keepNewest undecided n qs
    else match n with
      | 0 => keepNewest undecided 0 qs
      | n + 1 => q :: keepNewest undecided n qs

/-- Only the last 64 accepted sequence numbers and their answers are kept (R331). -/
def trimSeqs (m : Nat) (s : State) : State :=
  let und := s.undecided m
  updMaster m (fun x =>
    let seqs := keepNewest und 64 x.seqs
    { x with seqs := seqs, answers := x.answers.filter fun a => seqs.contains a.seq }) s

/-- The newest of sequence numbers, modulo 2^32 (R331). -/
def laterNumber (a b : Nat) : Nat := let d := (b + 2 ^ 32 - a) % 2 ^ 32; if 1 ≤ d && d ≤ 2 ^ 31 then b else a

/-- The sequence number is newer than the newest of an accepted request (R331). -/
def seqNewer (s : State) (m seq : Nat) : Bool :=
  match (s.master m).seqs.filter fun q => !(s.undecided m).contains q with
  | [] => true
  | q :: qs => let n := qs.foldl laterNumber q; n != seq && laterNumber n seq == seq

/-- Keep an answer that is owed where the end of its work looks for it (R333). -/
def park (o : Owed) (s : State) : State :=
  match o.op with
  | .gpioSet => { s with io.i2c := some o }
  | .fwStage => { s with boot.staging := s.boot.staging.map fun x => (x.1, x.2.1, o) }
  | .testLoop => parkLoop o s
  | _ => { s with host.owed := s.host.owed ++ [o] }

/-! Crane transfers (R322, R323). -/

/-- The transfer with an id. -/
def State.transfer (s : State) (id : Nat) : Option Transfer := s.host.transfers.find? fun t => t.id == id
def updTransfer (id : Nat) (f : Transfer → Transfer) (s : State) : State :=
  { s with host.transfers := s.host.transfers.map fun t => if t.id = id then f t else t }

/-- A descriptor can be used by a master (R322, R323, R381). -/
def craneRefused (s : State) (m : Nat) (d : CraneDesc) : Option Status :=
  if d.via = 0 && !(s.pcie && m < 4) then some .badParam
  else if s.flag mShallow then some .noResource
  else if d.via = 1 && ((s.master m).chunk.isSome || s.host.transfers.any fun t => t.req.master.val == m &&
      (t.via == 1 || (!t.out && t.req.ret.any fun d => d.via == 1))) then some .busy
  else none

/-- Chunks of a transfer. -/
def chunksOf (t : Transfer) : Nat := (t.length + 4095) / 4096

/-- A response that the host has not read uses the place of a chunk in the response bulk region (R321). -/
def chunkHeld (x : Master) (n : Nat) : Bool := x.bulk.any fun b => overlaps (4096 * (n % 4)) 4096 b.2.1 b.2.2

/-- Write the next chunks that the host has room for (R323), once no unread response needs their place (R321); a network master
has them as segments. -/
def pumpOut : Nat → Nat → State → State
  | 0, _, s => s
  | n + 1, id, s =>
    match s.transfer id with
    | none => s
    | some t =>
      let m := t.req.master.val
      let ms := s.master m
      if t.sent ≥ chunksOf t || (t.sent + 128 - ms.chkHost) % 128 ≥ 4 || chunkHeld ms t.sent then s
      else
        let data := slice t.data (4096 * t.sent) (min 4096 (t.length - 4096 * t.sent))
        let s := { s with host.mem := writeBytes s.host.mem (rspBulk m + 4096 * (t.sent % 4)) data }
        let s := updMaster m (fun x => { x with chkDev := (t.sent + 1) % 128 }) s
        let s := if m < 4 then raise m s else sendSegments 5 m (4096 * t.sent) data s
        pumpOut n id (updTransfer id (fun t => { t with sent := t.sent + 1 }) s)

/-- A change of chk_dev is signalled (R323): the master's rsp cause, or an index datagram. -/
def chkMoved (m : Nat) (s : State) : State :=
  if m < 4 then raise m s
  else sendDatagram m 6 0 (le 4 (ringHeadReg (s.master m)) ++ le 4 (ringTailReg (s.master m))) s

/-- Take the chunks the host has finished (R323). -/
def pumpIn : Nat → Nat → State → State
  | 0, _, s => s
  | n + 1, id, s =>
    match s.transfer id with
    | none => s
    | some t =>
      let m := t.req.master.val
      let ms := s.master m
      let ahead := (ms.chkHost + 128 - t.sent % 128) % 128
      if t.sent ≥ chunksOf t || ahead = 0 || ahead > 4 then s
      else
        let data := readBytes s.host.mem (reqBulk m + 4096 * (t.sent % 4)) (min 4096 (t.length - 4096 * t.sent))
        let s := updMaster m (fun x => { x with chkDev := (t.sent + 1) % 128 }) s
        let s := chkMoved m s
        pumpIn n id (updTransfer id (fun t => { t with sent := t.sent + 1, data := t.data ++ data }) s)

/-- A transfer begins on a channel; a stream sets chk_dev to 0 and, going out, writes its first chunks. -/
def beginTransfer (t : Transfer) (ch : Nat) (s : State) : State :=
  let s := updTransfer t.id (fun t => { t with channel := some ch }) s
  if t.via = 0 then s
  else
    let m := t.req.master.val
    let moved := (s.master m).chkDev != 0
    let s := updMaster m (fun x => { x with chkDev := 0, chunk := some t.id }) s
    let s := if moved then chkMoved m s else s
    if t.out then pumpOut 8 t.id s else pumpIn 8 t.id s

/-- The transfer that has waited longest takes a free channel (R322). -/
def startTransfer (s : State) : State :=
  let busy := s.host.transfers.filterMap Transfer.channel
  match (List.range 8).find? (fun c => !busy.contains c), s.host.transfers.find? fun t => t.channel.isNone with
  | some c, some t => beginTransfer t c s
  | _, _ => s

/-- A transfer for a request joins those waiting. -/
def addTransfer (op : Opcode) (h : StoreHdr) (r : Req) (accepted : Nat) (apply : Option Nat) (d : CraneDesc) (out : Bool) (data : Bytes)
    (s : State) : State :=
  let t : Transfer := {
    id := s.host.nextId, op := op, req := r, accepted := accepted, store := h, out := out, via := d.via
    length := if out then data.length else d.length, data := data, apply := apply }
  startTransfer { s with host.nextId := s.host.nextId + 1, host.transfers := s.host.transfers ++ [t] }

/-- A transfer is over: its channel and its stream are free. -/
def dropTransfer (t : Transfer) (s : State) : State :=
  updMaster t.req.master.val (fun x => if x.chunk = some t.id then { x with chunk := none } else x)
    { s with host.transfers := s.host.transfers.filter fun u => u.id != t.id }

/-! Reads, and commands that act at acceptance. -/

/-- A select-mask read of a scene record (R32, R37, R381). -/
def readScene (op : Opcode) (p : Bytes) (s : State) : Reply :=
  match op with
  | .objSet =>
    if !objPayloadOk p then no .badParam
    else readObjGet (slice p 4 2 ++ zeros 6) s
  | .spkSet => if !spkPayloadOk p then no .badParam else .done s (spkBody s (getU p 4 2))
  | .zoneSet => if !zonePayloadOk p then no .badParam else .done s (zoneBody s (getU p 4 1))
  | .airSet => if !airPayloadOk p then no .badParam else .done s (airBody s)
  | _ => if !peerPayloadOk p then no .badParam else .done s (peerBody s (getU p 4 2))

/-- The states from now on: as the commands accepted lead to at each boundary. -/
def viewsOf (s : State) : List State := (laterTicks s s.idx).map (project s)

/-- The state expected at the first block boundary after now (R334). -/
def atBoundary (s : State) : State := project s (ceilTo 16 (s.idx + 1))

/-- The state with every accepted command in effect (R12). -/
def allInEffect (s : State) : State := projectWith (fun _ => true) s

/-- Check of a ROUTE_SET payload taken by itself (R416). -/
def checkPlan (s : State) (p : Bytes) : Option Status := checkRouteSet p s (project s) s.idx (laterTicks s s.idx)

/-- A store transfer's header (R107, R324). -/
def storeOk (h : StoreHdr) : Bool :=
  if h.store = 0 then h.offset % 384 == 0 && h.length % 384 == 0 && h.offset + h.length ≤ 6442450944
  else h.dir == 1 && h.offset + h.length ≤ 268435456

/-- Data of a store read. -/
def storeData (h : StoreHdr) (s : State) : Bytes :=
  if h.store = 0 then
    (List.range (h.length / 384)).flatMap fun i => padTo 384 (SMap.get [] s.rend.store (h.offset / 384 + i))
  else padTo h.length (slice (blotterBytes s) h.offset h.length)

/-- A SWEEP run is capturing (R324): from its first excitation stamp to its end, unless it is being aborted (R210). -/
def State.capturing (s : State) : Bool :=
  match s.nose.sweep with | some r => r.excite ≤ s.idx && r.aborting.isNone | none => false

/-- The earliest start of a SWEEP_RUN: the period given it in a pair (R284), else that of R10. -/
def sweepEarliest (r : Req) (s : State) : Nat := if s.flag mActive then untimedApply r s else s.rTen

/-- The state by which the checks of an untimed command judge: in a pair that which its apply period finds (R284, R334). -/
def judgedBy (op : Opcode) (r : Req) (s : State) : State :=
  if s.flag mActive && (op == .pairSet || op == .noseCfg) then project s (untimedApply r s) else s

/-- A payload's own apply period refuses the command (R9, R332). -/
def ifPeriod (ok : Bool) (a : Reply) : Reply := match a with | .refuse st b => .refuse st b | a => if ok then a else no .badParam

/-- What a command without an effect at a later boundary does at acceptance. -/
def actNow (op : Opcode) (h : StoreHdr) (p : Bytes) (r : Req) (s : State) : Reply :=
  let m := r.master.val
  match op with
  | .sysInfo => doSysInfo p s
  | .sysModeGet => plain p (modeGetBody s) s
  | .sysReset => doSysReset p s
  | .sysLogRead => doSysLogRead p s
  | .objSet | .spkSet | .zoneSet | .airSet | .peerSet => readScene op p s
  | .objGet => readObjGet p s
  | .spkGet => readSpkGet p s
  | .objClaim => doObjClaim p m r.rank s
  | .chainSet => readChainSet p s
  | .bridgeSet => readBridgeSet p s
  | .accordSwap => readAccordSwap p s (project s s.nextBlock)
  | .routeSet => readRouteSet p s
  | .silenceSet => readSilenceSet p s
  | .markSet => readMarkSet p s
  | .portCfg => doPortCfg p (viewsOf s) s
  | .berthStat => doBerthStat p s
  | .filterSet => doFilterSet p s
  | .timeCfg => doTimeCfg p (atBoundary s) (allInEffect s) s
  | .timeStat => doTimeStat p s
  | .trigSet => doTrigSet p s
  | .captRead => doCaptRead p s
  | .noseCfg => doNoseCfg p s
  | .pairSet => doPairSet p s
  | .policySet => doPolicySet p s
  | .estRead => doEstRead p s
  | .proposalRead => doProposalRead p s
  | .sweepRun => ifPeriod (getU p 2 1 == 3 || (payloadPeriod s r (getU p 32 8)).isSome) 
      (let first := sweepEarliest r s
       doSweepRun p m first (project s (sweepStart p first)) s)
  | .healthRead => doHealthRead p s
  | .twinCfg => doTwinCfg p s
  | .twinStat => plain p (twinStatBody s) s
  | .twinWarp => doTwinWarp p s
  | .twinSwitch => ifPeriod (payloadPeriod s r (getU p 0 8)).isSome (doTwinSwitch p s)
  | .witnessSet => doWitnessSet p s
  | .pwrPolicy => doPwrPolicy p s
  | .pwrStat => plain p (pwrStatBody s) s
  | .testLoop => doTestLoop p (atBoundary s) s
  | .postReport => doPostReport p s
  | .fwStage => doFwStage p m s
  | .fwCommit => doFwCommit p s
  | .anaInCfg => doAnaInCfg p (viewsOf s) s
  | .anaOutCfg => doAnaOutCfg p s
  | .loopCfg => doLoopCfg p s
  | .tdmCfg => doTdmCfg p (viewsOf s) s
  | .shortSet => doShortSet p s
  | .gpioSet => doGpioSet p (checkPlan s) s
  | .storeTransfer => .done (writeStore h.offset p s) []
  | .echo => .done s []
  | .accordLoad | .berthOpen | .berthClose | .objBind | .sysModeSet | .proposalApply => no .badParam

/-! Commands that wait for their tick or block. -/

/-- The claim that a command would break (R35, R336): that of an object, of its binding, of a zone or its trim. -/
def claimedBy (op : Opcode) (p : Bytes) (s : State) : Option Claim :=
  let look := fun (zone : Bool) (id : Nat) => s.host.claims.find? fun c => c.zone == zone && c.id == id
  match op with
  | .objSet => look false (getU p 4 2)
  | .objBind => look false (getU p 0 2)
  | .zoneSet => look true (getU p 4 1)
  | .proposalApply => if getU p 8 1 = 0 then look true (getU p 10 2) else none
  | _ => none

/-- A master's write is refused with OWNED: by another's claim at a higher rank, or by an asserted alarm plan (R336, R416). -/
def ownedBy (o : Origin) (rank : Nat) (op : Opcode) (p : Bytes) (s : State) : Bool :=
  match o with
  | .master m =>
    (match claimedBy op p s with | some c => c.master != m && rank < c.rank | none => false) ||
    (op == .routeSet && (routeUnits p).any fun u => (planUnits s).contains u)
  | _ => false

/-- The checks of a timed command (R334): `c` is among the commands of `sc`. -/
def checkTimed (c : Cmd) (s sc : State) : Option Status :=
  let p := c.payload
  let proj := project sc
  let ticks := laterTicks sc c.effect
  let past := projectBefore sc c
  match c.op with
  | .objSet => checkObjSet p s proj ticks
  | .objBind => checkObjBind p s
  | .spkSet => checkSpkSet p s proj c.effect ticks
  | .zoneSet => checkZoneSet p
  | .airSet => checkAirSet p
  | .peerSet => checkPeerSet p past
  | .chainSet => checkChainSet p past
  | .bridgeSet => checkBridgeSet p past
  | .accordLoad => checkAccordLoad p s.heartNext
  | .accordSwap => checkAccordSwap p s.heartNext (beforeStarts sc c) c.effect
  | .routeSet => checkRouteSet p s proj c.effect ticks
  | .silenceSet => checkSilenceSet p s
  | .sysModeSet => checkModeSet p s (projectBefore s c)
  | .berthOpen => checkBerthOpen p s (ticks.map (project s))
  | .berthClose => checkBerthClose p s (project s c.effect)
  | .markSet => checkMarkSet p s
  | .noseCfg => if kindOf p = 1 then checkNoseObs p s else none
  | _ => none

/-- The earliest boundary at which a command accepted now can still take effect: a tick not yet snapped, a block not yet computed,
a block boundary to come. -/
def earliest (s : State) (op : Opcode) (t : Timing) : Nat :=
  match t with
  | .tick => match s.media.snapped with | some k => k + 64 | none => 0
  | .block => if instantOp op then s.nextBoundary else s.toCompute

/-- Effect of a command (R33, R42, R123, R284). A payload that a crane brings after its apply period's tick or block has been
computed takes effect at the next one (DESIGN CHOICE, assumption 16). -/
def effectIn (s : State) (op : Opcode) (t : Timing) (apply : Nat) : Nat :=
  max (if op == .bridgeSet && s.isPair then boundaryOf t apply else effectOf op t s.idx apply) (earliest s op t)

/-- Offer a command to the queue: refused, lost in full to commands already accepted, or accepted with the new state. -/
def offer (o : Origin) (rank seq accepted apply : Nat) (t : Timing) (op : Opcode) (p : Bytes) (proposal : Nat) (s : State) :
    (Status × Bytes) ⊕ (Cmd × State) :=
  let c : Cmd := {
    id := s.host.nextId, op := op, origin := o, rank := rank, seq := seq, timing := t, apply := apply
    effect := effectIn s op t apply, accepted := accepted, payload := p, units := unitsOf op p, select := isSelect op
    answered := (match o with | .master _ => false | _ => true), proposal := proposal, fseq := s.forwardSeq }
  let sc := withCmd c s
  match checkTimed c s sc with
  | some st => .inl (st, [])
  | none =>
    if (s.host.cmds.filter fun d => !d.applied).length ≥ 4096 then .inl (.noResource, [])
    else if c.units != [] && lostUnits sc.host.cmds c == c.units then
      .inl (.superseded, lostBody { c with lost := c.units })
    else .inr (c, { sc with host.nextId := s.host.nextId + 1 })

/-- Publish an accepted write of the scene (R53). -/
def publishCmd (c : Cmd) (s : State) : State :=
  if s.publishes && (c.op == .objSet || c.op == .airSet) then publish c.op c.payload c.apply (projectBefore s c) s else s

/-- The apply period a waiting command uses: `settled` is that of R332, as it was at acceptance; a publisher's scene write leaves
the bus its lead (R53); BRIDGE_SET is untimed (R123). -/
def usedApply (op : Opcode) (r : Req) (accepted settled : Nat) (s : State) : Nat :=
  if answeredAtOnce op then untimedApply r s
  else if r.apply = 0 && s.publishes && (op == .objSet || op == .airSet) then max settled (s.busApply accepted) else settled

/-- Accept a timed command of a master: its own checks, then its apply period and its claims, then arbitration (assumption 16). -/
def queueReq (op : Opcode) (t : Timing) (raw p : Bytes) (proposal : Nat) (r : Req) (accepted : Nat) (settled : Option Nat)
    (s : State) : State :=
  let m := r.master.val
  let apply := usedApply op r accepted (settled.getD 0) s
  let late := settled.isNone && !answeredAtOnce op
  let owned := ownedBy (.master m) r.rank op p s
  match offer (.master m) r.rank r.seq accepted apply t op p proposal s with
  | .inl (.superseded, body) =>
    if late then answerReq op r accepted 0 .badParam [] s
    else if owned then answerReq op r accepted 0 .owned [] s
    else answerReq op r accepted apply .superseded body s
  | .inl (st, body) => answerReq op r accepted 0 (if late then .badParam else st) body s
  | .inr (c, s1) =>
    if late then answerReq op r accepted 0 .badParam [] s
    else if owned then answerReq op r accepted 0 .owned [] s
    else
      let s1 := publishCmd c s1
      let s1 := if classOf op p {} == .forwarded then forwardCmd (.master m) op r.rank apply (forwardPart op raw) s1 else s1
      if answeredAtOnce op then
        answerReq op r accepted apply .ok [] (updCmd c.id (fun c => { c with answered := true }) s1)
      else s1

/-- Answer with a body, or return it by crane (R321): a body over 4,096 bytes needs a descriptor, else nothing is done. -/
def deliverBody (op : Opcode) (h : StoreHdr) (r : Req) (accepted apply : Nat) (body : Bytes) (old new : State) : State :=
  match r.ret with
  | some d =>
    if body.isEmpty then answerReq op r accepted apply .ok [] new
    else addTransfer op h r accepted (some apply) d true (if d.length = 0 then body else body.take d.length) new
  | none => if body.length > 4096 then answerReq op r accepted 0 .badParam [] old else answerReq op r accepted apply .ok body new

/-- Forward a command that acted at acceptance (R283, R336), and the apply period its answer then carries (R284). -/
def forwardNow (op : Opcode) (h : StoreHdr) (p : Bytes) (r : Req) (s : State) : State :=
  if classOf op p h != .forwarded then s else forwardCmd (.master r.master.val) op r.rank s.rTen p s
def appliedNow (op : Opcode) (h : StoreHdr) (p : Bytes) (s : State) : Nat :=
  if s.flag mActive && classOf op p h == .forwarded then s.rTen else 0

/-- On the active unit, a command that its chapter leaves untimed waits with the standby for the period given it (R284): it is
checked, and answered, at acceptance; what of it is local acts then. -/
def actLater (op : Opcode) (h : StoreHdr) (p : Bytes) (r : Req) (accepted : Nat) (hold : Owed) (a : Reply) (s : State) : State :=
  let apply := untimedApply r s
  let fwd := if op == .storeTransfer then storePayload h.offset p else forwardPart op p
  let now := if op == .timeCfg then afterReply s (doTimeCfg (localPart op p) (atBoundary s) (allInEffect s) s) else s
  match a with
  | .refuse st body => answerReq op r accepted 0 st body s
  | a =>
    match offer (.master r.master.val) r.rank r.seq accepted apply .block op fwd 0 now with
    | .inl (st, body) => answerReq op r accepted (if st.accepted then apply else 0) st body s
    | .inr (c, s1) =>
      let s1 := forwardCmd (.master r.master.val) op r.rank apply fwd
        (updCmd c.id (fun c => { c with answered := true, select := false
                                        excite := if op == .sweepRun then sweepFirst p apply (project s (sweepStart p apply)) else 0 }) s1)
      match a with
      | .done _ body => deliverBody op h r accepted apply body s s1
      | .owe _ key => park { hold with key := key, apply := apply } s1
      | _ => answerReq op r accepted apply .ok [] s1

/-- The apply period a TWIN_SWITCH uses (R310). -/
def switchApply (op : Opcode) (p : Bytes) (s : State) : Nat := if op == .twinSwitch then max (getU p 0 8) s.rTen else 0

/-- A command with its whole payload acts, waits or is refused. -/
def actReq (op : Opcode) (h : StoreHdr) (p : Bytes) (r : Req) (accepted : Nat) (settled : Option Nat) (s : State) : State :=
  let hold : Owed := {
    id := s.host.nextId, op := op, master := r.master.val, seq := r.seq, apply := 0, accepted := accepted, payload := p }
  let t := if op == .berthClose || (op == .markSet && maskOf p != 0) || (op == .noseCfg && kindOf p == 1 && maskOf p != 0)
    then some .block else timingOf op p
  if op == .proposalApply then
    match proposalApplied p s with
    | .inl st => answerReq op r accepted 0 st [] s
    | .inr c => queueReq op (changeTiming c) p c (getU p 0 4) r accepted settled s
  else match t with
    | some t => queueReq op t p p 0 r accepted settled s
    | none =>
      if s.flag mActive && waitsOnActive op p h then actLater op h p r accepted hold (actNow op h p r (judgedBy op r s)) s
      else match actNow op h p r s with
      | .refuse st body => answerReq op r accepted 0 st body s
      | .done n body => deliverBody op h r accepted (appliedNow op h p s) body s (forwardNow op h p r n)
      | .owe n key => park { hold with key := key } (forwardNow op h p r { n with host.nextId := n.host.nextId + 1 })
      | .deferred n => answerReq op r accepted (switchApply op p s) .deferred [] n

/-- The device refuses a command in its present mode or role (R277, R283, R338, R396). -/
def modeRefuses (op : Opcode) (p : Bytes) (h : StoreHdr) (s : State) : Bool :=
  ((s.flag mSafe || s.recovery) && (!safeAccepts op p h || (s.boot.running = 255 && op == .sysInfo && getU p 0 4 != 0))) ||
  (!s.isPair && (op == .twinCfg || op == .twinWarp || op == .twinSwitch || op == .witnessSet)) ||
  (s.flag mStandby && classOf op p h == .forwarded)

/-- The end of a network session: its peer is forgotten and the ring is reset (R325, R327). -/
def resetRing (m : Nat) (s : State) : State :=
  let mine := s.host.claims.filter fun c => c.master == m
  let s := { s with host.transfers := s.host.transfers.filter fun t => t.req.master.val != m }
  let s := updMaster m (fun x => { x with ready := false, resetting := true, held := [], bulk := [], chunk := none, unanswered := 0
                                          rung := false }) s
  let drop := fun (o : Owed) => if o.master = m then { o with dropped := true } else o
  let s := { s with
    host.cmds := s.host.cmds.map fun c => if c.origin = .master m then { c with answered := true } else c
    host.owed := s.host.owed.map drop, io.i2c := s.io.i2c.map drop
    boot.staging := s.boot.staging.map fun x => (x.1, x.2.1, drop x.2.2)
    boot.loops := s.boot.loops.map fun l => { l with owed := drop l.owed, stop := l.stop.map drop }
    host.claims := s.host.claims.filter fun c => c.master != m }
  startTransfer (mine.foldl (fun s c =>
    forwardCmd (.master m) .objClaim c.rank s.rTen (le 1 (bit c.zone) ++ le 1 1 ++ le 2 c.id ++ zeros 4) s) s)
def endSession (m : Nat) (s : State) : State :=
  resetRing m (updMaster m (fun x => { x with peer := none, eventMask := 0, dueCauses := [], failRun := 0 }) s)

/-- Sixteen consecutive AUTH_FAIL answers end a network session (R330). -/
def checkFailRun (m : Nat) (s : State) : State :=
  if m ≥ 4 && (s.master m).failRun ≥ 16 then endSession m (logEvent 19 2 srcDevice [m, 2, 0] s) else s

/-- FW_STAGE_DONE (R398): a checked image clears its slot's bad flag (R389); one that fails is an AUTH_FAIL answer
(R330). -/
def execFwStageDone (programmed : Bool) (s : State) : Host.Outcome State Fault Refusal :=
  match s.boot.staging with
  | none => .next s
  | some (target, slot, o) =>
    let s := { s with boot.staging := none }
    if target = 1 then
      let t := { s with boot.creds := SMap.ins s.boot.creds slot (credBlockOf (o.payload.drop 8))
                        boot.staged := SMap.ins s.boot.staged 1 slot }
      .next (trimSeqs o.master (answerOwed o .ok [] t))
    else
    let img : Image := { data := o.payload.drop 8 }
    if programmed && imagePasses s img then
      let s := if badFlag s.bootRec slot then writeRecord (fun r => { r with flags := setBitN r.flags (1 + slot) false }) s else s
      let t := { s with boot.images := SMap.ins s.boot.images slot img, boot.staged := SMap.ins s.boot.staged 0 slot }
      .next (trimSeqs o.master (answerOwed o .ok [] t))
    else .next (checkFailRun o.master (answerOwed o .authFail [] s))

/-! Transfers that end. -/

/-- The whole payload is there (R322): with authentication enforced its digest must match. -/
def finishIn (t : Transfer) (data : Bytes) (s : State) : State :=
  let s := dropTransfer t s
  let m := t.req.master.val
  if s.enforced && Config.sha256 data != t.req.crane.digest then checkFailRun m (answerReq t.op t.req t.accepted 0 .authFail [] s)
  else if modeRefuses t.op data t.store s then answerReq t.op t.req t.accepted 0 .refusedMode [] s
  else checkFailRun m (trimSeqs m (actReq t.op t.store data t.req t.accepted t.apply s))

/-- The last byte has arrived at the host (R322): the byte count and the SHA-256 of the data. Responses that waited for the
response bulk region go on (R323). -/
def finishOut (t : Transfer) (s : State) : State :=
  flushHeld 64 t.req.master.val
    (answerCrane t.op t.req t.accepted (t.apply.getD 0) (le 4 t.length ++ padTo 32 (Config.sha256 t.data)) (dropTransfer t s))

/-- Streams whose last chunk was there when they opened end (R323); a channel that one leaves may open another. -/
def endStreams : Nat → State → State
  | 0, s => s
  | n + 1, s =>
    match s.host.transfers.find? fun t => t.via == 1 && !t.out && t.channel.isSome && t.sent ≥ chunksOf t with
    | none => s
    | some t => endStreams n (startTransfer (finishIn t t.data s))

/-- A channel is free: the transfer that has waited longest begins (R322). -/
def beginNext (s : State) : State := endStreams 16 (startTransfer s)
def execCraneChannelStart (s : State) : Host.Outcome State Fault Refusal := .next (beginNext s)

/-- CRANE_TRANSFER_DONE (R322): a transfer over PCIe completes. -/
def execCraneTransferDone (ch : Fin 8) (data : Bytes) (s : State) : Host.Outcome State Fault Refusal :=
  match s.host.transfers.find? fun t => t.channel == some ch.val && t.via == 0 with
  | none => .next s
  | some t => .next (beginNext (if t.out then finishOut t s else finishIn t (padTo t.length (data.take t.length)) s))

/-- The Pilot loads an image over the window transport (R390). -/
def State.loadsWindow (s : State) : Bool :=
  s.boot.loading && !s.flag mSafe && s.boot.straps.boot == s.boot.straps.host + 1 && s.boot.straps.host < 2

/-- The Pilot takes the chunks of the image that the host has finished (R390). -/
def pumpLoad : Nat → State → State
  | 0, s => s
  | n + 1, s =>
    let ms := s.master 0
    let sent := s.boot.loaded.length / 4096
    let ahead := (ms.chkHost + 128 - sent % 128) % 128
    if !s.loadsWindow || Image.arrived ⟨s.boot.loaded⟩ || ahead = 0 || ahead > 4 then s
    else
      let s := { s with boot.loaded := s.boot.loaded ++ readBytes s.host.mem (reqBulk 0 + 4096 * (sent % 4)) 4096 }
      pumpLoad n (chkMoved 0 (updMaster 0 (fun x => { x with chkDev := (sent + 1) % 128 }) s))

/-- A change of chk_host moves a stream on (R323), and ends it when its last chunk is through. -/
def moveStream (m : Nat) (s : State) : State :=
  match (s.master m).chunk.bind s.transfer with
  | none => if m = 0 then pumpLoad 8 s else s
  | some t =>
    let s := if t.out then pumpOut 8 t.id s else pumpIn 8 t.id s
    match s.transfer t.id with
    | none => s
    | some t =>
      if t.sent < chunksOf t then s
      else if t.out then (if (s.master m).chkHost = t.sent % 128 then beginNext (finishOut t s) else s)
      else beginNext (finishIn t t.data s)

/-! Acceptance. -/

/-- A store transfer at acceptance (R324, R338, R381). -/
def acceptStore (h : StoreHdr) (r : Req) (accepted : Nat) (s : State) : State :=
  let no := fun st => answerReq .storeTransfer r accepted 0 st [] s
  if r.pkind != .crane || !storeOk h || (h.dir = 0 && r.crane.length != h.length) then no .badParam
  else match craneRefused s r.master.val r.crane with
    | some st => no st
    | none =>
      if h.store = 1 && s.capturing then no .busy
      else if h.dir = 0 then endStreams 16 (addTransfer .storeTransfer h r accepted (applyPeriod s accepted r) r.crane false [] s)
      else addTransfer .storeTransfer h r accepted none r.crane true (storeData h s) s

/-- A request's payload: by crane it must come first (R321, R322). -/
def acceptPayload (op : Opcode) (h : StoreHdr) (r : Req) (s : State) : State :=
  let no := fun st => answerReq op r s.idx 0 st [] s
  if op == .storeTransfer then acceptStore h r s.idx s
  else match r.ret.bind (craneRefused s r.master.val) with
    | some st => no st
    | none =>
      match r.pkind with
      | .crane =>
        match craneRefused s r.master.val r.crane with
        | some st => no st
        | none => endStreams 16 (addTransfer op h r s.idx (applyPeriod s s.idx r) r.crane false [] s)
      | .bulk => if s.reqStream r.master.val then no .busy else actReq op h r.payload r s.idx (applyPeriod s s.idx r) s
      | .inline => actReq op h r.payload r s.idx (applyPeriod s s.idx r) s

/-- The duplicate rule (R331): a stored answer goes out again, a pending one does not. -/
def repeatAnswer (m seq : Nat) (s : State) : State :=
  match (s.master m).answers.find? fun a => a.seq == seq with
  | some a => respond { a with repeated := true } s
  | none => s

/-- Accept a request (R320): from here exactly one answer is due (R333). -/
def accept (op : Opcode) (h : StoreHdr) (r : Req) (s : State) : State :=
  let m := r.master.val
  if !s.serving || s.power.stage ≥ 3 then s
  else if (s.master m).seqs.contains r.seq then repeatAnswer m r.seq s
  else
    let s := updMaster m (fun x => { x with unanswered := x.unanswered + 1 }) s
    let no := fun st => checkFailRun m (answerReq op r s.idx 0 st [] s)
    if !s.hasMaster m then no .badParam
    else if s.enforced && !seqNewer s m r.seq then no .authFail
    else if !authOk s op r h then no .authFail
    else if modeRefuses op r.payload h s then no .refusedMode
    else
      let s := updMaster m (fun x => { x with seqs := r.seq :: x.seqs }) s
      let s := acceptPayload op h r s
      checkFailRun m (trimSeqs m s)

end Sys2Proof.Machine
end

