-- ==== Sys2Proof/Machine/Requests.lean ====
section
/-!
DEFINITION. The commands of the Efvex set (Table 11.19) and the two other entry kinds (Table 11.10): each is accepted, refused or
acts as Accept.lean says for its opcode.
-/
namespace Sys2Proof.Machine

/-- SYS_INFO (R339). -/
def execSysInfo (r : Req) (s : State) : Host.Outcome State Fault Refusal := .next (accept .sysInfo {} r s)
/-- SYS_MODE_SET (R347). -/
def execSysModeSet (r : Req) (s : State) : Host.Outcome State Fault Refusal := .next (accept .sysModeSet {} r s)
/-- SYS_MODE_GET (R348). -/
def execSysModeGet (r : Req) (s : State) : Host.Outcome State Fault Refusal := .next (accept .sysModeGet {} r s)
/-- SYS_RESET (R340). -/
def execSysReset (r : Req) (s : State) : Host.Outcome State Fault Refusal := .next (accept .sysReset {} r s)
/-- SYS_LOG_READ (R341). -/
def execSysLogRead (r : Req) (s : State) : Host.Outcome State Fault Refusal := .next (accept .sysLogRead {} r s)
/-- OBJ_SET (R33). -/
def execObjSet (r : Req) (s : State) : Host.Outcome State Fault Refusal := .next (accept .objSet {} r s)
/-- OBJ_GET (R37). -/
def execObjGet (r : Req) (s : State) : Host.Outcome State Fault Refusal := .next (accept .objGet {} r s)
/-- OBJ_BIND (R41). -/
def execObjBind (r : Req) (s : State) : Host.Outcome State Fault Refusal := .next (accept .objBind {} r s)
/-- OBJ_CLAIM (R336). -/
def execObjClaim (r : Req) (s : State) : Host.Outcome State Fault Refusal := .next (accept .objClaim {} r s)
/-- SPK_SET (R44). -/
def execSpkSet (r : Req) (s : State) : Host.Outcome State Fault Refusal := .next (accept .spkSet {} r s)
/-- SPK_GET (R43). -/
def execSpkGet (r : Req) (s : State) : Host.Outcome State Fault Refusal := .next (accept .spkGet {} r s)
/-- ZONE_SET (R45). -/
def execZoneSet (r : Req) (s : State) : Host.Outcome State Fault Refusal := .next (accept .zoneSet {} r s)
/-- AIR_SET (R47). -/
def execAirSet (r : Req) (s : State) : Host.Outcome State Fault Refusal := .next (accept .airSet {} r s)
/-- PEER_SET (R50). -/
def execPeerSet (r : Req) (s : State) : Host.Outcome State Fault Refusal := .next (accept .peerSet {} r s)
/-- CHAIN_SET (R132). -/
def execChainSet (r : Req) (s : State) : Host.Outcome State Fault Refusal := .next (accept .chainSet {} r s)
/-- ACCORD_LOAD (R144). -/
def execAccordLoad (r : Req) (s : State) : Host.Outcome State Fault Refusal := .next (accept .accordLoad {} r s)
/-- ACCORD_SWAP (R146). -/
def execAccordSwap (r : Req) (s : State) : Host.Outcome State Fault Refusal := .next (accept .accordSwap {} r s)
/-- ROUTE_SET (R160). -/
def execRouteSet (r : Req) (s : State) : Host.Outcome State Fault Refusal := .next (accept .routeSet {} r s)
/-- BRIDGE_SET (R123). -/
def execBridgeSet (r : Req) (s : State) : Host.Outcome State Fault Refusal := .next (accept .bridgeSet {} r s)
/-- SILENCE_SET (R165). -/
def execSilenceSet (r : Req) (s : State) : Host.Outcome State Fault Refusal := .next (accept .silenceSet {} r s)
/-- PORT_CFG (R218). -/
def execPortCfg (r : Req) (s : State) : Host.Outcome State Fault Refusal := .next (accept .portCfg {} r s)
/-- BERTH_OPEN (R226). -/
def execBerthOpen (r : Req) (s : State) : Host.Outcome State Fault Refusal := .next (accept .berthOpen {} r s)
/-- BERTH_CLOSE (R235). -/
def execBerthClose (r : Req) (s : State) : Host.Outcome State Fault Refusal := .next (accept .berthClose {} r s)
/-- BERTH_STAT (R236). -/
def execBerthStat (r : Req) (s : State) : Host.Outcome State Fault Refusal := .next (accept .berthStat {} r s)
/-- FILTER_SET (R220). -/
def execFilterSet (r : Req) (s : State) : Host.Outcome State Fault Refusal := .next (accept .filterSet {} r s)
/-- TIME_CFG (R252). -/
def execTimeCfg (r : Req) (s : State) : Host.Outcome State Fault Refusal := .next (accept .timeCfg {} r s)
/-- TIME_STAT (R273). -/
def execTimeStat (r : Req) (s : State) : Host.Outcome State Fault Refusal := .next (accept .timeStat {} r s)
/-- TRIG_SET (R269). -/
def execTrigSet (r : Req) (s : State) : Host.Outcome State Fault Refusal := .next (accept .trigSet {} r s)
/-- CAPT_READ (R272). -/
def execCaptRead (r : Req) (s : State) : Host.Outcome State Fault Refusal := .next (accept .captRead {} r s)
/-- NOSE_CFG (R172). -/
def execNoseCfg (r : Req) (s : State) : Host.Outcome State Fault Refusal := .next (accept .noseCfg {} r s)
/-- PAIR_SET (R184). -/
def execPairSet (r : Req) (s : State) : Host.Outcome State Fault Refusal := .next (accept .pairSet {} r s)
/-- MARK_SET (R182). -/
def execMarkSet (r : Req) (s : State) : Host.Outcome State Fault Refusal := .next (accept .markSet {} r s)
/-- POLICY_SET (R191). -/
def execPolicySet (r : Req) (s : State) : Host.Outcome State Fault Refusal := .next (accept .policySet {} r s)
/-- EST_READ (R189). -/
def execEstRead (r : Req) (s : State) : Host.Outcome State Fault Refusal := .next (accept .estRead {} r s)
/-- PROPOSAL_READ (R204). -/
def execProposalRead (r : Req) (s : State) : Host.Outcome State Fault Refusal := .next (accept .proposalRead {} r s)
/-- PROPOSAL_APPLY (R204). -/
def execProposalApply (r : Req) (s : State) : Host.Outcome State Fault Refusal := .next (accept .proposalApply {} r s)
/-- SWEEP_RUN (R210). -/
def execSweepRun (r : Req) (s : State) : Host.Outcome State Fault Refusal := .next (accept .sweepRun {} r s)
/-- HEALTH_READ (R205). -/
def execHealthRead (r : Req) (s : State) : Host.Outcome State Fault Refusal := .next (accept .healthRead {} r s)
/-- TWIN_CFG (R281). -/
def execTwinCfg (r : Req) (s : State) : Host.Outcome State Fault Refusal := .next (accept .twinCfg {} r s)
/-- TWIN_STAT (R311). -/
def execTwinStat (r : Req) (s : State) : Host.Outcome State Fault Refusal := .next (accept .twinStat {} r s)
/-- TWIN_WARP (R296). -/
def execTwinWarp (r : Req) (s : State) : Host.Outcome State Fault Refusal := .next (accept .twinWarp {} r s)
/-- TWIN_SWITCH (R310). -/
def execTwinSwitch (r : Req) (s : State) : Host.Outcome State Fault Refusal := .next (accept .twinSwitch {} r s)
/-- WITNESS_SET (R304). -/
def execWitnessSet (r : Req) (s : State) : Host.Outcome State Fault Refusal := .next (accept .witnessSet {} r s)
/-- PWR_POLICY (R358). -/
def execPwrPolicy (r : Req) (s : State) : Host.Outcome State Fault Refusal := .next (accept .pwrPolicy {} r s)
/-- PWR_STAT (R360). -/
def execPwrStat (r : Req) (s : State) : Host.Outcome State Fault Refusal := .next (accept .pwrStat {} r s)
/-- TEST_LOOP (R400). -/
def execTestLoop (r : Req) (s : State) : Host.Outcome State Fault Refusal := .next (accept .testLoop {} r s)
/-- POST_REPORT (R395). -/
def execPostReport (r : Req) (s : State) : Host.Outcome State Fault Refusal := .next (accept .postReport {} r s)
/-- FW_STAGE (R398). -/
def execFwStage (r : Req) (s : State) : Host.Outcome State Fault Refusal := .next (accept .fwStage {} r s)
/-- FW_COMMIT (R399). -/
def execFwCommit (r : Req) (s : State) : Host.Outcome State Fault Refusal := .next (accept .fwCommit {} r s)
/-- ANA_IN_CFG (R405). -/
def execAnaInCfg (r : Req) (s : State) : Host.Outcome State Fault Refusal := .next (accept .anaInCfg {} r s)
/-- ANA_OUT_CFG (R407). -/
def execAnaOutCfg (r : Req) (s : State) : Host.Outcome State Fault Refusal := .next (accept .anaOutCfg {} r s)
/-- LOOP_CFG (R410). -/
def execLoopCfg (r : Req) (s : State) : Host.Outcome State Fault Refusal := .next (accept .loopCfg {} r s)
/-- TDM_CFG (R413). -/
def execTdmCfg (r : Req) (s : State) : Host.Outcome State Fault Refusal := .next (accept .tdmCfg {} r s)
/-- SHORT_SET (R169). -/
def execShortSet (r : Req) (s : State) : Host.Outcome State Fault Refusal := .next (accept .shortSet {} r s)
/-- GPIO_SET (R415). -/
def execGpioSet (r : Req) (s : State) : Host.Outcome State Fault Refusal := .next (accept .gpioSet {} r s)
/-- ECHO (R320). -/
def execEcho (r : Req) (s : State) : Host.Outcome State Fault Refusal := .next (accept .echo {} r s)
/-- STORE_TRANSFER (R324). -/
def execStoreTransfer (r : Req) (h : StoreHdr) (s : State) : Host.Outcome State Fault Refusal := .next (accept .storeTransfer h r s)

end Sys2Proof.Machine
end

