-- ==== Sys2Proof/Machine/Rings.lean ====
section
/-!
DEFINITION. The transports of the control interface: rings and doorbells (R319 to R325), the window's registers (R316 to R318),
Efvex sessions over UDP and the UART (R326 to R328, R397), scene-bus updates (R54 to R58) and alarm inputs (R416).
-/
namespace Sys2Proof.Machine

/-! Consumption (R320). -/

/-- Counters of the present block. -/
def newRound (s : State) : State :=
  if s.host.takenIn = s.idx / 16 then s
  else { s with host.takenIn := s.idx / 16, host.takenAll := 0
                host.masters := SMap.mapVals {} (fun _ (x : Master) => { x with taken := 0 }) s.host.masters }

/-- A master whose entries can be consumed now (R320). -/
def State.canTake (s : State) (m : Nat) : Bool :=
  let x := s.master m
  s.hasMaster m && x.ready && x.rung && x.reqHead != x.reqTail && x.unanswered < 256 && x.taken < 64 && s.host.takenAll < 512

/-- The next master in rotation, after the one served last. -/
def nextMaster (s : State) : Option (Fin 8) :=
  ((List.range 8).map fun i => Fin.ofNat 8 (s.host.rotation + 1 + i)).find? fun m => s.canTake m.val

/-- A malformed entry or an unknown opcode (R6, Table 11.15). -/
def badEntry (m : Nat) (e : Bytes) (s : State) : State :=
  let seq := getU e 4 4
  if (s.master m).seqs.contains seq then repeatAnswer m seq s
  else respond { opcode := getU e 0 2, master := m, status := .badParam, seq := seq, accepted := s.idx }
    (updMaster m (fun x => { x with unanswered := x.unanswered + 1 }) s)

/-- An entry is taken: its bytes and bulk payload are copied, req_head advances, and it is accepted (R320). -/
def takeEntry (m : Fin 8) (s : State) : State :=
  let x := s.master m.val
  let e := readBytes s.host.mem (reqRing m.val + 256 * (x.reqHead % 64)) 256
  let r := reqOf m e fun off n => readBytes s.host.mem (reqBulk m.val + off) n
  let s := { s with host.rotation := m.val, host.takenAll := s.host.takenAll + 1 }
  let s := updMaster m.val (fun x =>
    { x with reqHead := (x.reqHead + 1) % 128, taken := x.taken + 1, rung := (x.reqHead + 1) % 128 != x.reqTail }) s
  if !entryOk m.val e then badEntry m.val e s
  else match getU e 16 1 with
    | 1 => accept .storeTransfer (storeOf e) r s
    | 2 => accept .echo {} r s
    | _ => match Opcode.ofCode (getU e 0 2) with
      | some op => accept op {} r s
      | none => badEntry m.val e s

/-- A ring whose tail is too far ahead stops until its reset (R319). -/
def ringFault (m : Nat) (s : State) : State :=
  let x := s.master m
  let d := ringDiff x.reqTail x.reqHead
  if x.ready && x.rung && d > 64 then
    logEvent 19 1 srcDevice [m, 1, d] (updMaster m (fun x => { x with ready := false, ringErr := true, rung := false }) s)
  else s

/-- Consume entries up to the limits of the block. -/
def serveLoop : Nat → State → State
  | 0, s => s
  | n + 1, s => match nextMaster s with
    | none => s
    | some m => serveLoop n (takeEntry m s)

/-- Serve every ring that a doorbell has announced (R320). -/
def serve (s : State) : State :=
  if !s.serving || s.power.stage ≥ 3 then s
  else serveLoop 512 ((List.range 8).foldl (fun s m => ringFault m s) (newRound s))

/-! The host's side of the rings. -/

/-- The window transport works (R313, R429). -/
def State.windowUp (s : State) : Bool := s.alive && s.boot.straps.host < 2 && !(s.pcie && s.host.perst)

/-- Response bulk space is free once rsp_head has passed its response (R321). -/
def freeBulk (x : Master) : Master :=
  { x with bulk := x.bulk.filter fun b => let d := ringDiff x.rspTail b.1; 1 ≤ d && d ≤ ringDiff x.rspTail x.rspHead }

/-- DOORBELL_m [0]. -/
def ringReq (m : Nat) (s : State) : State := serve (updMaster m (fun x => { x with rung := true }) s)
/-- DOORBELL_m [1]: held responses go on, and a stream that waits for the response bulk region (R321, R323). -/
def ringRsp (m : Nat) (s : State) : State := moveStream m (flushHeld 64 m (updMaster m freeBulk s))

def execDoorbellReq (m : Fin 8) (s : State) : Host.Outcome State Fault Refusal :=
  .next (if s.windowUp && m.val < 4 then ringReq m.val s else s)
def execDoorbellRsp (m : Fin 8) (s : State) : Host.Outcome State Fault Refusal :=
  .next (if s.windowUp && m.val < 4 then ringRsp m.val s else s)
def execDoorbellChunk (m : Fin 8) (s : State) : Host.Outcome State Fault Refusal :=
  .next (if s.windowUp && m.val < 4 then moveStream m.val s else s)
def execDoorbellReset (m : Fin 8) (s : State) : Host.Outcome State Fault Refusal :=
  .next (if s.windowUp && m.val < 4 then resetRing m.val s else s)

/-- RING_RESET_DONE (R325). -/
def execRingResetDone (m : Fin 8) (s : State) : Host.Outcome State Fault Refusal :=
  .next (if (s.master m.val).resetting then
    updMaster m.val (fun x => { x with
      reqHead := 0, reqTail := 0, rspHead := 0, rspTail := 0, chkDev := 0, chkHost := 0, bulk := [], ringErr := false
      resetting := false, rung := false, ready := s.host.ready && s.hasMaster m.val }) s
  else s)

/-- IRQ_CAUSE_WRITE (R318, Table 11.7). -/
def clearCause (v : BitVec 32) (s : State) : State := { s with host.irqCause := s.host.irqCause &&& ~~~v }
def execIrqCauseWrite (v : BitVec 32) (s : State) : Host.Outcome State Fault Refusal :=
  .next (if s.windowUp then clearCause v s else s)

/-- Bits of IRQ_MASK that hold a cause (Table 11.7); the others are reserved and read zero (R6). -/
def causeBits : BitVec 32 := 0x000FFF0F

/-- IRQ_MASK_WRITE (R318): a message goes out for each cause set that the write unmasks. -/
def setMask (v : BitVec 32) (s : State) : State :=
  let v := v &&& causeBits
  let fresh := v &&& ~~~s.host.irqMask &&& s.host.irqCause
  ((List.range 32).filter fun i => fresh.getLsbD i).foldl (fun s i => sendMsix i s) { s with host.irqMask := v }
def execIrqMaskWrite (v : BitVec 32) (s : State) : Host.Outcome State Fault Refusal :=
  .next (if s.windowUp then setMask v s else s)

/-- A doorbell word (Table 11.8): a reset alone, otherwise consumed responses and chunks before new requests. -/
def doorbell (m v : Nat) (s : State) : State :=
  if v.testBit 3 then resetRing m s
  else
    let s := if v.testBit 1 then ringRsp m s else s
    let s := if v.testBit 2 then moveStream m s else s
    if v.testBit 0 then ringReq m s else s

/-- A write of the host window (Table 11.3): only writable fields change. -/
def writeReg (a : Nat) (v : BitVec 32) (s : State) : State :=
  let n := v.toNat
  if a = 0x10 then clearCause v s
  else if a = 0x14 then setMask v s
  else if 0x200 ≤ a && a < 0x240 then
    let m := (a - 0x200) / 16
    match a % 16 with
    | 0 => doorbell m n s
    | 8 => updMaster m (fun x => { x with rspHead := n / 256 % 128 }) s
    | 12 => updMaster m (fun x => { x with reqTail := n % 128, chkHost := n / 65536 % 128 }) s
    | _ => s
  else s

/-- A write of an aligned word of the host address map (R316, Table 11.2); anything else is ignored. A table entry of MSI-X that the
write unmasks sends what is pending. -/
def writeWindow (addr size : Nat) (v : BitVec 32) (s : State) : State :=
  let area := fun (lo hi : Nat) => lo ≤ addr && addr < hi
  if size ≠ 4 || addr % 4 ≠ 0 then s
  else if addr < 0x1000 then writeReg addr v s
  else if area 0x10000 0x30000 || area 0x80000 0xA0000 then
    { s with host.mem := writeBytes s.host.mem addr (le 4 v.toNat) }
  else if area 0xF0000 0xF0050 && s.pcie then
    releaseMsix { s with host.msixTab := writeBytes s.host.msixTab (addr - 0xF0000) (le 4 v.toNat) }
  else s

/-- The words that nibbles spell, as the lines carry them (R315); a word left incomplete is discarded. -/
def spiWords : List (BitVec 4) → List (BitVec 32)
  | a :: b :: c :: d :: e :: f :: g :: h :: rest => (g ++ h ++ e ++ f ++ c ++ d ++ a ++ b) :: spiWords rest
  | _ => []

/-- REGISTER_WRITE: a word however carried (R316), or a transaction of the quad SPI target (R315): instruction 0x38 writes its words
at rising addresses, those within the row of Table 11.2 that it starts in; a read (0xEB, `spiRead`) changes nothing. -/
def execRegisterWrite (addr size : Nat) (v : Carried) (s : State) : Host.Outcome State Fault Refusal :=
  .next (
    if !s.windowUp then s
    else match v with
      | .word v => writeWindow addr size v s
      | .spi ins ns =>
        if ins ≠ 0x38 || s.boot.straps.host ≠ 1 then s
        else
          let ws := spiWords ns
          (ws.take (burstLen addr ws.length)).zipIdx.foldl (fun s e => writeWindow (addr + 4 * e.2) 4 e.1 s) s)

/-! Efvex sessions (R326 to R328). -/

/-- The device takes a datagram (R326, R328, R354, R396): its header fits its n bytes of data; over DTLS, where firmware runs, the
session's identity is the master's index and its key the master's. A header that does not fit is dropped (assumption 56). -/
def State.hears (s : State) (m : Nat) (p : Peer) (h : DgramHdr) (n : Nat) : Bool :=
  s.alive && s.serving && m ≥ 4 && h.ok n &&
  (match p.psk with | some k => s.boot.running != 255 && k.1 == m && k.2 == (s.credOf m).key | none => true)

/-- Datagrams to the plain port are dropped, and counted on the port they came in by (R328). -/
def plainDenied (s : State) (p : Peer) : Bool :=
  s.alive && s.serving && !p.dtls && !p.uart && (match s.host.cred with | some c => c.dtlsOnly | none => false)
def countPlain (h : DgramHdr) (s : State) : State :=
  updPortStat (h.eth % 3) (fun t => { t with rxDaDrop := wrapAdd 32 t.rxDaDrop 1 }) s

/-- A close to a peer that holds no session. -/
def sendClose (m : Nat) (p : Peer) (h : DgramHdr) (s : State) : State :=
  let s := send (.datagram ⟨m, 1, 0, 0, [], some p⟩) s
  if p.uart then s else queueOwn h.eth 0 (62 + (if p.dtls then Config.dtlsExtra 16 else 0)) 0 s

/-- What a session keeps of a datagram. -/
def hearDgram (m : Nat) (h : DgramHdr) (s : State) : State :=
  updMaster m (fun x => { x with lastHeard := s.idx, eth := h.eth, dseqIn := h.dseq }) s

/-- An open (R327, R402): the master is bound, with an empty ring that is ready. -/
def openSession (m : Nat) (p : Peer) (h : DgramHdr) (mask : Nat) (s : State) : State :=
  if s.boot.debugOpen then sendClose m p h s
  else match (s.master m).peer with
  | some q =>
    if q = p then updMaster m (fun x => { x with eventMask := mask }) (hearDgram m h s) else sendClose m p h s
  | none =>
    updMaster m (fun x => { x with
      peer := some p, eventMask := mask, dseq := 0, dueCauses := [], failRun := 0
      reqHead := 0, reqTail := 0, rspHead := 0, rspTail := 0, chkDev := 0, chkHost := 0, bulk := [], ringErr := false
      ready := !x.resetting }) (hearDgram m h s)

/-- A datagram with n bytes of data, of the session's peer, or of a peer without a session. -/
def fromPeer (m : Nat) (p : Peer) (h : DgramHdr) (n : Nat) (f : State → State) (s : State) : State :=
  if plainDenied s p then countPlain h s
  else if !s.hears m p h n then s
  else if (s.master m).peer = some p then f (hearDgram m h s)
  else s

/-- A request datagram (R326): the Quaymaster puts the entry into the master's ring. -/
def putRequest (m : Nat) (entry : Bytes) (s : State) : State :=
  if entry.length ≠ 256 then s
  else
    let mem := writeBytes s.host.mem (reqRing m + 256 * ((s.master m).reqTail % 64)) entry
    serve (updMaster m (fun x => { x with reqTail := (x.reqTail + 1) % 128, rung := true }) { s with host.mem := mem })

/-- A segment: up to 1,024 bytes of the request bulk region. -/
def putSegment (m offset : Nat) (data : Bytes) (s : State) : State :=
  let o := offset % 16384
  if data.length > 1024 || o + data.length > 16384 then s
  else { s with host.mem := writeBytes s.host.mem (reqBulk m + o) data }

/-- An index datagram: the host's fields of the two words; a stream and held responses move on. -/
def putIndex (m head tail : Nat) (s : State) : State :=
  moveStream m (ringRsp m (updMaster m (fun x => { x with rspHead := head / 256 % 128, chkHost := tail / 65536 % 128 }) s))

def execEfvexOpen (m : Fin 8) (p : Arrival) (mask : BitVec 32) (s : State) : Host.Outcome State Fault Refusal :=
  .next (
    if plainDenied s p.peer then countPlain p.hdr s
    else if !s.hears m.val p.peer p.hdr 4 then s
    else openSession m.val p.peer p.hdr mask.toNat s)
def execEfvexClose (m : Fin 8) (p : Arrival) (s : State) : Host.Outcome State Fault Refusal :=
  .next (fromPeer m.val p.peer p.hdr 0 (endSession m.val) s)
def execEfvexRequest (m : Fin 8) (p : Arrival) (entry : Bytes) (s : State) : Host.Outcome State Fault Refusal :=
  .next (fromPeer m.val p.peer p.hdr entry.length (putRequest m.val entry) s)
def execEfvexSegmentIn (m : Fin 8) (p : Arrival) (offset : Nat) (data : Bytes) (s : State) : Host.Outcome State Fault Refusal :=
  .next (fromPeer m.val p.peer p.hdr data.length (putSegment m.val offset data) s)
def execEfvexIndex (m : Fin 8) (p : Arrival) (head tail : BitVec 32) (s : State) : Host.Outcome State Fault Refusal :=
  .next (fromPeer m.val p.peer p.hdr 8 (putIndex m.val head.toNat tail.toNat) s)
def execEfvexKeepalive (m : Fin 8) (p : Arrival) (s : State) : Host.Outcome State Fault Refusal :=
  .next (fromPeer m.val p.peer p.hdr 0 id s)

/-- SESSION_TIMEOUT (R327). -/
def execSessionTimeout (m : Fin 8) (s : State) : Host.Outcome State Fault Refusal :=
  .next (if (s.master m.val).peer.isSome && (s.master m.val).lastHeard + 10 * s.hz ≤ s.idx then endSession m.val s else s)

/-- The UART's peer (R397). -/
def uartPeer : Peer := { ip := 0, port := 0, uart := true }

/-- The UART carries datagrams (R397, Table 15.7): in SAFE, or with use 1. -/
def State.uartOpen (s : State) : Bool := s.io.uart.use = 1

/-- UART_FRAME (R397): a datagram of R326 for master 7. -/
def execUartFrame (d : UartDatagram) (s : State) : Host.Outcome State Fault Refusal :=
  .next (
    if !s.uartOpen || d.master ≠ 7 || !s.hears 7 uartPeer d.hdr d.data.length then s
    else
      let from_ := fun (f : State → State) => fromPeer 7 uartPeer d.hdr d.data.length f s
      match d.kind with
      | 0 => if d.data.length = 4 then openSession 7 uartPeer d.hdr (unLe d.data) s else s
      | 1 => from_ (endSession 7)
      | 2 => from_ (putRequest 7 d.data)
      | 4 => from_ (putSegment 7 d.offset d.data)
      | 6 => from_ (putIndex 7 (getU d.data 0 4) (getU d.data 4 4))
      | 8 => from_ id
      | _ => s)

/-! Scene-bus updates (R54 to R58). -/

/-- Count an update applied late (R56). -/
def countLate (node : Nat) (s : State) : State :=
  match s.peerOf node with
  | some i => updPeerSt i (fun t => { t with late := wrapAdd 32 t.late 1 }) s
  | none => s

/-- The payload an update carries obeys its table. -/
def updateOk (u : BusUpdate) : Bool := if u.air then airPayloadOk u.body else objPayloadOk u.body

/-- The object an update names is out of reach in SHALLOW (R381). -/
def outOfReach (u : BusUpdate) (s : State) : Bool :=
  let id := getU u.body 4 2
  !u.air && s.flag mShallow && (s.objStat id).slot.isNone && !(s.rend.leaving.any fun e => e.2 == id)

/-- An update takes its place among the commands of its tick, and the active forwards it (R55, R56, R58). -/
def queueUpdate (u : BusUpdate) (s : State) : State :=
  let op : Opcode := if u.air then .airSet else .objSet
  let at_ := max u.arrived (floorTo 64 s.idx)
  let late := u.apply < at_
  let own := if late then (at_ / 64 + 1) * 64 else ceilTo 64 u.apply
  let effect := match s.media.snapped with | some k => max own (k + 64) | none => own
  let s := if (late || effect != ceilTo 64 u.apply) && !u.resend then countLate u.node s else s
  let c : Cmd := {
    id := s.host.nextId, op := op, origin := .bus u.node, rank := u.rank, seq := 0, timing := .tick, apply := u.apply
    effect := effect, accepted := s.idx, payload := u.body, units := unitsOf op u.body, select := true, answered := true
    resend := u.resend, fseq := s.forwardSeq }
  let s := withCmd c { s with host.nextId := s.host.nextId + 1 }
  if s.flag mActive then
    sendTwin 1 true [s.twin.sendSeq, originNumber c.origin, u.rank, u.apply, op.code, effect, bit u.resend] u.body
      { s with twin.sendSeq := wrapAdd 32 s.twin.sendSeq 1 }
  else s

/-- SCENE_BUS_UPDATE: the first update waiting is accepted; beyond 2,048 object updates in a tick they wait (R56). -/
def execSceneBusUpdate (s : State) : Host.Outcome State Fault Refusal :=
  .next (match s.scene.updates with
    | [] => s
    | u :: rest =>
      let tick := s.idx / 64
      let n := if s.scene.busTick = tick then s.scene.busCount else 0
      if !s.alive || s.flag mSafe || s.flag mStandby then { s with scene.updates := rest }
      else if !u.air && n ≥ 2048 then s
      else
        let s := { s with scene.updates := rest, scene.busTick := tick, scene.busCount := if u.air then n else n + 1 }
        if !updateOk u then s
        else if outOfReach u s then countSuperseded u.node 1 s
        else queueUpdate u s)

/-! Alarm inputs (R416). -/

/-- A ROUTE_SET of the device itself. -/
def offerAlarm (slot : Nat) (p : Bytes) (s : State) : State :=
  if p.isEmpty then s
  else match offer .device 7 0 s.idx s.rTen .block .routeSet p 0 s with
    | .inl (st, _) => localFault 4 slot st.code s
    | .inr (_, s1) => forwardCmd .device .routeSet 7 s.rTen p s1

/-- ALARM_INPUT: the level of a pin, after its filter, becomes `level`. -/
def execAlarmInput (pin : Fin 16) (level : Bool) (s : State) : Host.Outcome State Fault Refusal :=
  let s := updPin pin.val (fun r => { r with pinLevel := level }) s
  let r := s.pin pin.val
  let slot := r.alarm % 4
  .next (
    if r.function ≠ 3 then s
    else
      let was := planOn s slot
      let s := updPin pin.val (fun r => { r with asserted := level != r.alarm.testBit 2 }) s
      let on := planOn s slot
      if was == on || !s.alive || !s.host.ready || !s.alarms then s
      else offerAlarm slot (if on then (s.plan slot).assertP else (s.plan slot).releaseP) s)

end Sys2Proof.Machine
end

