-- ==== Sys2Proof/Machine/Twin.lean ====
section
/-!
DEFINITION. Records of the mooring link (chapter 10): forwarded commands and decisions (R283 to R285, R290, R291), presence
(R234, R286 to R289), digests and checks (R290, R295).
-/
namespace Sys2Proof.Machine

/-- Records of the partner arrive on the mooring link (R277, R279). -/
def State.moored (s : State) : Bool := s.isPair && s.alive && s.boot.postDone && s.twin.lanes != 0 && !s.flag mSafe

/-- A standby that hears its partner. -/
def State.follows (s : State) : Bool := s.moored && s.flag mStandby

/-! Forwarded commands. -/

/-- The payload as the standby applies it: of a TIME_CFG only the forwarded groups (Table 10.4), and of a PROPOSAL_APPLY the
change that the proposal held here makes. -/
def standbyPayload (f : Forward) (s : State) : Option Bytes :=
  if f.op == .timeCfg || f.op == .sysModeSet then some (forwardPart f.op f.payload)
  else if f.op == .proposalApply && f.payload.length = 8 then
    match proposalApplied f.payload (takeDecisions (fun _ => true) s) with | .inr c => some c | .inl _ => none
  else some f.payload

/-- A record that cannot be applied in step (R285): after the snapshot of its tick, or after its block boundary. -/
def tooLate (s : State) (t : Timing) (effect : Nat) : Bool :=
  match t with
  | .tick => (match s.media.snapped with | some k => effect ≤ k | none => false)
  | .block => effect < s.idx

/-- The later of two forward sequences, modulo 2^32. -/
def laterSeq (a b : Nat) : Nat := if (b + 2 ^ 32 - a) % 2 ^ 32 < 2 ^ 31 then b else a

/-- Forwarded commands not yet in force stand in forward-sequence order, whatever the order of their records (R285): they share
out their numbers among themselves. -/
def inSequence (s : State) : State :=
  let mine := s.host.cmds.filter fun c => c.fseq.isSome && !c.applied
  let order := mine.mergeSort fun a b => laterSeq (a.fseq.getD 0) (b.fseq.getD 0) == b.fseq.getD 0
  let ids := order.zip ((mine.map Cmd.id).mergeSort (· ≤ ·))
  { s with host.cmds := s.host.cmds.map fun c => match ids.find? fun e => e.1.id == c.id with
      | some e => if c.fseq.isSome && !c.applied then { c with id := e.2 } else c
      | none => c }

/-- The newest forward sequence seen. -/
def noteSeq (q : Nat) (s : State) : State := { s with twin.nextSeq := laterSeq s.twin.nextSeq (wrapAdd 32 q 1) }

/-- A record that cannot be applied in step is counted, and the standby goes ADRIFT (R285). -/
def lateRecord (s : State) : State := setAdrift 0 { s with twin.stat.cmdLate := wrapAdd 32 s.twin.stat.cmdLate 1 }

/-- A forwarded command joins the commands of its tick or block; the standby's masters have no answer to wait for. -/
def queueForward (f : Forward) (p : Bytes) (s : State) : State :=
  let t := match f.op with
    | .proposalApply => changeTiming p
    | op => (timingOf op p).getD .block
  let due := if f.effect ≠ 0 then f.effect else if f.op == .bridgeSet then boundaryOf t f.apply else effectOf f.op t s.idx f.apply
  let e := max due (earliest s f.op t)
  let c : Cmd := {
    id := s.host.nextId, op := f.op, origin := f.origin, rank := f.rank, seq := 0, timing := t, apply := f.apply, effect := e
    accepted := s.idx, payload := p, units := unitsOf f.op p, select := isSelect f.op, answered := true
    proposal := if f.op == .proposalApply then getU p 0 4 else 0, resend := f.resend
    excite := if f.op == .sweepRun then sweepFirst p f.apply (project s (sweepStart p f.apply)) else 0
    fseq := some f.fseq }
  let late := tooLate s t due
  let s := inSequence (withCmd c { s with host.nextId := s.host.nextId + 1 })
  if late then lateRecord s else s

/-- A decision of the Nose waits for its apply period (R290): u for the snapshot of its tick, the others for their block boundary.
The others of the Quaymaster carry their own tick or block and act on arrival. -/
def receiveDecision (apply : Nat) (d : Decision) (s : State) : State :=
  if apply = 0 then followDecision d s
  else if tooLate s (if d.ofTick then .tick else .block) apply then lateRecord (followDecision d s)
  else { s with twin.decisions := s.twin.decisions ++ [(apply, d)] }

/-- In phase 0 of a warp only records with apply periods at or after X count (Table 10.9). -/
def beforeWarp (s : State) (apply : Nat) : Bool :=
  match s.twin.warp with | some w => w.phase == 0 && apply < w.tick | none => false

/-- TWIN_COMMAND (R285). A TWIN_SWITCH that the standby passes on makes the active name the hand-over (R310). -/
def execTwinCommand (c : TwinCmd) (s : State) : Host.Outcome State Fault Refusal :=
  .next (match c with
    | .decision q apply d =>
      if !s.follows || (apply != 0 && beforeWarp s apply) then s else receiveDecision apply d (noteSeq q s)
    | .command f =>
      if f.op == .twinSwitch then
        if !s.moored || !s.flag mActive || switchRefused s || s.twin.handOver.isSome then s else startHandOver f.apply s
      else if !s.follows then s
      else
        let s := noteSeq f.fseq s
        if beforeWarp s f.apply || asksOnly f.op f.payload then s
        else match standbyPayload f s with
          | some p => queueForward f p s
          | none => s)

/-! Presence. -/

/-- Every berth's catch at block b. -/
def catchAll (b : Nat) (s : State) : State := (SMap.keys s.net.rx).foldl (fun s f => catchBerth b f s) s

/-- The berths whose samples a catch decides, with the range of flow indices. -/
def caughtBerths (b : Nat) (s : State) : List (Nat × RxBerth × Nat × Nat) :=
  (s.net.rx.filter fun e => e.2.cfg.channels != 0 && (s.bridge e.1).mode != 2 && b ≥ e.2.openAt &&
      (e.2.state == 1 || (e.2.state == 2 && b ≤ e.2.closeAt))).map fun e =>
    let r := requiredRange s b e.1 e.2
    (e.1, e.2, r.1, r.2)

/-- Indices with a slot absent in some channel of a berth. -/
def absentOf (s : State) (x : RxBerth) (lo hi : Nat) : List Nat :=
  let lines := (List.range x.cfg.channels).map fun j => SMap.get [] s.net.jitter (x.cfg.first + j)
  ((List.range (hi - lo)).map fun i => lo + i).filter fun n => lines.any fun m => (SMap.look m n).isNone

/-- Indices a berth has received in every channel. -/
def heldOf (s : State) (x : RxBerth) (lo hi : Nat) : List Nat :=
  let lines := (List.range x.cfg.channels).map fun j => SMap.get [] s.net.jitter (x.cfg.first + j)
  ((List.range (hi - lo)).map fun i => lo + i).filter fun n =>
    lines.all fun m => match SMap.look m n with | some v => !v.concealed | none => false

/-- Runs of consecutive numbers, as first and length. -/
def runsOf (l : List Nat) : List (Nat × Nat) :=
  (l.foldl (fun (a : List (Nat × Nat)) n => match a with
    | (f, k) :: r => if f + k = n then (f, k + 1) :: r else (n, 1) :: (f, k) :: r
    | [] => [(n, 1)]) []).reverse

/-- Channels a local input feeds, with their flow: 256 + port, or 512 + input. -/
def State.localChannels (s : State) : List (Nat × Nat) :=
  (s.io.tdm.flatMap fun e => if e.2.inFirst = 65535 then [] else (List.range e.2.slots).map fun i => (e.2.inFirst + i, 256 + e.1)) ++
  (s.io.anaIn.filterMap fun e => if e.2.channel = 65535 then none else some (e.2.channel, 512 + e.1))

/-- Flow indices block b requires of a local input (R18). -/
def localRange (s : State) (b f : Nat) : Nat × Nat :=
  let br := s.flowBridge f
  if br.mode = 1 && br.rate ≠ s.hz then
    ((b * br.rate + s.hz - 1) / s.hz, (b + 19 + lookAhead s.hz br.rate) * br.rate / s.hz + 1)
  else (b, b + 20)

/-- Conceal the absent samples of a channel from lo to hi; whether there was one. -/
def concealRun (c lo hi : Nat) (s : State) : State × Bool :=
  let o := (List.range (hi - lo)).foldl (fun a i => concealOne a (lo + i)) (SMap.get [] s.net.jitter c, 0)
  ({ s with net.jitter := SMap.put [] s.net.jitter c o.1 }, o.2 != 0)

/-- Count a mirror record missing at the deadline. -/
def countMirror (r : State × Bool) : State :=
  if r.2 then { r.1 with twin.stat.mirrorMiss := wrapAdd 32 r.1.twin.stat.mirrorMiss 1 } else r.1

/-- A mirror missing at the deadline (R289): its channel's absent samples are concealed and the record is counted. Of a FREE flow
these are the samples after the last mirrored, as many as the record before held; before any has come, sixteen from index 0
(DESIGN CHOICE, assumption 55: R289 does not say which samples are affected then). -/
def catchMirrors (b : Nat) (s : State) : State :=
  s.localChannels.foldl (fun s e =>
    if (s.flowBridge e.2).mode = 2 then
      let (next, n, came) := (SMap.look s.twin.mirrors e.1).getD (0, 16, false)
      let t := { s with twin.mirrors := SMap.ins s.twin.mirrors e.1 (if came then next else next + n, n, false) }
      if came then t else countMirror (concealRun e.1 next (next + n) t)
    else
      let r := localRange s b e.2
      countMirror (concealRun e.1 r.1 r.2 s)) s

/-- The presence of one berth as the manifest gives it (R234): absent runs are concealed whatever arrived; a sample present
there and lacking here is concealed, and its run counted. -/
def obeyBerth (e : ManBerth) (s : State) : State :=
  match SMap.look s.net.rx e.berth with
  | none => s
  | some x =>
    let gone := fun n => e.runs.any fun r => e.lo + r.1 ≤ n && n < e.lo + r.1 + r.2
    let hi := e.lo + e.count
    let lacks := runsOf ((absentOf s x e.lo hi).filter fun n => !gone n)
    let line := fun (m : SMap Slot) => (List.range e.count).foldl (fun (a : SMap Slot × Nat) i =>
      let n := e.lo + i
      if gone n then (SMap.ins a.1 n { value := concealValue a.1 n, concealed := true }, a.2 + 1) else concealOne a n)
      (m.filter fun k => k.1 + 1536 ≥ hi, 0)
    let r := (List.range x.cfg.channels).foldl (fun (a : SMap (SMap Slot) × Nat) j =>
      let o := line (SMap.get [] a.1 (x.cfg.first + j))
      (SMap.put [] a.1 (x.cfg.first + j) o.1, a.2 + o.2)) (s.net.jitter, 0)
    let s := updRx e.berth (fun x => { x with
      decided := some hi
      stat := { x.stat with concealed := wrapAdd 32 x.stat.concealed r.2
                            repairMiss := wrapAdd 32 x.stat.repairMiss lacks.length } }) { s with net.jitter := r.1 }
    { s with
      twin.stat.repairMiss := wrapAdd 32 s.twin.stat.repairMiss lacks.length
      twin.missed := (s.twin.missed.filter fun w => w.berth != e.berth || w.first + 1536 ≥ hi) ++
        lacks.map fun r => ⟨e.berth, r.1, r.2⟩ }

/-- A FREE flow's packets in the order the manifest lists (R122, R234). -/
def obeyFree (e : ManFree) (s : State) : State :=
  e.seqs.foldl (fun s q =>
    match SMap.look s.net.rx e.flow with
    | none => s
    | some x =>
      match x.held.find? fun h => h.1 % 65536 == q with
      | some h => placeFree (seqMod x) e.flow h.1 h.2 (updRx e.flow (fun x => { x with held := x.held.filter fun k => k.1 != h.1 }) s)
      | none => updRx e.flow (fun x => { x with stat := { x.stat with repairMiss := wrapAdd 32 x.stat.repairMiss 1 } })
          { s with twin.stat.repairMiss := wrapAdd 32 s.twin.stat.repairMiss 1 }) s

/-- The packets a FREE flow wrote in a block are listed once. -/
def clearWritten (s : State) : State := { s with net.rx := s.net.rx.map fun e => (e.1, { e.2 with written := [] }) }

/-- TWIN_MANIFEST (R234, R286 to R288). -/
def execTwinManifest (m : Manifest) (s : State) : Host.Outcome State Fault Refusal :=
  let old : Bool := match s.twin.decided with | some d => decide (m.block ≤ d) | none => false
  .next (
    if !s.follows || s.twin.ownPresence || !s.media.running || old then s
    else
      let s := m.berths.foldl (fun s e => obeyBerth e s) s
      let s := clearWritten (m.frees.foldl (fun s e => obeyFree e s) s)
      { s with
        twin.oldMans := ((match s.twin.manifest with | some k => [k] | none => []) ++ s.twin.oldMans).take 8
        twin.manifest := some m, twin.manNose := m.nose, twin.manSilent := m.silent, twin.decided := some m.block
        twin.wanted := [] })

/-- Presence from the standby's own arrivals for one block (R288): packets of FREE flows in the order they came. -/
def ownBlock (b : Nat) (s : State) : State :=
  let s := s.net.rx.foldl (fun s e =>
    let s := updRx e.1 (fun x => { x with held := [] }) s
    e.2.held.foldl (fun s h => placeFree (seqMod e.2) e.1 h.1 h.2 s) s) s
  clearWritten (catchAll b { s with twin.decided := some b, twin.wanted := [] })

/-- The standby takes block b's presence from the manifest, which has not come. -/
def State.awaits (s : State) (b : Nat) : Bool := s.flag mStandby && !s.twin.ownPresence && s.twin.decided != some b

/-- MANIFEST_TIMEOUT (R288): 4 µs after the deadline of the block caught last. -/
def execManifestTimeout (s : State) : Host.Outcome State Fault Refusal :=
  .next (match s.media.caught with
    | some b =>
      if s.awaits b && s.media.running && s.media.computed != some b then
        ownBlock b { s with twin.stat.manifestMiss := wrapAdd 32 s.twin.stat.manifestMiss 1 }
      else s
    | none => s)

/-- WANT_POINT (R288, Table 10.6): at b + L + 8 the absent runs among the samples required of block b. -/
def execWantPoint (s : State) : Host.Outcome State Fault Refusal :=
  .next (
    if !s.follows || s.twin.ownPresence || !s.media.running || s.idx < s.media.catchL + 8 then s
    else
      let b := floorTo 16 (s.idx - s.media.catchL - 8)
      let wants := (caughtBerths b s).flatMap fun e =>
        (runsOf (absentOf s e.2.1 e.2.2.1 e.2.2.2)).map fun r => (⟨e.1, r.1, r.2⟩ : Sys2Proof.Want)
      if wants.isEmpty then s
      else sendTwin 3 true (b :: wants.flatMap fun w => [w.berth, w.first, w.count]) [] { s with twin.wanted := wants })

/-- Repair records for the runs of a want that are held now (R288): samples of each period, channel 0 first. -/
def repairsOf (s : State) (w : Sys2Proof.Want) : List Repair :=
  match SMap.look s.net.rx w.berth with
  | none => []
  | some x => (runsOf (heldOf s x w.first (w.first + w.count))).map fun r =>
      ⟨w.berth, r.1, (List.range r.2).map fun i => (List.range x.cfg.channels).map fun j =>
        ((SMap.look (SMap.get [] s.net.jitter (x.cfg.first + j)) (r.1 + i)).map Slot.value).getD 0⟩

/-- What is still wanted after those repairs. -/
def wantsLeft (s : State) (w : Sys2Proof.Want) : List Sys2Proof.Want :=
  match SMap.look s.net.rx w.berth with
  | none => []
  | some x =>
    let held := heldOf s x w.first (w.first + w.count)
    (runsOf (((List.range w.count).map fun i => w.first + i).filter fun n => !held.contains n)).map fun r => ⟨w.berth, r.1, r.2⟩

/-- Send the repairs that can be sent (R288). -/
def sendRepairs (wants : List Sys2Proof.Want) (s : State) : State :=
  let s1 := (wants.flatMap (repairsOf s)).foldl (fun s r =>
    sendTwin 4 true ([r.berth, r.first, r.samples.length] ++ r.samples.flatten.map arg32) [] s) s
  { s1 with twin.wanted := wants.flatMap (wantsLeft s) }

/-- TWIN_WANT (R288): the active answers with every wanted sample it holds; the rest goes as it arrives. -/
def execTwinWant (block : Nat) (wants : List Want) (s : State) : Host.Outcome State Fault Refusal :=
  .next (if !s.moored || !s.flag mActive || s.media.caught = some block then s else sendRepairs wants s)

/-- One repaired period of a berth. -/
def writeRepair (x : RxBerth) (n : Nat) (row : List Int) (j : SMap (SMap Slot)) : SMap (SMap Slot) :=
  row.zipIdx.foldl (fun j v =>
    let m := SMap.get [] j (x.cfg.first + v.2)
    if v.2 < x.cfg.channels && (SMap.look m n).isNone then SMap.put [] j (x.cfg.first + v.2) (SMap.ins m n { value := v.1 }) else j) j

/-- TWIN_REPAIR (R288): in time it is written; after the manifest it is discarded and counted, once. -/
def execTwinRepair (rep : Repair) (s : State) : Host.Outcome State Fault Refusal :=
  .next (
    if !s.follows then s
    else match SMap.look s.net.rx rep.berth with
      | none => s
      | some x =>
        let lo := x.decided.getD 0
        let late := !rep.samples.isEmpty && rep.first < lo
        let counted := s.twin.missed.any fun w => w.berth == rep.berth && rep.first < w.first + w.count && w.first < rep.first + rep.samples.length
        let rows := rep.samples.zipIdx.filter fun r => lo ≤ rep.first + r.2
        let s := { s with net.jitter := rows.foldl (fun j r => writeRepair x (rep.first + r.2) r.1 j) s.net.jitter }
        if late && !counted then
          updRx rep.berth (fun x => { x with stat := { x.stat with repairMiss := wrapAdd 32 x.stat.repairMiss 1 } })
            { s with twin.stat.repairMiss := wrapAdd 32 s.twin.stat.repairMiss 1 }
        else s)

/-- TWIN_MIRROR (R289): the samples count as received. -/
def execTwinMirror (mir : Mirror) (s : State) : Host.Outcome State Fault Refusal :=
  .next (
    if !s.follows || !(s.localChannels.any fun e => e.1 == mir.channel) then s
    else
      let m := SMap.get [] s.net.jitter mir.channel
      let m := mir.samples.zipIdx.foldl (fun m v =>
        if (SMap.look m (mir.first + v.2)).isSome then m else SMap.ins m (mir.first + v.2) { value := v.1 }) m
      { s with net.jitter := SMap.put [] s.net.jitter mir.channel m
               twin.mirrors := SMap.ins s.twin.mirrors mir.channel (mir.first + mir.samples.length, mir.samples.length, true) })

/-! Digests and checks. -/

/-- TWIN_DIGEST (R295). -/
def execTwinDigest (block crc : Nat) (s : State) : Host.Outcome State Fault Refusal :=
  .next (if !s.moored then s else compareDigest block
    { s with twin.partner := SMap.ins (s.twin.partner.filter fun e => e.1 + 1024 ≥ block) block crc })

/-- A check record against this unit's counts for its tick (R290). -/
def compareCheck (k : Nat) (s : State) : State :=
  match SMap.look s.twin.checks (2 * k + 1) with
  | none => s
  | some theirs =>
    let mine := SMap.look s.twin.checks (2 * k)
    let s := { s with twin.checks := SMap.del (SMap.del s.twin.checks (2 * k)) (2 * k + 1) }
    if mine = some theirs then s else setAdrift 3 s

/-- TWIN_CHECK (R290): compared at once, or when the tick is solved. -/
def execTwinCheck (c : Check) (s : State) : Host.Outcome State Fault Refusal :=
  .next (
    if !s.follows then s
    else
      let s := { s with
        twin.checks := SMap.ins s.twin.checks (2 * c.tick + 1) c.counts
        twin.activeChecks := SMap.ins (s.twin.activeChecks.filter fun e => e.1 + 512 ≥ c.tick) c.tick c.counts }
      if (match s.media.snapped with | some k => decide (c.tick ≤ k) | none => false) then compareCheck c.tick s else s)

end Sys2Proof.Machine
end

