-- ==== Sys2Proof/Machine/Warp.lean ====
section
/-!
DEFINITION. The warp (R296 to R301, Tables 10.8 to 10.10): the image the active captures and sends, and what the standby loads
and renders again. The image leaves as it is captured: the time the mooring engine takes to send it is not modelled
(assumption 55).
-/
namespace Sys2Proof.Machine

def updWarp (f : Warp → Warp) (s : State) : State := { s with twin.warp := s.twin.warp.map f }

/-! The image. -/

/-- Image bytes of a segment (Table 10.8): the scene records are counted with the air record, the control state with the mode
word, a slice's running state with its output chains. -/
def segBytes : WarpSeg → Nat
  | .object _ e _ => catalogueBytes e
  | .accord _ a => 4608 * slotsUsed a
  | .air _ _ | .mode _ => 1048576
  | .inChain _ _ _ => 260
  | .near _ _ _ => 32768
  | .long _ _ _ _ => 128
  | .outChain _ _ => 11264
  | .tap _ _ _ => 32
  | .tapAir _ _ _ _ => 8
  | .replay _ d => d.length
  | _ => 0

def sendSegs (l : List WarpSeg) (s : State) : State := l.foldl (fun s x => sendSeg (segBytes x) x s) s

/-- Flags of the mode word that the image carries: LIVE to REPLAY, and DOZE; the others are each unit's own. -/
def imageFlags : BitVec 16 := 0x203F

/-- Commands accepted and not yet in force that the standby is to hold (R297). -/
def imageCmds (s : State) : List Cmd :=
  s.host.cmds.filter fun c => !c.applied && c.fseq.isSome && (c.op == .storeTransfer || classOf c.op c.payload {} == .forwarded)

/-- Kind and number of a record of the image (ImageControl); none for what is no record of a collection. -/
def segKey : WarpSeg → Option (Nat × Nat)
  | .object id _ _ => some (0, id)
  | .speaker o _ => some (1, o)
  | .zone z _ => some (2, z)
  | .accord o _ => some (3, o)
  | .mute o _ => some (4, o)
  | .dest c _ => some (5, c)
  | .xpoint x => some (6, 65536 * x.source + x.dest)
  | .claim c => some (7, 2 * c.id + bit c.zone)
  | .rxBerth b _ => some (8, b)
  | .txBerth b _ => some (9, b)
  | .pairRec i _ => some (10, i)
  | .markRec o _ => some (11, o)
  | .obs i _ => some (12, i)
  | .curve z _ => some (13, z)
  | .health o _ => some (14, o)
  | .anchor i _ => some (15, i)
  | .proposal k _ => some (16, k)
  | .bridge f _ => some (17, f)
  | .silence c _ => some (18, c)
  | _ => none

/-- The records of the image (Table 10.8, phase 1). -/
def recordList (s : State) : List WarpSeg :=
  (s.scene.objects.map fun e => WarpSeg.object e.1 e.2 (s.objStat e.1)) ++
  (s.scene.speakers.map fun e => WarpSeg.speaker e.1 e.2) ++ (s.scene.zones.map fun e => WarpSeg.zone e.1 e.2) ++
  [WarpSeg.air s.scene.air s.scene.airSt] ++
  (s.rend.accords.map fun e => WarpSeg.accord e.1 e.2) ++ (s.rend.mutes.map fun e => WarpSeg.mute e.1 e.2) ++
  (s.rend.dests.map fun e => WarpSeg.dest e.1 e.2) ++ (s.rend.xpoints.map WarpSeg.xpoint) ++
  (s.host.claims.map WarpSeg.claim) ++ ((imageCmds s).map WarpSeg.pending) ++
  (s.net.rx.map fun e => WarpSeg.rxBerth e.1 e.2) ++ (s.net.tx.map fun e => WarpSeg.txBerth e.1 e.2) ++
  [WarpSeg.policy s.nose.policy, WarpSeg.power s.power.policy, WarpSeg.noseDev s.nose.dev] ++
  (s.nose.pairs.map fun e => WarpSeg.pairRec e.1 e.2) ++ (s.rend.markRecs.map fun e => WarpSeg.markRec e.1 e.2) ++
  (s.nose.obs.map fun e => WarpSeg.obs e.1 e.2) ++ (s.nose.curves.map fun e => WarpSeg.curve e.1 e.2) ++
  (s.nose.health.map fun e => WarpSeg.health e.1 e.2) ++ (s.nose.anchors.map fun e => WarpSeg.anchor e.1 e.2) ++
  (s.nose.proposals.map fun e => WarpSeg.proposal e.1 e.2) ++ (s.rend.bridges.map fun e => WarpSeg.bridge e.1 e.2) ++
  (s.rend.silence.map fun e => WarpSeg.silence e.1 e.2) ++ [WarpSeg.mode (s.power.word &&& imageFlags)]

/-- Phase 1 of the image (Table 10.8): its records, and the control state that lists them. A record that no segment names stands at its
default on the active. -/
def recordSegs (s : State) : List WarpSeg :=
  let l := recordList s
  l ++ [WarpSeg.control {
    keys := l.filterMap segKey, replay := s.rend.replay, deferred := s.power.deferred, resume := s.power.resume
    sweep := s.nose.sweep, baseLog2 := s.media.baseLog2, catchL := s.media.catchL, heart := s.media.heart }]

/-- A slot's near window, stamps X − 8,188 to X + 3, at the emit slot of X (R299): the window still holds X − 8,172 and later;
what is older comes from the long line. -/
def nearImage (x slot : Nat) (s : State) : SMap Int :=
  let old := (SMap.get [] s.rend.long slot).filter fun e => x + 4 ≤ e.1 + 8192 && e.1 + 8172 < x
  let new := (SMap.get [] s.rend.near slot).filter fun e => x ≤ e.1 + 8172 && e.1 < x + 4
  old ++ new

/-- One granule of a long line. -/
def granuleImage (g slot : Nat) (s : State) : SMap Int := (SMap.get [] s.rend.long slot).filter fun e => e.1 / 32 == g

/-- Delay lines (R299): near windows first, then the long lines granule by granule, oldest first. A line holds 6,000 granules, and
at the emit slot of X the newest written is that of X − 32, so none below X has been overwritten since. -/
def lineSegs (x : Nat) (s : State) : List WarpSeg :=
  let slots := SMap.keys s.rend.slots
  (slots.map fun n => WarpSeg.near n (SMap.get 0 s.rend.nearMark n) (nearImage x n s)) ++
  ((List.range (min 6000 (x / 32))).reverse.flatMap fun i => slots.map fun n =>
    WarpSeg.long n (x / 32 - 1 - i) (SMap.get 0 s.rend.longMark n) (granuleImage (x / 32 - 1 - i) n s))

/-- The replay granules written, where the two stores differ in version (Table 10.8). -/
def storeSegs (w : Warp) (s : State) : List WarpSeg :=
  if w.theirs = some s.rend.storeVersion then [] else s.rend.store.map fun e => WarpSeg.replay e.1 e.2

/-- The running state of a slice (R300, Table 10.10). -/
def sliceSegs (l : Slice) (s : State) : List WarpSeg :=
  (l.outs.flatMap fun o => [WarpSeg.outChain o (s.outChain o), WarpSeg.marker o (SMap.get {} s.rend.markers o),
    WarpSeg.mute o (s.mute o), WarpSeg.accord o (s.accord o)]) ++
  (l.dests.map fun c => WarpSeg.dest c (s.dest c)) ++
  ((s.rend.xpoints.filter fun x => l.dests.contains x.dest).map WarpSeg.xpoint) ++
  (((tapList s.rend.taps).filter fun e => l.outs.contains e.2.1).map fun e => WarpSeg.tapAir e.1 e.2.1 e.2.2.y e.2.2.yOld)

/-! What the active sends (Table 10.9). -/

/-- Outputs that a warp cuts over. -/
def warpOutputs (s : State) : List Nat :=
  (SMap.keys s.scene.speakers ++ SMap.keys s.rend.outChains ++ SMap.keys s.rend.mutes ++ SMap.keys s.rend.accords).eraseDups.filter
    (outExists s.media.heart)

/-- Phase 1 begins at X: every record as it stands at the first period of X (R297). -/
def warpTick (s : State) : State :=
  match s.twin.warp with
  | some w =>
    if w.active && w.phase = 0 && w.tick ≤ s.idx then
      sendSegs (recordSegs s) (sendTwin 9 true [1, 1] [] (updWarp (fun w => { w with phase := 1 }) s))
    else s
  | none => s

/-- In the emit slot of X the input-chain states captured go, and phase 3 begins with the delay lines; in the emit slot of block
c + 96 the running state of the slice cut at c goes (Table 10.10). After the last slice verification begins (Table 10.9). -/
def warpEmit (b : Nat) (s : State) : State :=
  match s.twin.warp with
  | none => s
  | some w =>
    if !w.active then s
    else if w.phase = 2 && w.tick = b then
      let chains := (List.range (chanCount s.media.heart)).map fun c =>
        WarpSeg.inChain c (SMap.get {} w.chains c) (SMap.get 0 w.runs c)
      let s := sendTwin 9 true [1, 3] [] (sendSegs chains (updWarp (fun w => { w with phase := 3, chains := [], runs := [] }) s))
      sendSegs (storeSegs w s) (sendSegs (lineSegs b s) s)
    else if w.slices.any fun l => l.captured && l.tick + 96 == b then
      let rest := w.slices.filter fun l => l.tick + 96 != b
      let through := rest.isEmpty && (warpOutputs s).all w.sliced.contains
      let s := sendSegs s.twin.stash s
      let s := updWarp (fun w => { w with slices := rest, phase := if through then 5 else w.phase }) { s with twin.stash := [] }
      if through then sendTwin 9 true [1, 5] [] s else s
    else s

/-! What the standby loads (R297 to R299). -/

/-- Samples of an image merged into a line: the stamps from `lo` up to `hi` are the active's. -/
def mergeLine (lo hi : Nat) (image line : SMap Int) : SMap Int :=
  (image.filter fun e => lo ≤ e.1 && e.1 < hi).foldl (fun m e => SMap.put 0 m e.1 e.2) (line.filter fun e => e.1 < lo || hi ≤ e.1)

/-- A segment of the image that is a record or a line: it holds from its arrival (R297). Counters, and what the
Nose measures, stay the unit's own (Table 10.7). -/
def loadSeg (seg : WarpSeg) (w : Warp) (s : State) : State :=
  match seg with
  | .object id e t =>
    let own := s.objStat id
    let s := { s with
      scene.objects := SMap.put {} s.scene.objects id e
      scene.stats := SMap.put {} s.scene.stats id { t with dropped := own.dropped, clamps := own.clamps, gainSat := own.gainSat } }
    let slots := s.rend.slots.filter fun e => e.2 != id
    match t.slot with
    | some n => { s with rend.slots := SMap.ins slots n id }
    | none => { s with rend.slots := slots }
  | .speaker o r => { s with scene.speakers := SMap.put {} s.scene.speakers o r }
  | .zone z r => { s with scene.zones := SMap.put {} s.scene.zones z r }
  | .air r t => { s with scene.air := r, scene.airSt := t }
  | .accord o a => { s with rend.accords := SMap.put {} s.rend.accords o a }
  | .mute o r => updMute o (fun _ => r) s
  | .dest c d => updDest c (fun own => { d with sat := own.sat }) s
  | .xpoint x => { s with rend.xpoints := (s.rend.xpoints.filter fun y => y.source != x.source || y.dest != x.dest) ++ [x] }
  | .claim c =>
    let l := (s.host.claims.filter fun d => d.zone != c.zone || d.id != c.id) ++ [c]
    { s with host.claims := l.drop (l.length - 1024) }
  | .pending c =>
    if s.host.cmds.any fun d => d.op == c.op && (d.fseq == c.fseq || d.origin == c.origin && d.apply == c.apply && d.payload == c.payload) then s
    else withCmd { c with id := s.host.nextId, answered := true } { s with host.nextId := s.host.nextId + 1 }
  | .rxBerth b x =>
    let own := SMap.look s.net.rx b
    { s with net.rx := SMap.ins s.net.rx b { x with
        stat := (own.map RxBerth.stat).getD {}, decided := own.bind RxBerth.decided, held := (own.map RxBerth.held).getD [] } }
  | .txBerth b x =>
    let own := (SMap.look s.net.tx b).getD {}
    { s with net.tx := SMap.ins s.net.tx b { x with
        pktsA := own.pktsA, pktsB := own.pktsB, clamps := own.clamps, dropped := own.dropped } }
  | .policy p => { s with nose.policy := p }
  | .power p => { s with power.policy := p }
  | .noseDev d =>
    let own := s.nose.dev
    noseFollow { s with nose.dev := { d with state := own.state, drainAt := own.drainAt, frames := own.frames, skipped := own.skipped } }
  | .pairRec i r => { s with nose.pairs := SMap.put {} s.nose.pairs i r }
  | .markRec o r => { s with rend.markRecs := SMap.put {} s.rend.markRecs o r }
  | .obs i r =>
    let own := SMap.get {} s.nose.obs i
    { s with nose.obs := SMap.put {} s.nose.obs i { r with
        q := own.q, frozen := own.frozen, dec := own.dec, decHist := own.decHist, hist := own.hist, out := own.out } }
  | .curve z r => { s with nose.curves := SMap.put {} s.nose.curves z r }
  | .health o h =>
    let own := s.health o
    { s with nose.health := SMap.put {} s.nose.health o { h with
        evidence := own.evidence, since := own.since, stale := own.stale, zMeas := own.zMeas, suspectCount := own.suspectCount
        failedCount := own.failedCount, lastChange := own.lastChange, viSum := own.viSum, iiSum := own.iiSum
        learnFrom := own.learnFrom, learn := own.learn } }
  | .anchor i k => { s with nose.anchors := SMap.ins s.nose.anchors i k }
  | .proposal k p => { s with nose.proposals := SMap.put {} s.nose.proposals k p }
  | .bridge f b =>
    let r : Bridge := { b with slips := (s.bridge f).slips, sat := (s.bridge f).sat }
    { s with rend.bridges := SMap.put {} s.rend.bridges f r }
  | .silence c d => { s with rend.silence := SMap.put {} s.rend.silence c d }
  | .mode v =>
    let n := (s.power.word &&& ~~~imageFlags) ||| (v &&& imageFlags)
    if wordOk s.isPair n then setWord n srcDevice s else s
  | .near n m l =>
    let lo := w.tick + 4 - 8192
    { s with rend.near := SMap.put [] s.rend.near n (mergeLine lo (w.tick + 4) l (SMap.get [] s.rend.near n))
             rend.nearMark := SMap.put 0 s.rend.nearMark n m }
  | .long n g m l =>
    let hi := min (32 * g + 32) (w.tick + 4)
    { s with rend.long := SMap.put [] s.rend.long n (mergeLine (32 * g) hi l (SMap.get [] s.rend.long n))
             rend.longMark := SMap.put 0 s.rend.longMark n m }
  | .replay g d => { s with rend.store := SMap.put [] s.rend.store g d
                            rend.storeVersion := w.theirs.getD s.rend.storeVersion }
  | .control _ | .inChain _ _ _ | .outChain _ _ | .marker _ _ | .tap _ _ _ | .tapAir _ _ _ _ => s

/-- The default of every record that this unit holds and the image does not list. -/
def staleSegs (keys : List (Nat × Nat)) (s : State) : List WarpSeg :=
  let d : List WarpSeg :=
    ((SMap.keys s.scene.objects ++ SMap.keys s.scene.stats).eraseDups.map fun k => .object k {} {}) ++
    ((SMap.keys s.scene.speakers).map fun k => .speaker k {}) ++ ((SMap.keys s.scene.zones).map fun k => .zone k {}) ++
    ((SMap.keys s.rend.accords).map fun k => .accord k {}) ++ ((SMap.keys s.rend.mutes).map fun k => .mute k {}) ++
    ((SMap.keys s.rend.dests).map fun k => .dest k {}) ++ ((SMap.keys s.nose.pairs).map fun k => .pairRec k {}) ++
    ((SMap.keys s.rend.markRecs).map fun k => .markRec k {}) ++ ((SMap.keys s.nose.obs).map fun k => .obs k {}) ++
    ((SMap.keys s.nose.curves).map fun k => .curve k {}) ++ ((SMap.keys s.nose.health).map fun k => .health k {}) ++
    ((SMap.keys s.nose.proposals).map fun k => .proposal k {}) ++ ((SMap.keys s.rend.bridges).map fun k => .bridge k {}) ++
    ((SMap.keys s.rend.silence).map fun k => .silence k {})
  d.filter fun g => match segKey g with | some k => !keys.contains k | none => false

/-- The control state has arrived (Table 10.8): what the image does not list falls back to its default (R297), the replay map, the deferred
mode bits, the resume flag and the SWEEP run are taken, and N, L and the Heart rate follow; a change of these two acts at the
next block boundary and starts the warp anew (R301). -/
def loadControl (c : ImageControl) (w : Warp) (s : State) : State :=
  let has := fun (kind key : Nat) => c.keys.contains (kind, key)
  let s := (staleSegs c.keys s).foldl (fun s g => loadSeg g w s) s
  let s := if c.baseLog2 = s.media.baseLog2 then s else clearBase { s with media.baseLog2 := c.baseLog2 }
  { s with
    rend.xpoints := s.rend.xpoints.filter fun x => has 6 (65536 * x.source + x.dest)
    host.claims := s.host.claims.filter fun d => has 7 (2 * d.id + bit d.zone)
    net.rx := s.net.rx.filter fun e => has 8 e.1
    net.tx := s.net.tx.filter fun e => has 9 e.1
    nose.anchors := s.nose.anchors.filter fun e => has 15 e.1
    rend.replay := c.replay.map fun e =>
      (e.1, { e.2 with held := match SMap.look s.rend.replay e.1 with | some r => r.held | none => [] })
    power.deferred := c.deferred, power.resume := c.resume, nose.sweep := c.sweep
    media.newCatch := if c.catchL = s.media.catchL then s.media.newCatch else some c.catchL
    media.newHeart := if c.heart = s.media.heart then s.media.newHeart else some c.heart }

/-- Parts of the image that wait for their cut: input-chain states (R298) and the running state of a slice (R300). -/
def waits (w : Warp) : WarpSeg → Bool
  | .inChain _ _ _ | .outChain _ _ | .marker _ _ | .tapAir _ _ _ _ => true
  | .mute _ _ | .dest _ _ | .xpoint _ | .accord _ _ => w.phase ≥ 4
  | _ => false

/-- A tap record of a slice as it stood at the slice's tick. -/
def sliceTap (n o : Nat) (t : Tap) (l : Slice) : Slice :=
  if l.outs.contains o && !l.carried then { l with records := putTap l.records n o t } else l

/-- A segment has arrived: loaded, or kept for its cut. -/
def takeSeg (seg : WarpSeg) (w : Warp) (s : State) : State :=
  match seg with
  | .control c => loadControl c w s
  | .inChain c r g => updWarp (fun w => { w with chains := SMap.ins w.chains c r, runs := SMap.put 0 w.runs c g }) s
  | .tap n o t => updWarp (fun w => { w with slices := w.slices.map (sliceTap n o t) }) s
  | seg => if waits w seg then { s with twin.stash := s.twin.stash ++ [seg] } else loadSeg seg w s

/-- TWIN_WARP_DATA (R297, R299): loaded, or kept for its cut; acknowledged with the bytes received and this unit's replay-store
version. -/
def execTwinWarpData (seg : WarpSeg) (bytes : Nat) (s : State) : Host.Outcome State Fault Refusal :=
  .next (match s.twin.warp with
    | none => s
    | some w =>
      if !s.follows || w.active then s
      else
        let s := takeSeg seg w (updWarp (fun w => { w with done := w.done + bytes }) s)
        sendTwin 9 true [3, w.done + bytes, s.rend.storeVersion] [] s)

/-! Warp control. -/

/-- Bytes that the replay store adds to the image, once the partner's version is known (Table 10.8). -/
def storeBytes (w : Warp) (s : State) : Nat := ((storeSegs w s).map segBytes).foldl (· + ·) 0

/-- The router destinations that belong to a slice: those that its Quay's shaping engine computes, if it is the Quay's first slice
(R300). -/
def sliceDests (s : State) (w : Warp) (outs : List Nat) : List Nat :=
  let q := outs.headD 0 / 128
  if w.sliced.any fun o => o / 128 == q then []
  else ((SMap.keys s.rend.dests ++ s.rend.xpoints.map Xpoint.dest).eraseDups).filter fun d => d % 4 == q

/-- A slice named for tick k joins those being cut. -/
def nameSlice (k : Nat) (outs : List Nat) (s : State) : State :=
  updWarp (fun w => { w with
    phase := 4, slices := w.slices ++ [{ tick := k, outs := outs, dests := sliceDests s w outs }]
    sliced := (w.sliced ++ outs).eraseDups, since := k + 128 }) s

/-- TWIN_WARP_CONTROL (R296, R301, Tables 10.2, 10.9): a standby's request starts a warp anew, or waits for the conditions; the
active's start is acknowledged with the replay-store version. -/
def execTwinWarpControl (c : WarpCtl) (s : State) : Host.Outcome State Fault Refusal :=
  .next (
    if !s.moored then s
    else match c with
      | .start x n v =>
        if s.flag mActive then
          let t := { s with twin.warp := none }
          if warpOk t && !t.flag mDoze then updWarp (fun w => { w with theirs := some v, total := w.total + storeBytes { w with theirs := some v } s })
              (startWarp t)
          else { t with twin.asked := true }
        else if s.flag mStandby && s.flag mAdrift then
          sendTwin 9 true [3, 0, s.rend.storeVersion] []
            { s with twin.warp := some { tick := x, total := n, theirs := some v }, twin.retry := false, twin.stash := [] }
        else s
      | .phase n => if s.flag mStandby then updWarp (fun w => { w with phase := n }) s else s
      | .slice k outs => if s.flag mStandby then nameSlice k outs s else s
      | .ack _ v =>
        if s.flag mActive then
          updWarp (fun w => if w.theirs.isSome then w
            else { w with theirs := some v, total := w.total + storeBytes { w with theirs := some v } s }) s
        else s
      | .abandon again => if s.twin.warp.isNone then s else failWarp again s
      | .rejoin =>
        if s.twin.warp.isNone || !s.flag mActive then s
        else twinEvent 3 s.twin.epoch { s with twin.warp := none, twin.stash := []
                                               twin.stat.warps := wrapAdd 32 s.twin.stat.warps 1 })

/-! The input cut (R298). -/

/-- FREE bridges as they stood at a block, by the manifests kept (R122). -/
def bridgesAt (b : Nat) (s : State) : State :=
  match ((match s.twin.manifest with | some m => [m] | none => []) ++ s.twin.oldMans).find? fun m => m.block == b with
  | none => s
  | some m => { s with rend.bridges := m.frees.foldl (fun t e =>
      SMap.upd {} t e.flow fun (br : Bridge) =>
        if br.placed || e.pos != 0 then { br with pos := (e.pos : Rat) / 65536, r := e.r, placed := true } else br) s.rend.bridges }

/-- First index of a channel's jitter buffer that block b alone reads: the run of concealed samples below it is the channel's run count
at block b (R230, R298). -/
def runStart (s : State) (b c : Nat) : Nat :=
  match s.feeder b c with
  | none => b
  | some f =>
    let br := s.flowBridge f
    if br.mode = 2 then br.pos.floor.toNat
    else if br.mode = 1 && br.rate ≠ s.hz then (b * br.rate + s.hz - 1) / s.hz else b

/-- The concealment run counts at block b (R298). -/
def runCounts (b : Nat) (s : State) : SMap Nat :=
  (SMap.keys s.net.jitter).foldl (fun m c => SMap.put 0 m c (runBefore (SMap.get [] s.net.jitter c) 32 (runStart s b c))) []

/-- A run count loaded at index `lo` of a channel: the samples below are concealed as it counts them, and those concealed from it on are
formed again (R230). -/
def loadRun (lo g : Nat) (m : SMap Slot) : SMap Slot :=
  let m := (List.range (min lo 32)).foldl (fun m j =>
    match SMap.look m (lo - 1 - j) with
    | some x => SMap.ins m (lo - 1 - j) { x with concealed := j < g }
    | none => if j < g then SMap.ins m (lo - 1 - j) { concealed := true } else m) m
  (m.filter fun e => lo ≤ e.1 && e.2.concealed).foldl (fun m e => SMap.ins m e.1 { value := concealValue m e.1, concealed := true }) m

/-- The input chains and the sillage write of a block again (R298). -/
def againInputs (b : Nat) (s : State) : State :=
  let kept := s.rend.bridges
  let t := sillageWrites b (inputBlock b (bridgesAt b s)).2
  { t with rend.bridges := kept }

/-- The input cut at the start of the compute slot of block b (R298): the active captures block X; the standby, before it computes
X + 32, loads the capture, renders the input chains of X and X + 16 again and writes their long-line granule again. -/
def inputCut (b : Nat) (s : State) : State :=
  match s.twin.warp with
  | none => s
  | some w =>
    if !s.moored || w.cut || w.tick = 0 then s
    else if w.active then
      if w.phase ≠ 1 || b ≠ w.tick then s
      else sendTwin 9 true [1, 2] [] (updWarp (fun w =>
        { w with phase := 2, cut := true, chains := s.rend.inChains, runs := runCounts b s }) s)
    else if b ≠ w.tick + 32 || w.chains.isEmpty then s
    else
      let s := { s with
        rend.inChains := w.chains.foldl (fun m e =>
          let own := SMap.get ({} : InChain) m e.1
          SMap.put {} m e.1 { e.2 with satTrim := own.satTrim, satBq := own.satBq }) s.rend.inChains
        net.jitter := s.net.jitter.map fun e => (e.1, loadRun (runStart s w.tick e.1) (SMap.get 0 w.runs e.1) e.2)
        twin.warp := some { w with cut := true, chains := [], runs := [] } }
      writeLong (w.tick + 16) (againInputs (w.tick + 16) (againInputs w.tick s))

/-- WARP_INPUT_CUT (R298), of the block computed next; the compute slot makes the cut too where it has not been made. -/
def execWarpInputCut (s : State) : Host.Outcome State Fault Refusal := .next (inputCut s.toCompute s)

/-! Slices (R300). -/

/-- MACs per period of the taps of some outputs (Table 1.6): 11 a read. -/
def tapLoad (s : State) (f : Nat → Bool) : Nat :=
  11 * (((tapList s.rend.taps).filter fun e => f e.2.1).map fun e => if e.2.2.hop then 2 else 1).foldl (· + ·) 0

/-- MACs per period of some outputs and router destinations on their shaping engine (Table 1.6): an output in a swap runs both
accords and blends them. -/
def shapeLoad (s : State) (outs : List Nat) (f : Nat → Bool) : Nat :=
  (outs.map fun o => if (s.accord o).fade.isSome then 1432 else 715).foldl (· + ·) 0 +
  (s.rend.xpoints.filter fun x => f x.dest).length

/-- Image bytes of a slice (R300, the worked example after R301): its outputs' running state and its taps' air states. -/
def sliceBytes (s : State) (outs : List Nat) : Nat :=
  11264 * outs.length + 8 * ((tapList s.rend.taps).filter fun e => outs.contains e.2.1).length

/-- A slice (R300): at most 32 outputs of one Quay (16 at 192 kHz), its image within 448 KiB (224 KiB), its tap and shaping loads
at most half of what the Quay's engines have spare, and no accord fade on any of its outputs. -/
def sliceOk (s : State) (w : Warp) (outs : List Nat) : Bool :=
  let q := outs.headD 0 / 128
  let top := s.media.heart == 2
  let ds := sliceDests s w outs
  let tapAll := tapLoad s fun o => o / 128 == q
  let shapeAll := shapeLoad s ((warpOutputs s).filter fun o => o / 128 == q) (fun d => d % 4 == q) + 41 * (chanCount s.media.heart / 4)
  !outs.isEmpty && outs.length ≤ (if top then 16 else 32) && outs.Nodup &&
  (outs.all fun o => outExists s.media.heart o && o / 128 == q && (s.accord o).fade.isNone) &&
  sliceBytes s outs ≤ (if top then 224 else 448) * 1024 &&
  2 * tapLoad s outs.contains ≤ 28800000000 / s.hz - tapAll &&
  2 * shapeLoad s outs ds.contains ≤ 19200000000 / s.hz - shapeAll

/-- The records of a slice carried through tick c + 64, when the solve of tick k = c + 128 opens (R79 to R84, R300): from its tick-c
records and the scene as it stands, with the active's check record. They stand in the table the next solve starts from. -/
def carryOne (k : Nat) (l : Slice) (s : State) : Slice × SMap (SMap Tap) :=
  let others := s.rend.taps.map fun e => (e.1, e.2.filter fun t => !l.outs.contains t.1)
  let prev := (tapList l.records).foldl (fun m e => putTap m e.1 e.2.1 e.2.2) others
  let next := solveFrom (k - 64) s prev (SMap.look s.twin.activeChecks (k - 64))
  let mine := (tapList next.table).filter fun e => l.outs.contains e.2.1
  let drop := s.rend.nextTaps.map fun e => (e.1, e.2.filter fun t => !l.outs.contains t.1)
  ({ l with records := mine.foldl (fun m e => putTap m e.1 e.2.1 e.2.2) [], carried := true },
   (mine.foldl (fun m e => putTap m e.1 e.2.1 e.2.2) drop).filter fun e => !e.2.isEmpty)

/-- Carry the slice whose cut comes with tick k. -/
def carrySlice (k : Nat) (s : State) : State :=
  match s.twin.warp with
  | some w =>
    match w.slices.find? fun l => l.tick + 128 == k && !l.carried with
    | some l =>
      if w.active then s
      else
        let r := carryOne k l s
        updWarp (fun w => { w with slices := w.slices.map fun x => if x.tick = l.tick then r.1 else x })
          { s with rend.nextTaps := r.2 }
    | none => s
  | none => s

/-- In the compute slot of block c + 96 the active captures the running state of the slice cut at c, before anything of it is
overwritten (Table 10.10). -/
def captureSlice (b : Nat) (s : State) : State :=
  match s.twin.warp with
  | some w =>
    match w.slices.find? fun l => l.tick + 96 == b && !l.captured with
    | some l =>
      if !w.active then s
      else updWarp (fun w => { w with slices := w.slices.map fun x => if x.tick = l.tick then { x with captured := true } else x })
        { s with twin.stash := sliceSegs l s }
    | none => s
  | none => s

/-- Load the running state of a slice (R300): the air states into its tap records, the rest into the chains. -/
def loadStash (l : Slice) (w : Warp) (s : State) : Slice × State :=
  s.twin.stash.foldl (fun (a : Slice × State) seg => match seg with
    | .outChain o c => if l.outs.contains o then (a.1, updOutChain o (fun own => { c with stat := own.stat }) a.2) else a
    | .marker o m => if l.outs.contains o then (a.1, { a.2 with rend.markers := SMap.put {} a.2.rend.markers o m }) else a
    | .tapAir n o y yo => match tapOf a.1.records n o with
      | some t => ({ a.1 with records := putTap a.1.records n o { t with y := y, yOld := yo } }, a.2)
      | none => a
    | seg => (a.1, loadSeg seg w a.2)) (l, { s with
      twin.stash := [], rend.xpoints := s.rend.xpoints.filter fun x => !l.dests.contains x.dest })

/-- A tap of a slice over a block rendered again: every sample it reads is in the delay lines. -/
def tapAgain (s : State) (b slot : Nat) (t : Tap) : List Int × Tap :=
  let i0 := b % 64
  let src := fun old => if isLong t old i0 then s.longAt slot else s.nearAt slot
  (List.range 16).foldl (fun (acc : List Int × Tap) i =>
    let g := rampAt t.gainA t.gainB (i0 + i)
    let air := rampAt t.airA t.airB (i0 + i)
    let cur := acc.2
    if t.hop then
      let wn := hopWeight t.fadeLen t.fadeIdx (i0 + i)
      let a := readStep (src false) (b + i) t.delayB (rshift 30 (g * wn)) air cur.y
      let o := readStep (src true) (b + i) t.delayH (rshift 30 (g * (unity - wn))) air cur.yOld
      (acc.1 ++ [a.1 + o.1], { cur with y := a.1, yOld := o.1 })
    else
      let a := readStep (src false) (b + i) (t.delayAt (i0 + i)) g air cur.y
      (acc.1 ++ [a.1], { cur with y := a.1 })) ([], t)

/-- One block of a slice rendered again: taps, chains, and the destinations that belong to it. It reads the slice's tap records, which it advances. -/
def againSlice (b : Nat) (l : Slice) (s : State) : Slice × State :=
  let dests := l.dests
  let held := s.outAt b
  let f := (tapList l.records).foldl (fun (acc : SMap (List Int) × SMap (SMap Tap)) e =>
    let r := tapAgain s b e.1 e.2.2
    (SMap.ins acc.1 e.2.1 (addBlock (SMap.get [] acc.1 e.2.1) r.1), putTap acc.2 e.1 e.2.1 r.2)) ([], l.records)
  let o := l.outs.foldl (fun (a : SMap (List Int) × State) k =>
    let w := outputBlock b k (SMap.get [] f.1 k) a.2
    (SMap.put [] a.1 k w.1, w.2)) (held.outs, s)
  let s := o.2
  let xs := s.rend.xpoints
  let ds := s.rend.dests
  let was := s.outAt (b - 16)
  let part := { s with
    rend.xpoints := xs.filter fun x => dests.contains x.dest
    rend.dests := ds.filter fun e => dests.contains e.1, rend.chanOut := held.chans }
  let d := routeBlock b o.1 (fun c => (SMap.get [] was.chans c).getD 15 0) (fun k => (SMap.get [] was.outs k).getD 15 0) part
  let keep := d.2
  ({ l with records := f.2 }, { keep with
    rend.xpoints := (xs.filter fun x => !dests.contains x.dest) ++ keep.rend.xpoints
    rend.dests := keep.rend.dests.foldl (fun m e => SMap.put {} m e.1 e.2) ds
    rend.chanOut := s.rend.chanOut
    rend.outs := s.rend.outs.map fun e => if e.block = b then
      { e with outs := o.1, dests := d.1.foldl (fun m e => SMap.put [] m e.1 e.2) held.dests } else e })

/-- What the commands that acted at block b did to a slice, over again: fades end, they act, waiting swaps and bindings start (R147). Nothing
beside the slice changes. -/
def againChanges (b : Nat) (l : Slice) (acted : List (Nat × Cmd)) (s : State) : State :=
  let t := (acted.filter fun e => e.1 == b).foldl (fun t e => applyCmd e.2 t) (endFades b s)
  let t := dropXps b (startBindings b (startWaiting b t))
  { s with
    rend.accords := l.outs.foldl (fun m o => SMap.put {} m o (t.accord o)) s.rend.accords
    rend.mutes := l.outs.foldl (fun m o => SMap.put {} m o (t.mute o)) s.rend.mutes
    rend.outChains := l.outs.foldl (fun m o => SMap.put {} m o (t.outChain o)) s.rend.outChains
    rend.dests := l.dests.foldl (fun m c => SMap.put {} m c (t.dest c)) s.rend.dests
    rend.xpoints := (s.rend.xpoints.filter fun x => !l.dests.contains x.dest) ++ t.rend.xpoints.filter fun x => l.dests.contains x.dest }

/-- The cut of a slice on the standby (R300, Table 10.10): it loads the running state of c + 96, renders c + 96 and c + 112 again with the
carried records and what acted at c + 112 and c + 128, and takes the air states into the table now current. -/
def cutOne (l : Slice) (w : Warp) (s : State) : State :=
  let a := loadStash l w s
  let b := againSlice (l.tick + 96) a.1 a.2
  let c := againSlice (l.tick + 112) b.1 (againChanges (l.tick + 112) l w.acted b.2)
  let t := againChanges (l.tick + 128) l w.acted c.2
  { t with rend.taps := t.rend.taps.map fun e => (e.1, e.2.map fun f =>
      if l.outs.contains f.1 then (f.1, carryTap c.1.records e.1 f.1 f.2) else f) }

/-- The cut due before block b is computed. -/
def cutSlice (b : Nat) (s : State) : State :=
  match s.twin.warp with
  | some w =>
    match w.slices.find? fun l => l.tick + 128 == b with
    | some l =>
      if w.active || !s.follows then s
      else updWarp (fun w => { w with slices := w.slices.filter fun x => x.tick != l.tick }) (cutOne l w s)
    | none => s
  | none => s

/-- What a warp does at the start of a compute slot. -/
def warpCompute (b : Nat) (s : State) : State := cutSlice b (captureSlice b (inputCut b s))

/-- WARP_SLICE (R300, Table 10.10): the active names the slice for the present tick, one a tick, and sends its tap records; the
standby, before it computes block c + 128, makes the cut, which the compute slot makes too where it has not been made. -/
def execWarpSlice (outputs : List (Fin 512)) (s : State) : Host.Outcome State Fault Refusal :=
  let outs := outputs.map Fin.val
  .next (match s.twin.warp with
    | none => s
    | some w =>
      if !s.moored then s
      else if w.active then
        let c := s.rend.tapTick.getD 0
        if w.phase < 3 || w.phase > 4 || c ≤ w.tick || (w.slices.any fun l => c ≤ l.tick) || (outs.any w.sliced.contains) ||
            !sliceOk s w outs then s
        else
          let recs := (tapList s.rend.taps).filter fun e => outs.contains e.2.1
          sendSegs (recs.map fun e => WarpSeg.tap e.1 e.2.1 e.2.2) (sendTwin 9 true (2 :: c :: outs) [] (nameSlice c outs s))
      else if w.slices.any fun l => l.outs == outs && l.tick + 128 == s.toCompute then cutSlice s.toCompute s
      else s)

/-- WARP_REJOIN (R296, Table 10.9): after sixteen equal blocks ADRIFT clears. -/
def execWarpRejoin (s : State) : Host.Outcome State Fault Refusal :=
  .next (match s.twin.warp with
    | some w =>
      if w.phase ≠ 6 || !s.flag mStandby then s
      else
        let s := setFlag mAdrift false srcDevice { s with
          twin.warp := none, twin.retry := false, twin.stash := [], twin.missRun := 0
          twin.stat.warps := wrapAdd 32 s.twin.stat.warps 1 }
        sendTwin 9 true [5] [] (twinEvent 3 s.twin.epoch s)
    | none => s)

/-- WARP_ABANDON (R301): the warp ends, is counted, and starts again from phase 0 as soon as it may. -/
def execWarpAbandon (s : State) : Host.Outcome State Fault Refusal :=
  .next (if s.twin.warp.isSome then autoWarp (abandonWarp s) else s)

end Sys2Proof.Machine
end

