-- ==== Sys2Proof/Machine/Block.lean ====
section
/-!
DEFINITION. The rhythm of media time (R9 to R21): the block boundary, the snapshot of a tick, the catch deadline with the
local inputs, the compute slot and the emit slot.
-/
namespace Sys2Proof.Machine

/-! A change of the Heart rate (R11, R12, R36, R249). -/

/-- Both marks of every active slot (R89). -/
def setMarks (mark : Nat) (s : State) : State :=
  let slots := SMap.keys s.rend.slots ++ (s.scene.stats.filterMap fun e => e.2.slot)
  let marks := slots.foldl (fun m n => SMap.ins m n mark) ([] : SMap Nat)
  { s with rend.nearMark := marks, rend.longMark := marks }

/-- At 192 kHz objects in slots from 256 on move, in order of slot, to the lowest free ones (R12). -/
def moveSlots (s : State) : State :=
  let high := ((s.scene.stats.filterMap fun e => e.2.slot.map fun n => (n, e.1)).filter fun e => 256 ≤ e.1).mergeSort
    fun a b => a.1 ≤ b.1
  high.foldl (fun s e => match s.freeSlot with
    | some n => updObjStat e.2 (fun t => { t with slot := some n }) s
    | none => s) s

/-- Slots as the objects hold them. -/
def slotMap (s : State) : SMap Nat :=
  s.scene.stats.foldl (fun m e => match e.2.slot with | some n => SMap.ins m n e.1 | none => m) []

/-- Index at the new rate of the instant an index named at the old one, rounded up to a multiple (R36). -/
def upTo (m old new x : Nat) : Nat := ceilTo m ((x * new + old - 1) / old)

/-- Stamps held in the render path and the router at the new rate. -/
def rescaleRend (old new : Nat) (s : State) : State :=
  let s := moveRend (upTo 16 old new) s
  { s with rend.silence := SMap.mapVals {} (fun _ (d : Silence) =>
      { d with hold := min (600 * new) (max (new / 100) d.hold) }) s.rend.silence }

/-- Indices held in the other units at the new rate. The u in use under TRACKED stays the number of mm per period that it is: R47 says
only that it stays in use (DESIGN CHOICE, assumption 13). -/
def rescaleRest (old new : Nat) (s : State) : State :=
  let up := upTo 16 old new
  let tick := upTo 64 old new
  let s := moveStamps up s
  { s with
    host.cmds := s.host.cmds.map fun c => if c.applied then c else { c with apply := tick c.apply, effect := tick c.effect }
    host.transfers := s.host.transfers.map fun t => { t with apply := t.apply.map tick }
    scene.objects := s.scene.objects.map fun e => (e.1, { e.2 with applied := e.2.applied.map tick })
    scene.updates := s.scene.updates.map fun u => { u with apply := tick u.apply }
    scene.airAt := tick s.scene.airAt
    power.resumeTick := s.power.resumeTick.map tick
    nose.sweep := s.nose.sweep.map fun r =>
      { r with start := up r.start, excite := up r.excite, last := up r.last, aborting := r.aborting.map up }
    twin.handOver := s.twin.handOver.map fun h => (h.1, up h.2), twin.stopAt := s.twin.stopAt.map up
    twin.activeChecks := [], twin.mirrors := [], twin.decisions := s.twin.decisions.map fun e => (tick e.1, e.2)
    twin.kept := []
    twin.digests := [], twin.partner := [], twin.manifest := none, twin.oldMans := [], twin.decided := none
    twin.wanted := [], twin.missed := [], twin.checks := []
    twin.followAt := s.twin.followAt.map fun f => (f.1, tick f.2.1, up f.2.2) }

/-- The Heart rate changes (R11): C is replaced (R249), pending periods follow (R36), the media and modulator PLLs are enabled
anew (R275), every trigger goes to mode 0 (R270), a warp is abandoned (R301), and nothing is rendered until the media PLL
declares lock. -/
def rateChange (h : Nat) (s : State) : State :=
  let old := s.hz
  let new := heartHz h
  let s := rescaleRest old new (rescaleRend old new (abandonWarp s))
  let m := { s.media with heart := h, c := s.media.c * new / old, running := false, snapped := none, caught := none, computed := none,
                          emitted := none, bounded := none, handed := none, windowed := none }
  let s := { s with
    media := m
    time.pllLock := s.time.pllLock &&& 0x7D
    time.trigs := SMap.mapVals {} (fun _ (t : Trigger) =>
      { t with cfg := { t.cfg with mode := 0 }, running := { t.running with mode := 0 }, next := none, newNext := none
               pulse := t.pulse.map fun e => s.media.c * new / old + e - s.media.c }) s.time.trigs
    rend.leaving := [], rend.gone := [], rend.taps := [], rend.nextTaps := [], rend.tapTick := none, rend.nextTick := none }
  let s := if h = 2 then moveSlots s else s
  discardRender 0 { s with rend.slots := slotMap s }

/-- Rendering resumes with the first block whose boundary follows the media PLL's lock (R11, R14); it starts so once self-test
is done. -/
def resumeRender (s : State) : State :=
  if s.media.running || !s.time.pllLock.getLsbD 1 || !s.boot.postDone || s.boot.loading || s.flag mSafe || 3 ≤ s.power.stage then s
  else
    let last := if s.idx < 16 then none else some (s.idx - 16)
    setMarks (s.idx + 4) { s with media.running := true, media.caught := last, media.computed := last, media.emitted := last }

/-! The block boundary. -/

/-- A change of the catch offset (R16), which ends a warp (R301). -/
def catchChange (l : Nat) (s : State) : State :=
  if l = s.media.catchL then s else abandonWarp { s with media.catchL := l }

/-- Changes in force from this media instant on (R226, R235, R252, R281, R405, R413). -/
def instantChanges (s : State) : State :=
  let s := timeBoundary s
  let s := match s.media.newCatch with
    | some l => catchChange l { s with media.newCatch := none }
    | none => s
  let s := match s.twin.newCfg with
    | some c => { s with twin.cfg := c, twin.newCfg := none }
    | none => s
  let s := match s.media.newHeart with
    | some h => if h = s.media.heart then { s with media.newHeart := none } else rateChange h { s with media.newHeart := none }
    | none => s
  applyDue (instantDue s.idx) (bindLocal (takeDecisions (fun e => !e.2.ofTick && e.1 ≤ s.idx) s))

/-- A standby that a warp is bringing back keeps the commands that act at block b, as they are resolved, for the cuts of the slices
to come (R300). -/
def noteActed (b : Nat) (s : State) : State :=
  match s.twin.warp with
  | none => s
  | some w =>
    if w.active then s
    else
      let due := (inOrder (s.host.cmds.filter fun c => !c.applied && blockDue b c)).map Cmd.id
      let s := forCmds due resolveCmd s
      let now := due.filterMap fun i => (s.host.cmds.find? fun c => c.id == i).map fun c => (b, c)
      updWarp (fun w => { w with acted := (w.acted.filter fun e => b ≤ e.1 + 64) ++ now }) s

/-- What changes at the boundary of block b, whose compute slot begins now (R14, R147): fades end, commands act, waiting
swaps start, bindings and removals follow; a tick's table becomes current (R59). -/
def blockChanges (b : Nat) (s : State) : State :=
  let late := drydownLate s
  let s := leaveShallow b s
  let s := if late then s else drydownBlock b s
  let s := applyDue (blockDue b) (noteActed b (endFades b s))
  let s := if late then drydownBlock b s else s
  let s := dropXps b (startBindings b (startWaiting b s))
  let s := if b % 64 = 0 then swapTables b s else s
  sweepExcite (sweepBegin (handOverBlock b s))

/-- What the Quaymaster does at every boundary beside (R243, R320, R327, R341, R351, R412). -/
def boundaryWork (s : State) : State :=
  let s := if s.host.clearDue then clearCounters s else s
  let s := recycleRings (loopTargets s)
  let s := eventDatagrams (overflowEntry s)
  serve (warpTick (autoWarp (syncWatch (ungateNeeded s))))

/-- BLOCK_BOUNDARY (R14): media time reaches the next multiple of 16 periods. -/
def execBlockBoundary (s : State) : Host.Outcome State Fault Refusal :=
  .next (
    if !s.boot.up then s
    else
      let s := { s with media.c := (s.media.c / 8192 + 1) * 8192 }
      if 3 ≤ s.power.stage then s
      else
        let s := resumeRender (instantChanges (restoreAccords s))
        let s := settleDue { s with media.bounded := some s.idx }
        let s := if s.media.catchL + 16 ≤ s.idx then
            blockChanges (floorTo 16 (s.idx - s.media.catchL - 16)) s else s
        boundaryWork s)

/-- With nothing commanded one media clock cycle passes (R248; assumption 1). -/
def idle (s : State) : State := if s.boot.up then { s with media.c := s.media.c + 1 } else s

/-! The snapshot of a tick. -/

/-- The tick whose snapshot is due (R59). -/
def State.snapTick (s : State) : Nat := floorTo 64 (s.idx + 48 - s.media.catchL)

/-- Something named by its index has already been done. -/
def doneAt (l : Option Nat) (b : Nat) : Bool := match l with | some a => b ≤ a | none => false

/-- Snapshot and solve tick k (R33, R59). The table of the tick before is current by now. -/
def snapshotTick (k : Nat) (s : State) : State :=
  let s := carrySlice k s
  let s := swapTables (k - 64) s
  let s := followShallow k (takeDecisions (fun e => e.2.ofTick && e.1 ≤ k) { s with rend.leaving := [] })
  let s := settleDue (applyDue (tickDue k) s)
  let s := solveTick k s
  let s := if s.flag mStandby then compareCheck k s else s
  { s with media.snapped := some k }

/-- SCENE_SNAPSHOT (R59). -/
def execSceneSnapshot (s : State) : Host.Outcome State Fault Refusal :=
  .next (
    if !s.media.running || s.idx + 48 < s.media.catchL || doneAt s.media.snapped s.snapTick then s
    else snapshotTick s.snapTick s)

/-! Local inputs (R21, R289, R405, R413). -/

/-- Level of a 24-bit word in 0.01 dBFS (Table 15.2). -/
def wordLevel (w : Int) : Int := -(reduction ((w.natAbs : Int) * 128) : Nat)

/-- A word at the 24-bit ceiling. -/
def clipped (w : Int) : Bool := w ≥ 8388607 || w ≤ -8388607

/-- Put one sample into a channel's buffer; what lies more than its length back is forgotten. -/
def putSample (c n : Nat) (v : Int) (j : SMap (SMap Slot)) : SMap (SMap Slot) :=
  let m := (SMap.get [] j c).filter fun e => e.1 + 1536 > n
  SMap.put [] j c (SMap.ins m n { value := v })

/-- Index of the first new sample of a flow: its stamp, or for a FREE flow the one after the newest (R121, R229). -/
def firstIndex (s : State) (br : Bridge) (c first : Nat) : Nat :=
  if br.mode = 2 then (match (SMap.get [] s.net.jitter c).getLast? with | some e => e.1 + 1 | none => 0) else first

/-- Samples of one analogue input (R405): level and clips; held at zero while P12 moves; a standby keeps them for its own
use. -/
def placeAnalogue (l : LocalIn) (s : State) : State :=
  let i := l.index
  let a := s.anaIn i
  let hot := l.samples.any clipped
  let a := { a with
    clips := holdAdd 65535 a.clips (l.samples.countP clipped), overload := hot
    peak := l.samples.foldl (fun p w => max p (wordLevel w)) a.peak }
  let own := (l.samples.zipIdx.foldl (fun m e => SMap.put 0 m (l.first + e.2) (if a.ramping then 0 else e.1 * 16))
    (a.samples.filter fun e => e.1 + 1536 > l.first))
  if s.flag mStandby then updAnaIn i (fun _ => { a with samples := own }) s
  else
    let j := l.samples.zipIdx.foldl (fun j e => match boundAt a.binds (l.first + e.2) with
      | some c => putSample c (l.first + e.2) (if a.ramping then 0 else e.1 * 16) j
      | none => j) s.net.jitter
    updAnaIn i (fun _ => { a with samples := [] }) { s with net.jitter := j }

/-- Samples of one slot of a TDM port (R413): no role, or a loopback, and nothing is taken. -/
def placeTdm (l : LocalIn) (s : State) : State :=
  let p := l.index / 16
  let k := l.index % 16
  let t := s.tdm p
  if t.role = 0 || t.slots ≤ k || looped s 7 p then s
  else if s.flag mStandby then
    updTdm p (fun t => { t with
      starved := false
      samples := l.samples.zipIdx.foldl (fun m e =>
        SMap.upd [] m (l.first + e.2) fun r => ((List.range t.slots).map fun i => r.getD i 0).set k (e.1 * 16))
        (t.samples.filter fun e => e.1 + 1536 > l.first) }) s
  else
    let n0 := firstIndex s (s.bridge (256 + p)) (t.inFirst + k) l.first
    let br := s.bridge (256 + p)
    let stamp := fun (n : Nat) => if s.locked (256 + p) then n * s.hz / br.rate else n
    let j := l.samples.zipIdx.foldl (fun j e => match boundAt t.binds (stamp (l.first + e.2)) with
      | some c => putSample (c + k) (n0 + e.2) (e.1 * 16) j
      | none => j) s.net.jitter
    updTdm p (fun t => { t with starved := false, samples := [] }) { s with net.jitter := j }

/-- Samples a local input presents. -/
def placeLocal (l : LocalIn) (s : State) : State :=
  if l.tdm then (if l.index < 64 then placeTdm l s else s)
  else if l.index < 8 && !loopedIn s l.index then placeAnalogue l s else s

/-! The short path (R167 to R169). -/

/-- One sample of a route: its present connection's word, the word on the connection it leaves, the route advanced. -/
def shortStep (r : ShortRoute) (x old : Int) : Int × Int × ShortRoute :=
  let on := (List.range 4).filter fun i => r.bqEnable.testBit i
  let y := bqCascade r.biquads on r.bqState x []
  let z := bqCascade r.biquads on r.bqOld old []
  let leave := if r.moving then mulC z.1 (lerp16 r.fromGain 0 (phi16 r.ramp 256)) else 0
  let k := min 256 (r.ramp + 1)
  (mulC y.1 (r.gainAt r.ramp), leave, { r with bqState := y.2.1, bqOld := if r.moving && k < 256 then z.2.1 else [], ramp := k })

/-- A route over the samples its inputs present: words for its output and for the one it leaves. -/
def shortRoute (xs : Nat → List Int) (r : ShortRoute) : List Int × List Int × ShortRoute :=
  let new := xs r.input
  let old := xs r.fromIn
  (List.range (max new.length (if r.moving then old.length else 0))).foldl (fun a i =>
    let o := shortStep a.2.2 (new.getD i 0) (old.getD i 0)
    (a.1 ++ [o.1], a.2.1 ++ [o.2.1], o.2.2)) ([], [], r)

/-- Sum of two runs of words; only the total with the rendered signal passes sat() (R168). -/
def addRuns (a b : List Int) : List Int :=
  (List.range (max a.length b.length)).map fun i => a.getD i 0 + b.getD i 0

/-- The eight routes over the samples just presented: each output's sum at 384 kHz. -/
def shortPath (inputs : List LocalIn) (s : State) : State :=
  let xs := fun (i : Nat) => ((inputs.find? fun l => !l.tdm && l.index == i).map fun l => l.short.map fun w => w * 16).getD []
  let runs := s.rend.shorts.map fun e => (e.1, shortRoute xs e.2)
  let mine := fun (o : Nat) => runs.foldl (fun acc e =>
    let r := SMap.get ({} : ShortRoute) s.rend.shorts e.1
    let acc := if r.output = o then addRuns acc e.2.1 else acc
    if r.moving && r.fromOut = o then addRuns acc e.2.2.1 else acc) []
  let s1 := { s with rend.shorts := runs.map fun e => (e.1, e.2.2.2) }
  (List.range 8).foldl (fun t o => updAnaOut o (fun a => { a with short := mine o }) t) s1

/-! The catch deadline. -/

/-- The manifest of block b (R286, Table 10.5), as the active holds its inputs at the deadline. -/
def manifestOf (b : Nat) (s : State) : Manifest :=
  { block := b, nose := s.nose.dev.state == 1
    silent := (List.range (chanCount s.media.heart)).filter fun c => (SMap.get ({} : Silence) s.rend.silence c).silent
    berths := (caughtBerths b s).map fun e =>
      { berth := e.1, count := e.2.2.2 - e.2.2.1, lo := e.2.2.1
        runs := (runsOf (absentOf s e.2.1 e.2.2.1 e.2.2.2)).map fun r => (r.1 - e.2.2.1, r.2) }
    frees := (s.rend.bridges.filter fun e => e.2.mode == 2).map fun e =>
      let br := freeBlock s b e.1 e.2
      { flow := e.1, pos := if br.placed then (br.pos * 65536).floor else 0, r := br.r
        seqs := ((SMap.look s.net.rx e.1).map RxBerth.written).getD [] |>.map (· % 65536) } }

/-- Mirror records of the local inputs (R289): the samples of each channel that this block adds. -/
def sendMirrors (inputs : List LocalIn) (s : State) : State :=
  inputs.foldl (fun s l =>
    let c := if l.tdm then (boundAt (s.tdm (l.index / 16)).binds l.first).map (· + l.index % 16)
      else boundAt (s.anaIn l.index).binds l.first
    match c with
    | some c =>
      let m := SMap.get [] s.net.jitter c
      let n := l.samples.length
      let first := if l.tdm && (s.bridge (256 + l.index / 16)).mode = 2 then
          ((m.getLast?.map fun e => e.1 + 1).getD 0) - n else l.first
      sendTwin 5 true ([c, first] ++ (List.range n).map fun i => arg32 (((SMap.look m (first + i)).map Slot.value).getD 0)) [] s
    | none => s) s

/-- What the active sends at the deadline, before it conceals: repairs that came late, mirrors, the manifest (R286 to R289). -/
def sendPresence (b : Nat) (inputs : List LocalIn) (s : State) : State :=
  if !s.flag mActive then s
  else
    let s := sendRepairs s.twin.wanted s
    let s := sendMirrors inputs { s with twin.wanted := [] }
    sendTwin 2 true [] (manifestBytes (manifestOf b s)) s

/-- The catch of block b (R229, R234): a standby's berths wait for the manifest. -/
def catchBlock (b : Nat) (inputs : List LocalIn) (s : State) : State :=
  let s := shortPath inputs (inputs.foldl (fun s l => placeLocal l s) s)
  let s := sendPresence b inputs s
  let s := if s.flag mStandby then catchMirrors b s else s
  let s := if s.flag mStandby && !s.twin.ownPresence then s else clearWritten (catchAll b s)
  { s with media.caught := some b }

/-- The block whose catch deadline and compute slot are due (R17). -/
def State.slotBlock (s : State) : Nat := floorTo 16 (s.idx - s.media.catchL - 16)

/-- CATCH_DEADLINE (R18, R229), with the samples that the local inputs have presented since the last. -/
def execCatchDeadline (inputs : List LocalIn) (s : State) : Host.Outcome State Fault Refusal :=
  .next (
    if !s.media.running || !s.alive || s.idx < s.media.catchL + 16 || doneAt s.media.caught s.slotBlock then s
    else catchBlock s.slotBlock inputs s)

/-! The compute and emit slots. -/

/-- The compute slot of block b (R17, Table 1.3): paused, only the input side runs (R352). -/
def computeSlot (b : Nat) (s : State) : State :=
  let was := s
  let s := if s.awaits b then ownBlock b { s with twin.stat.manifestMiss := wrapAdd 32 s.twin.stat.manifestMiss 1 } else s
  let s := warpCompute b s
  let s := if s.power.stage = 2 then dozeBlock b s else computeBlock b s
  drydownStep was { s with media.computed := some b }

/-- COMPUTE_SLOT (R17). -/
def execComputeSlot (s : State) : Host.Outcome State Fault Refusal :=
  .next (
    if !s.media.running || s.idx < s.media.catchL + 16 || doneAt s.media.computed s.slotBlock then s
    else computeSlot s.slotBlock s)

/-- EMIT_SLOT (R20), of the block computed in the slot before. -/
def execEmitSlot (s : State) : Host.Outcome State Fault Refusal :=
  let b := floorTo 16 (s.idx - s.media.catchL - 32)
  .next (
    if !s.media.running || s.idx < s.media.catchL + 32 || doneAt s.media.emitted b then s
    else warpEmit b { emitBlock b s with media.emitted := some b })

end Sys2Proof.Machine
end

