-- ==== Sys2Proof/Machine/Dispatch.lean ====
section
/-! DEFINITION. The meaning of each command: one arm per constructor, each one direct call of its meaning. -/
namespace Sys2Proof.Machine

/-- The effect of a command on everything but the queue. -/
def exec (i : Instr) (s : State) : Host.Outcome State Fault Refusal :=
  match i with
  | .sysInfo r => Sys2Proof.Machine.execSysInfo r s
  | .sysModeSet r => Sys2Proof.Machine.execSysModeSet r s
  | .sysModeGet r => Sys2Proof.Machine.execSysModeGet r s
  | .sysReset r => Sys2Proof.Machine.execSysReset r s
  | .sysLogRead r => Sys2Proof.Machine.execSysLogRead r s
  | .objSet r => Sys2Proof.Machine.execObjSet r s
  | .objGet r => Sys2Proof.Machine.execObjGet r s
  | .objBind r => Sys2Proof.Machine.execObjBind r s
  | .objClaim r => Sys2Proof.Machine.execObjClaim r s
  | .spkSet r => Sys2Proof.Machine.execSpkSet r s
  | .spkGet r => Sys2Proof.Machine.execSpkGet r s
  | .zoneSet r => Sys2Proof.Machine.execZoneSet r s
  | .airSet r => Sys2Proof.Machine.execAirSet r s
  | .peerSet r => Sys2Proof.Machine.execPeerSet r s
  | .chainSet r => Sys2Proof.Machine.execChainSet r s
  | .accordLoad r => Sys2Proof.Machine.execAccordLoad r s
  | .accordSwap r => Sys2Proof.Machine.execAccordSwap r s
  | .routeSet r => Sys2Proof.Machine.execRouteSet r s
  | .bridgeSet r => Sys2Proof.Machine.execBridgeSet r s
  | .silenceSet r => Sys2Proof.Machine.execSilenceSet r s
  | .portCfg r => Sys2Proof.Machine.execPortCfg r s
  | .berthOpen r => Sys2Proof.Machine.execBerthOpen r s
  | .berthClose r => Sys2Proof.Machine.execBerthClose r s
  | .berthStat r => Sys2Proof.Machine.execBerthStat r s
  | .filterSet r => Sys2Proof.Machine.execFilterSet r s
  | .timeCfg r => Sys2Proof.Machine.execTimeCfg r s
  | .timeStat r => Sys2Proof.Machine.execTimeStat r s
  | .trigSet r => Sys2Proof.Machine.execTrigSet r s
  | .captRead r => Sys2Proof.Machine.execCaptRead r s
  | .noseCfg r => Sys2Proof.Machine.execNoseCfg r s
  | .pairSet r => Sys2Proof.Machine.execPairSet r s
  | .markSet r => Sys2Proof.Machine.execMarkSet r s
  | .policySet r => Sys2Proof.Machine.execPolicySet r s
  | .estRead r => Sys2Proof.Machine.execEstRead r s
  | .proposalRead r => Sys2Proof.Machine.execProposalRead r s
  | .proposalApply r => Sys2Proof.Machine.execProposalApply r s
  | .sweepRun r => Sys2Proof.Machine.execSweepRun r s
  | .healthRead r => Sys2Proof.Machine.execHealthRead r s
  | .twinCfg r => Sys2Proof.Machine.execTwinCfg r s
  | .twinStat r => Sys2Proof.Machine.execTwinStat r s
  | .twinWarp r => Sys2Proof.Machine.execTwinWarp r s
  | .twinSwitch r => Sys2Proof.Machine.execTwinSwitch r s
  | .witnessSet r => Sys2Proof.Machine.execWitnessSet r s
  | .pwrPolicy r => Sys2Proof.Machine.execPwrPolicy r s
  | .pwrStat r => Sys2Proof.Machine.execPwrStat r s
  | .testLoop r => Sys2Proof.Machine.execTestLoop r s
  | .postReport r => Sys2Proof.Machine.execPostReport r s
  | .fwStage r => Sys2Proof.Machine.execFwStage r s
  | .fwCommit r => Sys2Proof.Machine.execFwCommit r s
  | .anaInCfg r => Sys2Proof.Machine.execAnaInCfg r s
  | .anaOutCfg r => Sys2Proof.Machine.execAnaOutCfg r s
  | .loopCfg r => Sys2Proof.Machine.execLoopCfg r s
  | .tdmCfg r => Sys2Proof.Machine.execTdmCfg r s
  | .shortSet r => Sys2Proof.Machine.execShortSet r s
  | .gpioSet r => Sys2Proof.Machine.execGpioSet r s
  | .echo r => Sys2Proof.Machine.execEcho r s
  | .storeTransfer r h => Sys2Proof.Machine.execStoreTransfer r h s
  | .doorbellReq m => Sys2Proof.Machine.execDoorbellReq m s
  | .doorbellRsp m => Sys2Proof.Machine.execDoorbellRsp m s
  | .doorbellChunk m => Sys2Proof.Machine.execDoorbellChunk m s
  | .doorbellReset m => Sys2Proof.Machine.execDoorbellReset m s
  | .ringResetDone m => Sys2Proof.Machine.execRingResetDone m s
  | .irqCauseWrite v => Sys2Proof.Machine.execIrqCauseWrite v s
  | .irqMaskWrite v => Sys2Proof.Machine.execIrqMaskWrite v s
  | .registerWrite addr size v => Sys2Proof.Machine.execRegisterWrite addr size v s
  | .efvexOpen m p mask => Sys2Proof.Machine.execEfvexOpen m p mask s
  | .efvexClose m p => Sys2Proof.Machine.execEfvexClose m p s
  | .efvexRequest m p entry => Sys2Proof.Machine.execEfvexRequest m p entry s
  | .efvexSegmentIn m p offset data => Sys2Proof.Machine.execEfvexSegmentIn m p offset data s
  | .efvexIndex m p head tail => Sys2Proof.Machine.execEfvexIndex m p head tail s
  | .efvexKeepalive m p => Sys2Proof.Machine.execEfvexKeepalive m p s
  | .sessionTimeout m => Sys2Proof.Machine.execSessionTimeout m s
  | .commandSettle => Sys2Proof.Machine.execCommandSettle s
  | .craneChannelStart => Sys2Proof.Machine.execCraneChannelStart s
  | .craneTransferDone ch data => Sys2Proof.Machine.execCraneTransferDone ch data s
  | .porstNRelease straps t => Sys2Proof.Machine.execPorstNRelease straps t s
  | .porstNAssert ns => Sys2Proof.Machine.execPorstNAssert ns s
  | .bootWatchdog t => Sys2Proof.Machine.execBootWatchdog t s
  | .bootLoadDone img t => Sys2Proof.Machine.execBootLoadDone img t s
  | .vkeepRise => Sys2Proof.Machine.execVkeepRise s
  | .pgoodFall ns => Sys2Proof.Machine.execPgoodFall ns s
  | .wakeNLow ns => Sys2Proof.Machine.execWakeNLow ns s
  | .wakeTimer => Sys2Proof.Machine.execWakeTimer s
  | .pciePerstN low => Sys2Proof.Machine.execPciePerstN low s
  | .fabricPortReset p => Sys2Proof.Machine.execFabricPortReset p s
  | .decodeError p addr => Sys2Proof.Machine.execDecodeError p addr s
  | .lockstepMismatch => Sys2Proof.Machine.execLockstepMismatch s
  | .companionLinkLost => Sys2Proof.Machine.execCompanionLinkLost s
  | .thermalSensorRead temp => Sys2Proof.Machine.execThermalSensorRead temp s
  | .tapInstruction op => Sys2Proof.Machine.execTapInstruction op s
  | .debugUnlock token => Sys2Proof.Machine.execDebugUnlock token s
  | .frameReceive port f => Sys2Proof.Machine.execFrameReceive port f s
  | .sceneBusUpdate => Sys2Proof.Machine.execSceneBusUpdate s
  | .sceneBusAnnouncement => Sys2Proof.Machine.execSceneBusAnnouncement s
  | .sceneBusAnnounceSend => Sys2Proof.Machine.execSceneBusAnnounceSend s
  | .peerSilent p => Sys2Proof.Machine.execPeerSilent p s
  | .sceneBusResend => Sys2Proof.Machine.execSceneBusResend s
  | .txDescriptorSend port ring chain => Sys2Proof.Machine.execTxDescriptorSend port ring chain s
  | .txFrameDone port gap time => Sys2Proof.Machine.execTxFrameDone port gap time s
  | .ringDisableDrainEnd port => Sys2Proof.Machine.execRingDisableDrainEnd port s
  | .linkDown port => Sys2Proof.Machine.execLinkDown port s
  | .linkUp port => Sys2Proof.Machine.execLinkUp port s
  | .mooringLaneLockLoss lane => Sys2Proof.Machine.execMooringLaneLockLoss lane s
  | .ptpSync port t1 t2 corr interval => Sys2Proof.Machine.execPtpSync port t1 t2 corr interval s
  | .ptpDelayResp port t1 t2 t3 t4 corr => Sys2Proof.Machine.execPtpDelayResp port t1 t2 t3 t4 corr s
  | .ptpAnnounce port m => Sys2Proof.Machine.execPtpAnnounce port m s
  | .announceTimeout port => Sys2Proof.Machine.execAnnounceTimeout port s
  | .syncTimeout port => Sys2Proof.Machine.execSyncTimeout port s
  | .rerouteHoldoffEnd => Sys2Proof.Machine.execRerouteHoldoffEnd s
  | .phaseStep => Sys2Proof.Machine.execPhaseStep s
  | .irqLatencyCalibration ns => Sys2Proof.Machine.execIrqLatencyCalibration ns s
  | .pllLock p => Sys2Proof.Machine.execPllLock p s
  | .pllLoss p refclk => Sys2Proof.Machine.execPllLoss p refclk s
  | .pllReferenceReturn p => Sys2Proof.Machine.execPllReferenceReturn p s
  | .referenceLost => Sys2Proof.Machine.execReferenceLost s
  | .referenceQualified => Sys2Proof.Machine.execReferenceQualified s
  | .captureEdge n rising width time => Sys2Proof.Machine.execCaptureEdge n rising width time s
  | .triggerEdge n => Sys2Proof.Machine.execTriggerEdge n s
  | .blockBoundary => Sys2Proof.Machine.execBlockBoundary s
  | .sceneSnapshot => Sys2Proof.Machine.execSceneSnapshot s
  | .fetchListHandover => Sys2Proof.Machine.execFetchListHandover s
  | .fetchWindowOpen => Sys2Proof.Machine.execFetchWindowOpen s
  | .granuleFetchDone q tag ecc => Sys2Proof.Machine.execGranuleFetchDone q tag ecc s
  | .catchDeadline inputs => Sys2Proof.Machine.execCatchDeadline inputs s
  | .computeSlot => Sys2Proof.Machine.execComputeSlot s
  | .emitSlot => Sys2Proof.Machine.execEmitSlot s
  | .accordFadeEnd o => Sys2Proof.Machine.execAccordFadeEnd o s
  | .hopFadeEnd slot o => Sys2Proof.Machine.execHopFadeEnd slot o s
  | .zeroCrossCut src dst => Sys2Proof.Machine.execZeroCrossCut src dst s
  | .zeroCrossFallback src dst => Sys2Proof.Machine.execZeroCrossFallback src dst s
  | .routeBindingChange dst => Sys2Proof.Machine.execRouteBindingChange dst s
  | .muteRampLengthChange target => Sys2Proof.Machine.execMuteRampLengthChange target s
  | .berthDrainEnd b => Sys2Proof.Machine.execBerthDrainEnd b s
  | .txBerthDrainEnd b => Sys2Proof.Machine.execTxBerthDrainEnd b s
  | .quayGateDone q => Sys2Proof.Machine.execQuayGateDone q s
  | .noseDrainEnd => Sys2Proof.Machine.execNoseDrainEnd s
  | .noseFrame => Sys2Proof.Machine.execNoseFrame s
  | .noseRefresh => Sys2Proof.Machine.execNoseRefresh s
  | .proposalInterval => Sys2Proof.Machine.execProposalInterval s
  | .healthEvidenceHold o => Sys2Proof.Machine.execHealthEvidenceHold o s
  | .zRefLearnEnd o => Sys2Proof.Machine.execZRefLearnEnd o s
  | .sweepExcitationStart => Sys2Proof.Machine.execSweepExcitationStart s
  | .sweepEnd => Sys2Proof.Machine.execSweepEnd s
  | .drydown => Sys2Proof.Machine.execDrydown s
  | .dozePause => Sys2Proof.Machine.execDozePause s
  | .dozeResume => Sys2Proof.Machine.execDozeResume s
  | .p3WakeRestore kind sealed trained t => Sys2Proof.Machine.execP3WakeRestore kind sealed trained t s
  | .pwrEnRaise => Sys2Proof.Machine.execPwrEnRaise s
  | .p1GateChange => Sys2Proof.Machine.execP1GateChange s
  | .retrainStep ch centre => Sys2Proof.Machine.execRetrainStep ch centre s
  | .dramSearchStep ch found => Sys2Proof.Machine.execDramSearchStep ch found s
  | .dramStepDown => Sys2Proof.Machine.execDramStepDown s
  | .dramRateChange => Sys2Proof.Machine.execDramRateChange s
  | .shallowSearch pass pattern => Sys2Proof.Machine.execShallowSearch pass pattern s
  | .rateClimb pass => Sys2Proof.Machine.execRateClimb pass s
  | .dramTempRead t0 t1 => Sys2Proof.Machine.execDramTempRead t0 t1 s
  | .hammerWindowReset => Sys2Proof.Machine.execHammerWindowReset s
  | .hammerThrottle p ch group count => Sys2Proof.Machine.execHammerThrottle p ch group count s
  | .channelSelfRefresh ch idle => Sys2Proof.Machine.execChannelSelfRefresh ch idle s
  | .sramScrub corrected bad => Sys2Proof.Machine.execSramScrub corrected bad s
  | .dramScrub corrected link forwarded bad => Sys2Proof.Machine.execDramScrub corrected link forwarded bad s
  | .twinHeartbeatSend network => Sys2Proof.Machine.execTwinHeartbeatSend network s
  | .twinHeartbeat network hb => Sys2Proof.Machine.execTwinHeartbeat network hb s
  | .twinCommand c => Sys2Proof.Machine.execTwinCommand c s
  | .twinManifest m => Sys2Proof.Machine.execTwinManifest m s
  | .manifestTimeout => Sys2Proof.Machine.execManifestTimeout s
  | .wantPoint => Sys2Proof.Machine.execWantPoint s
  | .twinWant block wants => Sys2Proof.Machine.execTwinWant block wants s
  | .twinRepair rep => Sys2Proof.Machine.execTwinRepair rep s
  | .twinMirror mir => Sys2Proof.Machine.execTwinMirror mir s
  | .twinDigest block crc => Sys2Proof.Machine.execTwinDigest block crc s
  | .twinCheck c => Sys2Proof.Machine.execTwinCheck c s
  | .twinWarpData seg bytes => Sys2Proof.Machine.execTwinWarpData seg bytes s
  | .twinWarpControl c => Sys2Proof.Machine.execTwinWarpControl c s
  | .warpInputCut => Sys2Proof.Machine.execWarpInputCut s
  | .warpSlice outputs => Sys2Proof.Machine.execWarpSlice outputs s
  | .warpRejoin => Sys2Proof.Machine.execWarpRejoin s
  | .warpAbandon => Sys2Proof.Machine.execWarpAbandon s
  | .twinRelease block => Sys2Proof.Machine.execTwinRelease block s
  | .twinHandOver stamp => Sys2Proof.Machine.execTwinHandOver stamp s
  | .leaseRequest pair unit epoch => Sys2Proof.Machine.execLeaseRequest pair unit epoch s
  | .leaseGrant holder epoch expiry => Sys2Proof.Machine.execLeaseGrant holder epoch expiry s
  | .leaseRenew => Sys2Proof.Machine.execLeaseRenew s
  | .leaseExpire => Sys2Proof.Machine.execLeaseExpire s
  | .mooringSilent => Sys2Proof.Machine.execMooringSilent s
  | .networkSilent => Sys2Proof.Machine.execNetworkSilent s
  | .flowsSilent => Sys2Proof.Machine.execFlowsSilent s
  | .twinClaim => Sys2Proof.Machine.execTwinClaim s
  | .spanChangeDone o => Sys2Proof.Machine.execSpanChangeDone o s
  | .inputGainSwitch n => Sys2Proof.Machine.execInputGainSwitch n s
  | .outputCurrentLimit o => Sys2Proof.Machine.execOutputCurrentLimit o s
  | .outputLimitRetry o => Sys2Proof.Machine.execOutputLimitRetry o s
  | .phantomFault n => Sys2Proof.Machine.execPhantomFault n s
  | .analogueSupplyFault => Sys2Proof.Machine.execAnalogueSupplyFault s
  | .loopCheck l m => Sys2Proof.Machine.execLoopCheck l m s
  | .loopSlew l => Sys2Proof.Machine.execLoopSlew l s
  | .tdmSyncError p => Sys2Proof.Machine.execTdmSyncError p s
  | .tdmSyncLoss p => Sys2Proof.Machine.execTdmSyncLoss p s
  | .alarmInput pin level => Sys2Proof.Machine.execAlarmInput pin level s
  | .i2cTransferDone status data => Sys2Proof.Machine.execI2cTransferDone status data s
  | .i2cBusHeld => Sys2Proof.Machine.execI2cBusHeld s
  | .testLoopEnd iface index res => Sys2Proof.Machine.execTestLoopEnd iface index res s
  | .fwStageDone img => Sys2Proof.Machine.execFwStageDone img s
  | .uartFrame d => Sys2Proof.Machine.execUartFrame d s
  | .mooringLaneLock lane => Sys2Proof.Machine.execMooringLaneLock lane s
  | .vkeepLoss => Sys2Proof.Machine.execVkeepLoss s
  | .analogueSupplyRestored => Sys2Proof.Machine.execAnalogueSupplyRestored s
  | .phantomRampDone n => Sys2Proof.Machine.execPhantomRampDone n s
  | .resetBegin t => Sys2Proof.Machine.execResetBegin t s
  | .ptpSendInterval port kind => Sys2Proof.Machine.execPtpSendInterval port kind s
  | .ptpDelayRequest port p2p t2 => Sys2Proof.Machine.execPtpDelayRequest port p2p t2 s

end Sys2Proof.Machine
end

