-- ==== Sys2Proof/Safety.lean ====
section
/-!
DEFINITION. What holds of the block whatever is commanded: the invariants of the mode word (R344), the canonical form of the
ring memory, and the rows that reset the device.
-/
namespace Sys2Proof.Machine

/-- The mode word is legal (R344), or self-test has not set it yet (R345). -/
def State.modeOk (s : State) : Prop := s.power.word = 0 ∨ wordOk s.isPair s.power.word = true

/-- The rings and bulk regions are in canonical form. -/
def State.memOk (s : State) : Prop := memWf s.host.mem = true

/-- The ring indices of a master lie below 128 (R319, R321, Table 11.2). -/
def Master.indicesOk (x : Master) : Prop :=
  x.reqHead < 128 ∧ x.reqTail < 128 ∧ x.rspHead < 128 ∧ x.rspTail < 128 ∧ x.chkDev < 128 ∧ x.chkHost < 128

/-- At most 1,024 claims stand (R336), a capture queue holds at most 16 entries (R271), and ring indices lie below 128 (R319). -/
def State.boundOk (s : State) : Prop :=
  s.host.claims.length ≤ 1024 ∧ (∀ e ∈ s.time.capts, e.2.queue.length ≤ 16) ∧ ∀ e ∈ s.host.masters, Master.indicesOk e.2

/-- The safe states. -/
def State.Inv (s : State) : Prop := s.modeOk ∧ s.memOk

/-- Rows that reset the device, or remove its rails (R340, R354, R357, R389, R391, R422). -/
def isReset : Instr → Bool
  | .porstNRelease _ _ | .porstNAssert _ | .bootWatchdog _ | .resetBegin _ | .p3WakeRestore _ _ _ _ | .vkeepLoss => true
  | _ => false

/-! Requests, in the terms the statements use. -/

/-- The opcode, the store header and the entry of a request (Table 11.10). -/
def requestOf : Instr → Option (Opcode × StoreHdr × Req)
  | .sysInfo r => some (.sysInfo, {}, r)
  | .sysModeSet r => some (.sysModeSet, {}, r)
  | .sysModeGet r => some (.sysModeGet, {}, r)
  | .sysReset r => some (.sysReset, {}, r)
  | .sysLogRead r => some (.sysLogRead, {}, r)
  | .objSet r => some (.objSet, {}, r)
  | .objGet r => some (.objGet, {}, r)
  | .objBind r => some (.objBind, {}, r)
  | .objClaim r => some (.objClaim, {}, r)
  | .spkSet r => some (.spkSet, {}, r)
  | .spkGet r => some (.spkGet, {}, r)
  | .zoneSet r => some (.zoneSet, {}, r)
  | .airSet r => some (.airSet, {}, r)
  | .peerSet r => some (.peerSet, {}, r)
  | .chainSet r => some (.chainSet, {}, r)
  | .accordLoad r => some (.accordLoad, {}, r)
  | .accordSwap r => some (.accordSwap, {}, r)
  | .routeSet r => some (.routeSet, {}, r)
  | .bridgeSet r => some (.bridgeSet, {}, r)
  | .silenceSet r => some (.silenceSet, {}, r)
  | .portCfg r => some (.portCfg, {}, r)
  | .berthOpen r => some (.berthOpen, {}, r)
  | .berthClose r => some (.berthClose, {}, r)
  | .berthStat r => some (.berthStat, {}, r)
  | .filterSet r => some (.filterSet, {}, r)
  | .timeCfg r => some (.timeCfg, {}, r)
  | .timeStat r => some (.timeStat, {}, r)
  | .trigSet r => some (.trigSet, {}, r)
  | .captRead r => some (.captRead, {}, r)
  | .noseCfg r => some (.noseCfg, {}, r)
  | .pairSet r => some (.pairSet, {}, r)
  | .markSet r => some (.markSet, {}, r)
  | .policySet r => some (.policySet, {}, r)
  | .estRead r => some (.estRead, {}, r)
  | .proposalRead r => some (.proposalRead, {}, r)
  | .proposalApply r => some (.proposalApply, {}, r)
  | .sweepRun r => some (.sweepRun, {}, r)
  | .healthRead r => some (.healthRead, {}, r)
  | .twinCfg r => some (.twinCfg, {}, r)
  | .twinStat r => some (.twinStat, {}, r)
  | .twinWarp r => some (.twinWarp, {}, r)
  | .twinSwitch r => some (.twinSwitch, {}, r)
  | .witnessSet r => some (.witnessSet, {}, r)
  | .pwrPolicy r => some (.pwrPolicy, {}, r)
  | .pwrStat r => some (.pwrStat, {}, r)
  | .testLoop r => some (.testLoop, {}, r)
  | .postReport r => some (.postReport, {}, r)
  | .fwStage r => some (.fwStage, {}, r)
  | .fwCommit r => some (.fwCommit, {}, r)
  | .anaInCfg r => some (.anaInCfg, {}, r)
  | .anaOutCfg r => some (.anaOutCfg, {}, r)
  | .loopCfg r => some (.loopCfg, {}, r)
  | .tdmCfg r => some (.tdmCfg, {}, r)
  | .shortSet r => some (.shortSet, {}, r)
  | .gpioSet r => some (.gpioSet, {}, r)
  | .echo r => some (.echo, {}, r)
  | .storeTransfer r h => some (.storeTransfer, h, r)
  | _ => none

/-- The block takes a request for acceptance: the interface is ready, the sequence number is new, the master exists,
authentication passes, and the mode and role allow the command (R283, R320, R330, R331, R338). -/
def admits (op : Opcode) (h : StoreHdr) (r : Req) (s : State) : Bool :=
  let x := s.master r.master.val
  s.serving && decide (s.power.stage < 3) && !x.seqs.contains r.seq && s.hasMaster r.master.val &&
  (!s.enforced || seqNewer s r.master.val r.seq) && authOk s op r h && !modeRefuses op r.payload h s

/-- The payload is in the entry, or in bulk space that no chunk stream uses, and no body is to be returned by crane (R321). -/
def delivered (r : Req) (s : State) : Bool :=
  r.ret.isNone && (match r.pkind with | .inline => true | .bulk => !s.reqStream r.master.val | .crane => false)

/-- The state once a request is accepted: one more answer is owed, and its sequence number is the newest (R320, R331). -/
def taken (r : Req) (s : State) : State :=
  updMaster r.master.val (fun x => { x with seqs := r.seq :: x.seqs })
    (updMaster r.master.val (fun x => { x with unanswered := x.unanswered + 1 }) s)

/-- Only the last 64 accepted sequence numbers and their answers are kept (R331); sixteen AUTH_FAIL answers in a row end a network
session (R330). -/
def trimmed (r : Req) (s : State) : State :=
  checkFailRun r.master.val (trimSeqs r.master.val s)

/-- A request accepted in period `at_` is answered, from state `s`, with the apply period in use. -/
def finish (op : Opcode) (r : Req) (at_ apply : Nat) (st : Status) (body : Bytes) (s : State) : State :=
  trimmed r (answerReq op r at_ apply st body s)

/-- A request that has acted on its acceptance, leaving `n`: it is forwarded where it must be, and answered OK (R283, R333). -/
def acted (op : Opcode) (r : Req) (s : State) (body : Bytes) (n : State) : State :=
  finish op r s.idx (appliedNow op {} r.payload s) .ok body (forwardNow op {} r.payload r n)

/-- A request acts on its acceptance: no command that the active gives an apply period (R284). -/
def actsNow (op : Opcode) (h : StoreHdr) (r : Req) (s : State) : Bool := !(s.flag mActive && waitsOnActive op r.payload h)

/-- The answer a request keeps while its work lasts (R333). -/
def holdOf (op : Opcode) (r : Req) (at_ : Nat) (key : Nat) (s : State) : Owed :=
  { id := s.host.nextId, op := op, master := r.master.val, seq := r.seq, apply := 0, accepted := at_, key := key, payload := r.payload }

/-- The command a request becomes while it waits for its boundary, from state `s` (R333, R334). -/
def waitingCmd (op : Opcode) (t : Timing) (apply : Nat) (p : Bytes) (proposal : Nat) (r : Req) (at_ : Nat) (s : State) : Cmd :=
  { id := s.host.nextId, op := op, origin := .master r.master.val, rank := r.rank, seq := r.seq, timing := t, apply := apply
    effect := effectIn s op t apply, accepted := at_, payload := p, units := unitsOf op p, select := isSelect op
    answered := false, proposal := proposal, fseq := s.forwardSeq }

/-- The answer of a master's waiting command, with the apply period in use (R333). -/
def answerOf (c : Cmd) (m : Nat) (st : Status) (body : Bytes) : Response :=
  { opcode := c.op.code, master := m, status := st, seq := c.seq, apply := c.apply, accepted := c.accepted, body := body }

/-- Commands that wait for a tick or block once accepted, with which of the two (R33, R126, R333). -/
def waitsAs (op : Opcode) (p : Bytes) : Option Timing :=
  if op == .berthClose || (op == .markSet && maskOf p != 0) || (op == .noseCfg && kindOf p == 1 && maskOf p != 0)
  then some .block else timingOf op p

/-- A waiting command passes its checks: its claim, its own and the projected state's, room for it, and some unit it wins
(R334, R335, R336). -/
def queues (c : Cmd) (r : Req) (s : State) : Bool :=
  !ownedBy c.origin r.rank c.op c.payload s && (checkTimed c s (withCmd c s)).isNone &&
  decide ((s.host.cmds.filter fun d => !d.applied).length < 4096) &&
  (c.units == [] || lostUnits (withCmd c s).host.cmds c != c.units)

/-- Opcodes of the commands that wait for a boundary and are answered at their settle point (R33, R333). -/
def timedOps : List Opcode :=
  [.objSet, .objBind, .spkSet, .zoneSet, .airSet, .peerSet, .chainSet, .accordLoad, .accordSwap, .routeSet, .silenceSet,
   .sysModeSet, .berthOpen, .berthClose, .markSet, .noseCfg]

end Sys2Proof.Machine
end

