-- ==== Sys2Proof/Certificates/Slice0/Obligations.lean ====
section
/-!
DEFINITION. The statements about this model: what each command does, from the manual's numbered rules.
-/
open Sys2Proof Sys2Proof.Machine

/-- A step runs the command at the front of the queue on the state with the queue's rest. With nothing waiting the block idles:
one media clock cycle while it is powered, nothing otherwise. That the idle step counts a cycle is the model's choice
(assumption 1). -/
def Obligations.StepTakesTheFrontCommand : Prop :=
  (∀ (c : Instr) (rest : List Instr) (s : State), s.pending = c :: rest → step s = exec c { s with pending := rest }) ∧
  (∀ s : State, s.pending = [] → step s = .next (if s.boot.up then { s with media.c := s.media.c + 1 } else s))

/-- After reset: nothing waits, C is 0, no mode flag is set, no interrupt cause is set or enabled, the interface is not ready,
the ring memory lists nothing, and no self-test has run (R248, R345, R391, Table 11.4). The listed values beyond C are the
model's reset state (assumption 9). -/
def Obligations.ResetState : Prop :=
  State.reset.pending = [] ∧ State.reset.media.c = 0 ∧ State.reset.power.word = 0 ∧ State.reset.host.irqCause = 0 ∧
  State.reset.host.irqMask = 0 ∧ State.reset.host.ready = false ∧ State.reset.host.mem = [] ∧
  State.reset.boot.postDone = false ∧ State.reset.boot.up = false

/-- The reset state meets the invariant. In the reset state the bounds hold. -/
def Obligations.ResetMeetsInvariant : Prop :=
  ( State.reset.Inv) ∧
  ( State.reset.boundOk)

/-- Every step keeps the mode word legal (R344) and the ring memory in canonical form. Every step keeps the bounds the manual
gives: at most 1,024 claims stand (R336), a capture queue holds at most 16 entries (R271), and every ring and chunk index lies
below 128 (R319, R323, Table 11.2). -/
def Obligations.StepKeepsInvariant : Prop :=
  (∀ s t : State, s.Inv → step s = .next t → t.Inv) ∧
  (∀ s t : State, s.boundOk → step s = .next t → t.boundOk)

/-- These hold after every step, once self-test has set the mode word: outside SAFE exactly one of LIVE and DARK; at most one of
TWIN-ACTIVE and TWIN-STANDBY, and neither on a solo unit; ADRIFT only with TWIN-STANDBY; with DOZE, DARK and not LIVE; with
SAFE, no other flag (R344). -/
def Obligations.ModeWordStaysLegal : Prop :=
  ∀ s t : State, s.Inv → step s = .next t → t.power.word ≠ 0 →
    (t.flag mSafe = false → t.flag mLive ≠ t.flag mDark) ∧
    ¬ (t.flag mActive = true ∧ t.flag mStandby = true) ∧
    (t.isPair = false → t.flag mActive = false ∧ t.flag mStandby = false) ∧
    (t.flag mAdrift = true → t.flag mStandby = true) ∧
    (t.flag mDoze = true → t.flag mDark = true ∧ t.flag mLive = false) ∧
    (t.flag mSafe = true → t.power.word = BitVec.ofNat 16 (2 ^ mSafe))

/-- SAFE is left by a reset only (R344, R394): no other command, and no idle step, clears it. -/
def Obligations.SafeLeftOnlyByReset : Prop :=
  ∀ s t : State, s.flag mSafe = true → step s = .next t →
    (∀ c rest, s.pending = c :: rest → isReset c = false) → t.flag mSafe = true

/-- A command leaves the queue as it finds it. No command stops the block: each answers a next state, from every state. -/
def Obligations.EveryCommandCompletes : Prop :=
  (∀ (c : Instr) (s t : State), exec c s = .next t → t.pending = s.pending) ∧
  (∀ (c : Instr) (s : State), ∃ t, exec c s = .next t)

/-- A request that is admitted and delivered acts in the state in which it is accepted: every command of the Efvex set, and
ECHO. -/
def Obligations.RequestActs : Prop :=
  ∀ (i : Instr) (op : Opcode) (h : StoreHdr) (r : Req) (s : State), requestOf i = some (op, h, r) → op ≠ .storeTransfer →
    admits op h r s = true → delivered r s = true →
    exec i s = .next (trimmed r (actReq op h r.payload r s.idx (applyPeriod s s.idx r) (taken r s)))

/-- A request whose sequence number is among the master's accepted ones changes nothing but its answer, if it has one, which
goes out again with the repeat flag (R331). -/
def Obligations.DuplicateRequestRepeatsAnswer : Prop :=
  ∀ (i : Instr) (op : Opcode) (h : StoreHdr) (r : Req) (s : State), requestOf i = some (op, h, r) → s.host.ready = true →
    s.power.stage < 3 → r.seq ∈ (s.master r.master.val).seqs →
    exec i s = .next (match (s.master r.master.val).answers.find? fun a => a.seq == r.seq with
      | some a => respond { a with repeated := true } s
      | none => s)

/-- In SAFE every request but reads, SYS_RESET, FW_STAGE and FW_COMMIT is answered REFUSED_MODE (R338). -/
def Obligations.SafeRefusesOthers : Prop :=
  ∀ (i : Instr) (op : Opcode) (h : StoreHdr) (r : Req) (s : State), requestOf i = some (op, h, r) → s.flag mSafe = true →
    s.host.ready = true → s.power.stage < 3 → r.seq ∉ (s.master r.master.val).seqs → s.hasMaster r.master.val = true →
    (s.enforced = true → seqNewer s r.master.val r.seq = true) → authOk s op r h = true →
    safeAccepts op r.payload h = false →
    exec i s = .next (checkFailRun r.master.val (answerReq op r s.idx 0 .refusedMode []
      (updMaster r.master.val (fun x => { x with unanswered := x.unanswered + 1 }) s)))

/-- An answer is written at the ring's tail when there is room (R319): the entry's 256 bytes, the bulk bytes at their place, the
tail; every other byte of the ring memory is as before, and so is every record but the control interface's and, of a network
master, what the ports have to send. An answer that cannot be written yet is held, in order, and the ring memory is untouched
(R319). -/
def Obligations.AnswersGoToTheRing : Prop :=
  (∀ (a : Response) (o : Nat) (s : State), a.master < 8 → (a.crane = true → a.body.length ≤ 192) → a.body.length ≤ 4096 →
      (s.master a.master).held = [] → canWrite s a = some o →
      let t := respond a s
      let tail := (s.master a.master).rspTail
      let n := if !a.crane && a.body.length > 192 then a.body.length else 0
      readBytes t.host.mem (rspRing a.master + 256 * (tail % 64)) 256 = responseBytes s a o ∧
      readBytes t.host.mem (rspBulk a.master + o) n = a.body.take n ∧
      (t.master a.master).rspTail = (tail + 1) % 128 ∧
      (∀ i, (i < rspRing a.master + 256 * (tail % 64) ∨ rspRing a.master + 256 * (tail % 64) + 256 ≤ i) →
        (i < rspBulk a.master + o ∨ rspBulk a.master + o + n ≤ i) → readByte t.host.mem i = readByte s.host.mem i) ∧
      t = { s with host := t.host, net.ports := t.net.ports } ∧ (a.master < 4 → t = { s with host := t.host })) ∧
  (∀ (a : Response) (s : State), ((s.master a.master).held ≠ [] ∨ canWrite s a = none) →
      ((respond a s).master a.master).held = (s.master a.master).held ++ [a] ∧
      (respond a s).host.mem = s.host.mem ∧ respond a s = { s with host := (respond a s).host })

/-- SYS_INFO, SYS_MODE_GET, SYS_LOG_READ, TWIN_STAT, PWR_STAT, TIME_STAT, POST_REPORT and echo are answered OK with the body
their tables give; SYS_LOG_READ also notes the highest sequence read. OBJ_GET and SPK_GET, and the scene's select-mask commands
with a mask of 0, are answered OK with the record. -/
def Obligations.ReadsAnswer : Prop :=
  (∀ (r : Req) (s : State), delivered r s = true →
    let n := taken r s
    (admits .sysInfo {} r s = true → r.payload = zeros 8 → (identityBody n).length ≤ 4096 →
      exec (.sysInfo r) s = .next (finish .sysInfo r s.idx 0 .ok (identityBody n) n)) ∧
    (admits .sysInfo {} r s = true → r.payload = le 4 1 ++ zeros 4 → (mastersBody n).length ≤ 4096 →
      exec (.sysInfo r) s = .next (finish .sysInfo r s.idx 0 .ok (mastersBody n) n)) ∧
    (admits .sysInfo {} r s = true → r.payload = le 4 4 ++ zeros 4 → (memoryBody n).length ≤ 4096 →
      exec (.sysInfo r) s = .next (finish .sysInfo r s.idx 0 .ok (memoryBody n) n)) ∧
    (admits .sysModeGet {} r s = true → r.payload = [] → (modeGetBody n).length ≤ 4096 →
      exec (.sysModeGet r) s = .next (finish .sysModeGet r s.idx 0 .ok (modeGetBody n) n)) ∧
    (∀ first count, admits .sysLogRead {} r s = true → r.payload = le 8 first ++ le 2 count ++ zeros 6 →
      first < 2 ^ 64 → 1 ≤ count → count ≤ 128 →
      let es := ((logView n).filter fun e => first ≤ e.lseq).take count
      let head := match es with | [] => 0 | e :: _ => e.lseq
      let body := le 4 head ++ le 2 es.length ++ le 1 (bit (decide (head > first) && decide (head > 1))) ++ zeros 1 ++ es.flatMap LogEntry.bytes
      body.length ≤ 4096 →
      exec (.sysLogRead r) s = .next (finish .sysLogRead r s.idx 0 .ok body
        { n with host.highRead := es.foldl (fun a e => max a e.lseq) n.host.highRead })) ∧
    (admits .twinStat {} r s = true → r.payload = [] → (twinStatBody n).length ≤ 4096 →
      exec (.twinStat r) s = .next (finish .twinStat r s.idx 0 .ok (twinStatBody n) n)) ∧
    (admits .pwrStat {} r s = true → r.payload = [] → (pwrStatBody n).length ≤ 4096 →
      exec (.pwrStat r) s = .next (finish .pwrStat r s.idx 0 .ok (pwrStatBody n) n)) ∧
    (admits .timeStat {} r s = true → r.payload = [] → (timeStatBody n).length ≤ 4096 →
      exec (.timeStat r) s = .next (finish .timeStat r s.idx 0 .ok (timeStatBody n) n)) ∧
    (admits .postReport {} r s = true → r.payload = [] → n.boot.report.bytes.length ≤ 4096 →
      exec (.postReport r) s = .next (finish .postReport r s.idx 0 .ok n.boot.report.bytes n)) ∧
    (admits .echo {} r s = true → exec (.echo r) s = .next (finish .echo r s.idx 0 .ok [] n))) ∧
  (∀ (r : Req) (s : State), delivered r s = true →
    let n := taken r s
    let p := r.payload
    (∀ id, admits .objGet {} r s = true → p = le 2 id ++ zeros 6 → 1 ≤ id → id ≤ 65535 → s.flag mShallow = false →
      (objBody n id).length ≤ 4096 → exec (.objGet r) s = .next (finish .objGet r s.idx 0 .ok (objBody n id) n)) ∧
    (∀ o, admits .spkGet {} r s = true → p = le 2 o ++ zeros 6 → o ≤ 511 → (spkBody n o).length ≤ 4096 →
      exec (.spkGet r) s = .next (finish .spkGet r s.idx 0 .ok (spkBody n o) n)) ∧
    (admits .objSet {} r s = true → maskOf p = 0 → objPayloadOk p = true → s.flag mShallow = false →
      (objBody n (getU p 4 2)).length ≤ 4096 →
      exec (.objSet r) s = .next (finish .objSet r s.idx 0 .ok (objBody n (getU p 4 2)) n)) ∧
    (admits .spkSet {} r s = true → maskOf p = 0 → spkPayloadOk p = true → (spkBody n (getU p 4 2)).length ≤ 4096 →
      exec (.spkSet r) s = .next (finish .spkSet r s.idx 0 .ok (spkBody n (getU p 4 2)) n)) ∧
    (admits .zoneSet {} r s = true → maskOf p = 0 → zonePayloadOk p = true → (zoneBody n (getU p 4 1)).length ≤ 4096 →
      exec (.zoneSet r) s = .next (finish .zoneSet r s.idx 0 .ok (zoneBody n (getU p 4 1)) n)) ∧
    (admits .airSet {} r s = true → maskOf p = 0 → airPayloadOk p = true → (airBody n).length ≤ 4096 →
      exec (.airSet r) s = .next (finish .airSet r s.idx 0 .ok (airBody n) n)) ∧
    (admits .peerSet {} r s = true → maskOf p = 0 → peerPayloadOk p = true → (peerBody n (getU p 4 2)).length ≤ 4096 →
      exec (.peerSet r) s = .next (finish .peerSet r s.idx 0 .ok (peerBody n (getU p 4 2)) n)))

/-- BERTH_STAT, CAPT_READ, EST_READ, PROPOSAL_READ and HEALTH_READ are answered OK with the records they name; CAPT_READ removes
the entries it returns. -/
def Obligations.UnitReadsAnswer : Prop :=
  ∀ (r : Req) (s : State), delivered r s = true →
  let n := taken r s
  let p := r.payload
  (∀ x, admits .berthStat {} r s = true → berthPayloadOk p = true → getU p 0 1 = 0 → SMap.look n.net.rx (getU p 2 2) = some x →
    (rxBytes x.cfg (getU p 2 2) ++ rxStatBytes x.stat x.state).length ≤ 4096 →
    exec (.berthStat r) s = .next (finish .berthStat r s.idx 0 .ok (rxBytes x.cfg (getU p 2 2) ++ rxStatBytes x.stat x.state) n)) ∧
  (∀ x, admits .berthStat {} r s = true → berthPayloadOk p = true → getU p 0 1 ≠ 0 → SMap.look n.net.tx (getU p 2 2) = some x →
    (txBytes x.cfg (getU p 2 2) ++ txStatBytes x).length ≤ 4096 →
    exec (.berthStat r) s = .next (finish .berthStat r s.idx 0 .ok (txBytes x.cfg (getU p 2 2) ++ txStatBytes x) n)) ∧
  (∀ i k, admits .captRead {} r s = true → p = le 1 i ++ le 1 k ++ zeros 6 → i ≤ 3 → 1 ≤ k → k ≤ 16 →
    (((n.capt i).queue.take k).flatMap CaptEntry.bytes).length ≤ 4096 →
    exec (.captRead r) s = .next (finish .captRead r s.idx 0 .ok (((n.capt i).queue.take k).flatMap CaptEntry.bytes)
      (updCapt i (fun c => { c with queue := c.queue.drop k }) n))) ∧
  (∀ i k, admits .estRead {} r s = true → p = le 2 i ++ le 2 k ++ zeros 4 → 1 ≤ k → k ≤ 64 → i + k ≤ 4096 →
    (((List.range k).flatMap fun j => (n.acc (i + j)).est.bytes (i + j))).length ≤ 4096 →
    exec (.estRead r) s = .next (finish .estRead r s.idx 0 .ok ((List.range k).flatMap fun j => (n.acc (i + j)).est.bytes (i + j)) n)) ∧
  (∀ i k, admits .proposalRead {} r s = true → p = zeros 2 ++ le 2 i ++ le 2 k ++ zeros 2 → 1 ≤ k → k ≤ 64 → i + k ≤ 64 →
    ((List.range k).flatMap fun j => (SMap.get {} n.nose.proposals (propKey 0 (i + j))).bytes 0 (i + j)).length ≤ 4096 →
    exec (.proposalRead r) s = .next (finish .proposalRead r s.idx 0 .ok
      ((List.range k).flatMap fun j => (SMap.get {} n.nose.proposals (propKey 0 (i + j))).bytes 0 (i + j)) n)) ∧
  (∀ o k, admits .healthRead {} r s = true → p = le 2 o ++ le 2 k ++ zeros 4 → 1 ≤ k → k ≤ 64 → o + k ≤ 512 →
    let body := (List.range k).flatMap fun j =>
      (n.health (o + j)).status (o + j) (n.spk (o + j)).health
        (match SMap.look (n.health (o + j)).since 0 with | some t => (n.idx - t) / n.hz | none => 0)
    body.length ≤ 4096 → exec (.healthRead r) s = .next (finish .healthRead r s.idx 0 .ok body n))

/-- OBJ_SET, OBJ_BIND, SPK_SET, ZONE_SET, AIR_SET, PEER_SET, CHAIN_SET, ACCORD_LOAD, ACCORD_SWAP, ROUTE_SET, SILENCE_SET,
SYS_MODE_SET, BERTH_OPEN, BERTH_CLOSE, MARK_SET and NOSE_CFG of observation inputs: a command that passes its checks joins those
waiting, with the boundary at which it takes effect, is published where the unit publishes and forwarded where it is active;
nothing is answered yet. -/
def Obligations.TimedCommandsWait : Prop :=
  ∀ (i : Instr) (op : Opcode) (r : Req) (s : State) (t : Timing) (e : Nat),
    requestOf i = some (op, {}, r) → op ∈ timedOps → admits op {} r s = true → delivered r s = true →
    waitsAs op r.payload = some t → applyPeriod (taken r s) s.idx r = some e →
    let n := taken r s
    let c := waitingCmd op t (usedApply op r s.idx e n) r.payload 0 r s.idx n
    queues c r n = true →
    let v := publishCmd c { withCmd c n with host.nextId := n.host.nextId + 1 }
    exec i s = .next (trimmed r (if classOf op r.payload {} = .forwarded then
      forwardCmd (.master r.master.val) op r.rank c.apply (forwardPart op r.payload) v else v))

/-- BRIDGE_SET, which has no apply period of its own, joins the waiting commands and is answered OK at once, on an active unit
with the period given to both units (R123, R284, R333). PROPOSAL_APPLY: the change that the proposal stands for joins the
waiting commands, under its id (R204). On the active unit of a pair, TIME_CFG of the Heart rate and catch lag, NOSE_CFG,
PAIR_SET, POLICY_SET, SWEEP_RUN and PWR_POLICY are checked and answered at acceptance, with the apply period given to both
units; what is forwarded joins the waiting commands, for that period, and goes to the standby; what of a TIME_CFG is local acts
at once (R284). -/
def Obligations.BridgeAndProposalWait : Prop :=
  (∀ (r : Req) (s : State), admits .bridgeSet {} r s = true → delivered r s = true → maskOf r.payload ≠ 0 →
      let n := taken r s
      let e := untimedApply r n
      let c := waitingCmd .bridgeSet .block e r.payload 0 r s.idx n
      queues c r n = true →
      exec (.bridgeSet r) s = .next (trimmed r (answerReq .bridgeSet r s.idx e .ok []
        (updCmd c.id (fun c => { c with answered := true }) (forwardCmd (.master r.master.val) .bridgeSet r.rank e r.payload
          { withCmd c n with host.nextId := n.host.nextId + 1 }))))) ∧
  (∀ (r : Req) (s : State) (change : Bytes) (e : Nat), admits .proposalApply {} r s = true → delivered r s = true →
      proposalApplied r.payload (taken r s) = .inr change → applyPeriod (taken r s) s.idx r = some e →
      let n := taken r s
      let c := waitingCmd .proposalApply (changeTiming change) e change (getU r.payload 0 4) r s.idx n
      queues c r n = true →
      exec (.proposalApply r) s = .next (trimmed r (forwardCmd (.master r.master.val) .proposalApply r.rank e r.payload
        { withCmd c n with host.nextId := n.host.nextId + 1 }))) ∧
  (∀ (i : Instr) (op : Opcode) (r : Req) (s : State), requestOf i = some (op, {}, r) →
      op ∈ [.timeCfg, .noseCfg, .pairSet, .policySet, .sweepRun, .pwrPolicy] → admits op {} r s = true → delivered r s = true →
      s.flag mActive = true → waitsOnActive op r.payload {} = true → waitsAs op r.payload = none →
      let n := taken r s
      let apply := untimedApply r n
      let fwd := forwardPart op r.payload
      let now := if op = .timeCfg then afterReply n (doTimeCfg (localPart op r.payload) (atBoundary n) (allInEffect n) n) else n
      let c := waitingCmd op .block apply fwd 0 r s.idx now
      let e := if op = .sweepRun then sweepFirst r.payload apply (project now (sweepStart r.payload apply)) else 0
      let queued := forwardCmd (.master r.master.val) op r.rank apply fwd
        (updCmd c.id (fun c => { c with answered := true, select := false, excite := e })
          { withCmd c now with host.nextId := now.host.nextId + 1 })
      queues c r now = true →
      (∀ t body, actNow op {} r.payload r (judgedBy op r n) = .done t body → body.length ≤ 4096 →
        exec i s = .next (finish op r s.idx apply .ok body queued)) ∧
      (∀ t key, actNow op {} r.payload r (judgedBy op r n) = .owe t key →
        exec i s = .next (trimmed r (park { holdOf op r s.idx key n with apply := apply } queued))))

/-- SYS_RESET of kind 0 makes a reset due and releases the role, of kind 1 makes the clearing due; both are answered OK (R340).
OBJ_CLAIM takes a claim that is free, its own or of a lower rank; a master releases its own; a query changes nothing; the answer
says who holds it (R336). -/
def Obligations.ResetAndClaimsAct : Prop :=
  (∀ (r : Req) (s : State), admits .sysReset {} r s = true → delivered r s = true →
      let n := taken r s
      (r.payload = zeros 8 → exec (.sysReset r) s = .next (acted .sysReset r s [] (releaseRole { n with host.resetDue := true }))) ∧
      (r.payload = le 1 1 ++ zeros 7 → exec (.sysReset r) s = .next (acted .sysReset r s [] { n with host.clearDue := true }))) ∧
  (∀ (r : Req) (s : State) (zone : Bool) (id : Nat), admits .objClaim {} r s = true → delivered r s = true →
      (if zone then id ≤ 63 else 1 ≤ id ∧ id ≤ 65535) →
      let n := taken r s
      let held := n.host.claims.find? fun c => c.zone == zone && c.id == id
      let rest := n.host.claims.filter fun c => !(c.zone == zone && c.id == id)
      let took := { n with host.claims := rest ++ [⟨zone, id, r.master.val, r.rank⟩] }
      let freed := { n with host.claims := rest }
      (r.payload = le 1 (bit zone) ++ le 1 0 ++ le 2 id ++ zeros 4 →
        (match held with | some c => c.master = r.master.val ∨ c.rank < r.rank | none => n.host.claims.length < 1024) →
        exec (.objClaim r) s = .next (acted .objClaim r s (claimBody took zone id) took)) ∧
      (r.payload = le 1 (bit zone) ++ le 1 1 ++ le 2 id ++ zeros 4 →
        (match held with | some c => c.master = r.master.val | none => False) →
        exec (.objClaim r) s = .next (acted .objClaim r s (claimBody freed zone id) freed)) ∧
      (r.payload = le 1 (bit zone) ++ le 1 2 ++ le 2 id ++ zeros 4 →
        exec (.objClaim r) s = .next (acted .objClaim r s (claimBody n zone id) n)))

/-- FILTER_SET, POLICY_SET, PWR_POLICY, TWIN_CFG and WITNESS_SET write the selected groups of their record at acceptance
(TWIN_CFG for the next block boundary) and are answered OK; the second and third do so on an active unit with the standby, in
the period given them (R284). PORT_CFG writes the selected groups of a port that stays enabled or disabled as it is, and is
answered OK; a new speed or FEC takes the link down; a port that is enabled gets its rings, and sends that wait in them leave;
one that is disabled drains, and its answer is owed (R218, R247). -/
def Obligations.RecordAndPortWritesAct : Prop :=
  (∀ (r : Req) (s : State), delivered r s = true → maskOf r.payload ≠ 0 →
      let n := taken r s
      let p := r.payload
      (admits .filterSet {} r s = true → filterPayloadOk p = true →
        exec (.filterSet r) s = .next (acted .filterSet r s []
          (updPort (getU p 4 1) (fun q => { q with filter := q.filter.write (maskOf p) p }) n))) ∧
      (admits .policySet {} r s = true → actsNow .policySet {} r s = true → policyPayloadOk p = true →
        exec (.policySet r) s = .next (acted .policySet r s [] { n with nose.policy := n.nose.policy.write (maskOf p) p })) ∧
      (admits .pwrPolicy {} r s = true → actsNow .pwrPolicy {} r s = true → powerPayloadOk p = true →
        exec (.pwrPolicy r) s = .next (acted .pwrPolicy r s [] { n with power.policy := n.power.policy.write (maskOf p) p })) ∧
      (admits .twinCfg {} r s = true → twinPayloadOk p = true →
        exec (.twinCfg r) s = .next (acted .twinCfg r s []
          { n with twin.newCfg := some ((n.twin.newCfg.getD n.twin.cfg).write (maskOf p) p) })) ∧
      (admits .witnessSet {} r s = true → witnessPayloadOk p = true →
        exec (.witnessSet r) s = .next (acted .witnessSet r s [] { n with twin.witness := n.twin.witness.write (maskOf p) p }))) ∧
  (∀ (r : Req) (s : State), admits .portCfg {} r s = true → delivered r s = true → maskOf r.payload ≠ 0 →
      let n := taken r s
      let p := r.payload
      let i := getU p 4 1
      let old := (n.port i).cfg
      let new := old.write (maskOf p) p
      let w := updPort i (fun q => { q with cfg := new }) n
      let v := if (new.speed, new.fec) != (old.speed, old.fec) then linkLost i w else w
      let rings := fun (on : Bool) (q : Port) => { q with
        rx := q.rx.map fun x => { x with enabled := on }, tx := q.tx.map fun x => { x with enabled := on } }
      checkPortCfg p n (viewsOf n) = none →
      (new.enabled = old.enabled → exec (.portCfg r) s = .next (acted .portCfg r s [] v)) ∧
      (old.enabled = false → new.enabled = true → exec (.portCfg r) s = .next (acted .portCfg r s [] (updPort i (fun q => takeSends (rings true q)) v))) ∧
      (old.enabled = true → new.enabled = false →
        let d := updPort i (fun q => { rings false q with draining := true }) v
        exec (.portCfg r) s = .next (trimmed r (park (holdOf .portCfg r s.idx i n)
          { d with host.nextId := d.host.nextId + 1 }))))

/-- TIME_CFG and TRIG_SET with a mask of 0 are answered with their record. TIME_CFG keeps the device record's, a port's, the
reference's and a capture input's writes for the next block boundary, and a set_time request for the servo; TRIG_SET arms a
trigger's new record, and mode 0 takes force at once. Of a TIME_CFG that an active unit forwards, the forwarded groups wait for
their period (R284), and are not spoken of here (R252, R265, R267, R269 to R271). -/
def Obligations.TimeCommandsAct : Prop :=
  ∀ (r : Req) (s : State), delivered r s = true →
    let n := taken r s
    let p := r.payload
    let m := (maskOf p).testBit
    (admits .timeCfg {} r s = true → timePayloadOk (n.time.newDev.getD n.time.dev).profile p = true → maskOf p = 0 →
      (timeBody p n).length ≤ 4096 → exec (.timeCfg r) s = .next (finish .timeCfg r s.idx 0 .ok (timeBody p n) n)) ∧
    (admits .timeCfg {} r s = true → actsNow .timeCfg {} r s = true → maskOf p ≠ 0 →
      timePayloadOk (n.time.newDev.getD n.time.dev).profile p = true → kindOf p = 0 →
      checkTimeDev p n (atBoundary n) (allInEffect n) = none →
      let v := { n with
        time.newDev := some ((n.time.newDev.getD n.time.dev).write (maskOf p) p)
        media.newHeart := if m 0 then some (getU p 8 1) else n.media.newHeart
        media.newCatch := if m 1 then some (getU p 10 2) else n.media.newCatch }
      exec (.timeCfg r) s = .next (acted .timeCfg r s []
        (if m 7 then updServo (fun x => { x with setTime := some (getU p 40 8) }) v else v))) ∧
    (admits .timeCfg {} r s = true → maskOf p ≠ 0 → timePayloadOk (n.time.newDev.getD n.time.dev).profile p = true →
      kindOf p = 1 ∧ (m 0 && indexOf p = 2 && (getU p 8 1).testBit 2) = false ∨ kindOf p = 3 →
      exec (.timeCfg r) s = .next (acted .timeCfg r s [] { n with time.newCfgs := n.time.newCfgs ++ [p] })) ∧
    (admits .timeCfg {} r s = true → maskOf p ≠ 0 → timePayloadOk (n.time.newDev.getD n.time.dev).profile p = true → kindOf p = 2 →
      (getU p 8 1 = 2 → (n.captNext 0).edges.testBit 0 = true) →
      exec (.timeCfg r) s = .next (acted .timeCfg r s [] { n with time.newRef := some (getU p 8 1) })) ∧
    (admits .trigSet {} r s = true → trigPayloadOk p = true → maskOf p = 0 → (trigBody n (getU p 4 1)).length ≤ 4096 →
      exec (.trigSet r) s = .next (finish .trigSet r s.idx 0 .ok (trigBody n (getU p 4 1)) n)) ∧
    (admits .trigSet {} r s = true → trigPayloadOk p = true → maskOf p ≠ 0 →
      let i := getU p 4 1
      let new := (n.trig i).cfg.write (maskOf p) p
      (new.mode = 0 → exec (.trigSet r) s = .next (acted .trigSet r s []
        (updTrig i (fun t => { t with cfg := new, next := none, newNext := none }) n))) ∧
      (new.mode ≠ 0 → (new.mode = 1 → (firstEdge n new).isSome = true) →
        exec (.trigSet r) s = .next (acted .trigSet r s [] (updTrig i (fun t => { t with cfg := new, newNext := firstEdge n new }) n))))

/-- NOSE_CFG writes the device record, a health record or a target curve; a run that is stopped while the Nose drains is
answered at the drain's end; PAIR_SET writes a pair, clears its accumulators if it now measures another thing, and drops the
anchors it moves (R172, R182, R184, R196, R199, R205); that a change of its automatic-window flag clears them too is the model's
choice (assumption 53). The unit is not the active one of a pair, on which these commands wait for the period given them (R284).
-/
def Obligations.NoseCommandsAct : Prop :=
  ∀ (r : Req) (s : State), delivered r s = true → maskOf r.payload ≠ 0 → s.flag mActive = false →
    let n := taken r s
    let p := r.payload
    let m := maskOf p
    let i := indexOf p
    let d := { n.nose.dev with
      run := pick (m.testBit 0) (getU p 8 1 == 1) n.nose.dev.run, avgK := pick (m.testBit 1) (getU p 9 1) n.nose.dev.avgK
      codeBase := pick (m.testBit 2) (getU p 12 4) n.nose.dev.codeBase
      propInterval := pick (m.testBit 3) (getU p 16 4) n.nose.dev.propInterval }
    let f := noseFollow { n with nose.dev := d }
    let drains := m.testBit 0 && !d.run && f.nose.dev.state = 2
    (admits .noseCfg {} r s = true → nosePayloadOk p = true → kindOf p = 0 → drains = false →
      exec (.noseCfg r) s = .next (acted .noseCfg r s [] f)) ∧
    (admits .noseCfg {} r s = true → nosePayloadOk p = true → kindOf p = 0 → drains = true →
      exec (.noseCfg r) s = .next (trimmed r (park (holdOf .noseCfg r s.idx 0 n)
        { f with host.nextId := f.host.nextId + 1 }))) ∧
    (admits .noseCfg {} r s = true → nosePayloadOk p = true → kindOf p = 2 → (m.testBit 3 && (getU p 19 1).testBit 2) = false →
      exec (.noseCfg r) s = .next (acted .noseCfg r s [] (updHealth i (fun h => h.write m p) n))) ∧
    (admits .noseCfg {} r s = true → nosePayloadOk p = true → kindOf p = 3 →
      exec (.noseCfg r) s = .next (acted .noseCfg r s []
        { n with nose.curves := SMap.upd {} n.nose.curves i fun k => k.write m p })) ∧
    (admits .pairSet {} r s = true → pairPayloadOk p = true → getU p 4 2 < pairCap n.heartNext →
      let j := getU p 4 2
      let old := n.pair j
      let new := old.write m p
      let ref := if new.trackRef = j then new else n.pair new.trackRef
      let moved := new.output != old.output || new.obs != old.obs || new.window != old.window || new.pathComp != old.pathComp ||
        new.flags.testBit 1 != old.flags.testBit 1
      let again := m.testBit 1 && (getU p 9 1).testBit 4
      (new.flags.testBit 0 && new.trackKind ≠ 0 && (!ref.flags.testBit 0 || ref.obs ≠ new.obs)) = false →
      (new.output ≠ 65535 → outExists n.heartNext new.output = true) →
      let v := { n with nose.pairs := SMap.put {} n.nose.pairs j new }
      exec (.pairSet r) s = .next (acted .pairSet r s []
        (dropAnchors (fun k x => (k == j && again) || (new != old && (k == j || x.trackRef == j)))
          (if moved then updAcc j (fun a => { a with clear := true }) v else v))))

/-- ANA_IN_CFG, ANA_OUT_CFG, LOOP_CFG, TDM_CFG and SHORT_SET write the selected groups of their record at acceptance; what waits
for a switch, a boundary or a ramp is kept beside it (R169, R405, R408, R410, R413). A SHORT_SET that moves a connection ramps
out what it was and in what it is (R169); that the filter state of the old lane is kept, and that a new input starts at rest, is
the model's reading (assumption 31). -/
def Obligations.IoRecordWritesAct : Prop :=
  (∀ (r : Req) (s : State), delivered r s = true → maskOf r.payload ≠ 0 →
      let n := taken r s
      let p := r.payload
      let m := maskOf p
      let i := getU p 4 1
      (admits .anaInCfg {} r s = true → checkAnaIn p n (viewsOf n) = none →
        let a := n.anaIn i
        let g := getU p 5 1
        let ph := getU p 6 1 == 1
        exec (.anaInCfg r) s = .next (acted .anaInCfg r s [] (updAnaIn i (fun a' => { a' with
          want := if m.testBit 0 then (if g = a.gain then none else some g) else a.want
          phantom := pick (m.testBit 1) ph a.phantom
          fault := if m.testBit 1 then false else a.fault
          ramping := if m.testBit 1 && ph != (a.phantom && !a.fault) then true else a.ramping
          newChannel := if m.testBit 2 then some (getU p 8 2) else a.newChannel }) n))) ∧
      (admits .anaOutCfg {} r s = true → anaOutPayloadOk p = true →
        let v := if m.testBit 0 then updAnaOut i (wantSpan (getU p 5 1)) n else n
        exec (.anaOutCfg r) s = .next (acted .anaOutCfg r s []
          (if m.testBit 1 then updAnaOut i (fun a => { a with hold := getU p 6 1 == 1 }) v else v))) ∧
      (admits .loopCfg {} r s = true → loopPayloadOk p = true →
        exec (.loopCfg r) s = .next (acted .loopCfg r s [] (updLoop i (fun l =>
          { l.write m p with target := if (l.write m p).mode = 0 then 0 else if (l.write m p).mode = 1 then (l.write m p).value
                                       else (l.write m p).target }) n))) ∧
      (admits .tdmCfg {} r s = true → checkTdm p n (viewsOf n) = none →
        exec (.tdmCfg r) s = .next (acted .tdmCfg r s [] (updTdm i (fun t =>
          { t.write m p with newFirst := if m.testBit 2 then some (getU p 10 2) else t.newFirst }) n))) ∧
      (admits .shortSet {} r s = true → recordOk shortFields 4 112 p = true → m.testBit 0 = false → m.testBit 1 = false →
        m.testBit 2 = false →
        let k := SMap.get {} n.rend.shorts i
        exec (.shortSet r) s = .next (acted .shortSet r s [] { n with rend.shorts := SMap.put {} n.rend.shorts i { k with
          bqEnable := pick (m.testBit 3) (getU p 10 1) k.bqEnable, biquads := pick (m.testBit 3) (bqList p 12 4) k.biquads } }))) ∧
  (∀ (r : Req) (s : State), admits .shortSet {} r s = true → delivered r s = true → recordOk shortFields 4 112 r.payload = true →
      let n := taken r s
      let p := r.payload
      let m := maskOf p
      let i := getU p 4 1
      let k := SMap.get {} n.rend.shorts i
      let new := { k with
        enabled := pick (m.testBit 0) ((getU p 5 1).testBit 0) k.enabled, input := pick (m.testBit 1) (getU p 6 1) k.input
        output := pick (m.testBit 1) (getU p 7 1) k.output, gain := pick (m.testBit 2) (getI p 8 2) k.gain
        bqEnable := pick (m.testBit 3) (getU p 10 1) k.bqEnable, biquads := pick (m.testBit 3) (bqList p 12 4) k.biquads }
      m ≠ 0 → (new.enabled, new.input, new.output, new.gain) ≠ (k.enabled, k.input, k.output, k.gain) →
      exec (.shortSet r) s = .next (acted .shortSet r s [] { n with rend.shorts := SMap.put {} n.rend.shorts i { new with
        fromIn := k.input, fromOut := k.output, fromGain := k.reached, ramp := 0, bqOld := k.bqState
        bqState := if new.input = k.input then k.bqState else [] } }))

/-- GPIO_SET writes a pin, an alarm plan, the UART or a pad group at acceptance; a pin that stops being the alarm input it was
is asserted no more; an I2C transfer's answer is owed (R415 to R417, R426). -/
def Obligations.GpioSetActs : Prop :=
  ∀ (r : Req) (s : State), admits .gpioSet {} r s = true → delivered r s = true →
    let n := taken r s
    let p := r.payload
    let i := indexOf p
    let on := slice p 16 (getU p 8 2)
    let off := slice p (16 + getU p 8 2) (getU p 10 2)
    (kindOf p = 0 → maskOf p ≠ 0 → recordOk pinFields 5 16 p = true →
      exec (.gpioSet r) s = .next (acted .gpioSet r s [] (updPin i (fun x => { x.write (maskOf p) p with asserted :=
        x.asserted && (x.write (maskOf p) p).function == x.function && (x.write (maskOf p) p).alarm == x.alarm }) n))) ∧
    (kindOf p = 1 → planOk p = true → planPart (checkPlan n) on = none → planPart (checkPlan n) off = none →
      exec (.gpioSet r) s = .next (acted .gpioSet r s []
        { n with io.plans := SMap.upd {} n.io.plans i fun x => { x with assertP := on, releaseP := off } })) ∧
    (kindOf p = 2 → uartOk p = true →
      exec (.gpioSet r) s = .next (acted .gpioSet r s [] { n with io.uart := ⟨getU p 8 4, getU p 12 1⟩ })) ∧
    (kindOf p = 3 → i2cOk p = true → n.io.i2c = none →
      exec (.gpioSet r) s = .next (trimmed r { n with
        host.nextId := n.host.nextId + 1, io.i2c := some (holdOf .gpioSet r s.idx 0 n) })) ∧
    (kindOf p = 4 → maskOf p ≠ 0 → padPayloadOk p = true →
      exec (.gpioSet r) s = .next (acted .gpioSet r s []
        { n with io.pads := SMap.put (padDefault i) n.io.pads i (getU p 8 1) }))

/-- On a unit that is not active, SWEEP_RUN begins a run whose capture window the answer gives, judged by the state expected at
its start, which is rounded up to a block (assumption 33); TWIN_WARP of kind 0 starts a warp; TWIN_SWITCH is answered DEFERRED,
and on the active unit arms the hand-over and sends its stamp, a multiple of 16 with 48 periods added (assumption 42); what a
standby sends the active is the model's choice (assumption 54) (R210, R211, R296, R310, R334). -/
def Obligations.RunsBegin : Prop :=
  ∀ (r : Req) (s : State), delivered r s = true →
    let n := taken r s
    let p := r.payload
    (admits .sweepRun {} r s = true → actsNow .sweepRun {} r s = true → sweepPayloadOk n.hz p = true →
      (payloadPeriod n r (getU p 32 8)).isSome = true →
      let k := sweepOf p
      let st := ceilTo 16 (max n.rTen (getU p 32 8))
      let v := project n st
      k.kind ≠ 3 → outExists n.heartNext k.output = true → v.flag mSweep = true → v.flag mDark = false →
      v.flag mShallow = false → n.nose.sweep = none → v.nose.sweep = none → (v.mute k.output).muted = false →
      blotterNeed k k.obsMask ≤ 268435456 →
      let longest := (List.range 512).foldl (fun a o => if outExists v.heartNext o then max a (v.mute o).r else a) (getU p 40 2)
      let e := st + 16 * ((longest + 15) / 16)
      exec (.sweepRun r) s = .next (acted .sweepRun r s (le 8 e ++ le 8 (e + k.total - 1)) { n with
        nose.sweep := some { cfg := k, start := st, excite := e, last := e + k.total - 1, master := r.master.val }
        nose.blotter := [], nose.blotMask := k.obsMask, nose.blotFirst := e, nose.blotLast := e })) ∧
    (admits .twinWarp {} r s = true → p = zeros 8 → n.twin.warp = none → warpOk n = true →
      exec (.twinWarp r) s = .next (acted .twinWarp r s [] (startWarp n))) ∧
    (admits .twinSwitch {} r s = true → p.length = 8 → getU p 0 8 ≤ n.idx + 2 ^ 31 → (payloadPeriod n r (getU p 0 8)).isSome = true →
      switchRefused n = false → n.twin.handOver = none →
      let used := max (getU p 0 8) n.rTen
      (s.flag mActive = true → exec (.twinSwitch r) s = .next (trimmed r (answerReq .twinSwitch r s.idx used .deferred []
        (sendTwin 11 true [ceilTo 16 used + 48] [] { n with twin.handOver := some (true, ceilTo 16 used + 48) })))) ∧
      (s.flag mActive = false → ∃ t, exec (.twinSwitch r) s = .next (trimmed r (answerReq .twinSwitch r s.idx used .deferred [] t)) ∧
        t = { n with twin := t.twin, host := t.host, net := t.net } ∧ t.twin.handOver = none))

/-- TEST_LOOP starts a loopback whose answer is owed to its end, in the modes expected at the next block boundary; FW_STAGE
takes an item to the idle slot, whose check answers, and with an image leaves the flash's training pattern in its sector (R432),
which the model holds as one bit (assumption 45); FW_COMMIT writes the boot record, makes a reset due and is answered OK (R334,
R398, R399, R400). -/
def Obligations.FieldServiceActs : Prop :=
  ∀ (r : Req) (s : State), delivered r s = true →
    let n := taken r s
    let p := r.payload
    (admits .testLoop {} r s = true → testLoopOk p = true → (atBoundary n).flag mLoop = true →
      (loopDark (getU p 0 1) = true → (atBoundary n).flag mDark = true) → getU p 7 1 ≠ 1 →
      (n.boot.loops.any fun l => l.iface == getU p 0 1 && l.index == getU p 2 2) = false →
      ∃ t, exec (.testLoop r) s = .next t ∧
        (∃ l ∈ t.boot.loops, l.iface = getU p 0 1 ∧ l.index = getU p 2 2 ∧ l.start = n.idx ∧ l.duration = getU p 8 4 ∧
          l.stopping = false ∧ l.owed = holdOf .testLoop r s.idx 0 n)) ∧
    (admits .fwStage {} r s = true → checkFwStage p r.master.val n = none →
      let target := getU p 0 1
      let slot := if target = 0 then n.idleSlot else n.idleCred
      exec (.fwStage r) s = .next (trimmed r { n with
        host.nextId := n.host.nextId + 1
        boot.staging := some (target, slot, holdOf .fwStage r s.idx 0 n), boot.staged := SMap.del n.boot.staged target
        boot.images := if target = 0 then SMap.del n.boot.images slot else n.boot.images
        boot.creds := if target = 1 then SMap.del n.boot.creds slot else n.boot.creds
        boot.pattern := if target = 0 then true else n.boot.pattern })) ∧
    (∀ slot, admits .fwCommit {} r s = true → p.length = 8 → getU p 0 1 ≤ 1 → getU p 1 1 ≤ 1 → getU p 2 2 = 0 →
      n.host.resetDue = false → SMap.look n.boot.staged (getU p 0 1) = some slot →
      expectOk n (getU p 0 1) slot (getU p 4 4) = true →
      exec (.fwCommit r) s = .next (acted .fwCommit r s [] (releaseRole { writeRecord (fun k =>
        let k := { k with flags := setBitN k.flags 0 ((getU p 1 1).testBit 0) }
        if getU p 0 1 = 0 then { k with preferred := slot } else { k with cred := slot }) n with host.resetDue := true })))

/-- A store transfer waits for a channel of the crane, which it takes at once if one is free; the apply period of what it brings
is that of its acceptance; a stream whose chunks are all there when it opens ends at once (R10, R322 to R324). A command whose
settle point has come is answered: SUPERSEDED, with what it lost, if it lost; DEFERRED if it waits for another event; OK
otherwise; and a command alone in its boundary loses nothing. A free crane channel takes the next waiting transfer; a transfer
that is done frees its channel for the next, and its data are answered (out) or acted on (in); a stream whose chunks are all
there when it opens ends at once (R322 to R324, R333, R335). -/
def Obligations.TransfersMoveAndSettle : Prop :=
  (∀ (r : Req) (h : StoreHdr) (s : State), admits .storeTransfer h r s = true → r.pkind = .crane → storeOk h = true →
      (h.dir = 0 → r.crane.length = h.length) →
      let n := taken r s
      craneRefused n r.master.val r.crane = none → (h.store = 1 → n.capturing = false) →
      let data := if h.dir = 0 then [] else storeData h n
      let t : Transfer := {
        id := n.host.nextId, op := .storeTransfer, req := r, accepted := s.idx, store := h, out := decide (h.dir ≠ 0), via := r.crane.via
        length := if h.dir = 0 then r.crane.length else data.length, data := data
        apply := if h.dir = 0 then applyPeriod n s.idx r else none }
      let v := startTransfer { n with host.nextId := n.host.nextId + 1, host.transfers := n.host.transfers ++ [t] }
      exec (.storeTransfer r h) s = .next (trimmed r (if h.dir = 0 then endStreams 16 v else v))) ∧
  (∀ s : State,
      (∀ c m, s.host.cmds = [c] → c.origin = .master m → c.answered = false → c.applied = false → c.effect + s.media.catchL ≤ s.idx + 48 →
        (c.settled = true → c.op ≠ .berthClose → c.op ≠ .peerSet → exec .commandSettle s = .next (prune (respond
          (if c.lost ≠ [] then answerOf c m .superseded (lostBody c) else if c.deferred = true then answerOf c m .deferred [] else answerOf c m .ok [])
          { s with host.cmds := [{ c with answered := true }] }))) ∧
        (c.settled = false → c.op ∉ [.accordSwap, .sysModeSet, .proposalApply, .berthClose, .peerSet] → exec .commandSettle s = .next (prune
          (respond (answerOf c m .ok []) { s with host.cmds := [{ c with settled := true, lost := [], deferred := false, answered := true }] })))) ∧
      (∀ c t, (List.range 8).find? (fun c => !(s.host.transfers.filterMap Transfer.channel).contains c) = some c →
        (s.host.transfers.find? fun t => t.channel.isNone) = some t →
        exec .craneChannelStart s = .next (endStreams 16 (beginTransfer t c s))) ∧
      (∀ (ch : Fin 8) (data : Bytes) t, (s.host.transfers.find? fun t => t.channel == some ch.val && t.via == 0) = some t →
        (t.out = true → exec (.craneTransferDone ch data) s = .next (beginNext (flushHeld 64 t.req.master.val
          (answerCrane t.op t.req t.accepted (t.apply.getD 0) (le 4 t.length ++ padTo 32 (Config.sha256 t.data)) (dropTransfer t s))))) ∧
        (t.out = false →
          let d := padTo t.length (data.take t.length)
          (s.enforced = false ∨ Config.sha256 d = t.req.crane.digest) → modeRefuses t.op d t.store (dropTransfer t s) = false →
          exec (.craneTransferDone ch data) s =
            .next (beginNext (checkFailRun t.req.master.val (trimSeqs t.req.master.val
              (actReq t.op t.store d t.req t.accepted t.apply (dropTransfer t s))))))))

/-- A doorbell at an open window, for a window master: a request doorbell lets the ring be served; a response doorbell frees the
bulk space that the host has read, writes held answers and moves the master's chunk stream, which waits for that space; a chunk
doorbell moves the master's chunk stream; a reset doorbell drops what the master has waiting and leaves the ring resetting,
until the reset is done and every index is 0 (R319 to R325). -/
def Obligations.DoorbellsActOnTheirRing : Prop :=
  ∀ (m : Fin 8) (s : State), s.windowUp = true → m.val < 4 →
    exec (.doorbellReq m) s = .next (serve (updMaster m.val (fun x => { x with rung := true }) s)) ∧
    exec (.doorbellRsp m) s = .next (moveStream m.val (flushHeld 64 m.val (updMaster m.val freeBulk s))) ∧
    exec (.doorbellChunk m) s = .next (moveStream m.val s) ∧
    (∃ t, exec (.doorbellReset m) s = .next t ∧ (t.master m.val).resetting = true ∧ (t.master m.val).ready = false ∧
      (t.master m.val).held = [] ∧ (t.master m.val).chunk = none ∧ (t.master m.val).unanswered = 0 ∧
      (∀ x ∈ t.host.transfers, x.req.master.val ≠ m.val) ∧ (∀ c ∈ t.host.claims, c.master ≠ m.val) ∧
      (∀ c ∈ t.host.cmds, c.origin = .master m.val → c.answered = true) ∧
      t.scene = s.scene ∧ t.power = s.power ∧ t.media = s.media) ∧
    ((s.master m.val).resetting = true → exec (.ringResetDone m) s = .next (updMaster m.val (fun x => { x with
      reqHead := 0, reqTail := 0, rspHead := 0, rspTail := 0, chkDev := 0, chkHost := 0, bulk := [], ringErr := false
      resetting := false, rung := false, ready := s.host.ready && s.hasMaster m.val }) s))

/-- Writing the cause register clears the bits written as 1 and nothing else; writing the mask register replaces the mask but
for its reserved bits, which stay 0 (R6, R317); the register write at 0x10 is that same write of the causes. An aligned word
written to the rings or to the bulk regions is stored least significant byte first; every other byte of the ring memory reads as
before, and nothing else of the block changes. Any other width or alignment changes nothing. Over the quad SPI target a write
instruction does the same with a word whose nibbles come least significant byte first, high nibble first; a word left incomplete
is discarded, and so is every other instruction (R5, R315, R316). -/
def Obligations.WindowWritesStore : Prop :=
  (∀ (v : BitVec 32) (s : State), s.windowUp = true →
      exec (.irqCauseWrite v) s = .next { s with host.irqCause := s.host.irqCause &&& ~~~v } ∧
      exec (.registerWrite 0x10 4 (.word v)) s = .next { s with host.irqCause := s.host.irqCause &&& ~~~v } ∧
      (∃ t, exec (.irqMaskWrite v) s = .next t ∧ t.host.irqMask = v &&& 0x000FFF0F ∧ t.host.irqCause = s.host.irqCause ∧
        t.host.masters = s.host.masters ∧ t.host.mem = s.host.mem ∧ t = { s with host := t.host }) ∧
      exec (.registerWrite 0x14 4 (.word v)) s = exec (.irqMaskWrite v) s) ∧
  (∀ (addr size : Nat) (v : BitVec 32) (s : State), s.windowUp = true →
      (size = 4 → addr % 4 = 0 → (0x10000 ≤ addr ∧ addr < 0x30000 ∨ 0x80000 ≤ addr ∧ addr < 0xA0000) →
        ∃ t, exec (.registerWrite addr size (.word v)) s = .next t ∧
          readByte t.host.mem addr = v.extractLsb' 0 8 ∧ readByte t.host.mem (addr + 1) = v.extractLsb' 8 8 ∧
          readByte t.host.mem (addr + 2) = v.extractLsb' 16 8 ∧ readByte t.host.mem (addr + 3) = v.extractLsb' 24 8 ∧
          (∀ a, a < addr ∨ addr + 4 ≤ a → readByte t.host.mem a = readByte s.host.mem a) ∧
          t = { s with host.mem := t.host.mem }) ∧
      (size ≠ 4 ∨ addr % 4 ≠ 0 → exec (.registerWrite addr size (.word v)) s = .next s) ∧
      (s.boot.straps.host = 1 → addr % 4 = 0 → (0x10000 ≤ addr ∧ addr < 0x30000 ∨ 0x80000 ≤ addr ∧ addr < 0xA0000) →
        ∀ a b c d e f g h : BitVec 4, exec (.registerWrite addr 4 (.spi 0x38 [a, b, c, d, e, f, g, h])) s =
          exec (.registerWrite addr 4 (.word (g ++ h ++ e ++ f ++ c ++ d ++ a ++ b))) s) ∧
      (∀ (ins : Nat) (ns : List (BitVec 4)), ins ≠ 0x38 ∨ ns.length < 8 → exec (.registerWrite addr size (.spi ins ns)) s = .next s))

/-- A session opens for a free master with the sender's address, its event mask and fresh indices; its datagrams are taken only
from that sender, and each refreshes the session; closing it, or ten seconds of silence, ends it (R326, R327). That a datagram
with another magic or with reserved bytes set is dropped is the model's choice (assumption 56). After a session ends its master
has no peer, no claims and nothing waiting, and its ring is resetting (R325, R327). The UART carries the datagrams of master 7:
an open binds it, and a request entry is placed and served as from the network (R397). -/
def Obligations.SessionsFollowTheirPeer : Prop :=
  (∀ (m : Fin 8) (p : Peer) (h : DgramHdr) (s : State), plainDenied s p = false →
      (s.hears m.val p h 4 = true → (s.master m.val).peer = none → s.boot.debugOpen = false → ∀ mask : BitVec 32,
        exec (.efvexOpen m ⟨p, h⟩ mask) s = .next (updMaster m.val (fun x => { x with
          peer := some p, eventMask := mask.toNat, dseq := 0, dueCauses := [], failRun := 0
          reqHead := 0, reqTail := 0, rspHead := 0, rspTail := 0, chkDev := 0, chkHost := 0, bulk := [], ringErr := false
          ready := !x.resetting })
          (updMaster m.val (fun x => { x with lastHeard := s.idx, eth := h.eth, dseqIn := h.dseq }) s))) ∧
      ((s.master m.val).peer = some p →
        let n := updMaster m.val (fun x => { x with lastHeard := s.idx, eth := h.eth, dseqIn := h.dseq }) s
        (s.hears m.val p h 0 = true → exec (.efvexKeepalive m ⟨p, h⟩) s = .next n) ∧
        (s.hears m.val p h 0 = true → exec (.efvexClose m ⟨p, h⟩) s = .next (endSession m.val n)) ∧
        (∀ e : Bytes, s.hears m.val p h e.length = true → e.length = 256 → exec (.efvexRequest m ⟨p, h⟩ e) s = .next (serve (updMaster m.val
          (fun x => { x with reqTail := (x.reqTail + 1) % 128, rung := true })
          { n with host.mem := writeBytes n.host.mem (reqRing m.val + 256 * ((n.master m.val).reqTail % 64)) e }))) ∧
        (∀ (o : Nat) (d : Bytes), s.hears m.val p h d.length = true → d.length ≤ 1024 → o + d.length ≤ 16384 → o < 16384 →
          exec (.efvexSegmentIn m ⟨p, h⟩ o d) s = .next { n with host.mem := writeBytes n.host.mem (reqBulk m.val + o) d }) ∧
        (s.hears m.val p h 8 = true → ∀ head tail : BitVec 32, exec (.efvexIndex m ⟨p, h⟩ head tail) s = .next (putIndex m.val head.toNat tail.toNat n))) ∧
      (∀ q, (s.master m.val).peer = some q → q ≠ p →
        exec (.efvexKeepalive m ⟨p, h⟩) s = .next s ∧ exec (.efvexClose m ⟨p, h⟩) s = .next s ∧
        (∀ e, exec (.efvexRequest m ⟨p, h⟩ e) s = .next s)) ∧
      (h.magic ≠ 0x4576 ∨ h.reserved ≠ 0 →
        exec (.efvexKeepalive m ⟨p, h⟩) s = .next s ∧ exec (.efvexClose m ⟨p, h⟩) s = .next s ∧
        (∀ e, exec (.efvexRequest m ⟨p, h⟩ e) s = .next s) ∧ (∀ mask, exec (.efvexOpen m ⟨p, h⟩ mask) s = .next s)) ∧
      ((s.master m.val).peer = some p → (s.master m.val).lastHeard + 10 * s.hz ≤ s.idx →
        exec (.sessionTimeout m) s = .next (endSession m.val s))) ∧
  (∀ (m : Fin 8) (p : Peer) (h : DgramHdr) (s : State), s.hears m.val p h 0 = true → plainDenied s p = false →
      (s.master m.val).peer = some p →
      ∃ t, exec (.efvexClose m ⟨p, h⟩) s = .next t ∧ (t.master m.val).peer = none ∧ (t.master m.val).resetting = true ∧
        (t.master m.val).eventMask = 0 ∧ (t.master m.val).held = [] ∧ (∀ c ∈ t.host.claims, c.master ≠ m.val) ∧
        (∀ x ∈ t.host.transfers, x.req.master.val ≠ m.val) ∧ t.scene = s.scene ∧ t.power = s.power) ∧
  (∀ (d : UartDatagram) (s : State), s.uartOpen = true → d.master = 7 → s.hears 7 uartPeer d.hdr d.data.length = true →
      (d.kind = 0 → d.data.length = 4 → exec (.uartFrame d) s = .next (openSession 7 uartPeer d.hdr (unLe d.data) s)) ∧
      (d.kind = 2 → (s.master 7).peer = some uartPeer →
        exec (.uartFrame d) s = .next (putRequest 7 d.data (updMaster 7 (fun x => { x with lastHeard := s.idx, eth := d.hdr.eth, dseqIn := d.hdr.dseq }) s))))

/-- A release of PORST_N in a device that is not up, and has VKEEP and its rails, boots it from the straps sampled, and without
them it does nothing; a due reset and a stalled image boot it again with the straps it has, the latter marking the running image
bad; an image that a loader has brought whole runs if it passes, and fails the boot if not (R340, R388 to R391, R423). -/
def Obligations.BootsStartTheDevice : Prop :=
  ∀ s : State,
    (∀ straps t, s.boot.up = false → s.power.vkeep = true → s.power.pwrEn = true →
      exec (.porstNRelease straps t) s = .next (bootFrom straps s.power.nextReason false t s)) ∧
    (∀ straps t, s.power.vkeep = false ∨ s.power.pwrEn = false → exec (.porstNRelease straps t) s = .next s) ∧
    (∀ t, s.host.resetDue = true → exec (.resetBegin t) s = .next (bootFrom s.boot.straps s.power.nextReason false t s)) ∧
    (∀ t, s.boot.stalled = true → s.boot.running < 2 →
      exec (.bootWatchdog t) s = .next (bootFrom s.boot.straps s.power.nextReason true t
        (writeRecord (fun r => { r with flags := setBitN r.flags (1 + s.boot.running) true }) s))) ∧
    (∀ img t, s.boot.loading = true → s.flag mSafe = false → (loadedImage img s).arrived = true →
      let n := { s with boot.report := { s.boot.report with imgFlags := 16 } }
      exec (.bootLoadDone img t) s =
        .next (if imagePasses n (loadedImage img s) then runImage 2 (loadedImage img s) t n else failBoot 2 0x02 t n))

/-- When self-test passes, the mode word is DARK, with TWIN-STANDBY and ADRIFT on a unit strapped A or B; when it fails, the
mode word is SAFE. The same holds whatever began the boot (R345). STRAP_SAFE, which sends a device that passed to SAFE, is clear
(R394). -/
def Obligations.SelfTestSetsModeWord : Prop :=
  ∀ (c : Instr) (s n : State), exec c s = .next n →
    (isReset c = true ∧ n.boot.boots ≠ s.boot.boots ∨ (∃ img t, c = .bootLoadDone img t) ∧ s.boot.loading = true ∧
      s.boot.postDone = false ∧ s.flag mSafe = false) →
    n.boot.postDone = true → n.boot.straps.safe = false →
    n.power.word = BitVec.ofNat 16 (
      if n.boot.postPass then (if n.isPair then 2 ^ mDark + 2 ^ mStandby + 2 ^ mAdrift else 2 ^ mDark) else 2 ^ mSafe)

/-- PORST_N low for 2 µs or more, outside P4, resets every record but those of flash, fuses, the lantern, the PCIe pin and the
test access port, which only TRST_N resets; for 1 µs or less it does nothing (R401, R430, Table 16.12). The lantern: VKEEP
raises PWR_EN with wake reason 0; its loss leaves the device unpowered with what the lantern kept at 0; PGOOD low for 10 µs
while PWR_EN is high makes the next wake reason 7; in P4 a wake raises PWR_EN (R355, R357, R423). -/
def Obligations.ResetAndLantern : Prop :=
  (∀ (ns : Nat) (s : State), s.power.stage ≠ 4 →
      (ns ≤ 1000 → exec (.porstNAssert ns) s = .next s) ∧
      (2000 ≤ ns → exec (.porstNAssert ns) s = .next { State.reset with
        pending := s.pending, media.fresh := s.media.fresh
        boot.records := s.boot.records, boot.images := s.boot.images, boot.creds := s.boot.creds, boot.floor := s.boot.floor
        boot.revoked := s.boot.revoked, boot.pattern := s.boot.pattern, boot.boots := s.boot.boots, boot.tap := s.boot.tap
        power.holdCount := s.power.holdCount, power.vkeep := s.power.vkeep, power.pwrEn := s.power.pwrEn
        power.pgood := s.power.pgood, power.timer := s.power.timer, host.perst := s.host.perst
        power.nextReason := if s.power.stage = 2 ∨ s.power.stage = 3 then 5 else s.power.nextReason })) ∧
  (∀ s : State,
      (s.power.vkeep = false → exec .vkeepRise s = .next { s with power.vkeep := true, power.pwrEn := true, power.nextReason := 0 }) ∧
      (s.power.vkeep = true → ∃ t, exec .vkeepLoss s = .next t ∧ t.power.vkeep = false ∧ t.power.pwrEn = false ∧
        t.power.pgood = false ∧ t.power.holdCount = 0 ∧ t.power.nextReason = 0 ∧ t.power.timer = 0 ∧ t.boot.up = false ∧
        t.boot.records = s.boot.records ∧ t.boot.images = s.boot.images ∧ t.boot.creds = s.boot.creds) ∧
      (∀ ns, 10000 ≤ ns → s.power.pwrEn = true →
        exec (.pgoodFall ns) s = .next { s with power.pgood := false, power.nextReason := 7 }) ∧
      (∀ ns, ns < 10000 → exec (.pgoodFall ns) s = .next s) ∧
      (s.power.stage = 4 → s.power.wake ≠ .none → exec .pwrEnRaise s = .next { s with power.pwrEn := true }))

/-- A lockstep mismatch, a lost companion link, a second reading above 125 degrees, a decode error on the fabric, an
uncorrectable SRAM word of the Quaymaster or of a place with no rule of its own, and a boundary-scan instruction that takes the
pins each put the device in SAFE, with their reason: no other flag is set, rendering stops, no command and no crane transfer
waits, and no transmit berth is open. A decode error of the debug master is answered to it and changes nothing else. An address
has 36 bits (R344, R362, R365, R369, R394, R395, Table 14.6). One reading above 125 degrees, or one at or below it, is only
noted; in a device that is up, BYPASS only becomes the instruction of the test access port, IDCODE also shifts out the 32 bits
of the identifier, SAMPLE/PRELOAD the levels of the pins, which the manual leaves open, and TRST_N leaves IDCODE in force (R401,
R438). -/
def Obligations.FatalFaultsEnterSafe : Prop :=
  (∀ s : State, s.flag mSafe = false →
      let entered := fun (r : Nat) (t : State) =>
        t.power.word = BitVec.ofNat 16 (2 ^ mSafe) ∧ t.boot.report.reason = r ∧ t.boot.report.result = (if s.boot.postPass then 3 else 2) ∧
        t.media.running = false ∧ t.host.ready = true ∧ t.power.stage = 0 ∧ (∀ c ∈ t.host.cmds, c.applied = true) ∧
        t.host.transfers = [] ∧ (∀ e ∈ t.net.tx, e.2.state = 0) ∧ t.nose.sweep = none ∧ t.twin.warp = none
      (s.alive = true → ∃ t, exec .lockstepMismatch s = .next t ∧ entered 0x09 t) ∧
      (s.alive = true → s.boot.postDone = true → ∃ t, exec .companionLinkLost s = .next t ∧ entered 0x0C t) ∧
      (∀ temp, s.alive = true → s.boot.hot = true → 125 < temp → ∃ t, exec (.thermalSensorRead temp) s = .next t ∧ entered 0x0D t) ∧
      (∀ (p : Fin 14) addr, s.alive = true → p.val ≠ 13 → fabricTarget addr = 9 →
        ∃ t, exec (.decodeError p addr) s = .next t ∧ entered 0x0A t ∧ t.boot.report.faultAddr = addr % 2 ^ 36 ∧ t.boot.report.faultMaster = p.val ∧
          t.mem.stat.decodeErrors = wrapAdd 32 s.mem.stat.decodeErrors 1) ∧
      (∀ addr, s.alive = true → fabricTarget addr = 9 →
        exec (.decodeError 13 addr) s = .next (send (.decodeError (addr % 2 ^ 36)) s)) ∧
      (∀ k w, s.alive = true → (∃ t, exec (.sramScrub k (some (.quaymaster w))) s = .next t ∧ entered 0x0B t ∧
          t.boot.report.faultAddr = quaymasterAddr w ∧ t.mem.stat.sramUe = wrapAdd 32 s.mem.stat.sramUe 1) ∧
        ∃ t, exec (.sramScrub k (some (.general w))) s = .next t ∧ entered 0x0B t ∧
          t.boot.report.faultAddr = generalAddr w ∧ t.mem.stat.sramUe = wrapAdd 32 s.mem.stat.sramUe 1) ∧
      (∀ i, i ∈ [TapInstr.extest, .clamp, .highz, .extestPulse, .extestTrain] → s.boot.up = true →
        ∃ t, exec (.tapInstruction i) s = .next t ∧ entered 0x0E t)) ∧
  (∀ (s : State),
      (∀ temp, s.alive = true → s.boot.hot = false ∨ temp ≤ 125 →
        exec (.thermalSensorRead temp) s = .next { s with boot.hot := decide (temp > 125) }) ∧
      (s.boot.up = true → exec (.tapInstruction .bypass) s = .next { s with boot.tap := .bypass } ∧
        exec (.tapInstruction .trst) s = .next { s with boot.tap := .idcode } ∧
        exec (.tapInstruction .idcode) s =
          .next (send (.tdo ((List.range 32).map idcode.testBit)) { s with boot.tap := .idcode }) ∧
        ∃ bits : List Bool, bits.length = Config.scanCells ∧ exec (.tapInstruction .samplePreload) s =
          .next (send (.tdo bits) { s with boot.tap := .samplePreload, media.fresh := s.media.fresh + Config.scanCells })))

/-- Field service: a token that fits the serial number and the boot's challenge opens debug and takes the credentials out of
force; a credential block is answered OK and staged; the image that the crane brought is staged and answered OK if it passes the
boot tests, and answered AUTH_FAIL if not; a loopback that has run its time is answered with its result and ends; a change of
PCIe reset is noted, and going low it ends the transfers of the bus; a port reset of the fabric ends what the port had in
flight: a Quay's granule reads, the transfer of a crane channel, a write of the bus, of which the leading bytes stand, and a
frame, which is cut short (R314, R366, R398, R400, R402, Table 13.3). -/
def Obligations.FieldServiceEvents : Prop :=
  ∀ s : State,
    (∀ token, s.boot.up = true → s.boot.straps.dbg = true → s.boot.debugOpen = false →
      Config.unlockValid Config.serial (Config.challenge s.boot.boots) token = true →
      exec (.debugUnlock token) s = .next (openDebug s)) ∧
    (∀ p slot o, s.boot.staging = some (1, slot, o) → exec (.fwStageDone p) s = .next (trimSeqs o.master (answerOwed o .ok [] { s with
      boot.staging := none, boot.creds := SMap.ins s.boot.creds slot (credBlockOf (o.payload.drop 8))
      boot.staged := SMap.ins s.boot.staged 1 slot }))) ∧
    (∀ slot o, s.boot.staging = some (0, slot, o) → badFlag s.bootRec slot = false →
      let img : Image := { data := o.payload.drop 8 }
      exec (.fwStageDone true) s = .next (if imagePasses { s with boot.staging := none } img then
        trimSeqs o.master (answerOwed o .ok [] { s with
          boot.staging := none, boot.images := SMap.ins s.boot.images slot img, boot.staged := SMap.ins s.boot.staged 0 slot })
        else checkFailRun o.master (answerOwed o .authFail [] { s with boot.staging := none }))) ∧
    (∀ slot o, s.boot.staging = some (0, slot, o) → exec (.fwStageDone false) s =
      .next (checkFailRun o.master (answerOwed o .authFail [] { s with boot.staging := none }))) ∧
    (∀ iface index res l, (s.boot.loops.find? fun l => l.iface == iface && l.index == index) = some l →
      l.stopping = true ∨ l.duration ≤ (s.idx - l.start) * 1000 / s.hz → l.stop = none →
      exec (.testLoopEnd iface index res) s =
        .next (answerOwed l.owed .ok (loopResult l res (min ((s.idx - l.start) * 1000 / s.hz) l.duration))
          { s with boot.loops := s.boot.loops.filter fun k => !(k.iface == iface && k.index == index) })) ∧
    (s.alive = true → s.pcie = true →
      exec (.pciePerstN true) s = .next (endTransfers (fun t => t.via == 0) .busy { s with host.perst := true })) ∧
    exec (.pciePerstN false) s = .next { s with host.perst := false } ∧
    (∀ p : PortReset, s.alive = true →
      (2 ≤ p.port.val → p.port.val ≤ 5 →
        exec (.fabricPortReset p) s = .next (updQuay (p.port.val - 2) (fun u => { u with flight := [] }) s)) ∧
      (p.port.val = 7 → exec (.fabricPortReset p) s = .next (endTransfers (fun t => t.channel == some p.channel) .busy s)) ∧
      (∀ a bytes, p.port.val = 8 → p.write = some (a, bytes) → exec (.fabricPortReset p) s = .next (cutWrite a bytes s)) ∧
      (∀ b n, 9 ≤ p.port.val → p.port.val ≤ 11 → p.frame = some (b, n) →
        exec (.fabricPortReset p) s = .next (cutFrame (p.port.val - 9) b n s)))

/-- A wake from P2 fixes the block at which rendering resumes, and a pair's active unit forwards it; a wake from P4 is recorded
for the release of PORST_N (R353, R355 to R357). A unit that stands by, or is already waking, ignores WAKE_N and the wake timer.
During the pause into a power state only the first wake is held, and it is not acted on (R355 to R357). DOZE: the pause goes to
the state chosen, P2 when no deeper one fits; rendering resumes at its tick with DOZE clear and DARK, or LIVE where the command
asked for it, set (R352, R353, R358). A wake from P3 with its seal intact and working DRAM restores the Quaymaster in P2 and
fixes the resume tick; without them the device boots cold with wake reason 6 and counts the failure (R353, R354). -/
def Obligations.PowerStatesChange : Prop :=
  (∀ s : State, s.flag mStandby = false → s.waking = false →
      let wake := fun (k : WakeKind) => { s with power.wake := k, power.wakeReason := wakeCode k, power.nextReason := wakeCode k }
      (∀ ns, s.power.stage = 2 → wakeFilter + 3 ≤ ns → exec (.wakeNLow ns) s = .next
        (forwardDecision [2, s.resumeAt] { wake .wakeN with power.resumeTick := some s.resumeAt })) ∧
      (∀ ns, s.power.stage = 4 → 2000000 ≤ ns → exec (.wakeNLow ns) s = .next (wake .wakeN)) ∧
      (∀ ns, s.power.stage = 4 → ns < 1000000 → exec (.wakeNLow ns) s = .next s) ∧
      (∀ ns, s.power.stage = 2 ∨ s.power.stage = 3 → ns < wakeFilter → exec (.wakeNLow ns) s = .next s) ∧
      (s.power.stage = 4 → s.power.timer ≠ 0 → exec .wakeTimer s = .next (wake .timer)) ∧
      (s.power.stage = 3 → s.power.timer ≠ 0 → exec .wakeTimer s = .next (wake .timer))) ∧
  (∀ s : State,
      (s.flag mStandby = true ∨ s.waking = true → (∀ ns, wakeFilter + 3 ≤ ns → 2000000 ≤ ns → exec (.wakeNLow ns) s = .next s) ∧
        exec .wakeTimer s = .next s) ∧
      (∀ ns, s.flag mStandby = false → s.waking = false → s.power.stage = 1 → s.power.wakeHeld = false → (wakeWidths s).2 ≤ ns →
        exec (.wakeNLow ns) s = .next { s with power.wakeHeld := true, power.wake := .wakeN })) ∧
  (∀ s : State, s.flag mSafe = false →
      (s.power.stage = 1 → allDown s = true → choosePower s = 2 → s.power.wakeHeld = false →
        exec .dozePause s = .next (enterP2 { pauseWarp s with power.chosen := 2, power.wake := .none, power.wakeHeld := false })) ∧
      (s.power.stage = 1 → allDown s = true → choosePower s = 3 → s.power.wakeHeld = false →
        exec .dozePause s = .next (enterP3 { pauseWarp s with power.chosen := 3, power.wake := .none, power.wakeHeld := false })) ∧
      (s.power.stage = 1 → allDown s = true → choosePower s = 4 → s.power.wakeHeld = false →
        exec .dozePause s = .next (enterP4 { pauseWarp s with power.chosen := 4, power.wake := .none, power.wakeHeld := false })) ∧
      (∀ w, s.power.resumeTick = some w → s.power.stage = 2 → s.nextBlock ≤ w + 16 → w + s.media.catchL + 16 ≤ s.idx →
        exec .dozeResume s = .next (dozeResume w s))) ∧
  (∀ (kind : WakeKind) (t : SelfTest) (s : State), s.power.stage = 3 → wakesFrom s kind 3 = true →
      exec (.p3WakeRestore kind true true t) s = .next (restoreP3 kind s) ∧
      (∀ sealed trained : Bool, (sealed && trained) = false → ∃ n, exec (.p3WakeRestore kind sealed trained t) s = .next n ∧
        n.power.resumeFails = wrapAdd 32 s.power.resumeFails 1 ∧ n.boot.boots = s.boot.boots + 1 ∧ n.power.wakeReason = 6 ∧
        n.boot.straps = s.boot.straps))

/-- In P0, with the policy's gating on, an idle block gates its Quay and a needed one is ungated; with it off every Quay runs.
Drydown that has lasted the policy's time decides its block (R351, R359). -/
def Obligations.IdleBlocksGateAndDry : Prop :=
  ∀ s : State,
    (s.power.stage = 0 → s.flag mSafe = false → s.boot.postDone = true → s.power.policy.flags.testBit 0 = false →
      exec .p1GateChange s = .next (trimState { gateQuays false s with power.gated := 0, power.banks := 0 })) ∧
    (s.power.stage = 0 → s.flag mSafe = false → s.boot.postDone = true → s.power.policy.flags.testBit 0 = true →
      ∃ t, exec .p1GateChange s = .next t ∧ t.power.gated = idleBlocks s ∧ t.power.banks = idleBanks s ∧ t.scene = s.scene ∧ t.power.word = s.power.word) ∧
    (∀ i, s.power.dryFrom = some i → s.decides = true → s.power.dryAt = none → drydownCounts s = true →
      i + s.power.policy.dryTime * s.hz ≤ s.idx →
      let b := if s.isPair then s.rTen else s.nextBlock
      exec .drydown s = .next (forwardDecision [1, b] { s with power.dryAt := some b, power.dryRaised := s.idx }))

/-- A retraining step that finds the setting in force failing starts a search of its channel; any other moves the setting by at
most one increment towards the margin's centre and stays where it is at the centre. A search that finds a setting installs it
and ends the degraded state, one that fails at its 64th point asks for a lower rate (R377, R379). That a setting is counted in
increments from the stored setpoint, and that a channel in a search takes no move, are the model's choices (assumption 28). In
SHALLOW a search that passes, with its pattern, has SHALLOW cleared at the next block boundary; one that fails only counts. None
is run while a loop test holds DRAM (R382, R400). -/
def Obligations.DramSearchesFollowTraining : Prop :=
  (∀ (ch : Fin 8) (s : State),
      let m := fun (i : Nat) (v : Bool) => setBit8 s.mem.degraded i v
      (∀ c, s.alive = true → s.boot.postDone = true → s.flag mShallow = false → SMap.look s.mem.searches ch.val = none →
        let v := SMap.get 0 s.mem.settings ch.val
        ∃ t, exec (.retrainStep ch (some c)) s = .next t ∧
          SMap.get 0 t.mem.settings ch.val = (if v < c then v + 1 else if c < v then v - 1 else v) ∧
          (∀ k, k ≠ ch.val → SMap.get 0 t.mem.settings k = SMap.get 0 s.mem.settings k) ∧
          t = { s with mem.settings := t.mem.settings
                       mem.stat.retrainSteps := wrapAdd 64 s.mem.stat.retrainSteps 1, time.spreadDram := s.time.dev.spreadDram }) ∧
      (∀ c, s.alive = true → s.boot.postDone = true → s.flag mShallow = false → (SMap.look s.mem.searches ch.val).isSome = true →
        exec (.retrainStep ch c) s = .next { s with
          mem.stat.retrainSteps := wrapAdd 64 s.mem.stat.retrainSteps 1, time.spreadDram := s.time.dev.spreadDram }) ∧
      (s.alive = true → s.boot.postDone = true → s.flag mShallow = false → SMap.look s.mem.searches ch.val = none →
        exec (.retrainStep ch none) s = .next { s with
          mem.stat.retrainSteps := wrapAdd 64 s.mem.stat.retrainSteps 1, mem.stat.searches := wrapAdd 32 s.mem.stat.searches 1
          mem.searches := SMap.ins s.mem.searches ch.val 0, mem.degraded := m ch.val true, time.spreadDram := s.time.dev.spreadDram }) ∧
      (∀ n, SMap.look s.mem.searches ch.val = some n →
        (∀ v, exec (.dramSearchStep ch (some v)) s = .next { s with
          mem.searches := SMap.del s.mem.searches ch.val, mem.degraded := m ch.val false
          mem.settings := SMap.put 0 s.mem.settings ch.val v }) ∧
        (n < 63 → exec (.dramSearchStep ch none) s = .next { s with mem.searches := SMap.ins s.mem.searches ch.val (n + 1) }) ∧
        (63 ≤ n → exec (.dramSearchStep ch none) s = .next { s with
          mem.stat.searchFails := wrapAdd 32 s.mem.stat.searchFails 1, mem.searches := SMap.del s.mem.searches ch.val
          mem.stepWanted := true }))) ∧
  (∀ (pass pattern : Bool) (s : State), s.flag mShallow = true → s.mem.clearing = false → s.alive = true → (∀ l ∈ s.boot.loops, l.iface ≠ 6) →
      ∃ t, exec (.shallowSearch pass pattern) s = .next t ∧ t.mem.stat.searches = wrapAdd 32 s.mem.stat.searches 1 ∧
        t.mem.stat.searchFails = (if pass then s.mem.stat.searchFails else wrapAdd 32 s.mem.stat.searchFails 1) ∧
        t.mem.clearing = (pass && pattern) ∧ t = { s with mem := t.mem })

/-- A step down asks for the next lower rate, or enters SHALLOW from the lowest; the change of rate returns every channel to the
stored setpoint of the new rate and trains it again; a climb goes back when its search fails (R276, R378, R379, R382). Entering
SHALLOW from the lowest rate: the flag is set (unless SAFE is, or self-test has not passed), the long line's and the Blotter's
work ends, and the entry is counted (R101, R379, R381). That the cranes' transfers in progress end with NO_RESOURCE is the
model's deduction from R381 (assumption 28). -/
def Obligations.DramRateFollowsFailures : Prop :=
  (∀ s : State,
      (s.mem.stepWanted = true → s.alive = true → s.mem.rate < 2 → exec .dramStepDown s = .next { s with
        mem.stepWanted := false, mem.rateWanted := some (s.mem.rate + 1), mem.lastStep := some s.idx }) ∧
      (s.mem.stepWanted = true → s.alive = true → 2 ≤ s.mem.rate → exec .dramStepDown s = .next (enterShallow { s with
        mem.stepWanted := false, mem.searches := [] })) ∧
      (∀ r, s.mem.rateWanted = some r → exec .dramRateChange s = .next { s with
        mem.rate := r, mem.degraded := 0, mem.searches := [], mem.settings := [], mem.rateWanted := none, time.spreadDram := s.time.dev.spreadDram
        mem.stat.retrainSteps := wrapAdd 64 s.mem.stat.retrainSteps 8, mem.stat.stepDowns := wrapAdd 32 s.mem.stat.stepDowns 1 }) ∧
      (s.climbOk = true → s.alive = true →
        exec (.rateClimb true) s = .next { s with
          mem.rate := s.mem.rate - 1, mem.degraded := 0, mem.searches := [], mem.settings := [], mem.rateWanted := none
          time.spreadDram := s.time.dev.spreadDram
          mem.stat.retrainSteps := wrapAdd 64 s.mem.stat.retrainSteps 8, mem.stat.searches := wrapAdd 32 s.mem.stat.searches 1
          mem.stat.climbs := wrapAdd 32 s.mem.stat.climbs 1 } ∧
        ∃ t, exec (.rateClimb false) s = .next t ∧ t.mem.rate = s.mem.rate ∧ t.mem.lastStep = some s.idx ∧
          t.mem.stat.searchFails = wrapAdd 32 s.mem.stat.searchFails 1 ∧
          t = { s with mem := t.mem, time.spreadDram := s.time.dev.spreadDram })) ∧
  (∀ s : State, s.mem.stepWanted = true → s.alive = true → 2 ≤ s.mem.rate → s.flag mShallow = false → s.flag mSafe = false →
      s.power.word ≠ 0 →
      ∃ t, exec .dramStepDown s = .next t ∧ t.flag mShallow = true ∧ t.host.transfers = [] ∧ t.nose.blotter = [] ∧
        t.mem.searches = [] ∧ t.rend.shallowEntries = wrapAdd 32 s.rend.shallowEntries 1 ∧ t.flag mLive = s.flag mLive ∧
        t.flag mDark = s.flag mDark)

/-- Temperatures set the refresh rates; the throttle window's end lifts every throttle; a row group hit more than 16,384 times
in a window is throttled and counted once; an idle channel self-refreshes, and a request ends it (R373 to R375). That an idle
time below 1,000 µs stands for a request to the channel is the model's deduction from R374 (assumption 28). A scrub counts what
it corrects; an uncorrectable word is counted, and its consequence follows from where it lies, as the next statement says (R369,
R376). What an uncorrectable word does, by its place. SRAM: a near-window sample reads as zero; a tap renders with gain 0; a
jitter-buffer sample that no catch has passed yet is absent; a staged granule is lost and counts as an ECC substitution; a word
of an output's chain is cleared; the Nose's frame is skipped; a request entry is answered BAD_PARAM; a receive descriptor's
frame counts in no_buffer. DRAM: the last replay granule needed is lost; a pair's accumulators are cleared; a Blotter word reads
as zero; the command that needed a scene-store word is answered NO_RESOURCE; a log entry, a received frame or a frame waiting to
be sent is dropped (R99, R107, R369, R376, Table 13.6). The places are the operands of the model (assumption 28). -/
def Obligations.RefreshThrottleAndScrub : Prop :=
  (∀ s : State,
      (∀ t0 t1, s.alive = true → exec (.dramTempRead t0 t1) s = .next { s with
        mem.temp0 := t0, mem.temp1 := t1
        mem.refresh0 := if t0 > 95 then 2 else if t0 > 85 then 1 else 0
        mem.refresh1 := if t1 > 95 then 2 else if t1 > 85 then 1 else 0 }) ∧
      exec .hammerWindowReset s = .next { s with mem.throttled := [] } ∧
      (∀ (p : Fin 14) (ch : Fin 8) group count, s.alive = true →
        (16384 < count → s.mem.throttled.contains (p.val, ch.val, group) = false →
          exec (.hammerThrottle p ch group count) s = .next { s with
            mem.stat.hammer := wrapAdd 32 s.mem.stat.hammer 1, mem.throttled := s.mem.throttled ++ [(p.val, ch.val, group)] }) ∧
        (count ≤ 16384 → exec (.hammerThrottle p ch group count) s = .next s)) ∧
      (∀ (ch : Fin 8) idle, s.alive = true → s.power.stage < 3 →
        (idle < 1000 → exec (.channelSelfRefresh ch idle) s = .next { s with mem.selfRefresh := setBit8 s.mem.selfRefresh ch.val false }) ∧
        (1000 ≤ idle → s.mem.selfRefresh.getLsbD ch.val = false → exec (.channelSelfRefresh ch idle) s = .next { s with
          mem.stat.srEntries := wrapAdd 32 s.mem.stat.srEntries 1, mem.selfRefresh := setBit8 s.mem.selfRefresh ch.val true }))) ∧
  (∀ s : State, s.alive = true →
      (∀ n, exec (.sramScrub n none) s = .next { s with mem.stat.sramCe := wrapAdd 32 s.mem.stat.sramCe n }) ∧
      (∀ n site, exec (.sramScrub n (some site)) s = .next (sramHit site { s with
        mem.stat.sramCe := wrapAdd 32 s.mem.stat.sramCe n, mem.stat.sramUe := wrapAdd 32 s.mem.stat.sramUe 1 })) ∧
      (∀ n l f, exec (.dramScrub n l f none) s = .next { s with
        mem.stat.dramCe := wrapAdd 32 s.mem.stat.dramCe n, mem.stat.linkCe := wrapAdd 32 s.mem.stat.linkCe l
        mem.stat.forwarded := wrapAdd 64 s.mem.stat.forwarded f }) ∧
      (∀ n l f site, exec (.dramScrub n l f (some site)) s = .next (dramHit site { s with
        mem.stat.dramCe := wrapAdd 32 s.mem.stat.dramCe n, mem.stat.linkCe := wrapAdd 32 s.mem.stat.linkCe l
        mem.stat.forwarded := wrapAdd 64 s.mem.stat.forwarded f, mem.stat.dramUe := wrapAdd 32 s.mem.stat.dramUe 1 }))) ∧
  (∀ s : State,
      (∀ slot stamp, ∃ line, sramHit (.nearWindow slot stamp) s = { s with rend.near := SMap.put [] s.rend.near slot line } ∧
        ∀ e, e ∈ line ↔ e ∈ SMap.get [] s.rend.near slot ∧ nearAddr slot e.1 ≠ nearAddr slot stamp) ∧
      (∀ slot o k, tapOf s.rend.taps slot o = some k →
        sramHit (.tapTable slot o) s = { s with rend.taps := putTap s.rend.taps slot o { k with gainA := 0, gainB := 0 } }) ∧
      (∀ c n, (SMap.look (SMap.get [] s.net.jitter c) n).isSome = true →
        (∀ e ∈ s.net.rx, e.2.state = 0 ∨ c < e.2.cfg.first ∨ e.2.cfg.first + e.2.cfg.channels ≤ c ∨
          (∀ d, e.2.decided = some d → d ≤ n)) →
        sramHit (.jitter c n) s = { s with net.jitter := SMap.put [] s.net.jitter c (SMap.del (SMap.get [] s.net.jitter c) n) }) ∧
      (∀ q g, ((s.quay q).staged.any fun f => f.granule == g) = true →
        sramHit (.staging q g) s = updQuay q (fun u => { u with
          staged := u.staged.filter fun f => f.granule != g, lost := u.lost ++ [(g, s.media.windowed.getD 0)]
          eccSub := wrapAdd 32 u.eccSub 1 }) s) ∧
      (∀ o, sramHit (.chainState o 1) s = updOutChain o (fun c => { c with limG := 0 }) s) ∧
      (s.nose.dev.state = 1 → ∃ t, sramHit .nose s = t ∧ t.nose.dev.skipped = wrapAdd 32 s.nose.dev.skipped 1 ∧
        t = { s with nose.dev := t.nose.dev }) ∧
      (∀ m op seq, sramHit (.requestEntry m op seq) s =
        respond { opcode := op, master := m, status := .badParam, seq := seq, accepted := s.idx }
          (updMaster m (fun x => { x with reqHead := (x.reqHead + 1) % 128, unanswered := x.unanswered + 1 }) s)) ∧
      (∀ p r, sramHit (.rxDescriptor p r) s =
        updPortStat p (fun t => { t with noBuffer := setAt t.noBuffer r (wrapAdd 32 · 1) }) s) ∧
      (∀ c r next, SMap.look s.rend.replay c = some r → next = (match s.media.computed with | some b => b + 16 | none => 0) →
        dramHit (.replay c) s = { s with rend.replay := SMap.ins s.rend.replay c { r with
          held := r.held.filter fun g => (r.needs next).getLast? != some g } }) ∧
      (∀ i, dramHit (.crossSpectra i) s = updAcc i (fun a => { a with
        a := [], b := [], gammaA := [], gammaB := [], frames := 0, diffs := [], level0 := none, window := windowOf s (s.pair i)
        clear := false }) s) ∧
      (∀ i v, dramHit (.blotter i v) s =
        { s with nose.blotter := SMap.put [] s.nose.blotter i (SMap.del (SMap.get [] s.nose.blotter i) v) }) ∧
      (∀ m op seq, dramHit (.sceneStore m op seq) s =
        respond { opcode := op, master := m, status := .noResource, seq := seq, accepted := s.idx }
          (updMaster m (fun x => { x with reqHead := (x.reqHead + 1) % 128, unanswered := x.unanswered + 1 }) s)) ∧
      (∀ n e, e ∈ (dramHit (.general n) s).host.log ↔ e ∈ s.host.log ∧ e.lseq ≠ n) ∧
      (∀ p n k, (s.port p).queued[n]? = some k → k.berth.isSome = false →
        dramHit (.txFrame p n) s = updPort p (fun q => frameLeft k { q with queued := q.queued.eraseIdx n }) s))

/-- A frame that arrives at a port brings the port's FEC counts where FEC is on: a damaged one is counted and dropped; a MAC
control frame is counted in rx_pause and dropped, and counts as a frame received, which is the model's deduction (assumption
34); one for another address, one of a multicast group neither in the filter nor passed by the media pass, and a broadcast on a
port that takes none are counted in rx_da_drop. One that a berth matches, by its own address or a group's, goes to the berth. Of
the rest one whose group only the media pass admits is counted and dropped; any other goes to its receive ring: PTP to ring 3,
Efvex datagrams for the port to ring 2, whole UDP and TCP packets for the port to ring 1, all others to ring 0, where an IGMP
query is answered (R217, R219, R220, R222, R223, R241). -/
def Obligations.FramesAreSorted : Prop :=
  ∀ (port : Fin 3) (f : Frame) (s : State), portDeaf s port.val = false →
    let q := s.port port.val
    let fec := if q.cfg.fec = 0 then s else updPortStat port.val (fun t => { t with
      fecCorr := wrapAdd 32 t.fecCorr f.fecCorr, fecUncorr := wrapAdd 32 t.fecUncorr f.fecUncorr }) s
    let n := updPortStat port.val (fun t => { t with rxFrames := wrapAdd 64 t.rxFrames 1, rxBytes := wrapAdd 64 t.rxBytes f.len }) fec
    let good := f.fcsOk = true ∧ 64 ≤ f.len ∧ f.len ≤ frameLimit q.cfg f.tci.isSome ∧ f.etype ≠ 0x8808
    let broadcast := f.da = 0xFFFFFFFFFFFF
    let listed := q.filter.has port.val f.da = true
    let passed := port.val < 2 ∧ q.filter.flags.testBit 0 = true ∧ inMediaPass f.da = true
    let admitted := isGroup f.da = false ∧ listed ∨ isGroup f.da = true ∧ broadcast ∧ q.cfg.bcast = true ∨
      isGroup f.da = true ∧ ¬ broadcast ∧ (passed ∨ listed)
    let whole := fun (ip : Ipv4) => f.ip = some ip ∧ ip.udp = true ∧ ip.frag = false
    let berths := fun (ip : Ipv4) => whole ip ∧ port.val < 2 ∧ (matchBerth n port.val f ip).isSome = true
    let watched := fun (ip : Ipv4) => whole ip ∧ watchedFlow n port.val ip = true
    let groupOnly := isGroup f.da = true ∧ ¬ broadcast ∧ ¬ listed
    (f.fcsOk = false ∨ f.len < 64 ∨ frameLimit q.cfg f.tci.isSome < f.len →
      exec (.frameReceive port f) s = .next (updPortStat port.val (fun t => { t with rxBad := wrapAdd 32 t.rxBad 1 }) fec)) ∧
    (f.fcsOk = true → 64 ≤ f.len → f.len ≤ frameLimit q.cfg f.tci.isSome → f.etype = 0x8808 →
      exec (.frameReceive port f) s = .next (updPortStat port.val (fun t => { t with rxPause := wrapAdd 32 t.rxPause 1 }) n)) ∧
    (good → ¬ admitted →
      exec (.frameReceive port f) s = .next (updPortStat port.val (fun t => { t with rxDaDrop := wrapAdd 32 t.rxDaDrop 1 }) n)) ∧
    (∀ ip b x, good → admitted → whole ip → port.val < 2 → matchBerth n port.val f ip = some b → SMap.look n.net.rx b = some x →
      (x.cfg.format < 2 → exec (.frameReceive port f) s = .next (receiveRtp port.val b f ip n)) ∧
      (2 ≤ x.cfg.format → exec (.frameReceive port f) s = .next (receivePgx port.val b f ip n))) ∧
    (good → admitted → (∀ ip, ¬ berths ip) → (∀ ip, ¬ watched ip) → groupOnly → port.val < 2 →
      exec (.frameReceive port f) s = .next (updPortStat port.val (fun t => { t with rxMcast := wrapAdd 32 t.rxMcast 1 }) n)) ∧
    (∀ ring, good → admitted → (∀ ip, ¬ berths ip) → (∀ ip, ¬ watched ip) → ¬ groupOnly → ringOf n port.val f = ring →
      ring ≠ 0 ∨ f.ip = none →
      exec (.frameReceive port f) s = .next
        (ringFrame port.val ring f (if ring = 3 ∧ port.val < 2 then some (n.rxStamp port.val f.time).toNat else none) n)) ∧
    (∀ ip, good → admitted → (∀ ip, ¬ berths ip) → (∀ ip, ¬ watched ip) → ¬ groupOnly → ringOf n port.val f = 0 → f.ip = some ip →
      let kept := ringFrame port.val 0 f none n
      exec (.frameReceive port f) s =
        .next (if ringNeed f ≤ ringRoom n port.val 0 then answerQuery port.val ip kept else kept)) ∧
    (f.etype = 0x88F7 → ringOf n port.val f = 3) ∧
    (∀ ip, f.etype ≠ 0x88F7 → whole ip →
      (ip.dport = 319 ∨ ip.dport = 320 → ringOf n port.val f = 3) ∧
      (q.cfg.ipv4 ≠ 0 → ip.dst = q.cfg.ipv4 → ip.dport = 4470 ∨ ip.dport = 4471 → ringOf n port.val f = 2) ∧
      (q.cfg.ipv4 ≠ 0 → ip.dst = q.cfg.ipv4 → ip.dport ≠ 319 → ip.dport ≠ 320 → ip.dport ≠ 4470 → ip.dport ≠ 4471 →
        ringOf n port.val f = 1) ∧
      (ip.dst ≠ q.cfg.ipv4 → ip.dport ≠ 319 → ip.dport ≠ 320 → ringOf n port.val f = 0)) ∧
    (f.etype ≠ 0x88F7 → f.ip = none → ringOf n port.val f = 0)

/-- A send offered to a transmit ring that has room for its descriptors, every send before it having been taken up, joins the
ring. On an enabled ring the MAC takes it up at once: its frames are queued, the first of them asking for a stamp if the chain
does; a malformed chain is counted, and done and error are written back on every descriptor. On a disabled ring it stays owned
by the MAC (R243 to R247). A frame leaves its queue when it is sent, and is counted with its bytes, whether or not its stamp is
asked for. Which frame it is follows from the credits as they stand after the rest that came before it (R240, R256). -/
def Obligations.FramesAreQueuedAndSent : Prop :=
  (∀ (port : Fin 3) (ring : Fin 6) (chain : List TxDesc) (s : State),
      let q := s.port port.val
      let r := q.tx.getD ring.val {}
      ring.val < q.tx.length → chain ≠ [] → ringBusy r + chain.length ≤ 256 → (∀ x ∈ q.tx, ∀ t ∈ x.ring, t.taken = true) →
      (∀ t ∈ r.ring, t.id ≠ r.sends) →
      let sent : TxSend := { id := r.sends, descs := chain.map fun d => { d with owned := true, done := false, error := false } }
      let join := fun (t : TxSend) (q : Port) => { q with tx := setAt q.tx ring.val fun r => { r with
        sends := r.sends + 1, ring := makeRoom chain.length r.ring ++ [t] } }
      (r.enabled = false → exec (.txDescriptorSend port ring chain) s = .next (updPort port.val (join sent) s)) ∧
      (∀ fs, r.enabled = true → chainFrames q.cfg sent.descs = some fs →
        exec (.txDescriptorSend port ring chain) s = .next (updPort port.val (fun q =>
          let p := join { sent with taken := true, left := fs.length } q
          { p with queued := p.queued ++ sendFrames q.cfg ring.val r.sends sent.descs fs }) s)) ∧
      (r.enabled = true → chainFrames q.cfg sent.descs = none →
        exec (.txDescriptorSend port ring chain) s = .next (updPort port.val (fun q =>
          let p := join { sent with taken := true, descs := sent.descs.map fun d =>
            { d with owned := false, done := true, error := true } } q
          { p with stat := { p.stat with lsoErr := wrapAdd 32 p.stat.lsoErr 1 } }) s))) ∧
  (∀ (port : Fin 3) (gap time : Nat) (s : State) (k : TxPkt),
      let q := s.port port.val
      portDeaf s port.val = false → nextFrame (restCredit s gap q) = some k →
      ∃ t, exec (.txFrameDone port gap time) s = .next t ∧ (t.port port.val).queued = q.queued.erase k ∧
        (t.port port.val).stat.txFrames = wrapAdd 64 q.stat.txFrames 1 ∧
        (t.port port.val).stat.txBytes = wrapAdd 64 q.stat.txBytes (k.wire - 20) ∧
        (∀ p, p ≠ port.val → t.port p = s.port p))

/-- The ends of drains: a disabled port's answers its PORT_CFG; a receive berth's frees its channels, leaves its groups and
answers; a transmit berth's closes it and answers (R235, R242, R247). A link that comes up reports its speed and its FEC, but a
media port's stays down in SAFE; one that goes down is counted, and the time unit learns it; a mooring lane's lock may start a
warp, and its loss may bring the mooring down (R216, R260, R278, R296, R396). -/
def Obligations.DrainsLinksAndLanes : Prop :=
  (∀ s : State,
      (∀ port : Fin 3, (s.port port.val).draining = true → exec (.ringDisableDrainEnd port) s = .next
        (settleOwed .portCfg port.val .ok [] (updPort port.val (fun q => { q with draining := false }) s))) ∧
      (∀ (b : Fin 256) x, SMap.look s.net.rx b.val = some x → x.state = 2 → x.closeAt + s.media.catchL + 48 ≤ s.idx →
        exec (.berthDrainEnd b) s = .next (leaveGroups (rxMembers x.cfg) (settleOwed .berthClose b.val .ok []
          (updRx b.val (fun x => { x with state := 0 }) (freeSlots x.cfg.first x.cfg.channels s))))) ∧
      (∀ (b : Fin 128) x e, SMap.look s.net.tx b.val = some x → x.state = 2 → txQueuedNow s b.val = false → s.media.emitted = some e →
        x.closeAt + (if x.cfg.top then 16 else 0) ≤ e →
        exec (.txBerthDrainEnd b) s = .next (settleOwed .berthClose (512 + b.val) .ok []
          (updTx b.val (fun x => { x with state := 0, part := [] }) s)))) ∧
  (∀ s : State,
      (∀ port : Fin 3, portDeaf s port.val = false → s.flag mSafe = false ∨ port.val = 2 →
        exec (.linkUp port) s = .next (updPort port.val (fun q => { q with stat := { q.stat with
          link := 3 + (if q.cfg.fec = 0 then 0 else 4), speedNow := q.cfg.speed } }) s)) ∧
      (∀ port : Fin 3, (s.port port.val).stat.link % 2 = 1 → exec (.linkDown port) s = .next (portLost port.val 3 true
        (updPort port.val (fun q => { q with stat := { q.stat with link := 0, linkDowns := wrapAdd 32 q.stat.linkDowns 1 } }) s))) ∧
      (∀ lane : Fin 2, s.isPair = true → s.alive = true → looped s (2 + lane.val) 0 = false →
        let n := { s with twin.lanes := s.twin.lanes ||| BitVec.ofNat 2 (2 ^ lane.val) }
        exec (.mooringLaneLock lane) s = .next (autoWarp { n with twin.moorUp := s.heartFresh })) ∧
      (∀ lane : Fin 2,
        let n := { s with twin.lanes := s.twin.lanes &&& ~~~(BitVec.ofNat 2 (2 ^ lane.val)) }
        exec (.mooringLaneLockLoss lane) s = .next (if n.twin.lanes = 0 then moorDown n else n)))

/-- An update that arrives is taken from the front of those received: in reach and well formed, it joins the waiting commands at
its tick; an object's that SHALLOW keeps out of reach is counted superseded; one that is not well formed is discarded; objects'
past 2,048 in a tick wait for the next; a unit that stands by, or is in SAFE, discards it (R33, R55, R56, R58, R381). An update,
of an object or of the air, takes effect at the tick its apply period names; one that is late, at the next tick after its
arrival; but never before a tick already solved, in which case at the tick after it (R33, R55, R56). That an update carried from
an earlier tick counts as arrived at the start of the present one is the model's choice (assumption 24). -/
def Obligations.BusUpdatesJoinTheCommands : Prop :=
  (∀ (u : BusUpdate) (rest : List BusUpdate) (s : State), s.scene.updates = u :: rest →
      (s.alive = true → s.flag mSafe = false → s.flag mStandby = false → u.air = true → updateOk u = true →
        exec .sceneBusUpdate s = .next (queueUpdate u { s with
          scene.updates := rest, scene.busTick := s.idx / 64
          scene.busCount := if s.scene.busTick = s.idx / 64 then s.scene.busCount else 0 })) ∧
      (s.alive = true → s.flag mSafe = false → s.flag mStandby = false → u.air = false → s.scene.busTick ≠ s.idx / 64 →
        updateOk u = true →
        let n := { s with scene.updates := rest, scene.busTick := s.idx / 64, scene.busCount := 1 }
        (outOfReach u n = false → exec .sceneBusUpdate s = .next (queueUpdate u n)) ∧
        (outOfReach u n = true → exec .sceneBusUpdate s = .next (countSuperseded u.node 1 n))) ∧
      (s.alive = true → s.flag mSafe = false → s.flag mStandby = false → u.air = true → updateOk u = false →
        exec .sceneBusUpdate s = .next { s with scene.updates := rest, scene.busTick := s.idx / 64
                                                scene.busCount := if s.scene.busTick = s.idx / 64 then s.scene.busCount else 0 }) ∧
      (s.alive = true → s.flag mSafe = false → s.flag mStandby = false → u.air = false → s.scene.busTick = s.idx / 64 →
        2048 ≤ s.scene.busCount → exec .sceneBusUpdate s = .next s) ∧
      (s.alive = true → s.flag mStandby = true ∨ s.flag mSafe = true →
        exec .sceneBusUpdate s = .next { s with scene.updates := rest })) ∧
  (∀ (u : BusUpdate) (rest : List BusUpdate) (s : State), s.scene.updates = u :: rest → s.alive = true → s.flag mSafe = false →
      s.flag mStandby = false → s.flag mActive = false → updateOk u = true →
      u.air = true ∨ outOfReach u s = false ∧ (s.scene.busTick ≠ s.idx / 64 ∨ s.scene.busCount < 2048) →
      let arrived := max u.arrived (floorTo 64 s.idx)
      ∃ t c, exec .sceneBusUpdate s = .next t ∧ t.host.cmds = s.host.cmds ++ [c] ∧ c.origin = .bus u.node ∧
        c.op = (if u.air then .airSet else .objSet) ∧ c.apply = u.apply ∧ c.payload = u.body ∧ c.answered = true ∧
        (s.media.snapped = none → c.effect % 64 = 0) ∧
        (s.media.snapped = none → arrived ≤ u.apply → u.apply ≤ c.effect ∧ c.effect < u.apply + 64) ∧
        (s.media.snapped = none → u.apply < arrived → arrived < c.effect ∧ c.effect ≤ arrived + 64) ∧
        (∀ k, s.media.snapped = some k → k + 64 ≤ c.effect ∧
          (arrived ≤ u.apply → k + 64 ≤ u.apply → u.apply ≤ c.effect ∧ c.effect < u.apply + 64) ∧
          (u.apply ≤ k → arrived / 64 ≤ k / 64 → k % 64 = 0 → c.effect = k + 64)))

/-- An announcement of a peer in the same domain records what it differs in; a peer unheard for 48 ticks is silent; this unit
announces itself while its own role flag says so, and a publisher sends one object's groups again, each with the apply period it
carries (R52, R57). -/
def Obligations.PeersAnnounceAndFallSilent : Prop :=
  ∀ s : State,
    (∀ a rest i, s.scene.announced = a :: rest → s.peerOf a.node = some i → a.domain = (s.peer 0).sceneDomain →
      exec .sceneBusAnnouncement s = .next (updPeerSt i (fun t => { t with
        state := if mismatchOf a s = 0 then 1 else 2, mismatch := mismatchOf a s, lastHeard := a.arrived })
        { s with scene.announced := rest })) ∧
    ((s.peer 0).roles.testBit 0 = true → s.host.ready = true → s.flag mSafe = false →
      exec .sceneBusAnnounceSend s = .next (sendService 1 1 (announceRecord s) s)) ∧
    (∀ i : Fin 4096, (s.peerSt i.val).state = 1 ∨ (s.peerSt i.val).state = 2 → (s.peerSt i.val).lastHeard + 48 * 64 ≤ s.idx →
      exec (.peerSilent i) s = .next (updPeerSt i.val (fun t => { t with state := 3 }) s)) ∧
    (∀ id, s.publishes = true → s.scene.published[s.scene.cursor % s.scene.published.length]? = some id →
      exec .sceneBusResend s = .next ((resendParts (s.obj id)).foldl
        (fun n v => sendUpdate ⟨false, true, v.1, (s.peer 0).rank, (s.peer 0).sceneDomain, 0, (s.obj id).cfg.update v.2 id⟩ n)
        { s with scene.cursor := s.scene.cursor + 1 }))

/-- A Sync on a port whose master counts gives the servo its raw offset, with the path delay found last; a delay response gives
the path delay, from the device's own departure stamp where it has one; either reads the port's timestamp queue first (R255 to
R258). On a port that is master the device sends its Sync, asking for its stamp, and its Announce; elsewhere a delay request, or
a peer delay request on a peer-to-peer port; requests of others are answered with the stamp of their arrival, and the tag of a
peer's response is kept for its follow-up (R251, R254, R256, R268). -/
def Obligations.PtpExchanges : Prop :=
  (∀ (port : Fin 3) (s : State),
      let p := port.val
      let n := readTsq p s
      n.ptpOn p = true → n.time.ref = 0 →
      (∀ t1 t2 (corr : Int) (interval : Nat), (n.clock p).master ≠ none → (n.clock p).passive = false → n.isGm = false →
        exec (.ptpSync port t1 t2 corr interval) s =
          .next (exchange p (n.rxStamp p t2 - t1 - corr : Int) (n.clock p).delay ((interval : Int) / 1000000000) n)) ∧
      (∀ (t1 t2 t3 t4 : Nat) (corr : Int) (own : Nat), n.p2p p = false → (n.clock p).t3 = some own →
        exec (.ptpDelayResp port t1 t2 t3 t4 corr) s = .next (updClock p (fun c => { c with
          delay := some (((n.rxStamp p t2 - t1 + ((t4 : Int) - own) - corr : Int) : Rat) / 2), t3 := none }) n)) ∧
      (∀ (t1 t2 t3 t4 : Nat) (corr : Int) (own : Nat), n.p2p p = true → (n.clock p).t3 = some own →
        exec (.ptpDelayResp port t1 t2 t3 t4 corr) s = .next (updClock p (fun c => { c with
          delay := some (((n.rxStamp p t4 - own - ((t3 : Int) - t2) - corr : Int) : Rat) / 2), t3 := none }) n))) ∧
  (∀ (port : Fin 3) (s : State),
      let p := port.val
      let n := readTsq p s
      let event := fun (kind time : Nat) (v : State) =>
        updClock p (fun c => { c with seq := c.seq + 1 }) (queuePtp p kind (v.ptpTag p) (send (.ptp p kind time 0) v))
      let general := fun (kind : Nat) (m : OutMsg) (v : State) => queueOwn p 0 (ptpLength v.time.dev.profile kind) 0 (send m v)
      let tag := n.ptpTag p
      (portDeaf n p = false → n.ptpOn p = true → n.masterOn p = true →
        exec (.ptpSendInterval port 0) s = .next (updClock p (fun c => { c with syncTag := some tag }) (event 0 n.ptpNs n)) ∧
        exec (.ptpSendInterval port 1) s = .next (general 1 (n.announceMsg p) n)) ∧
      (portDeaf n p = false → n.ptpOn p = true → n.p2p p = true →
        exec (.ptpSendInterval port 2) s = .next (updClock p (fun c => { c with reqTag := some tag }) (event 5 n.ptpNs n))) ∧
      (portDeaf n p = false → n.ptpOn p = true → n.p2p p = false → n.masterOn p = false → (n.clock p).master ≠ none → n.time.ref = 0 →
        exec (.ptpSendInterval port 2) s = .next (updClock p (fun c => { c with reqTag := some tag }) (event 2 n.ptpNs n))) ∧
      (∀ t2, s.ptpOn p = true →
        (s.p2p p = true → exec (.ptpDelayRequest port true t2) s =
          .next (updClock p (fun c => { c with respTags := c.respTags ++ [s.ptpTag p] }) (event 6 (s.rxStamp p t2).toNat s))) ∧
        (s.masterOn p = true → s.p2p p = false → exec (.ptpDelayRequest port false t2) s =
          .next (general 3 (.ptp p 3 (s.rxStamp p t2).toNat 0) s))))

/-- An Announce becomes the port's master if it is of the present master or of a better one; a port whose master changed
qualifies afresh; the grandmaster of the reference port's master, or where that has none the best master's, becomes the
device's, and a change from another grandmaster holds the servo. Silence of a master, or of its Syncs, makes the port qualify
afresh, and holds the servo that follows it (R260, R263). -/
def Obligations.MastersComeAndGo : Prop :=
  ∀ (port : Fin 3) (s : State),
    let p := port.val
    (∀ m, s.ptpOn p = true → ∃ t, exec (.ptpAnnounce port m) s = .next t ∧ (t.clock p).master = some (keptMaster (s.clock p).master m) ∧
      (∀ q, q ≠ p → t.clock q = s.clock q) ∧ t.scene = s.scene ∧ t.net = s.net ∧
      ((s.clock p).master.map Master9.gmId ≠ some (keptMaster (s.clock p).master m).gmId →
        (t.clock p).qualified = false ∧ (t.clock p).delay = none) ∧
      let n := updClock p (fun c => { c with master := some (keptMaster (s.clock p).master m) }) s
      ∀ g, s.time.ref = 0 → n.chosenGm = some g → t.time.servo.gmId = g.gmId ∧ t.time.servo.clockClass = g.clockClass ∧
        (s.time.servo.ref ≠ none → s.time.servo.gmId ≠ 0 → s.time.servo.gmId ≠ g.gmId → t.time.servo.state = 4)) ∧
    (∃ t, exec (.announceTimeout port) s = .next t ∧ (t.clock p).master = none ∧ (t.clock p).qualified = false ∧
      (s.time.ref = 0 → s.time.servo.ref = some p → t.time.servo.state = 4) ∧
      (¬ (s.time.ref = 0 ∧ s.time.servo.ref = some p) → t.time.servo = { s.time.servo with conflict := t.time.servo.conflict })) ∧
    (∃ t, exec (.syncTimeout port) s = .next t ∧ (t.clock p).master = (s.clock p).master ∧ (t.clock p).qualified = false ∧
      (s.time.ref = 0 → s.time.servo.ref = some p → t.time.servo.state = 4))

/-- A step asked for by the servo adds its cycles to C, starts rendering afresh, is counted, and ends a warp; the other triggers
of chapter 9: the end of a reroute's hold-off tells its outcome, and a calibration keeps the last 256 latencies (R250, R255,
R264). -/
def Obligations.PhaseStepsMoveC : Prop :=
  ∀ s : State,
    (∀ n : Int, s.time.servo.pending = some n → s.time.ref = 2 ∨ s.time.servo.setTime = none → ∃ t, exec .phaseStep s = .next t ∧ t.media.c = (s.media.c + n).toNat ∧
      t.time.servo.pending = none ∧ t.time.servo.steps = wrapAdd 32 s.time.servo.steps 1 ∧ t.twin.warp = none ∧
      t.rend.near = [] ∧ t.rend.long = [] ∧ t.media.computed = none ∧ t.scene = s.scene) ∧
    (∀ ns, exec (.irqLatencyCalibration ns) s = .next { s with time.latencies := (ns :: s.time.latencies).take 256 }) ∧
    (∀ h, s.time.servo.holdoff = some h → h ≤ s.idx →
      (s.refPorts.any fun e => e.1 != s.time.servo.rrPort && absR (s.clock e.1).offset ≤ s.time.dev.rerouteThr) = false →
      ∃ t, exec .rerouteHoldoffEnd s = .next t ∧ t.time.servo.holdoff = none ∧ t.time.servo.rrOutcome = 2 ∧
        t.time.servo.rrWait = true ∧ (t.clock s.time.servo.rrPort).barred = false ∧
        (t.clock s.time.servo.rrPort).qualified = false ∧ t.media = s.media)

/-- PLLs lock and coast: a lock ends the coasting of its PLL; a loss begins it, and raises the time event; the loss of REFCLK25
makes every PLL it feeds coast and sets COAST; its return ends the coasting, and leaves the mode word as it is: COAST is cleared
when the servo leaves HOLD (R275, R343). With an external reference, its loss enters HOLD with COAST set, and its return leaves
HOLD with COAST clear (R260, R266, R275, R343). -/
def Obligations.ReferencesHoldAndReturn : Prop :=
  (∀ (p : Fin 8) (s : State),
      exec (.pllLock p) s = .next { s with
        time.pllLock := setBit8 s.time.pllLock p.val true, time.coasting := setBit8 s.time.coasting p.val false } ∧
      exec (.pllLoss p false) s = .next (timeEvent 4 [p.val] { s with time.coasting := setBit8 s.time.coasting p.val true }) ∧
      (∃ t, exec (.pllLoss p true) s = .next t ∧ t.time.servo.refclkLost = true ∧
        t.time.coasting = setBit8 s.time.coasting p.val true ||| refclkPlls s ∧
        (s.flag mSafe = false → s.power.word ≠ 0 → t.flag mCoast = true)) ∧
      (s.time.servo.refclkLost = false → exec (.pllReferenceReturn p) s = .next { s with time.coasting := setBit8 s.time.coasting p.val false }) ∧
      (s.time.servo.refclkLost = true → (refclkPlls s).getLsbD p.val = true →
        exec (.pllReferenceReturn p) s = .next { s with
          time.coasting := setBit8 s.time.coasting p.val false &&& ~~~(refclkPlls s), time.servo.refclkLost := false })) ∧
  (∀ s : State, s.time.ref ∈ [1, 2, 3] → s.flag mSafe = false → s.power.word ≠ 0 →
      (s.time.servo.state ≠ 4 → ∃ t, exec .referenceLost s = .next t ∧ t.time.servo.state = 4 ∧ t.time.servo.extOk = false ∧
        t.time.servo.y = s.time.servo.ybar ∧ t.flag mCoast = true) ∧
      (∃ t, exec .referenceQualified s = .next t ∧ t.time.servo.state = 2 ∧ t.time.servo.extOk = true ∧
        (s.time.servo.state = 4 → t.flag mCoast = false)))

/-- A capture keeps the edges it is set to, of at least its filter's fabric cycles of 1.2 ns, with their number and their stamp
less the delay of synchroniser and filter, up to 15; then one entry counts what is lost. A trigger fires at its edge: it counts,
pulses for its width, and goes on to its next (R269 to R271). -/
def Obligations.CapturesAndTriggers : Prop :=
  ∀ (i : Fin 4) (s : State),
    (∀ rising width time, filterCycles (s.capt i.val).filter * 10 ≤ width * 12 → (s.capt i.val).edges.testBit (if rising then 0 else 1) = true →
      (i.val = 0 → s.time.ref ≠ 2) →
      ((s.capt i.val).queue.length ≤ 14 → exec (.captureEdge i rising width time) s = .next (updCapt i.val (fun c => { c with
        queue := c.queue ++ [{ stamp := time - captureDelay c.filter, rising := rising, seq := c.seq }], seq := wrapAdd 16 c.seq 1 }) s)) ∧
      ((s.capt i.val).queue.length = 15 → exec (.captureEdge i rising width time) s = .next (updCapt i.val (fun c => { c with
        queue := c.queue ++ [{ stamp := 0, gap := true, count := 1, seq := c.seq }], seq := wrapAdd 16 c.seq 1 }) s))) ∧
    (∀ rising width time, width * 12 < filterCycles (s.capt i.val).filter * 10 ∨ (s.capt i.val).edges.testBit (if rising then 0 else 1) = false →
      exec (.captureEdge i rising width time) s = .next s) ∧
    (∀ k, s.flag mSafe = false → (s.trig i.val).newNext = none → (s.trig i.val).next = some k →
      let r := (s.trig i.val).running
      edgeAt s r k ≤ s.media.c →
      exec (.triggerEdge i) s = .next (updTrig i.val (fun t => { t with
        next := edgeAfter t.running k, fired := wrapAdd 32 t.fired 1
        pulse := some (match t.pulse with | some x => max x (edgeAt s r k + t.running.width) | none => edgeAt s r k + t.running.width) }) s))

/-- A block boundary moves C to the next multiple of 8,192, of whatever block it stood in (R10, R15); in P3 that is all it does,
and a device that is not up has no boundary. Then the changes due at the boundary are made, settled commands are answered, the
block's changes are made, and the rings are served. While rendering runs, each of the rhythm's steps is done once for its block
or tick: the snapshot of the tick 48 periods ahead of the output, the catch and the compute slot of a block, and the emit slot
16 periods behind them (R14, R17, R18, R22, R59). At the catch, every sample of a range that a berth requires and that is absent
is concealed by R230, from the samples before it, and stays as it was if it is there; the range is then decided. At the snapshot
the tick's table of taps is the solver's answer for the commands settled by then. In a device that is no unit of a pair, the
packets of the block join the queues of their ports in order and every other frame stays where it was, and each analogue output
carries the block's words of the binding it has, or 0 while it is closed or in a loop test (R22, R59, R229, R230, R238, R404).
-/
def Obligations.RhythmRunsEachStepOnce : Prop :=
  (∀ s : State,
      (s.boot.up = false → exec .blockBoundary s = .next s) ∧
      (s.boot.up = true → 3 ≤ s.power.stage → exec .blockBoundary s = .next { s with media.c := (s.media.c / 8192 + 1) * 8192 }) ∧
      (s.boot.up = true → s.power.stage < 3 →
        let n := { s with media.c := (s.media.c / 8192 + 1) * 8192 }
        let i := resumeRender (instantChanges (restoreAccords n))
        let u := settleDue { i with media.bounded := some i.idx }
        exec .blockBoundary s = .next (boundaryWork (
          if u.media.catchL + 16 ≤ u.idx then blockChanges (floorTo 16 (u.idx - u.media.catchL - 16)) u else u)))) ∧
  (∀ (inputs : List LocalIn) (s : State), s.media.running = true →
      (s.media.catchL ≤ s.idx + 48 →
        let k := floorTo 64 (s.idx + 48 - s.media.catchL)
        (doneAt s.media.snapped k = false → ∃ t, exec .sceneSnapshot s = .next t ∧ t.media.snapped = some k) ∧
        (doneAt s.media.snapped k = true → exec .sceneSnapshot s = .next s)) ∧
      (s.media.catchL + 16 ≤ s.idx →
        let b := floorTo 16 (s.idx - s.media.catchL - 16)
        (s.alive = true → doneAt s.media.caught b = false → ∃ t, exec (.catchDeadline inputs) s = .next t ∧ t.media.caught = some b) ∧
        (doneAt s.media.caught b = true → exec (.catchDeadline inputs) s = .next s) ∧
        (doneAt s.media.computed b = false → exec .computeSlot s = .next (computeSlot b s)) ∧
        (doneAt s.media.computed b = true → exec .computeSlot s = .next s)) ∧
      (s.media.catchL + 32 ≤ s.idx →
        let b := floorTo 16 (s.idx - s.media.catchL - 32)
        (doneAt s.media.emitted b = false → ∃ t, exec .emitSlot s = .next t ∧ t.media.emitted = some b) ∧
        (doneAt s.media.emitted b = true → exec .emitSlot s = .next s))) ∧
  (∀ s : State,
      (∀ f lo hi x c n, SMap.look s.net.rx f = some x → x.cfg.first ≤ c → c < x.cfg.first + x.cfg.channels → lo ≤ n → n < hi →
        let t := concealRange f lo hi s
        let m := SMap.get [] s.net.jitter c
        let m' := SMap.get [] t.net.jitter c
        (∀ v, SMap.look m n = some v → SMap.look m' n = some v) ∧
        (SMap.look m n = none → SMap.look m' n = some { value := concealValue m' n, concealed := true })) ∧
      (∀ f b x, SMap.look s.net.rx f = some x → x.cfg.channels ≠ 0 → (s.bridge f).mode ≠ 2 → x.openAt ≤ b → x.state = 1 →
        let t := catchBerth b f s
        (∃ y, SMap.look t.net.rx f = some y ∧ y.decided = some (requiredRange s b f x).2) ∧ t.rend = s.rend ∧ t.scene = s.scene) ∧
      (∀ k, s.media.running = true → s.media.catchL ≤ s.idx + 48 → k = floorTo 64 (s.idx + 48 - s.media.catchL) →
        doneAt s.media.snapped k = false → s.flag mStandby = false →
        let u := settleDue (applyDue (tickDue k) (followShallow k (takeDecisions (fun e => e.2.ofTick && e.1 ≤ k)
          { swapTables (k - 64) (carrySlice k s) with rend.leaving := [] })))
        ∃ t, exec .sceneSnapshot s = .next t ∧ t.rend.nextTick = some k ∧ t.rend.nextTaps = (solve k u).table ∧
          t.rend.taps = u.rend.taps ∧ t.net = u.net) ∧
      (∀ b, s.media.running = true → s.media.catchL + 32 ≤ s.idx → b = floorTo 16 (s.idx - s.media.catchL - 32) →
        doneAt s.media.emitted b = false → s.isPair = false → s.twin.warp = none →
        let f := formPackets b s
        let go := (feedLoops f.1 f.2).1
        ∃ t, exec .emitSlot s = .next t ∧
          (∀ p, (t.port p).queued = (s.port p).queued ++
            ((go.filter fun e => e.1 == p).map fun e => { e.2 with since := s.media.c })) ∧
          (∀ n < 8,
            let now := match emitWords s b (2 * 65536 + n) with
              | none => []
              | some (w, top) => w.zipIdx.map fun e => mulC e.1 (driveWeight s.twin.driving true (e.2 / (if top then 2 else 1)))
            (t.anaOut n).words = ((dacWords s.hz (s.anaOut n).heart now (s.anaOut n).short).map Prod.fst).zipIdx.map fun e =>
              if (s.anaOut n).open_ s && !looped s 9 n then (s.anaOut n).ramp.word e.2 e.1 else 0) ∧
          t.rend.taps = s.rend.taps ∧ t.rend.outs = s.rend.outs ∧ t.nose = s.nose))

/-- Fetching: each Quay that runs gets the tick's list once; at the window's opening the granules of the block are asked for;
one that comes without error is staged, and room is filled with those that wait; a drained Quay is gated and empty (R92, R93,
R95, R105). -/
def Obligations.GranulesAreFetched : Prop :=
  ∀ s : State,
    (∀ k, s.media.running = true → s.media.catchL ≤ s.idx + 16 → k = floorTo 64 (s.idx + 16 - s.media.catchL) → s.media.handed ≠ some k →
      ∃ t, exec .fetchListHandover s = .next t ∧ t.media.handed = some k ∧
        (∀ q < 4, (t.quay q).listTick = (if (s.quay q).gated || (s.quay q).draining then (s.quay q).listTick else some k))) ∧
    (∀ b, s.media.running = true → s.media.catchL ≤ s.idx + 16 → b = floorTo 16 (s.idx + 16 - s.media.catchL) → s.media.windowed ≠ some b →
      s.noFetch b = false →
      let n := fetchReplay b { s with media.windowed := some b }
      ∃ t, exec .fetchWindowOpen s = .next t ∧ t.media.windowed = some b ∧ (∀ q < 4, t.quay q = requestBlock n b q)) ∧
    (∀ (q : Fin 4) tag g, ((s.quay q.val).flight.find? fun f => f.1 == tag) = some (tag, g) → (s.quay q.val).draining = false →
      (s.quay q.val).gated = false → s.noFetch (s.media.windowed.getD 0) = false → g.reads ≠ [] →
      exec (.granuleFetchDone q tag false) s = .next (updQuay q.val (fun _ => issueFetches 512 { s.quay q.val with
        flight := (s.quay q.val).flight.filter fun e => e.1 != tag, staged := (s.quay q.val).staged ++ [g]
        stagedPeak := max (s.quay q.val).stagedPeak ((s.quay q.val).staged ++ [g]).length }) s)) ∧
    (∀ q : Fin 4, (s.quay q.val).draining = true → exec (.quayGateDone q) s = .next (updQuay q.val (fun u => { u with
      gated := true, draining := false, flight := [], waiting := [], staged := [], lost := [], windows := [], listTick := none }) s))

/-- Fades end at their block: an accord's ends the fade and starts the swap that waits, unless commands of the block are still
to act, whose loads come first; a hopped tap forgets the path it left (R80, R148, R149). The router's changes: a crosspoint that
waits for a zero crossing takes its new gain once its source has crossed since it began to wait, and not before, or after 5 ms,
and not before, begins a fade of 1 ms, which is counted; a destination takes its new binding with its ramp at 0; a ramp takes
its new length only at 0 or at its end (R153, R159, R162). -/
def Obligations.FadesAndRoutesChange : Prop :=
  (∀ s : State,
      (∀ o : Fin 512,
        let due := s.host.cmds.any fun c => !c.applied && c.timing == .block && c.effect ≤ s.toCompute
        (due = false → exec (.accordFadeEnd o) s = .next (accordStart s.toCompute o.val (accordEnd s.toCompute o.val s))) ∧
        (due = true → exec (.accordFadeEnd o) s = .next (accordEnd s.toCompute o.val s))) ∧
      (∀ (slot o : Fin 512) t k c, tapOf s.rend.taps slot.val o.val = some t → t.hop = true → t.carries = false →
        s.rend.tapTick = some k → s.media.computed = some c → k + 48 ≤ c →
        exec (.hopFadeEnd slot o) s = .next { s with
          rend.taps := putTap s.rend.taps slot.val o.val { t with hop := false, yOld := 0 } })) ∧
  (∀ s : State,
      (∀ (src dst : BitVec 16) (x : Xpoint) g0 g1 n m, s.rend.xpoints = [x] → x.source = src.toNat → x.dest = dst.toNat →
        x.move = .watch g0 g1 n m false →
        let seen := crossed s (s.toCompute - 16) src.toNat && decide (n ≤ s.toCompute - 16)
        (seen = true → exec (.zeroCrossCut src dst) s = .next { s with rend.xpoints := [{ x with gain := g1, move := .steady }] }) ∧
        (seen = false → exec (.zeroCrossCut src dst) s = .next s) ∧
        (n + s.hz / 200 ≤ s.toCompute → exec (.zeroCrossFallback src dst) s = .next { s with
          rend.xpoints := [{ x with move := .fade g0 g1 (s.hz / 1000) (n + s.hz / 200) false }]
          rend.fallbacks := wrapAdd 32 s.rend.fallbacks 1 }) ∧
        (s.toCompute < n + s.hz / 200 → exec (.zeroCrossFallback src dst) s = .next s)) ∧
      (∀ dst : BitVec 16, exec (.routeBindingChange dst) s = .next (updDest dst.toNat (bindDest s.toCompute) s)) ∧
      (∀ target : BitVec 16, target.toNat < 0x400 →
        let d := SMap.get {} s.rend.dests target.toNat
        ∃ t, exec (.muteRampLengthChange target) s = .next t ∧ t = { s with rend.dests := t.rend.dests } ∧
          let e := SMap.get {} t.rend.dests target.toNat
          (d.ramp.newR = none → e = d) ∧
          (∀ r, d.ramp.newR = some r →
            (d.ramp.ph = 0 → e.ramp.r = r ∧ e.ramp.ph = 0 ∧ e.ramp.newR = none) ∧
            (d.ramp.ph = d.ramp.r → d.ramp.ph ≠ 0 → e.ramp.r = r ∧ e.ramp.ph = r ∧ e.ramp.newR = none) ∧
            (d.ramp.ph ≠ 0 → d.ramp.ph ≠ d.ramp.r → e = d))))

/-- The Nose: when its drain ends it takes the state that is wanted and NOSE_CFG is answered; a frame is run when there is
traffic to spare and the Nose is not throttled, and skipped, and counted, when not, the credit of the interval kept; pairs are
refreshed once per 8,192 periods; proposals are formed at their interval, for every output that exists whose zone's correction
is on (R174, R185, R186, R200, R375, R380). What a refresh and a proposal form. A refresh off the pair's hop, or with only one
of A and B accumulated, leaves the estimate (the latter is the model's choice, assumption 32); any other forms one from A + B
with the mean of their shapings, valid, of the window that ran, converged where the arrivals deviate by at most conv_sd and the
coherence reaches coh_min, and opens the next window. A proposal for an output with no converged pair of enough coherence is
INSUFFICIENT; any other moves each band by at most eq_rate times the interval, and leaves a band outside the corrected ones
where it is (R185 to R188, R200). -/
def Obligations.NoseRunsInFrames : Prop :=
  (∀ s : State,
      (s.nose.dev.state = 2 → exec .noseDrainEnd s = .next
        (settleOwed .noseCfg 0 .ok [] { s with nose.dev := { s.nose.dev with state := s.noseWant } })) ∧
      (∀ t, t = floorTo 4096 s.heardTo → s.nose.dev.state = 1 → 8192 ≤ t → s.nose.dev.frameIdx < t / 4096 →
        ((frameCredit s).1 = true → (s.mem.throttled.any fun e => e.1 == 6) = false →
          ∃ n, exec .noseFrame s = .next n ∧ n.nose.dev.frames = s.nose.dev.frames + 1 ∧ n.nose.dev.frameIdx = t / 4096 ∧
            n.nose.dev.skipped = s.nose.dev.skipped ∧ n.nose.dev.credit = (frameCredit s).2 ∧ n = { s with nose := n.nose }) ∧
        ((frameCredit s).1 = false ∨ (s.mem.throttled.any fun e => e.1 == 6) = true →
          exec .noseFrame s = .next { s with nose.dev := { s.nose.dev with
            frameIdx := s.heardTo / 4096, credit := (creditNow s).getD 0, skipped := wrapAdd 32 s.nose.dev.skipped 1 } })) ∧
      (∀ t, t = floorTo 8192 s.heardTo → s.nose.dev.state = 1 → t ≠ 0 → s.nose.dev.lastRefresh < t →
        let n := s.nose.pairs.foldl (fun n e =>
          if e.2.live then { n with nose.accs := SMap.put {} n.nose.accs e.1 (refreshPair n t e.2 (n.acc e.1)) } else n)
          { s with nose.dev := { s.nose.dev with lastRefresh := t } }
        exec .noseRefresh s = .next (trackTrims t (trackAir t (eachHealth (healthEval n) n)))) ∧
      (s.nose.dev.state = 1 → s.decides = true → s.nose.dev.lastProposal + s.nose.dev.propInterval * s.hz ≤ s.idx →
        exec .proposalInterval s = .next (((List.range 512).filter (outExists s.media.heart)).foldl
          (fun n o => if (n.curve (n.spk o).zone).on then proposeEq s.idx n o (n.curve (n.spk o).zone) else n)
          { s with nose.dev := { s.nose.dev with lastProposal := s.idx } }))) ∧
  (∀ (s : State) (t : Nat) (r : PairRec) (a : PairAcc),
      (t % (8192 * s.decOf (s.obs r.obs)) ≠ 0 → refreshPair s t r a = a) ∧
      (a.a = [] ∨ a.b = [] → (refreshPair s t r a).est = a.est) ∧
      (t % (8192 * s.decOf (s.obs r.obs)) = 0 → a.a ≠ [] → a.b ≠ [] →
        let n := refreshPair s t r a
        n.est.flags.testBit 0 = true ∧ n.est.refresh = t ∧ n.est.window = a.window ∧ n.est.frames = a.frames ∧
        n.window = windowOf s r ∧ n.diffs.length ≤ 8 ∧ n.est.arrivalSd = sdOf s.hz n.diffs ∧
        n.est.converged = (decide (n.est.arrivalSd ≤ s.nose.policy.convSd) && decide (n.est.coh ≥ s.nose.policy.cohMin)) ∧
        n.a = a.a ∧ n.b = a.b) ∧
      (∀ o k, (∀ e ∈ s.nose.pairs, e.2.live = true → e.2.output = o → (s.acc e.1).est.converged = true →
          (s.acc e.1).est.coh < s.nose.policy.cohMin) →
        proposeEq t s o k = propose 2 o { state := 4, computed := t } 0 [] s) ∧
      (∀ o k, ∃ p step, proposeEq t s o k = propose 2 o p 0 step s ∧ p.computed = t ∧ p.state ∈ [1, 3, 4] ∧
        (p.state ≠ 4 → ∀ b < 60,
          let cur := SMap.get 0 (SMap.get [] s.nose.curEq o) b
          let lim := (s.nose.policy.eqRate * s.nose.dev.propInterval + 59) / 60 + 1
          ((SMap.get 0 step b - cur).natAbs ≤ lim) ∧ (b < k.loLimit ∨ k.hiLimit < b → SMap.get 0 step b = cur))))

/-- Health, row by row of Table 7.12. Any evidence that has lasted hold makes an OK loudspeaker SUSPECT; open or short that has
lasted hold makes an OK or SUSPECT one FAILED; impedance high or low that has lasted 6 times hold, or impedance evidence
together with arrival missing that has lasted hold, makes a SUSPECT one FAILED; one FAILED or EXCLUDED stays as it is. The
change is the Nose's own and waits for its tick, unless one waits already. A condition's time runs from when it formed, and ends
when it does. Learning ends after 60 s with the means as references (R205 to R209). A sweep excites once its output's block has
come and the others are down; it ends when its last sample has been heard, is logged as ended and not aborted, and its output
comes back (R210 to R214). -/
def Obligations.HealthAndSweeps : Prop :=
  (∀ (o : Fin 512) (s : State),
      let h := s.health o.val
      let k := s.spk o.val
      let waits := s.host.cmds.any fun c => !c.applied && c.origin == .nose && c.units == [⟨.spkSet, o.val, 6⟩]
      let held := fun (condition times : Nat) => ∃ t, SMap.look h.since condition = some t ∧ t + times * h.hold * s.hz ≤ s.idx
      let becomes := fun (v : Nat) => exec (.healthEvidenceHold o) s =
        .next (issue .nose .spkSet .tick (({ k with health := v } : SpkRec).bytes 64 o.val) [⟨.spkSet, o.val, 6⟩] 0 s)
      (waits = false → s.nose.dev.state = 1 → s.decides = true →
        (k.health = 0 → held 0 1 → ¬ held 1 1 → becomes 1) ∧
        (k.health ≤ 1 → held 1 1 → becomes 2) ∧
        (k.health = 1 → held 2 6 → becomes 2) ∧
        (k.health = 1 → held 3 1 → becomes 2)) ∧
      (2 ≤ k.health → exec (.healthEvidenceHold o) s = .next s) ∧
      (waits = true ∨ s.nose.dev.state ≠ 1 ∨ s.decides = false → exec (.healthEvidenceHold o) s = .next s) ∧
      (let n := healthEval s o.val h
        let formed := fun (i : Nat) => n.evidence.testBit i && !n.stale.testBit i
        let impedance := formed 0 || formed 1
        ∀ e ∈ [(0, impedance || formed 2 || formed 3), (1, formed 2), (2, impedance), (3, (impedance || formed 2) && formed 3)],
          SMap.look n.since e.1 = if e.2 then some ((SMap.look h.since e.1).getD s.idx) else none) ∧
      (∀ t, h.learnFrom = some t → t + 60 * s.hz ≤ s.idx → exec (.zRefLearnEnd o) s = .next (updHealth o.val (fun h => { h with
        learnFrom := none, learn := [], evidence := h.evidence ||| 0x10
        zRef := h.learn.map fun e => (e.1, (clampI 0 65535 (roundAway (100 * e.2.1 / e.2.2))).toNat) }) s)) ∧
      (∀ t, h.learnFrom = some t → s.idx < t + 60 * s.hz → exec (.zRefLearnEnd o) s = .next s)) ∧
  (∀ (r : SweepRun) (s : State), s.nose.sweep = some r →
      (r.exciting = false → r.void = false → r.excite ≤ s.toCompute + 48 + 15 → othersDown s r.cfg.output = true →
        exec .sweepExcitationStart s = .next { s with nose.sweep := some { r with exciting := true } }) ∧
      (r.aborting = none → r.void = false → sweepHeard s r ≤ s.heardTo → s.power.deferred = [] →
        let v := s.toCompute + 48
        let on := s.nose.sweepBack.filter fun e => v < e.2.1 + e.2.2
        ∃ n, let t := logEvent 12 2 r.master [r.cfg.output, 0] n
          exec .sweepEnd s = .next t ∧ t.nose.sweep = none ∧
          t.nose.sweepBack = (if r.cfg.kind = 2 then on else (r.cfg.output, v, r.cfg.fade) :: on.filter fun e => e.1 != r.cfg.output) ∧
          t.rend = s.rend ∧ t.power = s.power))

/-- Analogue inputs: the gain wanted is in force at its switch; the end of phantom's ramp is noted; a phantom fault is latched
with its local cause, and its supply falls over the same ramp (R405, R406, R418). Analogue outputs: a change of span ends in the
new span, and the one that waits begins its ramp; the current limit ramps the output to 0 V, and is held with its local cause
until the retry, from which it ramps back, or begins the change of span that waits; a supply fault puts every output's words at
0 at once and removes phantom and loop current until the supply is restored; a span ramp runs down, waits and runs up again, and
the limit's runs down, as Table 15.4 and R409 have it (R408, R409, R424). -/
def Obligations.AnalogueInputsAndOutputs : Prop :=
  (∀ (i : Fin 8) (s : State),
      exec (.inputGainSwitch i) s = .next (updAnaIn i.val (fun a => { a with gain := a.want.getD a.gain, want := none }) s) ∧
      exec (.phantomRampDone i) s = .next (updAnaIn i.val (fun a => { a with ramping := false }) s) ∧
      ((s.anaIn i.val).phantom = true → (s.anaIn i.val).fault = false → exec (.phantomFault i) s = .next
        (logEvent 18 0 srcDevice [0, i.val, bit (s.anaIn i.val).overload + 2]
          (updAnaIn i.val (fun a => { a with fault := true, ramping := true }) s)))) ∧
  (∀ (o : Fin 8) (s : State),
      (∀ v, (s.anaOut o.val).change = some v → (s.anaOut o.val).waiting = none →
        exec (.spanChangeDone o) s = .next (updAnaOut o.val (fun a => { a with
          spanNow := v, change := none, waiting := none, ramp := .steady }) s)) ∧
      (∀ v x, (s.anaOut o.val).change = some v → (s.anaOut o.val).waiting = some x → x ≠ v →
        exec (.spanChangeDone o) s = .next (updAnaOut o.val (fun a => { a with
          spanNow := v, change := some x, waiting := none, ramp := .span 0 }) s)) ∧
      ((s.anaOut o.val).limit = false → (s.anaOut o.val).supply = false → (s.anaOut o.val).written = true →
        exec (.outputCurrentLimit o) s = .next (logEvent 18 0 srcDevice [1, o.val, 2]
          (updAnaOut o.val (fun a => { a with
            limit := true, change := none, waiting := none
            ramp := .limit (if (s.anaOut o.val).change.isSome then 384 else 0) }) s))) ∧
      ((s.anaOut o.val).limit = true → (s.anaOut o.val).waiting = none →
        exec (.outputLimitRetry o) s = .next (updAnaOut o.val (fun a => { a with limit := false, ramp := .back 0 }) s)) ∧
      (∀ v, (s.anaOut o.val).limit = true → (s.anaOut o.val).waiting = some v → v ≠ (s.anaOut o.val).spanNow →
        exec (.outputLimitRetry o) s = .next (updAnaOut o.val (fun a => { a with
          limit := false, waiting := none, change := some v, ramp := .span 1920 }) s)) ∧
      ((s.anaOut o.val).limit = false → exec (.outputLimitRetry o) s = .next (updAnaOut o.val (fun a => a) s)) ∧
      (∀ w : Int, (DieRamp.span 0).word 0 w = w ∧ (DieRamp.span 1920).word 0 w = 0 ∧ (DieRamp.span 2687).word 0 w = 0 ∧
        (DieRamp.span 4608).word 0 w = w ∧ (DieRamp.limit 384).word 0 w = 0 ∧ (DieRamp.back 0).word 0 w = 0) ∧
      (s.io.supplyFault = false → ∃ t, exec .analogueSupplyFault s = .next t ∧ t.io.supplyFault = true ∧
        (t.anaOut o.val).supply = true ∧ (t.anaOut o.val).limit = false ∧ (∀ w ∈ (t.anaOut o.val).words, w = 0) ∧ (t.anaIn o.val).phantom = false ∧
        (∀ l, (t.loop l).out = 0) ∧ t.scene = s.scene ∧ t.rend = s.rend) ∧
      (∃ t, exec .analogueSupplyRestored s = .next t ∧ t.io.supplyFault = false ∧ (t.anaOut o.val).supply = false ∧
        t = { s with io := t.io }))

/-- Current loops: the output moves to its target by its step; in SAFE it falls by the step that brings it to 0 mA within 250
ms; an open loop seen for 50 ms, or a short, latches it at 0 mA, is counted, and raises the local cause; a check that finds
nothing keeps what it measured (R410, R411). TDM and the pins: a follower counts a sync that strays, with its local cause at
most once per second, and starves when syncs stay away; an alarm pin's level is latched, and one that changes its plan's state
offers the plan's commands on a unit that acts; an I2C transfer that is done is answered with what was read, and one whose bus
is held with status 3 and bytes the manual leaves open, with its local cause (R414, R416, R417). -/
def Obligations.LoopsTdmAndPins : Prop :=
  (∀ (l : Fin 4) (s : State), s.power.stage ≠ 4 → s.io.supplyFault = false →
      let r := s.loop l.val
      (r.latched = false → s.flag mSafe = false → ∃ t, exec (.loopSlew l) s = .next t ∧ t = { s with io.loops := t.io.loops } ∧
        (t.loop l.val).out = (if r.out < r.target then min r.target (r.out + r.step) else max r.target (r.out - r.step)) ∧
        (∀ k, k ≠ l.val → t.loop k = s.loop k)) ∧
      (r.latched = false → s.flag mSafe = true → ∃ t, exec (.loopSlew l) s = .next t ∧ t = { s with io.loops := t.io.loops } ∧
        (t.loop l.val).out = (if r.out < r.target then min r.target (r.out + r.fall) else max r.target (r.out - r.fall))) ∧
      (r.step ≤ safeStep r ∧ (0 < r.interval → r.interval ≤ 250 → r.out ≤ 250 / r.interval * safeStep r)) ∧
      (r.latched = true → ∃ t, exec (.loopSlew l) s = .next t ∧ (t.loop l.val).out = 0) ∧
      (∀ m : LoopSense, 2000 ≤ r.target → r.latched = false → m.headroom < 200 → m.current * 10 < r.target * 9 → 250 ≤ m.volts →
        r.openMs = 49 →
        ∃ t, exec (.loopCheck l m) s = .next t ∧ (t.loop l.val).latched = true ∧ (t.loop l.val).openF = true ∧ (t.loop l.val).out = 0 ∧
          (t.loop l.val).count = wrapAdd 32 r.count 1 ∧ t.host.irqCause.getLsbD 18 = true) ∧
      (∀ m : LoopSense, 2000 ≤ r.target → r.latched = false → 200 ≤ m.headroom → m.volts < 250 → 2000 ≤ m.current → r.shortMs = 49 →
        r.openMs < 50 →
        ∃ t, exec (.loopCheck l m) s = .next t ∧ (t.loop l.val).latched = true ∧ (t.loop l.val).shortF = true ∧ (t.loop l.val).out = 0 ∧
          (t.loop l.val).count = wrapAdd 32 r.count 1 ∧ t.host.irqCause.getLsbD 18 = true) ∧
      (∀ m : LoopSense, r.target < 2000 → 1500 < m.headroom →
        ∃ t, exec (.loopCheck l m) s = .next t ∧ (t.loop l.val).nowUa = m.current ∧ (t.loop l.val).volts = m.volts ∧
          (t.loop l.val).latched = r.latched ∧ (t.loop l.val).count = r.count ∧ t = { s with io.loops := t.io.loops })) ∧
  (∀ s : State,
      (∀ (p : Fin 4) i, (s.tdm p.val).role = 2 → (s.tdm p.val).lastFault = some i → s.idx < i + s.hz →
        exec (.tdmSyncError p) s = .next (updTdm p.val (fun t => { t with syncErr := wrapAdd 32 t.syncErr 1, starved := false }) s)) ∧
      (∀ p : Fin 4, (s.tdm p.val).role = 2 → (s.tdm p.val).lastFault = none →
        exec (.tdmSyncError p) s = .next (logEvent 18 0 srcDevice [3, p.val, Config.freeNat s.media.fresh % 2 ^ 32]
          { updTdm p.val (fun t => { t with syncErr := wrapAdd 32 t.syncErr 1, starved := false, lastFault := some s.idx }) s with
            media.fresh := s.media.fresh + 1 })) ∧
      (∀ p : Fin 4, (s.tdm p.val).role = 2 → exec (.tdmSyncLoss p) s = .next (updTdm p.val (fun t => { t with starved := true }) s)) ∧
      (∀ (pin : Fin 16) level, (s.pin pin.val).function ≠ 3 →
        exec (.alarmInput pin level) s = .next (updPin pin.val (fun r => { r with pinLevel := level }) s)) ∧
      (∀ (pin : Fin 16) level, (s.pin pin.val).function = 3 →
        let slot := (s.pin pin.val).alarm % 4
        let m := updPin pin.val (fun r => { r with pinLevel := level }) s
        let n := updPin pin.val (fun r => { r with asserted := level != (s.pin pin.val).alarm.testBit 2 }) m
        (planOn n slot = planOn m slot ∨ s.alarms = false → exec (.alarmInput pin level) s = .next n) ∧
        (planOn n slot ≠ planOn m slot → s.alive = true → s.host.ready = true → s.alarms = true →
          exec (.alarmInput pin level) s =
            .next (offerAlarm slot (if planOn n slot then (s.plan slot).assertP else (s.plan slot).releaseP) n))) ∧
      (∀ (st : Fin 3) data o, s.io.i2c = some o → exec (.i2cTransferDone st data) s =
        .next (answerOwed o .ok (le 1 st.val ++ slice data 0 (getU o.payload 11 1)) { s with io.i2c := none })) ∧
      (∀ o, s.io.i2c = some o → ∃ data : Bytes, data.length = getU o.payload 11 1 ∧
        exec .i2cBusHeld s = .next (logEvent 18 0 srcDevice [5, 0, 3] (answerOwed o .ok (le 1 3 ++ data) { s with
          io.i2c := none, media.fresh := s.media.fresh + getU o.payload 11 1 }))))

/-- Heartbeats: the mooring's carries the unit's role, flags, epoch, release, mode word, confirmed stamp and lease in the 48
bytes of Table 10.3, on lane 0 while both lanes have lock; the network's goes by the twin-control berths; an active unit that
hears another with a later epoch yields: it stands by, adrift, and counts it (R279, R280, R282, R308). Claiming: a unit that
stands by and may claim does so at its boundary: TWIN-ACTIVE for TWIN-STANDBY, an epoch one above the later of its own and the
last seen, and 8 ms of quick heartbeats (R305). A release by the active unit makes a claim due at the next block boundary, with
a witness only while its lease is held (R304); the silence of the mooring, the network and the watched flows, each once its hold
has passed, is considered; a hand-over record arms the hand-over of a unit that is not active (R303, R306, R307, R310). -/
def Obligations.PairRolesSettle : Prop :=
  (∀ s : State, s.isPair = true → s.alive = true → s.boot.postDone = true →
      (s.twinBerths = true → exec (.twinHeartbeatSend true) s = .next (sendTwin 0 false [] (heartbeatBytes s.heartbeat) s)) ∧
      (s.twin.lanes = 3 → exec (.twinHeartbeatSend false) s = .next { s with
        host.outbox := s.host.outbox ++ [.twin 0 [] (heartbeatBytes {
          unit := s.unitCode, active := s.flag mActive, adrift := s.flag mAdrift, lease := s.twin.lease, warp := s.twin.warp.isSome
          safe := s.flag mSafe, epoch := s.twin.epoch, fw := fwRelease, mode := s.power.word.toNat, confirm := s.emitConfirm
          leaseEnd := if s.twin.lease then s.twin.leaseEnd else 0 })
          (some ⟨0, (s.peer 0).nodeId, s.media.heart, false, s.idx, SMap.get 0 s.net.serviceSeq 2⟩)]
        net.serviceSeq := SMap.put 0 s.net.serviceSeq 2 (wrapAdd 32 (SMap.get 0 s.net.serviceSeq 2) 1) }) ∧
      (∀ hb : Heartbeat, s.twin.lanes ≠ 0 → hb.unit ≠ s.unitCode → s.flag mActive = true → s.flag mSafe = false → hb.active = true →
        s.twin.epoch < hb.epoch →
        ∃ t, exec (.twinHeartbeat false hb) s = .next t ∧ t.flag mActive = false ∧ t.flag mStandby = true ∧ t.flag mAdrift = true ∧
          t.twin.seenEpoch = hb.epoch ∧ t.twin.stat.yields = wrapAdd 32 s.twin.stat.yields 1) ∧
      (∀ hb : Heartbeat, s.twin.lanes ≠ 0 → hb.unit ≠ s.unitCode → s.flag mActive = true → hb.active = false →
        ∃ t, exec (.twinHeartbeat false hb) s = .next t ∧ t.power = s.power ∧ t.twin.partnerMode = hb.mode ∧
          t.twin.lastBeat = some s.idx ∧ t.twin.moorHeard = s.twin.moorHeard ∧ t.twin.moorUp = true)) ∧
  (∀ s : State,
      (∀ n, s.twin.claimAt = some n → n ≤ s.idx → s.flag mStandby = true → s.mayClaim = true →
        ∃ t, exec .twinClaim s = .next t ∧ t.flag mActive = true ∧ t.flag mStandby = false ∧ t.flag mAdrift = false ∧
          t.twin.epoch = (max s.twin.epoch s.twin.seenEpoch + 1) % 2 ^ 32 ∧ t.twin.burstUntil = s.idx + s.msPeriods 8 ∧
          t.twin.claimAt = none ∧ t.twin.stat.claims = wrapAdd 32 s.twin.stat.claims 1) ∧
      (∀ b, s.flag mStandby = true → s.flag mAdrift = false ∨ s.twin.cfg.flags.testBit 1 = true →
        (s.hasWitness = false ∨ s.twin.lease = true → exec (.twinRelease b) s = .next { s with
          twin.released := true, twin.claimAt := some (ceilTo 16 s.nextBoundary) }) ∧
        (s.hasWitness = true → s.twin.lease = false → s.allSilent = false → exec (.twinRelease b) s = .next { s with
          twin.released := true, twin.claimAt := none })) ∧
      (∀ stamp, s.flag mActive = false → switchRefused s = false → s.twin.handOver = none →
        exec (.twinHandOver stamp) s = .next { s with twin.handOver := some (false, stamp) }) ∧
      (s.isPair = true → s.heartFresh = false → s.flag mStandby = true → s.moorHeld = false →
        exec .mooringSilent s = .next (considerClaim (aliveElsewhere (takeOwn (moorDown s))))) ∧
      (s.netHeld = false → exec .networkSilent s = .next (considerClaim { s with twin.netSeen := false })) ∧
      (s.netHeld = true → exec .networkSilent s = .next s) ∧
      (s.flowsHeld = false → exec .flowsSilent s = .next (considerClaim { s with twin.flowSeen := false })) ∧
      (s.flowsHeld = true → exec .flowsSilent s = .next s))

/-- Leases: a witness that serves grants a free lease for its length, and the same holder's again, over the twin-control berths;
the unit keeps the expiry it is given; an active unit asks for renewal; an active unit whose lease expires stands by (R304,
R307). -/
def Obligations.LeasesAreKept : Prop :=
  ∀ s : State,
    (∀ pair (u : Fin 2) epoch, s.twinBerths = true → s.twin.witness.serve = true → s.boot.postDone = true → s.flag mSafe = false →
      s.twin.servedFrom + s.msPeriods (s.twin.witness.leaseMs + 1) ≤ s.idx →
      (match s.twin.leases.find? fun l => l.pair == pair with
        | some l => l.holder = u.val ∨ l.expiry + s.msPeriods 1 ≤ s.idx | none => s.twin.leases.length < 64) →
      let e := s.idx + s.msPeriods s.twin.witness.leaseMs
      exec (.leaseRequest pair u epoch) s = .next (sendTwin 13 false [pair, u.val, epoch, e] [] { s with
        twin.leases := (s.twin.leases.filter fun l => l.pair != pair) ++ [⟨pair, u.val, epoch, e⟩] })) ∧
    (∀ (h : Fin 2) epoch expiry, s.isPair = true → s.twinBerths = true → s.hasWitness = true → h.val = s.unitCode → s.idx < expiry →
      exec (.leaseGrant h epoch expiry) s = .next (considerClaim { s with twin.lease := true, twin.leaseEnd := expiry })) ∧
    (s.hasWitness = true → s.flag mActive = true →
      exec .leaseRenew s = .next (sendTwin 12 false [s.pairId, s.unitCode, s.twin.epoch] [] s)) ∧
    (s.twin.lease = true → s.twin.leaseEnd ≤ s.idx → s.flag mActive = true → s.flag mSafe = false →
      s.flag mLive = true ∨ s.flag mDark = true →
      ∃ t, exec .leaseExpire s = .next t ∧ t.twin.lease = false ∧ t.flag mActive = false ∧ t.flag mStandby = true)

/-- The standby follows: forwarded commands are taken with their sequence, and a decision is held for its apply period; a switch
asked of the standby starts the hand-over on the active; a manifest is obeyed and decides its block, and without one the block
is decided by what the standby has; wants, repairs and mirrors carry the samples between the units (R284 to R293, R310). A
repair's samples fill the places that were absent, for the berth's own channels (R288). -/
def Obligations.StandbyFollows : Prop :=
  (∀ s : State,
      (s.follows = true →
        (∀ q apply d, apply ≠ 0 → beforeWarp s apply = false →
          let n := noteSeq q s
          tooLate n (if d.ofTick then .tick else .block) apply = false →
          exec (.twinCommand (.decision q apply d)) s = .next { n with twin.decisions := n.twin.decisions ++ [(apply, d)] }) ∧
        (∀ (f : Forward) p, f.op ≠ .twinSwitch →
          let n := noteSeq f.fseq s
          (beforeWarp n f.apply = true → exec (.twinCommand (.command f)) s = .next n) ∧
          (beforeWarp n f.apply = false → asksOnly f.op f.payload = false → standbyPayload f n = some p → exec (.twinCommand (.command f)) s = .next (queueForward f p n))) ∧
        (∀ m : Manifest, s.twin.ownPresence = false → s.media.running = true → (∀ d, s.twin.decided = some d → d < m.block) →
          ∃ t, exec (.twinManifest m) s = .next t ∧ t.twin.manifest = some m ∧ t.twin.decided = some m.block ∧
            t.twin.wanted = [] ∧ t.twin.manNose = m.nose ∧ t.twin.manSilent = m.silent) ∧
        (∀ b, s.media.running = true → s.twin.ownPresence = false → s.media.catchL + 8 ≤ s.idx →
          b = floorTo 16 (s.idx - s.media.catchL - 8) →
          let wants := (caughtBerths b s).flatMap fun e =>
            (runsOf (absentOf s e.2.1 e.2.2.1 e.2.2.2)).map fun r => (⟨e.1, r.1, r.2⟩ : Sys2Proof.Want)
          wants ≠ [] → exec .wantPoint s = .next (sendTwin 3 true (b :: wants.flatMap fun w => [w.berth, w.first, w.count]) []
            { s with twin.wanted := wants })) ∧
        (∀ (rep : Repair) x, SMap.look s.net.rx rep.berth = some x → x.decided.getD 0 ≤ rep.first →
          ∃ t, exec (.twinRepair rep) s = .next t ∧ t = { s with net.jitter := t.net.jitter }) ∧
        (∀ (m : Mirror) v, (s.localChannels.any fun e => e.1 == m.channel) = true → m.samples = [v] →
          SMap.look (SMap.get [] s.net.jitter m.channel) m.first = none →
          let line := SMap.ins (SMap.get [] s.net.jitter m.channel) m.first { value := v }
          exec (.twinMirror m) s = .next { s with
            net.jitter := SMap.put [] s.net.jitter m.channel line
            twin.mirrors := SMap.ins s.twin.mirrors m.channel (m.first + 1, 1, true) })) ∧
      (∀ f : Forward, f.op = .twinSwitch → s.moored = true → s.flag mActive = true → switchRefused s = false → s.twin.handOver = none →
        let h := ceilTo 16 (max f.apply s.rTen) + 48
        exec (.twinCommand (.command f)) s = .next (sendTwin 11 true [h] [] { s with twin.handOver := some (true, h) })) ∧
      (∀ b, s.media.caught = some b → s.awaits b = true → s.media.running = true → s.media.computed ≠ some b →
        exec .manifestTimeout s = .next (ownBlock b { s with twin.stat.manifestMiss := wrapAdd 32 s.twin.stat.manifestMiss 1 })) ∧
      (∀ block wants, s.moored = true → s.flag mActive = true → s.media.caught ≠ some block →
        exec (.twinWant block wants) s = .next (sendRepairs wants s))) ∧
  (∀ (rep : Repair) (x : RxBerth) (row : List Int) (j : Nat) (v : Int) (s : State), s.follows = true →
      SMap.look s.net.rx rep.berth = some x → x.decided.getD 0 ≤ rep.first → rep.samples = [row] → row[j]? = some v → j < x.cfg.channels →
      SMap.look (SMap.get [] s.net.jitter (x.cfg.first + j)) rep.first = none →
      ∃ t, exec (.twinRepair rep) s = .next t ∧
        SMap.look (SMap.get [] t.net.jitter (x.cfg.first + j)) rep.first = some { value := v } ∧
        (∀ c n, (c < x.cfg.first ∨ x.cfg.first + row.length ≤ c ∨ n ≠ rep.first) →
          SMap.look (SMap.get [] t.net.jitter c) n = SMap.look (SMap.get [] s.net.jitter c) n))

/-- Digests and checks are compared when both sides have theirs: equal digests are counted, a second different one in a row sets
ADRIFT; a check that differs at a tick already solved sets ADRIFT; what waits for its other side is kept until then (R294,
R295). Warp: a segment that need not wait is loaded, one that must is kept, and either is acknowledged; each control record has
its effect; the list of the control state takes away every record it does not name; the active captures its inputs and the
lengths of their concealments at the tick's block; slices name their outputs; the rejoin clears ADRIFT and is counted; an
abandoned warp is counted, and the record says whether it starts again (R296 to R301). -/
def Obligations.DigestsAndWarp : Prop :=
  (∀ s : State,
      (∀ block crc, s.moored = true → exec (.twinDigest block crc) s = .next (compareDigest block
        { s with twin.partner := SMap.ins (s.twin.partner.filter fun e => e.1 + 1024 ≥ block) block crc })) ∧
      (∀ block crc mine, s.follows = true → s.flag mAdrift = false → s.twin.warp = none → SMap.look s.twin.digests block = some mine →
        ∃ t, exec (.twinDigest block crc) s = .next t ∧
          (mine = crc → t.twin.stat.digestsOk = wrapAdd 32 s.twin.stat.digestsOk 1 ∧ t.twin.missRun = 0 ∧ t.power = s.power) ∧
          (mine ≠ crc → t.twin.stat.mismatches = wrapAdd 32 s.twin.stat.mismatches 1) ∧
          (mine ≠ crc → s.twin.missRun = 0 → t.twin.missRun = 1 ∧ t.power = s.power) ∧
          (mine ≠ crc → s.twin.missRun = 1 → t.flag mAdrift = true ∧ t.flag mStandby = true)) ∧
      (∀ c : Check, s.follows = true → s.media.snapped = none →
        exec (.twinCheck c) s = .next { s with
          twin.checks := SMap.ins s.twin.checks (2 * c.tick + 1) c.counts
          twin.activeChecks := SMap.ins (s.twin.activeChecks.filter fun e => e.1 + 512 ≥ c.tick) c.tick c.counts }) ∧
      (∀ (c : Check) k mine, s.follows = true → s.media.snapped = some k → c.tick ≤ k → SMap.look s.twin.checks (2 * c.tick) = some mine →
        mine ≠ c.counts → ∃ t, exec (.twinCheck c) s = .next t ∧ t.flag mAdrift = true ∧ t.flag mStandby = true)) ∧
  (∀ (w : Warp) (s : State), s.twin.warp = some w →
      (∀ seg bytes, s.follows = true → w.active = false → waits w seg = false → (∀ n o t, seg ≠ .tap n o t) →
        (∀ c, seg ≠ .control c) →
        let v := loadSeg seg w { s with twin.warp := some { w with done := w.done + bytes } }
        exec (.twinWarpData seg bytes) s = .next (sendTwin 9 true [3, w.done + bytes, v.rend.storeVersion] [] v)) ∧
      (∀ seg bytes, s.follows = true → w.active = false → waits w seg = true → (∀ c r n, seg ≠ .inChain c r n) →
        exec (.twinWarpData seg bytes) s = .next (sendTwin 9 true [3, w.done + bytes, s.rend.storeVersion] []
          { s with twin.warp := some { w with done := w.done + bytes }, twin.stash := s.twin.stash ++ [seg] })) ∧
      (∀ c r n bytes, s.follows = true → w.active = false →
        exec (.twinWarpData (.inChain c r n) bytes) s = .next (sendTwin 9 true [3, w.done + bytes, s.rend.storeVersion] []
          { s with twin.warp := some { w with
              done := w.done + bytes, chains := SMap.ins w.chains c r, runs := SMap.put 0 w.runs c n } })) ∧
      (∀ c bytes, s.follows = true → w.active = false →
        ∃ t, exec (.twinWarpData (.control c) bytes) s = .next t ∧ t.power.deferred = c.deferred ∧ t.power.resume = c.resume ∧
          t.nose.sweep = c.sweep ∧ (∀ x ∈ t.rend.xpoints, (6, 65536 * x.source + x.dest) ∈ c.keys) ∧
          (∀ d ∈ t.host.claims, (7, 2 * d.id + bit d.zone) ∈ c.keys) ∧ (∀ e ∈ t.net.rx, (8, e.1) ∈ c.keys) ∧
          (∀ e ∈ t.net.tx, (9, e.1) ∈ c.keys) ∧ (∀ e ∈ t.nose.anchors, (15, e.1) ∈ c.keys)) ∧
      (∀ x n v, s.moored = true → s.flag mActive = false → s.flag mStandby = true → s.flag mAdrift = true →
        exec (.twinWarpControl (.start x n v)) s = .next (sendTwin 9 true [3, 0, s.rend.storeVersion] [] { s with
          twin.warp := some { tick := x, total := n, theirs := some v }, twin.retry := false, twin.stash := [] })) ∧
      (∀ n, s.moored = true → s.flag mStandby = true →
        exec (.twinWarpControl (.phase n)) s = .next { s with twin.warp := some { w with phase := n } }) ∧
      (∀ k outs, s.moored = true → s.flag mStandby = true → exec (.twinWarpControl (.slice k outs)) s = .next { s with
        twin.warp := some { w with
          phase := 4, slices := w.slices ++ [{ tick := k, outs := outs, dests := sliceDests s w outs }]
          sliced := (w.sliced ++ outs).eraseDups, since := k + 128 } }) ∧
      (∀ n v, s.moored = true → s.flag mActive = true →
        (w.theirs.isSome = true → exec (.twinWarpControl (.ack n v)) s = .next s) ∧
        (w.theirs = none → exec (.twinWarpControl (.ack n v)) s = .next { s with twin.warp := some { w with
          theirs := some v, total := w.total + storeBytes { w with theirs := some v } s } })) ∧
      (∀ again, s.moored = true → ∃ t, exec (.twinWarpControl (.abandon again)) s = .next t ∧ t.twin.warp = none ∧
        t.twin.retry = (again && s.flag mStandby) ∧ t.twin.stat.warpFails = wrapAdd 32 s.twin.stat.warpFails 1) ∧
      (s.moored = true → s.flag mActive = true → ∃ t, exec (.twinWarpControl .rejoin) s = .next t ∧ t.twin.warp = none ∧
        t.twin.stat.warps = wrapAdd 32 s.twin.stat.warps 1) ∧
      (s.moored = true → w.cut = false → w.tick ≠ 0 → w.active = true → w.phase = 1 → s.toCompute = w.tick →
        exec .warpInputCut s = .next (sendTwin 9 true [1, 2] [] { s with
          twin.warp := some { w with phase := 2, cut := true, chains := s.rend.inChains, runs := runCounts s.toCompute s } })) ∧
      (∀ outputs : List (Fin 512), s.moored = true → w.active = true → 3 ≤ w.phase → w.phase ≤ 4 →
        w.tick < s.rend.tapTick.getD 0 → (∀ l ∈ w.slices, l.tick < s.rend.tapTick.getD 0) → (∀ o ∈ outputs, o.val ∉ w.sliced) →
        sliceOk s w (outputs.map Fin.val) = true →
        ∃ t, exec (.warpSlice outputs) s = .next t ∧
          t.twin.warp.map Warp.sliced = some (w.sliced ++ outputs.map Fin.val).eraseDups ∧ t.rend = s.rend ∧ t.scene = s.scene) ∧
      (w.phase = 6 → s.flag mStandby = true → s.flag mSafe = false →
        ∃ t, exec .warpRejoin s = .next t ∧ t.flag mAdrift = false ∧ t.twin.warp = none ∧
          t.twin.stat.warps = wrapAdd 32 s.twin.stat.warps 1) ∧
      (∃ t, exec .warpAbandon s = .next t ∧ t.twin.stat.warpFails = wrapAdd 32 s.twin.stat.warpFails 1 ∧ t.twin.stash = []))

/-- Between masters' commands that set one unit in one tick or block, the winner is of the highest rank, on equal rank of the
lowest master, among the last accepted of each master (R335). -/
def Obligations.CollisionsGoByRank : Prop :=
  ∀ (cs : List Cmd) (e : Nat) (u : UnitKey) (w : Cmd), (cs.map Cmd.id).Nodup → (∀ c ∈ cs, ∃ m, c.origin = .master m) →
    unitWinner cs e u = some w →
    let rival := fun (c : Cmd) => c ∈ cs ∧ c.effect = e ∧ c.applied = false ∧ c.resend = false ∧ u ∈ c.units
    rival w ∧
    (∀ c, rival c → c.origin = w.origin → c.id ≤ w.id) ∧
    (∀ c m n, rival c → c.origin = .master m → w.origin = .master n → m ≠ n →
      (∀ d, rival d → d.origin = c.origin → d.id ≤ c.id) → c.rank < w.rank ∨ (c.rank = w.rank ∧ n < m))

/-- TIME_CFG of a port, the reference or a capture input keeps its write for the next block boundary; TRIG_SET writes its own
trigger and no other; a wake from P2 fixes the block at which rendering resumes, and one from P3 or P4 is recorded; a
phase-locked loop's lock, loss and return and the loss and return of an external reference complete in every state; the pause of
DOZE enters the state chosen and counts the entry; the resume leaves DOZE for DARK, or LIVE where it was asked for, with the
marks of the object slots at W + 4; a wake from P3 restores the Quaymaster in P2 or boots cold (R252, R265, R266, R269 to R271,
R275, R352 to R358). -/
def Obligations.TimeAndWakeCommandsComplete : Prop :=
  (∀ (r : Req) (s : State), admits .timeCfg {} r s = true → delivered r s = true → maskOf r.payload ≠ 0 →
      timePayloadOk (s.time.newDev.getD s.time.dev).profile r.payload = true →
      let p := r.payload
      (kindOf p = 1 ∧ indexOf p ≠ 2 ∨ kindOf p = 3 → ∃ t, exec (.timeCfg r) s = .next t ∧
        t.time = { s.time with newCfgs := s.time.newCfgs ++ [p] } ∧ t.media = s.media ∧ t.power = s.power ∧ t.scene = s.scene) ∧
      (kindOf p = 2 → (getU p 8 1 = 2 → (s.captNext 0).edges.testBit 0 = true) → ∃ t, exec (.timeCfg r) s = .next t ∧
        t.time = { s.time with newRef := some (getU p 8 1) } ∧ t.media = s.media ∧ t.power = s.power ∧ t.scene = s.scene)) ∧
  (∀ (r : Req) (s : State), admits .trigSet {} r s = true → delivered r s = true → maskOf r.payload ≠ 0 →
      trigPayloadOk r.payload = true →
      let i := getU r.payload 4 1
      let new := (s.trig i).cfg.write (maskOf r.payload) r.payload
      new.mode ≠ 1 → ∃ t, exec (.trigSet r) s = .next t ∧ (t.trig i).cfg = new ∧ (new.mode = 0 → (t.trig i).next = none) ∧
        (∀ j, j ≠ i → t.trig j = s.trig j) ∧ t.media = s.media ∧ t.power = s.power ∧ t.scene = s.scene) ∧
  (∀ s : State, s.flag mStandby = false → s.waking = false →
      let recorded := fun (code : Nat) (t : State) => t.power.wakeReason = code ∧ t.power.nextReason = code ∧
        t.power.stage = s.power.stage ∧ t.media = s.media ∧ t.scene = s.scene ∧ t.rend = s.rend ∧ t.boot = s.boot
      (∀ ns, s.power.stage = 2 → 1003 ≤ ns → ∃ t, exec (.wakeNLow ns) s = .next t ∧ recorded 1 t ∧ t.power.resumeTick = some s.resumeAt) ∧
      (∀ ns, s.power.stage = 3 → 1003 ≤ ns → ∃ t, exec (.wakeNLow ns) s = .next t ∧ recorded 1 t) ∧
      (∀ ns, s.power.stage = 4 → 2000000 ≤ ns → ∃ t, exec (.wakeNLow ns) s = .next t ∧ recorded 1 t) ∧
      (s.power.stage = 3 ∨ s.power.stage = 4 → s.power.timer ≠ 0 → ∃ t, exec .wakeTimer s = .next t ∧ recorded 2 t)) ∧
  (∀ (p : Fin 8) (s : State),
      (∃ t, exec (.pllLock p) s = .next t ∧ t.time.coasting.getLsbD p.val = false ∧ t.time.pllLock.getLsbD p.val = true ∧ t.power = s.power) ∧
      (∀ b, ∃ t, exec (.pllLoss p b) s = .next t ∧ t.time.coasting.getLsbD p.val = true ∧ t.time.pllLock = s.time.pllLock) ∧
      (∃ t, exec (.pllReferenceReturn p) s = .next t ∧ t.time.coasting.getLsbD p.val = false ∧ t.time.pllLock = s.time.pllLock ∧
        t.power = s.power) ∧
      (s.time.ref ∈ [1, 2, 3] → ∃ t, exec .referenceLost s = .next t ∧ t.time.servo.extOk = false ∧ t.time.ref = s.time.ref) ∧
      (s.time.ref ∈ [1, 2, 3] → ∃ t, exec .referenceQualified s = .next t ∧ t.time.servo.extOk = true ∧ t.time.ref = s.time.ref) ∧
      (s.time.ref ∉ [1, 2, 3] → exec .referenceLost s = .next s ∧ exec .referenceQualified s = .next s)) ∧
  (∀ s : State, s.power.stage = 1 → s.flag mSafe = false → allDown s = true →
      ∃ t, exec .dozePause s = .next t ∧ t.power.stage = choosePower s ∧
        (choosePower s = 2 → t.power.p2 = wrapAdd 32 s.power.p2 1) ∧ (choosePower s = 3 → t.power.p3 = wrapAdd 32 s.power.p3 1) ∧
        (choosePower s = 4 → t.power.holdCount = wrapAdd 32 s.power.holdCount 1 ∧ t.power.pwrEn = false)) ∧
  (∀ (w : Nat) (s : State), s.power.resumeTick = some w → s.power.stage = 2 → s.flag mSafe = false → s.power.deferred = [] →
      s.nextBlock ≤ w + 16 → w + s.media.catchL + 16 ≤ s.idx →
      ∃ t, exec .dozeResume s = .next t ∧ t.power.stage = 0 ∧ t.power.resumeTick = none ∧ t.power.lastWake = w ∧
        t.flag mDoze = false ∧ t.flag (if s.power.resume = 1 then mLive else mDark) = true ∧
        (∀ e ∈ s.scene.stats, ∀ n, e.2.slot = some n →
          SMap.look t.rend.nearMark n = some (w + 4) ∧ SMap.look t.rend.longMark n = some (w + 4))) ∧
  (∀ (kind : WakeKind) (st : SelfTest) (s : State), s.power.stage = 3 → wakesFrom s kind 3 = true →
      (∃ t, exec (.p3WakeRestore kind true true st) s = .next t ∧ t.power.stage = 2 ∧ t.power.wakeReason = wakeCode kind ∧
        t.power.resumeTick.isSome = true ∧ t.host.ready = true ∧ t.boot = s.boot ∧ t.scene = s.scene) ∧
      (∀ sealed trained : Bool, (sealed && trained) = false → ∃ t, exec (.p3WakeRestore kind sealed trained st) s = .next t ∧
        t.power.wakeReason = 6 ∧ t.power.resumeFails = wrapAdd 32 s.power.resumeFails 1 ∧ t.boot.boots = s.boot.boots + 1))
end

