-- ==== Sys2Proof/Laws/SMap.lean ====
section
/-!
SUPPORT. Sparse maps: what reads after writes give, and that every write keeps the canonical form; the same for the ring
memory.
-/
namespace Sys2Proof.SMap

variable {α : Type}

theorem look_ins_same (m : List (Nat × α)) (k : Nat) (v : α) : look (ins m k v) k = some v := by
  induction m with
  | nil => simp [ins, look]
  | cons e r ih =>
    obtain ⟨j, w⟩ := e
    unfold ins; split
    · simp [look]
    · split
      · simp [look]
      · rename_i _ h; simp [look, Ne.symm h, ih]

theorem look_ins_other (m : List (Nat × α)) (k j : Nat) (v : α) (h : j ≠ k) : look (ins m k v) j = look m j := by
  induction m with
  | nil => simp [ins, look, Ne.symm h]
  | cons e r ih =>
    obtain ⟨i, w⟩ := e
    unfold ins; split
    · simp [look, Ne.symm h]
    · split
      · rename_i _ e; subst e; simp [look, Ne.symm h]
      · simp [look, ih]

theorem look_del_same (m : List (Nat × α)) (k : Nat) : look (del m k) k = none := by
  induction m with
  | nil => rfl
  | cons e r ih =>
    obtain ⟨i, w⟩ := e
    by_cases h : i = k
    · subst h; simpa [del] using ih
    · have h' : (i != k) = true := by simp [h]
      simp only [del, List.filter_cons, h', if_true, look, h, if_false]; exact ih

theorem look_del_other (m : List (Nat × α)) (k j : Nat) (h : j ≠ k) : look (del m k) j = look m j := by
  induction m with
  | nil => rfl
  | cons e r ih =>
    obtain ⟨i, w⟩ := e
    by_cases hi : i = k
    · subst hi; simpa [del, look, Ne.symm h] using ih
    · have h' : (i != k) = true := by simp [hi]
      simp only [del, List.filter_cons, h', if_true, look]; rw [← ih]; rfl

@[simp] theorem get_put_same [DecidableEq α] (d : α) (m : List (Nat × α)) (k : Nat) (v : α) : get d (put d m k v) k = v := by
  unfold put get; split
  · rename_i h; simp [look_del_same, h]
  · simp [look_ins_same]

theorem get_put_other [DecidableEq α] (d : α) (m : List (Nat × α)) (k j : Nat) (v : α) (h : j ≠ k) :
    get d (put d m k v) j = get d m j := by
  unfold put get; split
  · rw [look_del_other _ _ _ h]
  · rw [look_ins_other _ _ _ _ h]

@[simp] theorem get_upd_same [DecidableEq α] (d : α) (m : List (Nat × α)) (k : Nat) (f : α → α) :
    get d (upd d m k f) k = f (get d m k) := get_put_same ..

theorem get_upd_other [DecidableEq α] (d : α) (m : List (Nat × α)) (k j : Nat) (f : α → α) (h : j ≠ k) :
    get d (upd d m k f) j = get d m j := get_put_other _ _ _ _ _ h

theorem mem_ins {m : List (Nat × α)} {k : Nat} {v : α} {e : Nat × α} (h : e ∈ ins m k v) : e = (k, v) ∨ e ∈ m := by
  induction m with
  | nil => simp [ins] at h; exact .inl h
  | cons x r ih =>
    obtain ⟨j, w⟩ := x
    unfold ins at h; split at h
    · simpa using h
    · split at h
      · rcases List.mem_cons.mp h with h | h
        · exact .inl h
        · exact .inr (List.mem_cons_of_mem _ h)
      · rcases List.mem_cons.mp h with h | h
        · exact .inr (h ▸ List.mem_cons_self ..)
        · rcases ih h with h | h
          · exact .inl h
          · exact .inr (List.mem_cons_of_mem _ h)

theorem mem_of_look {m : List (Nat × α)} {k : Nat} {v : α} (h : look m k = some v) : (k, v) ∈ m := by
  induction m with
  | nil => simp [look] at h
  | cons e r ih =>
    unfold look at h
    split at h
    · rename_i hk; injection h with h; subst h; subst hk; exact List.mem_cons_self
    · exact List.mem_cons_of_mem _ (ih h)

/-- What holds of the default and of every listed value, and is kept by `f`, holds of every value after an update. -/
theorem all_upd [DecidableEq α] {d : α} {m : List (Nat × α)} {k : Nat} {f : α → α} {P : α → Prop} (hm : ∀ e ∈ m, P e.2) (hd : P d)
    (hf : ∀ x, P x → P (f x)) : ∀ e ∈ upd d m k f, P e.2 := by
  have hg : P (get d m k) := by
    unfold get
    cases h : look m k with
    | none => exact hd
    | some v => exact hm _ (mem_of_look h)
  intro e he
  unfold upd put at he
  split at he
  · exact hm _ (List.mem_filter.1 he).1
  · rcases mem_ins he with rfl | he
    · exact hf _ hg
    · exact hm _ he

theorem all_mapVals {β : Type} [DecidableEq β] {d : β} {f : Nat → α → β} {m : List (Nat × α)} {P : α → Prop} {Q : β → Prop}
    (hm : ∀ e ∈ m, P e.2) (hf : ∀ k x, P x → Q (f k x)) : ∀ e ∈ mapVals d f m, Q e.2 := by
  intro e he
  unfold mapVals at he
  obtain ⟨x, hx, rfl⟩ := List.mem_map.1 (List.mem_filter.1 he).1
  exact hf _ _ (hm x hx)

theorem wf_ins [DecidableEq α] {d : α} {m : List (Nat × α)} {k : Nat} {v : α} (hm : wf d m = true) (hv : v ≠ d) :
    wf d (ins m k v) = true := by
  induction m with
  | nil => simp [ins, wf, hv]
  | cons x r ih =>
    obtain ⟨j, w⟩ := x
    simp only [wf, Bool.and_eq_true, bne_iff_ne, List.all_eq_true, decide_eq_true_eq] at hm
    unfold ins; split
    · rename_i hk
      simp only [wf, Bool.and_eq_true, bne_iff_ne, List.all_eq_true, decide_eq_true_eq]
      refine ⟨⟨hv, fun e he => ?_⟩, hm⟩
      rcases List.mem_cons.mp he with rfl | he
      · exact hk
      · exact Nat.lt_trans hk (hm.1.2 e he)
    · split
      · rename_i e; subst e
        simp only [wf, Bool.and_eq_true, bne_iff_ne, List.all_eq_true, decide_eq_true_eq]
        exact ⟨⟨hv, hm.1.2⟩, hm.2⟩
      · rename_i h1 h2
        simp only [wf, Bool.and_eq_true, bne_iff_ne, List.all_eq_true, decide_eq_true_eq]
        refine ⟨⟨hm.1.1, fun e he => ?_⟩, ih hm.2⟩
        rcases mem_ins he with rfl | he
        · simp only; omega
        · exact hm.1.2 e he

theorem wf_del [DecidableEq α] {d : α} {m : List (Nat × α)} {k : Nat} (hm : wf d m = true) : wf d (del m k) = true := by
  induction m with
  | nil => rfl
  | cons x r ih =>
    obtain ⟨j, w⟩ := x
    simp only [wf, Bool.and_eq_true, bne_iff_ne, List.all_eq_true, decide_eq_true_eq] at hm
    by_cases h : j = k
    · subst h; simpa [del] using ih hm.2
    · have h' : (j != k) = true := by simp [h]
      simp only [del, List.filter_cons, h', if_true, wf, Bool.and_eq_true, bne_iff_ne, List.all_eq_true, decide_eq_true_eq]
      exact ⟨⟨hm.1.1, fun e he => hm.1.2 e (List.mem_filter.mp he).1⟩, ih hm.2⟩

/-- A write keeps the canonical form. -/
theorem wf_put [DecidableEq α] {d : α} {m : List (Nat × α)} {k : Nat} {v : α} (hm : wf d m = true) : wf d (put d m k v) = true := by
  unfold put; split
  · exact wf_del hm
  · rename_i h; exact wf_ins hm h

end Sys2Proof.SMap

namespace Sys2Proof.Machine

/-- Writing bytes keeps the ring memory canonical. -/
theorem memWf_writeBytes (mem : List Host.Cell) (a : Nat) (p : Bytes) (h : memWf mem = true) : memWf (writeBytes mem a p) = true := by
  induction p generalizing mem a with
  | nil => exact h
  | cons b r ih => exact ih _ _ (SMap.wf_put h)

/-- Bytes outside those written read as before. -/
theorem readByte_writeBytes_outside (mem : List Host.Cell) (a i : Nat) (p : Bytes) (h : i < a ∨ a + p.length ≤ i) :
    readByte (writeBytes mem a p) i = readByte mem i := by
  induction p generalizing mem a with
  | nil => rfl
  | cons b r ih =>
    simp only [List.length_cons] at h
    rw [writeBytes, ih _ _ (by omega)]
    exact SMap.get_put_other _ _ _ _ _ (by omega)

/-- A byte written reads as it was written. -/
theorem readByte_writeBytes_inside (mem : List Host.Cell) (a i : Nat) (p : Bytes) (h : i < p.length) :
    readByte (writeBytes mem a p) (a + i) = p[i] := by
  induction p generalizing mem a i with
  | nil => simp at h
  | cons b r ih =>
    cases i with
    | zero =>
      rw [writeBytes, readByte_writeBytes_outside _ _ _ _ (by omega)]
      exact SMap.get_put_same ..
    | succ i =>
      simp only [List.length_cons] at h
      rw [writeBytes, show a + (i + 1) = a + 1 + i by omega, ih _ _ _ (by omega)]; rfl

end Sys2Proof.Machine
end

