-- ==== Sys2Proof/Laws/State.lean ====
section
/-!
SUPPORT. The State group by group: what each update of a record leaves, and what it reads back.
-/
namespace Sys2Proof.Machine

@[simp] theorem updMaster_pending (m : Nat) (f : Master → Master) (s : State) : (updMaster m f s).pending = s.pending := rfl
@[simp] theorem updMaster_media (m : Nat) (f : Master → Master) (s : State) : (updMaster m f s).media = s.media := rfl
@[simp] theorem updMaster_power (m : Nat) (f : Master → Master) (s : State) : (updMaster m f s).power = s.power := rfl
@[simp] theorem updMaster_scene (m : Nat) (f : Master → Master) (s : State) : (updMaster m f s).scene = s.scene := rfl
@[simp] theorem updMaster_rend (m : Nat) (f : Master → Master) (s : State) : (updMaster m f s).rend = s.rend := rfl
@[simp] theorem updMaster_nose (m : Nat) (f : Master → Master) (s : State) : (updMaster m f s).nose = s.nose := rfl
@[simp] theorem updMaster_net (m : Nat) (f : Master → Master) (s : State) : (updMaster m f s).net = s.net := rfl
@[simp] theorem updMaster_time (m : Nat) (f : Master → Master) (s : State) : (updMaster m f s).time = s.time := rfl
@[simp] theorem updMaster_twin (m : Nat) (f : Master → Master) (s : State) : (updMaster m f s).twin = s.twin := rfl
@[simp] theorem updMaster_mem (m : Nat) (f : Master → Master) (s : State) : (updMaster m f s).mem = s.mem := rfl
@[simp] theorem updMaster_boot (m : Nat) (f : Master → Master) (s : State) : (updMaster m f s).boot = s.boot := rfl
@[simp] theorem updMaster_io (m : Nat) (f : Master → Master) (s : State) : (updMaster m f s).io = s.io := rfl
@[simp] theorem updMaster_same (m : Nat) (f : Master → Master) (s : State) : (updMaster m f s).master m = f (s.master m) := SMap.get_upd_same ..
theorem updMaster_other (m : Nat) (f : Master → Master) (s : State) (j : Nat) (h : j ≠ m) : (updMaster m f s).master j = s.master j := SMap.get_upd_other _ _ _ _ _ h

@[simp] theorem send_pending (m : OutMsg) (s : State) : (send m s).pending = s.pending := rfl
@[simp] theorem send_media (m : OutMsg) (s : State) : (send m s).media = s.media := rfl
@[simp] theorem send_power (m : OutMsg) (s : State) : (send m s).power = s.power := rfl
@[simp] theorem send_scene (m : OutMsg) (s : State) : (send m s).scene = s.scene := rfl
@[simp] theorem send_rend (m : OutMsg) (s : State) : (send m s).rend = s.rend := rfl
@[simp] theorem send_nose (m : OutMsg) (s : State) : (send m s).nose = s.nose := rfl
@[simp] theorem send_net (m : OutMsg) (s : State) : (send m s).net = s.net := rfl
@[simp] theorem send_time (m : OutMsg) (s : State) : (send m s).time = s.time := rfl
@[simp] theorem send_twin (m : OutMsg) (s : State) : (send m s).twin = s.twin := rfl
@[simp] theorem send_mem (m : OutMsg) (s : State) : (send m s).mem = s.mem := rfl
@[simp] theorem send_boot (m : OutMsg) (s : State) : (send m s).boot = s.boot := rfl
@[simp] theorem send_io (m : OutMsg) (s : State) : (send m s).io = s.io := rfl

@[simp] theorem updObj_pending (id : Nat) (f : ObjEntry → ObjEntry) (s : State) : (updObj id f s).pending = s.pending := rfl
@[simp] theorem updObj_media (id : Nat) (f : ObjEntry → ObjEntry) (s : State) : (updObj id f s).media = s.media := rfl
@[simp] theorem updObj_host (id : Nat) (f : ObjEntry → ObjEntry) (s : State) : (updObj id f s).host = s.host := rfl
@[simp] theorem updObj_power (id : Nat) (f : ObjEntry → ObjEntry) (s : State) : (updObj id f s).power = s.power := rfl
@[simp] theorem updObj_rend (id : Nat) (f : ObjEntry → ObjEntry) (s : State) : (updObj id f s).rend = s.rend := rfl
@[simp] theorem updObj_nose (id : Nat) (f : ObjEntry → ObjEntry) (s : State) : (updObj id f s).nose = s.nose := rfl
@[simp] theorem updObj_net (id : Nat) (f : ObjEntry → ObjEntry) (s : State) : (updObj id f s).net = s.net := rfl
@[simp] theorem updObj_time (id : Nat) (f : ObjEntry → ObjEntry) (s : State) : (updObj id f s).time = s.time := rfl
@[simp] theorem updObj_twin (id : Nat) (f : ObjEntry → ObjEntry) (s : State) : (updObj id f s).twin = s.twin := rfl
@[simp] theorem updObj_mem (id : Nat) (f : ObjEntry → ObjEntry) (s : State) : (updObj id f s).mem = s.mem := rfl
@[simp] theorem updObj_boot (id : Nat) (f : ObjEntry → ObjEntry) (s : State) : (updObj id f s).boot = s.boot := rfl
@[simp] theorem updObj_io (id : Nat) (f : ObjEntry → ObjEntry) (s : State) : (updObj id f s).io = s.io := rfl
@[simp] theorem updObj_same (id : Nat) (f : ObjEntry → ObjEntry) (s : State) : (updObj id f s).obj id = f (s.obj id) := SMap.get_upd_same ..
theorem updObj_other (id : Nat) (f : ObjEntry → ObjEntry) (s : State) (j : Nat) (h : j ≠ id) : (updObj id f s).obj j = s.obj j := SMap.get_upd_other _ _ _ _ _ h

@[simp] theorem updObjStat_pending (id : Nat) (f : ObjStat → ObjStat) (s : State) : (updObjStat id f s).pending = s.pending := rfl
@[simp] theorem updObjStat_media (id : Nat) (f : ObjStat → ObjStat) (s : State) : (updObjStat id f s).media = s.media := rfl
@[simp] theorem updObjStat_host (id : Nat) (f : ObjStat → ObjStat) (s : State) : (updObjStat id f s).host = s.host := rfl
@[simp] theorem updObjStat_power (id : Nat) (f : ObjStat → ObjStat) (s : State) : (updObjStat id f s).power = s.power := rfl
@[simp] theorem updObjStat_rend (id : Nat) (f : ObjStat → ObjStat) (s : State) : (updObjStat id f s).rend = s.rend := rfl
@[simp] theorem updObjStat_nose (id : Nat) (f : ObjStat → ObjStat) (s : State) : (updObjStat id f s).nose = s.nose := rfl
@[simp] theorem updObjStat_net (id : Nat) (f : ObjStat → ObjStat) (s : State) : (updObjStat id f s).net = s.net := rfl
@[simp] theorem updObjStat_time (id : Nat) (f : ObjStat → ObjStat) (s : State) : (updObjStat id f s).time = s.time := rfl
@[simp] theorem updObjStat_twin (id : Nat) (f : ObjStat → ObjStat) (s : State) : (updObjStat id f s).twin = s.twin := rfl
@[simp] theorem updObjStat_mem (id : Nat) (f : ObjStat → ObjStat) (s : State) : (updObjStat id f s).mem = s.mem := rfl
@[simp] theorem updObjStat_boot (id : Nat) (f : ObjStat → ObjStat) (s : State) : (updObjStat id f s).boot = s.boot := rfl
@[simp] theorem updObjStat_io (id : Nat) (f : ObjStat → ObjStat) (s : State) : (updObjStat id f s).io = s.io := rfl
@[simp] theorem updObjStat_same (id : Nat) (f : ObjStat → ObjStat) (s : State) : (updObjStat id f s).objStat id = f (s.objStat id) := SMap.get_upd_same ..
theorem updObjStat_other (id : Nat) (f : ObjStat → ObjStat) (s : State) (j : Nat) (h : j ≠ id) : (updObjStat id f s).objStat j = s.objStat j := SMap.get_upd_other _ _ _ _ _ h

@[simp] theorem updPeerSt_pending (i : Nat) (f : PeerStat → PeerStat) (s : State) : (updPeerSt i f s).pending = s.pending := rfl
@[simp] theorem updPeerSt_media (i : Nat) (f : PeerStat → PeerStat) (s : State) : (updPeerSt i f s).media = s.media := rfl
@[simp] theorem updPeerSt_host (i : Nat) (f : PeerStat → PeerStat) (s : State) : (updPeerSt i f s).host = s.host := rfl
@[simp] theorem updPeerSt_power (i : Nat) (f : PeerStat → PeerStat) (s : State) : (updPeerSt i f s).power = s.power := rfl
@[simp] theorem updPeerSt_rend (i : Nat) (f : PeerStat → PeerStat) (s : State) : (updPeerSt i f s).rend = s.rend := rfl
@[simp] theorem updPeerSt_nose (i : Nat) (f : PeerStat → PeerStat) (s : State) : (updPeerSt i f s).nose = s.nose := rfl
@[simp] theorem updPeerSt_net (i : Nat) (f : PeerStat → PeerStat) (s : State) : (updPeerSt i f s).net = s.net := rfl
@[simp] theorem updPeerSt_time (i : Nat) (f : PeerStat → PeerStat) (s : State) : (updPeerSt i f s).time = s.time := rfl
@[simp] theorem updPeerSt_twin (i : Nat) (f : PeerStat → PeerStat) (s : State) : (updPeerSt i f s).twin = s.twin := rfl
@[simp] theorem updPeerSt_mem (i : Nat) (f : PeerStat → PeerStat) (s : State) : (updPeerSt i f s).mem = s.mem := rfl
@[simp] theorem updPeerSt_boot (i : Nat) (f : PeerStat → PeerStat) (s : State) : (updPeerSt i f s).boot = s.boot := rfl
@[simp] theorem updPeerSt_io (i : Nat) (f : PeerStat → PeerStat) (s : State) : (updPeerSt i f s).io = s.io := rfl
@[simp] theorem updPeerSt_same (i : Nat) (f : PeerStat → PeerStat) (s : State) : (updPeerSt i f s).peerSt i = f (s.peerSt i) := SMap.get_upd_same ..
theorem updPeerSt_other (i : Nat) (f : PeerStat → PeerStat) (s : State) (j : Nat) (h : j ≠ i) : (updPeerSt i f s).peerSt j = s.peerSt j := SMap.get_upd_other _ _ _ _ _ h

@[simp] theorem updPort_pending (p : Nat) (f : Port → Port) (s : State) : (updPort p f s).pending = s.pending := rfl
@[simp] theorem updPort_media (p : Nat) (f : Port → Port) (s : State) : (updPort p f s).media = s.media := rfl
@[simp] theorem updPort_host (p : Nat) (f : Port → Port) (s : State) : (updPort p f s).host = s.host := rfl
@[simp] theorem updPort_power (p : Nat) (f : Port → Port) (s : State) : (updPort p f s).power = s.power := rfl
@[simp] theorem updPort_scene (p : Nat) (f : Port → Port) (s : State) : (updPort p f s).scene = s.scene := rfl
@[simp] theorem updPort_rend (p : Nat) (f : Port → Port) (s : State) : (updPort p f s).rend = s.rend := rfl
@[simp] theorem updPort_nose (p : Nat) (f : Port → Port) (s : State) : (updPort p f s).nose = s.nose := rfl
@[simp] theorem updPort_time (p : Nat) (f : Port → Port) (s : State) : (updPort p f s).time = s.time := rfl
@[simp] theorem updPort_twin (p : Nat) (f : Port → Port) (s : State) : (updPort p f s).twin = s.twin := rfl
@[simp] theorem updPort_mem (p : Nat) (f : Port → Port) (s : State) : (updPort p f s).mem = s.mem := rfl
@[simp] theorem updPort_boot (p : Nat) (f : Port → Port) (s : State) : (updPort p f s).boot = s.boot := rfl
@[simp] theorem updPort_io (p : Nat) (f : Port → Port) (s : State) : (updPort p f s).io = s.io := rfl
@[simp] theorem updPort_same (p : Nat) (f : Port → Port) (s : State) : (updPort p f s).port p = f (s.port p) := SMap.get_upd_same ..
theorem updPort_other (p : Nat) (f : Port → Port) (s : State) (j : Nat) (h : j ≠ p) : (updPort p f s).port j = s.port j := SMap.get_upd_other _ _ _ _ _ h

@[simp] theorem updPortStat_pending (p : Nat) (f : PortStat → PortStat) (s : State) : (updPortStat p f s).pending = s.pending := rfl
@[simp] theorem updPortStat_media (p : Nat) (f : PortStat → PortStat) (s : State) : (updPortStat p f s).media = s.media := rfl
@[simp] theorem updPortStat_host (p : Nat) (f : PortStat → PortStat) (s : State) : (updPortStat p f s).host = s.host := rfl
@[simp] theorem updPortStat_power (p : Nat) (f : PortStat → PortStat) (s : State) : (updPortStat p f s).power = s.power := rfl
@[simp] theorem updPortStat_scene (p : Nat) (f : PortStat → PortStat) (s : State) : (updPortStat p f s).scene = s.scene := rfl
@[simp] theorem updPortStat_rend (p : Nat) (f : PortStat → PortStat) (s : State) : (updPortStat p f s).rend = s.rend := rfl
@[simp] theorem updPortStat_nose (p : Nat) (f : PortStat → PortStat) (s : State) : (updPortStat p f s).nose = s.nose := rfl
@[simp] theorem updPortStat_time (p : Nat) (f : PortStat → PortStat) (s : State) : (updPortStat p f s).time = s.time := rfl
@[simp] theorem updPortStat_twin (p : Nat) (f : PortStat → PortStat) (s : State) : (updPortStat p f s).twin = s.twin := rfl
@[simp] theorem updPortStat_mem (p : Nat) (f : PortStat → PortStat) (s : State) : (updPortStat p f s).mem = s.mem := rfl
@[simp] theorem updPortStat_boot (p : Nat) (f : PortStat → PortStat) (s : State) : (updPortStat p f s).boot = s.boot := rfl
@[simp] theorem updPortStat_io (p : Nat) (f : PortStat → PortStat) (s : State) : (updPortStat p f s).io = s.io := rfl

@[simp] theorem updQuay_pending (q : Nat) (f : Quay → Quay) (s : State) : (updQuay q f s).pending = s.pending := rfl
@[simp] theorem updQuay_media (q : Nat) (f : Quay → Quay) (s : State) : (updQuay q f s).media = s.media := rfl
@[simp] theorem updQuay_host (q : Nat) (f : Quay → Quay) (s : State) : (updQuay q f s).host = s.host := rfl
@[simp] theorem updQuay_power (q : Nat) (f : Quay → Quay) (s : State) : (updQuay q f s).power = s.power := rfl
@[simp] theorem updQuay_scene (q : Nat) (f : Quay → Quay) (s : State) : (updQuay q f s).scene = s.scene := rfl
@[simp] theorem updQuay_nose (q : Nat) (f : Quay → Quay) (s : State) : (updQuay q f s).nose = s.nose := rfl
@[simp] theorem updQuay_net (q : Nat) (f : Quay → Quay) (s : State) : (updQuay q f s).net = s.net := rfl
@[simp] theorem updQuay_time (q : Nat) (f : Quay → Quay) (s : State) : (updQuay q f s).time = s.time := rfl
@[simp] theorem updQuay_twin (q : Nat) (f : Quay → Quay) (s : State) : (updQuay q f s).twin = s.twin := rfl
@[simp] theorem updQuay_mem (q : Nat) (f : Quay → Quay) (s : State) : (updQuay q f s).mem = s.mem := rfl
@[simp] theorem updQuay_boot (q : Nat) (f : Quay → Quay) (s : State) : (updQuay q f s).boot = s.boot := rfl
@[simp] theorem updQuay_io (q : Nat) (f : Quay → Quay) (s : State) : (updQuay q f s).io = s.io := rfl
@[simp] theorem updQuay_same (q : Nat) (f : Quay → Quay) (s : State) : (updQuay q f s).quay q = f (s.quay q) := SMap.get_upd_same ..
theorem updQuay_other (q : Nat) (f : Quay → Quay) (s : State) (j : Nat) (h : j ≠ q) : (updQuay q f s).quay j = s.quay j := SMap.get_upd_other _ _ _ _ _ h

@[simp] theorem updOutChain_pending (o : Nat) (f : OutChain → OutChain) (s : State) : (updOutChain o f s).pending = s.pending := rfl
@[simp] theorem updOutChain_media (o : Nat) (f : OutChain → OutChain) (s : State) : (updOutChain o f s).media = s.media := rfl
@[simp] theorem updOutChain_host (o : Nat) (f : OutChain → OutChain) (s : State) : (updOutChain o f s).host = s.host := rfl
@[simp] theorem updOutChain_power (o : Nat) (f : OutChain → OutChain) (s : State) : (updOutChain o f s).power = s.power := rfl
@[simp] theorem updOutChain_scene (o : Nat) (f : OutChain → OutChain) (s : State) : (updOutChain o f s).scene = s.scene := rfl
@[simp] theorem updOutChain_nose (o : Nat) (f : OutChain → OutChain) (s : State) : (updOutChain o f s).nose = s.nose := rfl
@[simp] theorem updOutChain_net (o : Nat) (f : OutChain → OutChain) (s : State) : (updOutChain o f s).net = s.net := rfl
@[simp] theorem updOutChain_time (o : Nat) (f : OutChain → OutChain) (s : State) : (updOutChain o f s).time = s.time := rfl
@[simp] theorem updOutChain_twin (o : Nat) (f : OutChain → OutChain) (s : State) : (updOutChain o f s).twin = s.twin := rfl
@[simp] theorem updOutChain_mem (o : Nat) (f : OutChain → OutChain) (s : State) : (updOutChain o f s).mem = s.mem := rfl
@[simp] theorem updOutChain_boot (o : Nat) (f : OutChain → OutChain) (s : State) : (updOutChain o f s).boot = s.boot := rfl
@[simp] theorem updOutChain_io (o : Nat) (f : OutChain → OutChain) (s : State) : (updOutChain o f s).io = s.io := rfl
@[simp] theorem updOutChain_same (o : Nat) (f : OutChain → OutChain) (s : State) : (updOutChain o f s).outChain o = f (s.outChain o) := SMap.get_upd_same ..
theorem updOutChain_other (o : Nat) (f : OutChain → OutChain) (s : State) (j : Nat) (h : j ≠ o) : (updOutChain o f s).outChain j = s.outChain j := SMap.get_upd_other _ _ _ _ _ h

@[simp] theorem updAccord_pending (o : Nat) (f : AccordSlots → AccordSlots) (s : State) : (updAccord o f s).pending = s.pending := rfl
@[simp] theorem updAccord_media (o : Nat) (f : AccordSlots → AccordSlots) (s : State) : (updAccord o f s).media = s.media := rfl
@[simp] theorem updAccord_host (o : Nat) (f : AccordSlots → AccordSlots) (s : State) : (updAccord o f s).host = s.host := rfl
@[simp] theorem updAccord_power (o : Nat) (f : AccordSlots → AccordSlots) (s : State) : (updAccord o f s).power = s.power := rfl
@[simp] theorem updAccord_scene (o : Nat) (f : AccordSlots → AccordSlots) (s : State) : (updAccord o f s).scene = s.scene := rfl
@[simp] theorem updAccord_nose (o : Nat) (f : AccordSlots → AccordSlots) (s : State) : (updAccord o f s).nose = s.nose := rfl
@[simp] theorem updAccord_net (o : Nat) (f : AccordSlots → AccordSlots) (s : State) : (updAccord o f s).net = s.net := rfl
@[simp] theorem updAccord_time (o : Nat) (f : AccordSlots → AccordSlots) (s : State) : (updAccord o f s).time = s.time := rfl
@[simp] theorem updAccord_twin (o : Nat) (f : AccordSlots → AccordSlots) (s : State) : (updAccord o f s).twin = s.twin := rfl
@[simp] theorem updAccord_mem (o : Nat) (f : AccordSlots → AccordSlots) (s : State) : (updAccord o f s).mem = s.mem := rfl
@[simp] theorem updAccord_boot (o : Nat) (f : AccordSlots → AccordSlots) (s : State) : (updAccord o f s).boot = s.boot := rfl
@[simp] theorem updAccord_io (o : Nat) (f : AccordSlots → AccordSlots) (s : State) : (updAccord o f s).io = s.io := rfl
@[simp] theorem updAccord_same (o : Nat) (f : AccordSlots → AccordSlots) (s : State) : (updAccord o f s).accord o = f (s.accord o) := SMap.get_upd_same ..
theorem updAccord_other (o : Nat) (f : AccordSlots → AccordSlots) (s : State) (j : Nat) (h : j ≠ o) : (updAccord o f s).accord j = s.accord j := SMap.get_upd_other _ _ _ _ _ h

@[simp] theorem updMute_pending (o : Nat) (f : MuteRamp → MuteRamp) (s : State) : (updMute o f s).pending = s.pending := rfl
@[simp] theorem updMute_media (o : Nat) (f : MuteRamp → MuteRamp) (s : State) : (updMute o f s).media = s.media := rfl
@[simp] theorem updMute_host (o : Nat) (f : MuteRamp → MuteRamp) (s : State) : (updMute o f s).host = s.host := rfl
@[simp] theorem updMute_power (o : Nat) (f : MuteRamp → MuteRamp) (s : State) : (updMute o f s).power = s.power := rfl
@[simp] theorem updMute_scene (o : Nat) (f : MuteRamp → MuteRamp) (s : State) : (updMute o f s).scene = s.scene := rfl
@[simp] theorem updMute_nose (o : Nat) (f : MuteRamp → MuteRamp) (s : State) : (updMute o f s).nose = s.nose := rfl
@[simp] theorem updMute_net (o : Nat) (f : MuteRamp → MuteRamp) (s : State) : (updMute o f s).net = s.net := rfl
@[simp] theorem updMute_time (o : Nat) (f : MuteRamp → MuteRamp) (s : State) : (updMute o f s).time = s.time := rfl
@[simp] theorem updMute_twin (o : Nat) (f : MuteRamp → MuteRamp) (s : State) : (updMute o f s).twin = s.twin := rfl
@[simp] theorem updMute_mem (o : Nat) (f : MuteRamp → MuteRamp) (s : State) : (updMute o f s).mem = s.mem := rfl
@[simp] theorem updMute_boot (o : Nat) (f : MuteRamp → MuteRamp) (s : State) : (updMute o f s).boot = s.boot := rfl
@[simp] theorem updMute_io (o : Nat) (f : MuteRamp → MuteRamp) (s : State) : (updMute o f s).io = s.io := rfl
@[simp] theorem updMute_same (o : Nat) (f : MuteRamp → MuteRamp) (s : State) : (updMute o f s).mute o = f (s.mute o) := SMap.get_upd_same ..
theorem updMute_other (o : Nat) (f : MuteRamp → MuteRamp) (s : State) (j : Nat) (h : j ≠ o) : (updMute o f s).mute j = s.mute j := SMap.get_upd_other _ _ _ _ _ h

@[simp] theorem updDest_pending (c : Nat) (f : Dest → Dest) (s : State) : (updDest c f s).pending = s.pending := rfl
@[simp] theorem updDest_media (c : Nat) (f : Dest → Dest) (s : State) : (updDest c f s).media = s.media := rfl
@[simp] theorem updDest_host (c : Nat) (f : Dest → Dest) (s : State) : (updDest c f s).host = s.host := rfl
@[simp] theorem updDest_power (c : Nat) (f : Dest → Dest) (s : State) : (updDest c f s).power = s.power := rfl
@[simp] theorem updDest_scene (c : Nat) (f : Dest → Dest) (s : State) : (updDest c f s).scene = s.scene := rfl
@[simp] theorem updDest_nose (c : Nat) (f : Dest → Dest) (s : State) : (updDest c f s).nose = s.nose := rfl
@[simp] theorem updDest_net (c : Nat) (f : Dest → Dest) (s : State) : (updDest c f s).net = s.net := rfl
@[simp] theorem updDest_time (c : Nat) (f : Dest → Dest) (s : State) : (updDest c f s).time = s.time := rfl
@[simp] theorem updDest_twin (c : Nat) (f : Dest → Dest) (s : State) : (updDest c f s).twin = s.twin := rfl
@[simp] theorem updDest_mem (c : Nat) (f : Dest → Dest) (s : State) : (updDest c f s).mem = s.mem := rfl
@[simp] theorem updDest_boot (c : Nat) (f : Dest → Dest) (s : State) : (updDest c f s).boot = s.boot := rfl
@[simp] theorem updDest_io (c : Nat) (f : Dest → Dest) (s : State) : (updDest c f s).io = s.io := rfl
@[simp] theorem updDest_same (c : Nat) (f : Dest → Dest) (s : State) : (updDest c f s).dest c = f (s.dest c) := SMap.get_upd_same ..
theorem updDest_other (c : Nat) (f : Dest → Dest) (s : State) (j : Nat) (h : j ≠ c) : (updDest c f s).dest j = s.dest j := SMap.get_upd_other _ _ _ _ _ h

@[simp] theorem updClock_pending (p : Nat) (f : PortClock → PortClock) (s : State) : (updClock p f s).pending = s.pending := rfl
@[simp] theorem updClock_media (p : Nat) (f : PortClock → PortClock) (s : State) : (updClock p f s).media = s.media := rfl
@[simp] theorem updClock_host (p : Nat) (f : PortClock → PortClock) (s : State) : (updClock p f s).host = s.host := rfl
@[simp] theorem updClock_power (p : Nat) (f : PortClock → PortClock) (s : State) : (updClock p f s).power = s.power := rfl
@[simp] theorem updClock_scene (p : Nat) (f : PortClock → PortClock) (s : State) : (updClock p f s).scene = s.scene := rfl
@[simp] theorem updClock_rend (p : Nat) (f : PortClock → PortClock) (s : State) : (updClock p f s).rend = s.rend := rfl
@[simp] theorem updClock_nose (p : Nat) (f : PortClock → PortClock) (s : State) : (updClock p f s).nose = s.nose := rfl
@[simp] theorem updClock_net (p : Nat) (f : PortClock → PortClock) (s : State) : (updClock p f s).net = s.net := rfl
@[simp] theorem updClock_twin (p : Nat) (f : PortClock → PortClock) (s : State) : (updClock p f s).twin = s.twin := rfl
@[simp] theorem updClock_mem (p : Nat) (f : PortClock → PortClock) (s : State) : (updClock p f s).mem = s.mem := rfl
@[simp] theorem updClock_boot (p : Nat) (f : PortClock → PortClock) (s : State) : (updClock p f s).boot = s.boot := rfl
@[simp] theorem updClock_io (p : Nat) (f : PortClock → PortClock) (s : State) : (updClock p f s).io = s.io := rfl
@[simp] theorem updClock_same (p : Nat) (f : PortClock → PortClock) (s : State) : (updClock p f s).clock p = f (s.clock p) := SMap.get_upd_same ..
theorem updClock_other (p : Nat) (f : PortClock → PortClock) (s : State) (j : Nat) (h : j ≠ p) : (updClock p f s).clock j = s.clock j := SMap.get_upd_other _ _ _ _ _ h

@[simp] theorem updTrig_pending (i : Nat) (f : Trigger → Trigger) (s : State) : (updTrig i f s).pending = s.pending := rfl
@[simp] theorem updTrig_media (i : Nat) (f : Trigger → Trigger) (s : State) : (updTrig i f s).media = s.media := rfl
@[simp] theorem updTrig_host (i : Nat) (f : Trigger → Trigger) (s : State) : (updTrig i f s).host = s.host := rfl
@[simp] theorem updTrig_power (i : Nat) (f : Trigger → Trigger) (s : State) : (updTrig i f s).power = s.power := rfl
@[simp] theorem updTrig_scene (i : Nat) (f : Trigger → Trigger) (s : State) : (updTrig i f s).scene = s.scene := rfl
@[simp] theorem updTrig_rend (i : Nat) (f : Trigger → Trigger) (s : State) : (updTrig i f s).rend = s.rend := rfl
@[simp] theorem updTrig_nose (i : Nat) (f : Trigger → Trigger) (s : State) : (updTrig i f s).nose = s.nose := rfl
@[simp] theorem updTrig_net (i : Nat) (f : Trigger → Trigger) (s : State) : (updTrig i f s).net = s.net := rfl
@[simp] theorem updTrig_twin (i : Nat) (f : Trigger → Trigger) (s : State) : (updTrig i f s).twin = s.twin := rfl
@[simp] theorem updTrig_mem (i : Nat) (f : Trigger → Trigger) (s : State) : (updTrig i f s).mem = s.mem := rfl
@[simp] theorem updTrig_boot (i : Nat) (f : Trigger → Trigger) (s : State) : (updTrig i f s).boot = s.boot := rfl
@[simp] theorem updTrig_io (i : Nat) (f : Trigger → Trigger) (s : State) : (updTrig i f s).io = s.io := rfl
@[simp] theorem updTrig_same (i : Nat) (f : Trigger → Trigger) (s : State) : (updTrig i f s).trig i = f (s.trig i) := SMap.get_upd_same ..
theorem updTrig_other (i : Nat) (f : Trigger → Trigger) (s : State) (j : Nat) (h : j ≠ i) : (updTrig i f s).trig j = s.trig j := SMap.get_upd_other _ _ _ _ _ h

@[simp] theorem updCapt_pending (i : Nat) (f : Capture → Capture) (s : State) : (updCapt i f s).pending = s.pending := rfl
@[simp] theorem updCapt_media (i : Nat) (f : Capture → Capture) (s : State) : (updCapt i f s).media = s.media := rfl
@[simp] theorem updCapt_host (i : Nat) (f : Capture → Capture) (s : State) : (updCapt i f s).host = s.host := rfl
@[simp] theorem updCapt_power (i : Nat) (f : Capture → Capture) (s : State) : (updCapt i f s).power = s.power := rfl
@[simp] theorem updCapt_scene (i : Nat) (f : Capture → Capture) (s : State) : (updCapt i f s).scene = s.scene := rfl
@[simp] theorem updCapt_rend (i : Nat) (f : Capture → Capture) (s : State) : (updCapt i f s).rend = s.rend := rfl
@[simp] theorem updCapt_nose (i : Nat) (f : Capture → Capture) (s : State) : (updCapt i f s).nose = s.nose := rfl
@[simp] theorem updCapt_net (i : Nat) (f : Capture → Capture) (s : State) : (updCapt i f s).net = s.net := rfl
@[simp] theorem updCapt_twin (i : Nat) (f : Capture → Capture) (s : State) : (updCapt i f s).twin = s.twin := rfl
@[simp] theorem updCapt_mem (i : Nat) (f : Capture → Capture) (s : State) : (updCapt i f s).mem = s.mem := rfl
@[simp] theorem updCapt_boot (i : Nat) (f : Capture → Capture) (s : State) : (updCapt i f s).boot = s.boot := rfl
@[simp] theorem updCapt_io (i : Nat) (f : Capture → Capture) (s : State) : (updCapt i f s).io = s.io := rfl
@[simp] theorem updCapt_same (i : Nat) (f : Capture → Capture) (s : State) : (updCapt i f s).capt i = f (s.capt i) := SMap.get_upd_same ..
theorem updCapt_other (i : Nat) (f : Capture → Capture) (s : State) (j : Nat) (h : j ≠ i) : (updCapt i f s).capt j = s.capt j := SMap.get_upd_other _ _ _ _ _ h

@[simp] theorem updAnaIn_pending (i : Nat) (f : AnaIn → AnaIn) (s : State) : (updAnaIn i f s).pending = s.pending := rfl
@[simp] theorem updAnaIn_media (i : Nat) (f : AnaIn → AnaIn) (s : State) : (updAnaIn i f s).media = s.media := rfl
@[simp] theorem updAnaIn_host (i : Nat) (f : AnaIn → AnaIn) (s : State) : (updAnaIn i f s).host = s.host := rfl
@[simp] theorem updAnaIn_power (i : Nat) (f : AnaIn → AnaIn) (s : State) : (updAnaIn i f s).power = s.power := rfl
@[simp] theorem updAnaIn_scene (i : Nat) (f : AnaIn → AnaIn) (s : State) : (updAnaIn i f s).scene = s.scene := rfl
@[simp] theorem updAnaIn_rend (i : Nat) (f : AnaIn → AnaIn) (s : State) : (updAnaIn i f s).rend = s.rend := rfl
@[simp] theorem updAnaIn_nose (i : Nat) (f : AnaIn → AnaIn) (s : State) : (updAnaIn i f s).nose = s.nose := rfl
@[simp] theorem updAnaIn_net (i : Nat) (f : AnaIn → AnaIn) (s : State) : (updAnaIn i f s).net = s.net := rfl
@[simp] theorem updAnaIn_time (i : Nat) (f : AnaIn → AnaIn) (s : State) : (updAnaIn i f s).time = s.time := rfl
@[simp] theorem updAnaIn_twin (i : Nat) (f : AnaIn → AnaIn) (s : State) : (updAnaIn i f s).twin = s.twin := rfl
@[simp] theorem updAnaIn_mem (i : Nat) (f : AnaIn → AnaIn) (s : State) : (updAnaIn i f s).mem = s.mem := rfl
@[simp] theorem updAnaIn_boot (i : Nat) (f : AnaIn → AnaIn) (s : State) : (updAnaIn i f s).boot = s.boot := rfl
@[simp] theorem updAnaIn_same (i : Nat) (f : AnaIn → AnaIn) (s : State) : (updAnaIn i f s).anaIn i = f (s.anaIn i) := SMap.get_upd_same ..
theorem updAnaIn_other (i : Nat) (f : AnaIn → AnaIn) (s : State) (j : Nat) (h : j ≠ i) : (updAnaIn i f s).anaIn j = s.anaIn j := SMap.get_upd_other _ _ _ _ _ h

@[simp] theorem updAnaOut_pending (i : Nat) (f : AnaOut → AnaOut) (s : State) : (updAnaOut i f s).pending = s.pending := rfl
@[simp] theorem updAnaOut_media (i : Nat) (f : AnaOut → AnaOut) (s : State) : (updAnaOut i f s).media = s.media := rfl
@[simp] theorem updAnaOut_host (i : Nat) (f : AnaOut → AnaOut) (s : State) : (updAnaOut i f s).host = s.host := rfl
@[simp] theorem updAnaOut_power (i : Nat) (f : AnaOut → AnaOut) (s : State) : (updAnaOut i f s).power = s.power := rfl
@[simp] theorem updAnaOut_scene (i : Nat) (f : AnaOut → AnaOut) (s : State) : (updAnaOut i f s).scene = s.scene := rfl
@[simp] theorem updAnaOut_rend (i : Nat) (f : AnaOut → AnaOut) (s : State) : (updAnaOut i f s).rend = s.rend := rfl
@[simp] theorem updAnaOut_nose (i : Nat) (f : AnaOut → AnaOut) (s : State) : (updAnaOut i f s).nose = s.nose := rfl
@[simp] theorem updAnaOut_net (i : Nat) (f : AnaOut → AnaOut) (s : State) : (updAnaOut i f s).net = s.net := rfl
@[simp] theorem updAnaOut_time (i : Nat) (f : AnaOut → AnaOut) (s : State) : (updAnaOut i f s).time = s.time := rfl
@[simp] theorem updAnaOut_twin (i : Nat) (f : AnaOut → AnaOut) (s : State) : (updAnaOut i f s).twin = s.twin := rfl
@[simp] theorem updAnaOut_mem (i : Nat) (f : AnaOut → AnaOut) (s : State) : (updAnaOut i f s).mem = s.mem := rfl
@[simp] theorem updAnaOut_boot (i : Nat) (f : AnaOut → AnaOut) (s : State) : (updAnaOut i f s).boot = s.boot := rfl
@[simp] theorem updAnaOut_same (i : Nat) (f : AnaOut → AnaOut) (s : State) : (updAnaOut i f s).anaOut i = f (s.anaOut i) := SMap.get_upd_same ..
theorem updAnaOut_other (i : Nat) (f : AnaOut → AnaOut) (s : State) (j : Nat) (h : j ≠ i) : (updAnaOut i f s).anaOut j = s.anaOut j := SMap.get_upd_other _ _ _ _ _ h

@[simp] theorem updLoop_pending (i : Nat) (f : Loop → Loop) (s : State) : (updLoop i f s).pending = s.pending := rfl
@[simp] theorem updLoop_media (i : Nat) (f : Loop → Loop) (s : State) : (updLoop i f s).media = s.media := rfl
@[simp] theorem updLoop_host (i : Nat) (f : Loop → Loop) (s : State) : (updLoop i f s).host = s.host := rfl
@[simp] theorem updLoop_power (i : Nat) (f : Loop → Loop) (s : State) : (updLoop i f s).power = s.power := rfl
@[simp] theorem updLoop_scene (i : Nat) (f : Loop → Loop) (s : State) : (updLoop i f s).scene = s.scene := rfl
@[simp] theorem updLoop_rend (i : Nat) (f : Loop → Loop) (s : State) : (updLoop i f s).rend = s.rend := rfl
@[simp] theorem updLoop_nose (i : Nat) (f : Loop → Loop) (s : State) : (updLoop i f s).nose = s.nose := rfl
@[simp] theorem updLoop_net (i : Nat) (f : Loop → Loop) (s : State) : (updLoop i f s).net = s.net := rfl
@[simp] theorem updLoop_time (i : Nat) (f : Loop → Loop) (s : State) : (updLoop i f s).time = s.time := rfl
@[simp] theorem updLoop_twin (i : Nat) (f : Loop → Loop) (s : State) : (updLoop i f s).twin = s.twin := rfl
@[simp] theorem updLoop_mem (i : Nat) (f : Loop → Loop) (s : State) : (updLoop i f s).mem = s.mem := rfl
@[simp] theorem updLoop_boot (i : Nat) (f : Loop → Loop) (s : State) : (updLoop i f s).boot = s.boot := rfl
@[simp] theorem updLoop_same (i : Nat) (f : Loop → Loop) (s : State) : (updLoop i f s).loop i = f (s.loop i) := SMap.get_upd_same ..
theorem updLoop_other (i : Nat) (f : Loop → Loop) (s : State) (j : Nat) (h : j ≠ i) : (updLoop i f s).loop j = s.loop j := SMap.get_upd_other _ _ _ _ _ h

@[simp] theorem updTdm_pending (i : Nat) (f : Tdm → Tdm) (s : State) : (updTdm i f s).pending = s.pending := rfl
@[simp] theorem updTdm_media (i : Nat) (f : Tdm → Tdm) (s : State) : (updTdm i f s).media = s.media := rfl
@[simp] theorem updTdm_host (i : Nat) (f : Tdm → Tdm) (s : State) : (updTdm i f s).host = s.host := rfl
@[simp] theorem updTdm_power (i : Nat) (f : Tdm → Tdm) (s : State) : (updTdm i f s).power = s.power := rfl
@[simp] theorem updTdm_scene (i : Nat) (f : Tdm → Tdm) (s : State) : (updTdm i f s).scene = s.scene := rfl
@[simp] theorem updTdm_rend (i : Nat) (f : Tdm → Tdm) (s : State) : (updTdm i f s).rend = s.rend := rfl
@[simp] theorem updTdm_nose (i : Nat) (f : Tdm → Tdm) (s : State) : (updTdm i f s).nose = s.nose := rfl
@[simp] theorem updTdm_net (i : Nat) (f : Tdm → Tdm) (s : State) : (updTdm i f s).net = s.net := rfl
@[simp] theorem updTdm_time (i : Nat) (f : Tdm → Tdm) (s : State) : (updTdm i f s).time = s.time := rfl
@[simp] theorem updTdm_twin (i : Nat) (f : Tdm → Tdm) (s : State) : (updTdm i f s).twin = s.twin := rfl
@[simp] theorem updTdm_mem (i : Nat) (f : Tdm → Tdm) (s : State) : (updTdm i f s).mem = s.mem := rfl
@[simp] theorem updTdm_boot (i : Nat) (f : Tdm → Tdm) (s : State) : (updTdm i f s).boot = s.boot := rfl
@[simp] theorem updTdm_same (i : Nat) (f : Tdm → Tdm) (s : State) : (updTdm i f s).tdm i = f (s.tdm i) := SMap.get_upd_same ..
theorem updTdm_other (i : Nat) (f : Tdm → Tdm) (s : State) (j : Nat) (h : j ≠ i) : (updTdm i f s).tdm j = s.tdm j := SMap.get_upd_other _ _ _ _ _ h

@[simp] theorem updPin_pending (i : Nat) (f : Pin → Pin) (s : State) : (updPin i f s).pending = s.pending := rfl
@[simp] theorem updPin_media (i : Nat) (f : Pin → Pin) (s : State) : (updPin i f s).media = s.media := rfl
@[simp] theorem updPin_host (i : Nat) (f : Pin → Pin) (s : State) : (updPin i f s).host = s.host := rfl
@[simp] theorem updPin_power (i : Nat) (f : Pin → Pin) (s : State) : (updPin i f s).power = s.power := rfl
@[simp] theorem updPin_scene (i : Nat) (f : Pin → Pin) (s : State) : (updPin i f s).scene = s.scene := rfl
@[simp] theorem updPin_rend (i : Nat) (f : Pin → Pin) (s : State) : (updPin i f s).rend = s.rend := rfl
@[simp] theorem updPin_nose (i : Nat) (f : Pin → Pin) (s : State) : (updPin i f s).nose = s.nose := rfl
@[simp] theorem updPin_net (i : Nat) (f : Pin → Pin) (s : State) : (updPin i f s).net = s.net := rfl
@[simp] theorem updPin_time (i : Nat) (f : Pin → Pin) (s : State) : (updPin i f s).time = s.time := rfl
@[simp] theorem updPin_twin (i : Nat) (f : Pin → Pin) (s : State) : (updPin i f s).twin = s.twin := rfl
@[simp] theorem updPin_mem (i : Nat) (f : Pin → Pin) (s : State) : (updPin i f s).mem = s.mem := rfl
@[simp] theorem updPin_boot (i : Nat) (f : Pin → Pin) (s : State) : (updPin i f s).boot = s.boot := rfl
@[simp] theorem updPin_same (i : Nat) (f : Pin → Pin) (s : State) : (updPin i f s).pin i = f (s.pin i) := SMap.get_upd_same ..
theorem updPin_other (i : Nat) (f : Pin → Pin) (s : State) (j : Nat) (h : j ≠ i) : (updPin i f s).pin j = s.pin j := SMap.get_upd_other _ _ _ _ _ h

@[simp] theorem updTwinStat_pending (f : TwinStat → TwinStat) (s : State) : (updTwinStat f s).pending = s.pending := rfl
@[simp] theorem updTwinStat_media (f : TwinStat → TwinStat) (s : State) : (updTwinStat f s).media = s.media := rfl
@[simp] theorem updTwinStat_host (f : TwinStat → TwinStat) (s : State) : (updTwinStat f s).host = s.host := rfl
@[simp] theorem updTwinStat_power (f : TwinStat → TwinStat) (s : State) : (updTwinStat f s).power = s.power := rfl
@[simp] theorem updTwinStat_scene (f : TwinStat → TwinStat) (s : State) : (updTwinStat f s).scene = s.scene := rfl
@[simp] theorem updTwinStat_rend (f : TwinStat → TwinStat) (s : State) : (updTwinStat f s).rend = s.rend := rfl
@[simp] theorem updTwinStat_nose (f : TwinStat → TwinStat) (s : State) : (updTwinStat f s).nose = s.nose := rfl
@[simp] theorem updTwinStat_net (f : TwinStat → TwinStat) (s : State) : (updTwinStat f s).net = s.net := rfl
@[simp] theorem updTwinStat_time (f : TwinStat → TwinStat) (s : State) : (updTwinStat f s).time = s.time := rfl
@[simp] theorem updTwinStat_mem (f : TwinStat → TwinStat) (s : State) : (updTwinStat f s).mem = s.mem := rfl
@[simp] theorem updTwinStat_boot (f : TwinStat → TwinStat) (s : State) : (updTwinStat f s).boot = s.boot := rfl
@[simp] theorem updTwinStat_io (f : TwinStat → TwinStat) (s : State) : (updTwinStat f s).io = s.io := rfl

@[simp] theorem updServo_pending (f : Servo → Servo) (s : State) : (updServo f s).pending = s.pending := rfl
@[simp] theorem updServo_media (f : Servo → Servo) (s : State) : (updServo f s).media = s.media := rfl
@[simp] theorem updServo_host (f : Servo → Servo) (s : State) : (updServo f s).host = s.host := rfl
@[simp] theorem updServo_power (f : Servo → Servo) (s : State) : (updServo f s).power = s.power := rfl
@[simp] theorem updServo_scene (f : Servo → Servo) (s : State) : (updServo f s).scene = s.scene := rfl
@[simp] theorem updServo_rend (f : Servo → Servo) (s : State) : (updServo f s).rend = s.rend := rfl
@[simp] theorem updServo_nose (f : Servo → Servo) (s : State) : (updServo f s).nose = s.nose := rfl
@[simp] theorem updServo_net (f : Servo → Servo) (s : State) : (updServo f s).net = s.net := rfl
@[simp] theorem updServo_twin (f : Servo → Servo) (s : State) : (updServo f s).twin = s.twin := rfl
@[simp] theorem updServo_mem (f : Servo → Servo) (s : State) : (updServo f s).mem = s.mem := rfl
@[simp] theorem updServo_boot (f : Servo → Servo) (s : State) : (updServo f s).boot = s.boot := rfl
@[simp] theorem updServo_io (f : Servo → Servo) (s : State) : (updServo f s).io = s.io := rfl

@[simp] theorem updMemStat_pending (f : MemStat → MemStat) (s : State) : (updMemStat f s).pending = s.pending := rfl
@[simp] theorem updMemStat_media (f : MemStat → MemStat) (s : State) : (updMemStat f s).media = s.media := rfl
@[simp] theorem updMemStat_host (f : MemStat → MemStat) (s : State) : (updMemStat f s).host = s.host := rfl
@[simp] theorem updMemStat_power (f : MemStat → MemStat) (s : State) : (updMemStat f s).power = s.power := rfl
@[simp] theorem updMemStat_scene (f : MemStat → MemStat) (s : State) : (updMemStat f s).scene = s.scene := rfl
@[simp] theorem updMemStat_rend (f : MemStat → MemStat) (s : State) : (updMemStat f s).rend = s.rend := rfl
@[simp] theorem updMemStat_nose (f : MemStat → MemStat) (s : State) : (updMemStat f s).nose = s.nose := rfl
@[simp] theorem updMemStat_net (f : MemStat → MemStat) (s : State) : (updMemStat f s).net = s.net := rfl
@[simp] theorem updMemStat_time (f : MemStat → MemStat) (s : State) : (updMemStat f s).time = s.time := rfl
@[simp] theorem updMemStat_twin (f : MemStat → MemStat) (s : State) : (updMemStat f s).twin = s.twin := rfl
@[simp] theorem updMemStat_boot (f : MemStat → MemStat) (s : State) : (updMemStat f s).boot = s.boot := rfl
@[simp] theorem updMemStat_io (f : MemStat → MemStat) (s : State) : (updMemStat f s).io = s.io := rfl

@[simp] theorem updRx_pending (b : Nat) (f : RxBerth → RxBerth) (s : State) : (updRx b f s).pending = s.pending := rfl
@[simp] theorem updRx_media (b : Nat) (f : RxBerth → RxBerth) (s : State) : (updRx b f s).media = s.media := rfl
@[simp] theorem updRx_host (b : Nat) (f : RxBerth → RxBerth) (s : State) : (updRx b f s).host = s.host := rfl
@[simp] theorem updRx_power (b : Nat) (f : RxBerth → RxBerth) (s : State) : (updRx b f s).power = s.power := rfl
@[simp] theorem updRx_scene (b : Nat) (f : RxBerth → RxBerth) (s : State) : (updRx b f s).scene = s.scene := rfl
@[simp] theorem updRx_rend (b : Nat) (f : RxBerth → RxBerth) (s : State) : (updRx b f s).rend = s.rend := rfl
@[simp] theorem updRx_nose (b : Nat) (f : RxBerth → RxBerth) (s : State) : (updRx b f s).nose = s.nose := rfl
@[simp] theorem updRx_time (b : Nat) (f : RxBerth → RxBerth) (s : State) : (updRx b f s).time = s.time := rfl
@[simp] theorem updRx_twin (b : Nat) (f : RxBerth → RxBerth) (s : State) : (updRx b f s).twin = s.twin := rfl
@[simp] theorem updRx_mem (b : Nat) (f : RxBerth → RxBerth) (s : State) : (updRx b f s).mem = s.mem := rfl
@[simp] theorem updRx_boot (b : Nat) (f : RxBerth → RxBerth) (s : State) : (updRx b f s).boot = s.boot := rfl
@[simp] theorem updRx_io (b : Nat) (f : RxBerth → RxBerth) (s : State) : (updRx b f s).io = s.io := rfl

@[simp] theorem updTx_pending (b : Nat) (f : TxBerth → TxBerth) (s : State) : (updTx b f s).pending = s.pending := rfl
@[simp] theorem updTx_media (b : Nat) (f : TxBerth → TxBerth) (s : State) : (updTx b f s).media = s.media := rfl
@[simp] theorem updTx_host (b : Nat) (f : TxBerth → TxBerth) (s : State) : (updTx b f s).host = s.host := rfl
@[simp] theorem updTx_power (b : Nat) (f : TxBerth → TxBerth) (s : State) : (updTx b f s).power = s.power := rfl
@[simp] theorem updTx_scene (b : Nat) (f : TxBerth → TxBerth) (s : State) : (updTx b f s).scene = s.scene := rfl
@[simp] theorem updTx_rend (b : Nat) (f : TxBerth → TxBerth) (s : State) : (updTx b f s).rend = s.rend := rfl
@[simp] theorem updTx_nose (b : Nat) (f : TxBerth → TxBerth) (s : State) : (updTx b f s).nose = s.nose := rfl
@[simp] theorem updTx_time (b : Nat) (f : TxBerth → TxBerth) (s : State) : (updTx b f s).time = s.time := rfl
@[simp] theorem updTx_twin (b : Nat) (f : TxBerth → TxBerth) (s : State) : (updTx b f s).twin = s.twin := rfl
@[simp] theorem updTx_mem (b : Nat) (f : TxBerth → TxBerth) (s : State) : (updTx b f s).mem = s.mem := rfl
@[simp] theorem updTx_boot (b : Nat) (f : TxBerth → TxBerth) (s : State) : (updTx b f s).boot = s.boot := rfl
@[simp] theorem updTx_io (b : Nat) (f : TxBerth → TxBerth) (s : State) : (updTx b f s).io = s.io := rfl

end Sys2Proof.Machine
end

