-- ==== Sys2Proof/Laws/Answer.lean ====
section
/-!
SUPPORT. Acceptance and answers: what an admitted request comes to, and what writing an answer leaves alone.
-/
namespace Sys2Proof.Machine

/-- Answers change nothing but the control interface and the frames that ports have to send. -/
def HostOnly (s t : State) : Prop := t = { s with host := t.host, net.ports := t.net.ports }

theorem HostOnly.refl (s : State) : HostOnly s s := rfl
theorem HostOnly.trans {s t u : State} (h : HostOnly s t) (k : HostOnly t u) : HostOnly s u := by
  unfold HostOnly at *; rw [k, h]
theorem HostOnly.ite {c : Prop} [Decidable c] {s a b : State} (ha : HostOnly s a) (hb : HostOnly s b) :
    HostOnly s (if c then a else b) := by split <;> assumption

theorem updMaster_host (m : Nat) (f : Master → Master) (s : State) : HostOnly s (updMaster m f s) := rfl
theorem send_host (m : OutMsg) (s : State) : HostOnly s (send m s) := rfl
theorem queueOwn_host (p q n d : Nat) (s : State) : HostOnly s (queueOwn p q n d s) := by
  unfold queueOwn; exact .ite (.refl s) rfl
theorem noteEvent_host (i : Nat) (s : State) : HostOnly s (noteEvent i s) := rfl
theorem sendMsix_host (i : Nat) (s : State) : HostOnly s (sendMsix i s) := by
  unfold sendMsix sendVector; exact .ite (.ite rfl rfl) (.refl s)
theorem raise_host (i : Nat) (s : State) : HostOnly s (raise i s) := by
  unfold raise
  have h : HostOnly s { s with host.irqCause := s.host.irqCause ||| BitVec.ofNat 32 (2 ^ i) } := rfl
  exact .ite (.trans (.trans h (.ite (sendMsix_host ..) (.refl _))) (noteEvent_host ..))
    (.trans h (.ite (sendMsix_host ..) (.refl _)))
theorem sendDatagram_host (m kind off : Nat) (d : Bytes) (s : State) : HostOnly s (sendDatagram m kind off d s) := by
  unfold sendDatagram
  dsimp only
  split
  · exact .refl s
  · exact .ite rfl (.trans (t := send _ (updMaster m _ s)) rfl (queueOwn_host ..))
theorem sendSegments_host (n m off : Nat) (p : Bytes) (s : State) : HostOnly s (sendSegments n m off p s) := by
  induction n generalizing off p s with
  | zero => exact .refl s
  | succ n ih => unfold sendSegments; exact .ite (.refl s) (.trans (sendDatagram_host ..) (ih ..))
theorem writeResponse_host (r : Response) (o : Nat) (s : State) : HostOnly s (writeResponse r o s) := by
  unfold writeResponse
  refine .ite (.trans ?_ (raise_host _ _)) (.trans ?_ (sendDatagram_host _ _ _ _ _))
  · rfl
  · refine .ite (.trans ?_ (sendSegments_host _ _ _ _ _)) ?_ <;> rfl
theorem respond_host (r : Response) (s : State) : HostOnly s (respond r s) := by
  unfold respond
  refine .ite ?_ rfl
  split
  · exact .trans (t := updMaster _ _ s) rfl (writeResponse_host _ _ _)
  · rfl
theorem answerReq_host (op : Opcode) (r : Req) (a p : Nat) (st : Status) (b : Bytes) (s : State) :
    HostOnly s (answerReq op r a p st b s) := by
  unfold answerReq
  exact .trans (.ite (.refl s) (updMaster_host ..)) (respond_host _ _)

/-! The run of failed authentications that an answer leaves (R330). -/

/-- No master's run of failed authentications changes. -/
structure RunSame (s t : State) : Prop where
  run : ∀ m, (t.master m).failRun = (s.master m).failRun

theorem RunSame.refl (s : State) : RunSame s s := ⟨fun _ => rfl⟩
theorem RunSame.trans {s t u : State} (h : RunSame s t) (k : RunSame t u) : RunSame s u := ⟨fun m => (k.run m).trans (h.run m)⟩
/-- A change that leaves the masters alone. -/
theorem RunSame.of {s t : State} (h : t.host.masters = s.host.masters) : RunSame s t := ⟨fun m => by unfold State.master; rw [h]⟩
theorem RunSame.ite {c : Prop} [Decidable c] {s a b : State} (ha : RunSame s a) (hb : RunSame s b) :
    RunSame s (if c then a else b) := by split <;> assumption
theorem updMaster_run (m : Nat) (f : Master → Master) (s : State) (hf : ∀ x, (f x).failRun = x.failRun) :
    RunSame s (updMaster m f s) := by
  refine ⟨fun j => ?_⟩
  by_cases h : j = m
  · subst h; rw [updMaster_same]; exact hf _
  · rw [updMaster_other m f s j h]
theorem look_map {α : Type} (f : Nat × α → Nat × α) (hf : ∀ e, (f e).1 = e.1) (m : List (Nat × α)) (k : Nat) :
    SMap.look (m.map f) k = (SMap.look m k).map fun v => (f (k, v)).2 := by
  induction m with
  | nil => rfl
  | cons e m ih =>
    obtain ⟨j, v⟩ := e
    have h : f (j, v) = (j, (f (j, v)).2) := Prod.ext (hf (j, v)) rfl
    rw [List.map_cons, h]
    unfold SMap.look
    by_cases hj : j = k
    · subst hj; simp
    · rw [if_neg hj, if_neg hj]; exact ih
theorem noteEvent_run (i : Nat) (s : State) : RunSame s (noteEvent i s) := by
  refine ⟨fun m => ?_⟩
  unfold noteEvent State.master SMap.get
  dsimp only
  rw [look_map _ (by intro e; split <;> rfl)]
  cases SMap.look s.host.masters m with
  | none => rfl
  | some v => rw [Option.map_some]; dsimp only [Option.getD_some]; split <;> rfl
theorem sendMsix_run (i : Nat) (s : State) : RunSame s (sendMsix i s) := by
  unfold sendMsix sendVector; exact .ite (.ite (.of rfl) (.of rfl)) (.refl s)
theorem raise_run (i : Nat) (s : State) : RunSame s (raise i s) := by
  unfold raise
  have h : RunSame s { s with host.irqCause := s.host.irqCause ||| BitVec.ofNat 32 (2 ^ i) } := .of rfl
  exact .ite (.trans (.trans h (.ite (sendMsix_run _ _) (.refl _))) (noteEvent_run _ _))
    (.trans h (.ite (sendMsix_run _ _) (.refl _)))
theorem queueOwn_run (p q n d : Nat) (s : State) : RunSame s (queueOwn p q n d s) := by
  unfold queueOwn; exact .ite (.refl _) (.of rfl)
theorem sendDatagram_run (m kind off : Nat) (d : Bytes) (s : State) : RunSame s (sendDatagram m kind off d s) := by
  unfold sendDatagram
  dsimp only
  have h : ∀ q, RunSame s (send q (updMaster m (fun x => { x with dseq := (x.dseq + 1) % 2 ^ 32 }) s)) := fun _ =>
    .trans (updMaster_run m (fun x => { x with dseq := (x.dseq + 1) % 2 ^ 32 }) s fun _ => rfl) (.of rfl)
  split
  · exact .refl s
  · exact .ite (h _) (.trans (h _) (queueOwn_run _ _ _ _ _))
theorem sendSegments_run (n m off : Nat) (p : Bytes) (s : State) : RunSame s (sendSegments n m off p s) := by
  induction n generalizing off p s with
  | zero => exact .refl s
  | succ n ih => unfold sendSegments; exact .ite (.refl s) (.trans (sendDatagram_run _ _ _ _ _) (ih _ _ _))
theorem writeResponse_run (r : Response) (o : Nat) (s : State) : RunSame s (writeResponse r o s) := by
  unfold writeResponse
  extract_lets m ms bulk entry mem mem' src t u
  have h : RunSame s t := .trans (t := { s with host.mem := mem' }) (.of rfl) (updMaster_run _ _ _ fun _ => rfl)
  have h' : RunSame s u := .ite (.trans h (sendSegments_run _ _ _ _ _)) h
  clear_value t u
  exact .ite (.trans h (raise_run _ _)) (.trans h' (sendDatagram_run _ _ _ _ _))

/-- An answer other than AUTH_FAIL ends its master's run. -/
theorem respond_run (r : Response) (s : State) (hr : r.repeated = false) (hs : r.status ≠ .authFail) :
    ((respond r s).master r.master).failRun = 0 := by
  unfold respond
  rw [hr]
  simp only [Bool.false_eq_true, if_false, if_neg hs]
  generalize hx : updMaster r.master _ s = t
  have h0 : (t.master r.master).failRun = 0 := by rw [← hx, updMaster_same]
  have h : RunSame t (updMaster r.master (fun x => { x with held := x.held ++ [r] }) t) := updMaster_run _ _ _ fun _ => rfl
  suffices hh : RunSame t (if ((t.master r.master).held.isEmpty) = true then
      (match canWrite t r with
        | some o => writeResponse r o t
        | none => updMaster r.master (fun x => { x with held := x.held ++ [r] }) t)
      else updMaster r.master (fun x => { x with held := x.held ++ [r] }) t) from (hh.run _).trans h0
  refine .ite ?_ h
  split
  · exact writeResponse_run _ _ _
  · exact h

/-- An answer other than AUTH_FAIL ends no session (R330). -/
theorem checkFailRun_run {m : Nat} {s : State} (h : (s.master m).failRun = 0) : checkFailRun m s = s := by
  unfold checkFailRun; rw [h]; simp

/-- An answer other than AUTH_FAIL leaves every record but the control interface's and the ports'. -/
theorem finish_host (op : Opcode) (r : Req) (a p : Nat) (st : Status) (b : Bytes) (s : State) (h : st ≠ .authFail) :
    HostOnly s (finish op r a p st b s) := by
  unfold finish trimmed trimSeqs
  refine .trans (answerReq_host op r a p st b s) ?_
  rw [checkFailRun_run]
  · rfl
  · rw [updMaster_same]
    exact respond_run _ _ rfl h

/-- One more answer owed makes no sequence number newer (R331). -/
theorem seqNewer_taken (s : State) (m seq : Nat) :
    seqNewer (updMaster m (fun x => { x with unanswered := x.unanswered + 1 }) s) m seq = seqNewer s m seq := by
  unfold seqNewer
  rw [updMaster_same]
  rfl

/-- A request that is admitted and delivered acts on the state in which it is accepted (R320). -/
theorem accept_admitted {op : Opcode} {h : StoreHdr} {r : Req} {s : State} (ha : admits op h r s = true)
    (hd : delivered r s = true) (ho : op ≠ .storeTransfer) :
    accept op h r s = trimmed r (actReq op h r.payload r s.idx (applyPeriod s s.idx r) (taken r s)) := by
  unfold admits at ha
  simp only [Bool.and_eq_true, Bool.or_eq_true, Bool.not_eq_true', decide_eq_true_eq] at ha
  obtain ⟨⟨⟨⟨⟨⟨h1, h2⟩, h3⟩, h4⟩, h5⟩, h6⟩, h7⟩ := ha
  unfold delivered at hd
  simp only [Bool.and_eq_true, Option.isNone_iff_eq_none] at hd
  unfold accept
  rw [if_neg (by simp only [h1]; simp; omega), if_neg (by rw [h3]; decide)]
  dsimp only
  rw [if_neg (by rw [show (updMaster r.master.val (fun x => { x with unanswered := x.unanswered + 1 }) s).hasMaster r.master.val =
    s.hasMaster r.master.val from rfl, h4]; decide)]
  rw [if_neg (by
    simp only [Bool.and_eq_true, Bool.not_eq_true']
    rintro ⟨e1, e2⟩
    rcases h5 with h5 | h5
    · exact absurd e1 (by rw [show (updMaster r.master.val (fun x => { x with unanswered := x.unanswered + 1 }) s).enforced = s.enforced from rfl, h5]; decide)
    · rw [seqNewer_taken, h5] at e2; exact absurd e2 (by decide))]
  rw [if_neg (by rw [show authOk (updMaster r.master.val (fun x => { x with unanswered := x.unanswered + 1 }) s) op r h = authOk s op r h from rfl, h6]; decide)]
  rw [if_neg (by rw [show modeRefuses op r.payload h (updMaster r.master.val (fun x => { x with unanswered := x.unanswered + 1 }) s) = modeRefuses op r.payload h s from rfl, h7]; decide)]
  unfold acceptPayload
  dsimp only
  rw [if_neg (by simpa using ho), hd.1]
  simp only [Option.bind_none]
  have hq : (updMaster r.master.val (fun x => { x with seqs := r.seq :: x.seqs })
      (updMaster r.master.val (fun x => { x with unanswered := x.unanswered + 1 }) s)).reqStream r.master.val = s.reqStream r.master.val := by
    unfold State.reqStream
    rw [updMaster_same, updMaster_same]
    rfl
  cases hk : r.pkind with
  | inline => rfl
  | bulk =>
    simp only [hk] at hd
    simp only [hq]
    rw [if_neg (by simpa using hd.2)]
    rfl
  | crane => simp [hk] at hd

theorem delivered_ret {r : Req} {s : State} (h : delivered r s = true) : r.ret = none := by
  unfold delivered at h; simp at h; exact h.1

/-- A command that acts at acceptance is answered OK with its body (R321, R333). -/
theorem accept_done {op : Opcode} {h : StoreHdr} {r : Req} {s t : State} {body : Bytes} (ha : admits op h r s = true)
    (hd : delivered r s = true) (ho : op ≠ .storeTransfer) (hp : op ≠ .proposalApply) (hw : waitsAs op r.payload = none) (hl : actsNow op h r s = true)
    (hn : actNow op h r.payload r (taken r s) = .done t body) (hb : body.length ≤ 4096) :
    accept op h r s = finish op r s.idx (appliedNow op h r.payload s) .ok body (forwardNow op h r.payload r t) := by
  rw [accept_admitted ha hd ho]
  unfold finish
  congr 1
  unfold actReq
  dsimp only
  rw [if_neg (by simpa using hp)]
  unfold waitsAs at hw
  rw [hw]
  have hl' : ((taken r s).flag mActive && waitsOnActive op r.payload h) = false := by
    unfold actsNow at hl; rw [Bool.not_eq_true'] at hl; exact hl
  simp only [hl', Bool.false_eq_true, if_false, hn]
  unfold deliverBody
  rw [delivered_ret hd]
  simp only
  rw [if_neg (by omega), show appliedNow op h r.payload (taken r s) = appliedNow op h r.payload s from rfl]

/-- A command whose work goes on keeps its answer (R333). -/
theorem accept_owe {op : Opcode} {h : StoreHdr} {r : Req} {s t : State} {key : Nat} (ha : admits op h r s = true)
    (hd : delivered r s = true) (ho : op ≠ .storeTransfer) (hp : op ≠ .proposalApply) (hw : waitsAs op r.payload = none) (hl : actsNow op h r s = true)
    (hn : actNow op h r.payload r (taken r s) = .owe t key) :
    accept op h r s = trimmed r (park (holdOf op r s.idx key (taken r s))
      (forwardNow op h r.payload r { t with host.nextId := t.host.nextId + 1 })) := by
  rw [accept_admitted ha hd ho]
  congr 1
  unfold actReq
  dsimp only
  rw [if_neg (by simpa using hp)]
  unfold waitsAs at hw
  rw [hw]
  have hl' : ((taken r s).flag mActive && waitsOnActive op r.payload h) = false := by
    unfold actsNow at hl; rw [Bool.not_eq_true'] at hl; exact hl
  simp only [hl', Bool.false_eq_true, if_false, hn]
  rfl

/-- The command offered is the one that then waits. -/
theorem offer_queues {op : Opcode} {t : Timing} {p : Bytes} {proposal apply : Nat} {r : Req} {at_ : Nat} {s : State}
    (hq : queues (waitingCmd op t apply p proposal r at_ s) r s = true) :
    offer (.master r.master.val) r.rank r.seq at_ apply t op p proposal s =
      .inr (waitingCmd op t apply p proposal r at_ s,
        { withCmd (waitingCmd op t apply p proposal r at_ s) s with host.nextId := s.host.nextId + 1 }) := by
  unfold queues at hq
  simp only [Bool.and_eq_true, Bool.or_eq_true, decide_eq_true_eq, beq_iff_eq, bne_iff_ne] at hq
  obtain ⟨⟨⟨-, h2⟩, h3⟩, h4⟩ := hq
  unfold offer
  change ((match checkTimed (waitingCmd op t apply p proposal r at_ s) s (withCmd (waitingCmd op t apply p proposal r at_ s) s) with
    | some st => Sum.inl (st, [])
    | none => if (s.host.cmds.filter fun (d : Cmd) => !d.applied).length ≥ 4096 then Sum.inl (.noResource, [])
      else if (waitingCmd op t apply p proposal r at_ s).units != [] &&
          lostUnits (withCmd (waitingCmd op t apply p proposal r at_ s) s).host.cmds (waitingCmd op t apply p proposal r at_ s) ==
          (waitingCmd op t apply p proposal r at_ s).units then
        Sum.inl (.superseded, lostBody { waitingCmd op t apply p proposal r at_ s with
          lost := (waitingCmd op t apply p proposal r at_ s).units })
      else Sum.inr (waitingCmd op t apply p proposal r at_ s, _)) : (Status × Bytes) ⊕ (Cmd × State)) = _
  rw [Option.isNone_iff_eq_none.mp h2]
  simp only
  rw [if_neg (by omega), if_neg (by
    simp only [Bool.and_eq_true, bne_iff_ne, beq_iff_eq, not_and]
    rcases h4 with h4 | h4
    · intro h; exact absurd h4 h
    · intro _; exact h4)]
  rfl

/-- A command that waits for its boundary joins those waiting (R333, R334). -/
theorem queueReq_queues {op : Opcode} {t : Timing} {raw p : Bytes} {proposal : Nat} {r : Req} {at_ e : Nat} {s : State}
    (hq : queues (waitingCmd op t (usedApply op r at_ e s) p proposal r at_ s) r s = true) (hb : op ≠ .bridgeSet) :
    queueReq op t raw p proposal r at_ (some e) s =
      let n := publishCmd (waitingCmd op t (usedApply op r at_ e s) p proposal r at_ s)
        { withCmd (waitingCmd op t (usedApply op r at_ e s) p proposal r at_ s) s with host.nextId := s.host.nextId + 1 }
      if classOf op p {} == .forwarded then
        forwardCmd (.master r.master.val) op r.rank (usedApply op r at_ e s) (forwardPart op raw) n
      else n := by
  have ho : ownedBy (.master r.master.val) r.rank op p s = false := by
    unfold queues at hq
    simp only [Bool.and_eq_true, Bool.not_eq_true'] at hq
    exact hq.1.1.1
  unfold queueReq
  simp only [Option.getD_some, Option.isNone_some, Bool.false_and, Bool.false_eq_true, if_false, ho, offer_queues hq]
  rw [if_neg (by unfold answeredAtOnce; simpa using hb)]

end Sys2Proof.Machine
end

