-- ==== Sys2Proof/Laws/Fabric.lean ====
section
/-!
SUPPORT. The crossbar's bounds: the caps sum to 4,096, every transaction reaches the top priority in 7,680 cycles, and a target
serves one of those that wait.
-/
namespace Sys2Proof.Machine

/-- The caps of the 14 masters sum to 4,096 (R361). -/
theorem fabricCap_sum : ((List.range 14).map fabricCap).sum = 4096 := by decide

/-- A transaction of any QoS has the highest effective one within 7,680 cycles (R363). -/
theorem effectiveQos_top {q w : Nat} (h : 7680 ≤ w) : effectiveQos q w = 15 := by unfold effectiveQos; omega

/-- Waiting never lowers the effective QoS (R363). -/
theorem effectiveQos_mono {q v w : Nat} (h : v ≤ w) : effectiveQos q v ≤ effectiveQos q w := by unfold effectiveQos; omega

theorem served_mem (a : Waiting) (l : List Waiting) :
    l.foldl (fun a b => if servedBefore a b then a else b) a ∈ a :: l := by
  induction l generalizing a with
  | nil => simp
  | cons b l ih =>
    simp only [List.foldl_cons]
    split
    · rcases List.mem_cons.1 (ih a) with h | h
      · rw [h]; exact List.mem_cons_self
      · exact List.mem_cons_of_mem _ (List.mem_cons_of_mem _ h)
    · exact List.mem_cons_of_mem _ (ih b)

/-- What a target serves next is one of those that wait (R363). -/
theorem servedNext_mem {l : List Waiting} {w : Waiting} (h : servedNext l = some w) : w ∈ l := by
  cases l with
  | nil => simp [servedNext] at h
  | cons a l => rw [← (Option.some.inj h)]; exact served_mem a l

/-- A target with a transaction waiting serves one (R363). -/
theorem servedNext_isSome {l : List Waiting} (h : l ≠ []) : (servedNext l).isSome = true := by
  cases l with
  | nil => exact absurd rfl h
  | cons a l => rfl

/-- A write drain runs from 48 entries down to 16 (R371). -/
theorem writeDrain_bounds {was : Bool} {n : Nat} :
    (48 ≤ n → writeDrain was n = true) ∧ (n ≤ 16 → writeDrain was n = false) := by
  unfold writeDrain
  constructor <;> intro h <;> cases was <;> simp <;> omega

end Sys2Proof.Machine
end

