-- ==== Sys2Proof/Laws/Keeps.lean ====
section
/-!
SUPPORT. What every operation of the block keeps, as one relation: the queue, the canonical ring memory, the legal mode word,
SAFE, and the bounds of claims, captures and ring indices.
-/
namespace Sys2Proof.Machine

/-- From `s` to `t` the queue is the same, the ring memory stays canonical, the mode word stays legal, SAFE
stays and the bounds hold. -/
structure Keeps (s t : State) : Prop where
  queue : t.pending = s.pending
  mem : s.memOk → t.memOk
  mode : s.modeOk → t.modeOk
  safe : s.flag mSafe = true → t.flag mSafe = true
  bound : s.boundOk → t.boundOk

theorem Keeps.refl (s : State) : Keeps s s := ⟨rfl, id, id, id, id⟩

theorem Keeps.trans {s t u : State} (h : Keeps s t) (k : Keeps t u) : Keeps s u :=
  ⟨k.queue.trans h.queue, k.mem ∘ h.mem, k.mode ∘ h.mode, k.safe ∘ h.safe, k.bound ∘ h.bound⟩

/-- What the bounds speak of. -/
def boundsOf (h : HostIf) (t : TimeUnit) : List Claim × SMap Master × SMap Capture := (h.claims, h.masters, t.capts)

theorem boundOk_congr {s t : State} (h : boundsOf t.host t.time = boundsOf s.host s.time) (k : s.boundOk) : t.boundOk := by
  simp only [boundsOf, Prod.mk.injEq] at h
  unfold State.boundOk at *
  rw [h.1, h.2.1, h.2.2]; exact k

/-- A change of anything else keeps all five. -/
theorem Keeps.of {s t u : State} (h : Keeps s t) (hq : u.pending = t.pending) (hm : u.host.mem = t.host.mem)
    (hw : u.power.word = t.power.word) (hb : u.boot.straps = t.boot.straps)
    (hk : boundsOf u.host u.time = boundsOf t.host t.time) : Keeps s u := by
  refine ⟨hq.trans h.queue, fun k => ?_, fun k => ?_, fun k => ?_, fun k => boundOk_congr hk (h.bound k)⟩
  · have := h.mem k; unfold State.memOk at *; rw [hm]; exact this
  · have := h.mode k; unfold State.modeOk State.isPair at *; rw [hw, hb]; exact this
  · have := h.safe k; unfold State.flag at *; rw [hw]; exact this

theorem Keeps.mk' {s t : State} {media host power scene rend nose net time twin mem boot io} (h : Keeps s t)
    (hm : host.mem = t.host.mem) (hw : power.word = t.power.word) (hb : boot.straps = t.boot.straps)
    (hk : boundsOf host time = boundsOf t.host t.time) :
    Keeps s (State.mk t.pending media host power scene rend nose net time twin mem boot io) := h.of rfl hm hw hb hk

/-- The same for a change of what the bounds speak of. -/
theorem Keeps.mkB {s t : State} {media host power scene rend nose net time twin mem boot io} (h : Keeps s t)
    (hm : host.mem = t.host.mem) (hw : power.word = t.power.word) (hb : boot.straps = t.boot.straps)
    (hk : t.boundOk → State.boundOk (State.mk t.pending media host power scene rend nose net time twin mem boot io)) :
    Keeps s (State.mk t.pending media host power scene rend nose net time twin mem boot io) :=
  ⟨h.queue, fun k => by have := h.mem k; unfold State.memOk at *; rw [hm]; exact this,
    fun k => by have := h.mode k; unfold State.modeOk State.isPair at *; rw [hw, hb]; exact this,
    fun k => by have := h.safe k; unfold State.flag at *; rw [hw]; exact this, hk ∘ h.bound⟩

theorem Keeps.mkM {s t : State} {media host power scene rend nose net time twin mem boot io} (h : Keeps s t)
    (hm : memWf t.host.mem = true → memWf host.mem = true) (hw : power.word = t.power.word) (hb : boot.straps = t.boot.straps)
    (hk : boundsOf host time = boundsOf t.host t.time) :
    Keeps s (State.mk t.pending media host power scene rend nose net time twin mem boot io) :=
  Keeps.trans h ⟨rfl, hm, by unfold State.modeOk State.isPair; simp only [hw, hb]; exact id,
    by unfold State.flag; simp only [hw]; exact id, boundOk_congr hk⟩

/-- A change of the claims keeps their number in its bound. -/
theorem Keeps.claims {s t : State} {l : List Claim} (h : Keeps s t) (hl : t.host.claims.length ≤ 1024 → l.length ≤ 1024) :
    Keeps s { t with host.claims := l } :=
  Keeps.mkB h rfl rfl rfl fun k => ⟨hl k.1, k.2⟩

/-- A claim granted replaces the one on the same target, or finds fewer than 1,024 standing (R336). -/
theorem claim_room {l : List Claim} {p : Claim → Bool} {c : Claim} (h : l.length ≤ 1024)
    (n : ¬((l.find? p).isNone && decide (l.length ≥ 1024)) = true) : ((l.filter fun x => !p x) ++ [c]).length ≤ 1024 := by
  simp only [List.length_append, List.length_cons, List.length_nil]
  cases e : l.find? p with
  | none =>
    have := List.length_filter_le (fun x => !p x) l
    simp [e] at n; omega
  | some a =>
    have : (l.filter fun x => !p x).length < l.length :=
      List.length_filter_lt_length_iff_exists.2 ⟨a, List.mem_of_find?_eq_some e, by simp [List.find?_some e]⟩
    omega

theorem Keeps.ite {c : Prop} [Decidable c] {s a b : State} (ha : c → Keeps s a) (hb : ¬c → Keeps s b) :
    Keeps s (if c then a else b) := by split <;> simp_all

theorem Keeps.ite_snd {α : Type} {c : Prop} [Decidable c] {s : State} {a b : α × State} (ha : c → Keeps s a.2)
    (hb : ¬c → Keeps s b.2) : Keeps s (if c then a else b).2 := by split <;> simp_all

theorem Keeps.foldl {α : Type} {f : State → α → State} {s t : State} {l : List α} (h : Keeps s t)
    (hf : ∀ t a, Keeps s t → Keeps s (f t a)) : Keeps s (l.foldl f t) := by
  induction l generalizing t with
  | nil => exact h
  | cons a l ih => exact ih (hf _ _ h)

/-- Folds that carry something beside the state. -/
theorem Keeps.foldl_snd {α β : Type} {f : β × State → α → β × State} {s : State} {b : β × State} {l : List α} (h : Keeps s b.2)
    (hf : ∀ b a, Keeps s b.2 → Keeps s (f b a).2) : Keeps s (l.foldl f b).2 := by
  induction l generalizing b with
  | nil => exact h
  | cons a l ih => exact ih (hf _ _ h)

theorem getLsbD_withFlag (w : BitVec 16) (i j : Nat) (v : Bool) (hi : i < 16) :
    (withFlag w i v).getLsbD j = if j = i then v else w.getLsbD j := by
  have hp : ∀ k, (BitVec.ofNat 16 (2 ^ i)).getLsbD k = (decide (k < 16) && decide (i = k)) := by
    intro k; rw [BitVec.getLsbD_ofNat, Nat.testBit_two_pow]
  by_cases hj : j < 16
  · unfold withFlag
    by_cases h : j = i
    · subst h; cases v <;> simp only [Bool.false_eq_true, if_false, if_true, BitVec.getLsbD_and, BitVec.getLsbD_or, BitVec.getLsbD_not, hp, hj, decide_true, Bool.and_true, Bool.not_true, Bool.and_false, Bool.or_true]
    · have h' : i ≠ j := fun e => h e.symm
      cases v <;> simp only [Bool.false_eq_true, if_false, if_true, BitVec.getLsbD_and, BitVec.getLsbD_or, BitVec.getLsbD_not, hp, hj, h, h', decide_true, decide_false, Bool.and_true, Bool.not_false, Bool.and_false, Bool.or_false]
  · have : j ≠ i := by omega
    rw [if_neg this, BitVec.getLsbD_of_ge _ _ (Nat.not_lt.mp hj), BitVec.getLsbD_of_ge _ _ (Nat.not_lt.mp hj)]

theorem wordOk_iff (p : Bool) (w : BitVec 16) (h : w.getLsbD mSafe = false) : wordOk p w = true ↔
    (w.getLsbD mLive = !w.getLsbD mDark) ∧ (w.getLsbD mActive = true → w.getLsbD mStandby = false) ∧
    (p = false → w.getLsbD mActive = false ∧ w.getLsbD mStandby = false) ∧ (w.getLsbD mAdrift = true → w.getLsbD mStandby = true) ∧
    (w.getLsbD mDoze = true → w.getLsbD mDark = true ∧ w.getLsbD mLive = false) := by
  unfold wordOk
  simp only [h]
  generalize w.getLsbD mLive = a; generalize w.getLsbD mDark = b; generalize w.getLsbD mActive = c
  generalize w.getLsbD mStandby = d; generalize w.getLsbD mAdrift = e; generalize w.getLsbD mDoze = f
  cases p <;> cases a <;> cases b <;> cases c <;> cases d <;> cases e <;> cases f <;> simp
/-- Setting or clearing flag i keeps the mode word legal (R344). -/
def SetOk (s : State) (i : Nat) (v : Bool) : Prop :=
  i = mCoast ∨ i = mShallow ∨ (i = mActive ∧ v = false) ∨ (i = mAdrift ∧ (v = false ∨ s.flag mStandby = true)) ∨
  (i = mStandby ∧ s.isPair = true ∧ s.flag mActive = false ∧ v = true)

theorem SetOk.coast (s : State) (v : Bool) : SetOk s mCoast v := .inl rfl
theorem SetOk.shallow (s : State) (v : Bool) : SetOk s mShallow v := .inr (.inl rfl)
theorem SetOk.release (s : State) : SetOk s mActive false := .inr (.inr (.inl ⟨rfl, rfl⟩))
theorem SetOk.rejoin (s : State) : SetOk s mAdrift false := .inr (.inr (.inr (.inl ⟨rfl, .inl rfl⟩)))
theorem SetOk.adrift {s : State} (h : s.flag mStandby = true) : SetOk s mAdrift true := .inr (.inr (.inr (.inl ⟨rfl, .inr h⟩)))

/-- As `Keeps`, for how a command ends at acceptance and for an outcome. -/
def KeepsR (s : State) : Reply → Prop
  | .refuse _ _ => True
  | .done t _ => Keeps s t
  | .owe t _ => Keeps s t
  | .deferred t => Keeps s t
def KeepsO (s : State) : Host.Outcome State Fault Refusal → Prop
  | .next t => Keeps s t
  | _ => True

/-- For a reset: the queue is the same, the ring memory stays canonical and the mode word legal. -/
def KeepsQ (s : State) : Host.Outcome State Fault Refusal → Prop
  | .next t => t.pending = s.pending ∧ (s.memOk → t.memOk) ∧ (s.modeOk → t.modeOk) ∧ (s.boundOk → t.boundOk)
  | _ => True

theorem Keeps.toQ {s t : State} (h : Keeps s t) : KeepsQ s (.next t) := ⟨h.queue, h.mem, h.mode, h.bound⟩
theorem KeepsO.toQ {s : State} {o : Host.Outcome State Fault Refusal} (h : KeepsO s o) : KeepsQ s o := by
  cases o with
  | next t => exact Keeps.toQ h
  | _ => trivial
theorem KeepsQ.ite {c : Prop} [Decidable c] {s : State} {a b : Host.Outcome State Fault Refusal} (ha : c → KeepsQ s a)
    (hb : ¬c → KeepsQ s b) : KeepsQ s (if c then a else b) := by split <;> simp_all

theorem KeepsR.no (s : State) (st : Status) : KeepsR s (no st) := trivial
theorem KeepsR.refuse (s : State) (st : Status) (b : Bytes) : KeepsR s (.refuse st b) := trivial
theorem KeepsR.done {s t : State} {b : Bytes} (h : Keeps s t) : KeepsR s (.done t b) := h
theorem KeepsR.owe {s t : State} {k : Nat} (h : Keeps s t) : KeepsR s (.owe t k) := h
theorem KeepsR.deferred {s t : State} (h : Keeps s t) : KeepsR s (.deferred t) := h
theorem KeepsO.next {s t : State} (h : Keeps s t) : KeepsO s (.next t) := h
theorem KeepsR.ite {c : Prop} [Decidable c] {s : State} {a b : Reply} (ha : c → KeepsR s a) (hb : ¬c → KeepsR s b) :
    KeepsR s (if c then a else b) := by split <;> simp_all
theorem KeepsO.ite {c : Prop} [Decidable c] {s : State} {a b : Host.Outcome State Fault Refusal} (ha : c → KeepsO s a)
    (hb : ¬c → KeepsO s b) : KeepsO s (if c then a else b) := by split <;> simp_all

end Sys2Proof.Machine
end

