-- ==== Sys2Proof/Laws/KeepsFlags.lean ====
section
/-!
SUPPORT. What the operations of Machine/Flags.lean keep.
-/
namespace Sys2Proof.Machine

theorem State.freeInt_keeps {s0 : State} {s : State} (h_s : Keeps s0 s)  :
    Keeps s0 (State.freeInt s).2 := by
  unfold State.freeInt
  repeat' (first
    | with_reducible assumption
    | intro _
    | with_reducible refine Keeps.mk' ?_ ?_ ?_ ?_ ?_
    | exact rfl)

theorem sendVector_keeps {s0 : State} {v : Nat} {s : State} (h_s : Keeps s0 s)  :
    Keeps s0 (sendVector v s) := by
  unfold sendVector
  repeat' (first
    | with_reducible assumption
    | with_reducible apply Keeps.ite
    | intro _
    | with_reducible refine Keeps.mk' ?_ ?_ ?_ ?_ ?_
    | exact rfl)

theorem sendMsix_keeps {s0 : State} {i : Nat} {s : State} (h_s : Keeps s0 s)  :
    Keeps s0 (sendMsix i s) := by
  unfold sendMsix
  repeat' (first
    | with_reducible assumption
    | with_reducible apply sendVector_keeps
    | with_reducible apply Keeps.ite
    | intro _
    | with_reducible refine Keeps.mk' ?_ ?_ ?_ ?_ ?_
    | exact rfl)

theorem releaseMsix_keeps {s0 : State} {s : State} (h_s : Keeps s0 s)  :
    Keeps s0 (releaseMsix s) := by
  unfold releaseMsix
  repeat' (first
    | with_reducible assumption
    | with_reducible apply sendVector_keeps
    | with_reducible apply Keeps.ite
    | intro _
    | with_reducible apply Keeps.foldl
    | with_reducible apply Keeps.foldl_snd
    | with_reducible refine Keeps.mk' ?_ ?_ ?_ ?_ ?_
    | exact rfl)

theorem noteEvent_keeps {s0 : State} {i : Nat} {s : State} (h_s : Keeps s0 s)  :
    Keeps s0 (noteEvent i s) :=
  Keeps.mkB h_s rfl rfl rfl fun h => ⟨h.1, h.2.1, fun e he => by
    obtain ⟨x, hx, rfl⟩ := List.mem_map.1 he
    dsimp only
    split <;> exact h.2.2 x hx⟩

theorem raise_keeps {s0 : State} {i : Nat} {s : State} (h_s : Keeps s0 s)  :
    Keeps s0 (raise i s) := by
  unfold raise
  repeat' (first
    | with_reducible assumption
    | with_reducible apply sendMsix_keeps
    | with_reducible apply noteEvent_keeps
    | with_reducible apply Keeps.ite
    | intro _
    | with_reducible refine Keeps.mk' ?_ ?_ ?_ ?_ ?_
    | exact rfl)

theorem logEvent_keeps {s0 : State} {cause sub src : Nat} {args : List Nat} {s : State} (h_s : Keeps s0 s)  :
    Keeps s0 (logEvent cause sub src args s) := by
  unfold logEvent
  repeat' (first
    | with_reducible assumption
    | with_reducible apply raise_keeps
    | with_reducible apply Keeps.ite
    | intro _
    | split
    | dsimp -proj only
    | with_reducible refine Keeps.mk' ?_ ?_ ?_ ?_ ?_
    | exact rfl)

theorem setWord_keeps {s0 : State} {w : BitVec 16} {src : Nat} {s : State} (h : Keeps s0 s)
    (hm : s.modeOk → w = 0 ∨ wordOk s.isPair w = true) (hs : s.flag mSafe = true → w.getLsbD mSafe = true) :
    Keeps s0 (setWord w src s) := by
  unfold setWord
  refine Keeps.ite (fun _ => h) (fun _ => logEvent_keeps ?_)
  exact ⟨h.queue, h.mem, fun k => hm (h.mode k), fun k => hs (h.safe k), h.bound⟩

/-- A legal word with another flag set has SAFE clear (R344). -/
theorem safe_of_flag {p : Bool} {w : BitVec 16} {i : Nat} (h : w = 0 ∨ wordOk p w = true) (hi : w.getLsbD i = true)
    (n : i ≠ mSafe) : w.getLsbD mSafe = false := by
  rcases h with h | h
  · subst h; simp at hi
  · cases e : w.getLsbD mSafe
    · rfl
    · unfold wordOk at h
      simp [e] at h
      have : w = BitVec.ofNat 16 (2 ^ mSafe) := h.1.1.1.1
      rw [this, BitVec.getLsbD_ofNat, Nat.testBit_two_pow] at hi
      simp at hi
      omega

/-- A unit of a pair leaves ACTIVE for STANDBY (Table 12.4). -/
theorem yield_ok {p : Bool} {w : BitVec 16} (h : w = 0 ∨ wordOk p w = true) (ha : w.getLsbD mActive = true) :
    wordOk p (withFlag (withFlag w mActive false) mStandby true) = true := by
  have hs := safe_of_flag h ha (by decide)
  have h := h.resolve_left (fun e => by simp [e] at ha)
  rw [wordOk_iff _ _ hs] at h
  rw [wordOk_iff _ _ (by simp (disch := decide) only [getLsbD_withFlag]; simpa [mSafe, mLive, mDark, mDoze, mActive, mStandby, mAdrift] using hs)]
  simp (disch := decide) only [getLsbD_withFlag]
  simp [mSafe, mLive, mDark, mDoze, mActive, mStandby, mAdrift] at h ha ⊢
  simp_all

/-- A claim keeps the word legal (R305). -/
theorem claim_ok {p : Bool} {w : BitVec 16} (h : w = 0 ∨ wordOk p w = true) (ha : w.getLsbD mStandby = true) :
    wordOk p (withFlag (withFlag (withFlag (withFlag w mActive true) mStandby false) mAdrift false) mLoop false) = true := by
  have hs := safe_of_flag h ha (by decide)
  have h := h.resolve_left (fun e => by simp [e] at ha)
  rw [wordOk_iff _ _ hs] at h
  rw [wordOk_iff _ _ (by simp (disch := decide) only [getLsbD_withFlag]; simpa [mSafe, mLive, mDark, mDoze, mActive, mStandby, mAdrift, mLoop] using hs)]
  simp (disch := decide) only [getLsbD_withFlag]
  simp [mSafe, mLive, mDark, mDoze, mActive, mStandby, mAdrift, mLoop] at h ha ⊢
  simp_all

theorem safeWord_ok (p : Bool) : wordOk p (BitVec.ofNat 16 (2 ^ mSafe)) = true := by cases p <;> decide

/-- Another flag leaves SAFE. -/
theorem safe_withFlag {w : BitVec 16} {i : Nat} {v : Bool} (h : w.getLsbD mSafe = true) (hi : i < 16) (n : i ≠ mSafe) :
    (withFlag w i v).getLsbD mSafe = true := by
  rw [getLsbD_withFlag _ _ _ _ hi, if_neg (Ne.symm n)]; exact h

/-- A cause and a log entry leave the power and boot records. -/
theorem sendMsix_power (i : Nat) (s : State) : (sendMsix i s).power = s.power ∧ (sendMsix i s).boot = s.boot := by
  unfold sendMsix sendVector
  split
  · split <;> exact ⟨rfl, rfl⟩
  · exact ⟨rfl, rfl⟩

/-- The same of a cause alone. -/
theorem raise_power (i : Nat) (s : State) : (raise i s).power = s.power ∧ (raise i s).boot = s.boot := by
  unfold raise noteEvent
  dsimp only
  split <;> split <;> first | exact ⟨rfl, rfl⟩ | exact sendMsix_power ..

theorem logEvent_power (cause sub src : Nat) (args : List Nat) (s : State) :
    (logEvent cause sub src args s).power = s.power ∧ (logEvent cause sub src args s).boot = s.boot := by
  unfold logEvent
  dsimp only
  exact raise_power _ _

theorem setWord_power (w : BitVec 16) (src : Nat) (s : State) :
    (setWord w src s).power.word = w ∧ (setWord w src s).boot = s.boot := by
  unfold setWord
  split
  · exact ⟨by simp_all, rfl⟩
  · rw [(logEvent_power ..).1, (logEvent_power ..).2]; exact ⟨rfl, rfl⟩

theorem setFlag_keeps {s0 : State} {i : Nat} {v : Bool} {src : Nat} {s : State} (h : Keeps s0 s)
    (hk : s.modeOk → SetOk s i v) : Keeps s0 (setFlag i v src s) := by
  unfold setFlag
  refine Keeps.ite (fun _ => h) (fun hn => setWord_keeps h ?_ ?_)
  · intro ho
    have hz : s.power.word ≠ 0 := by intro e; simp [e] at hn
    have hf : s.power.word.getLsbD mSafe = false := by
      cases e : s.flag mSafe <;> simp [e] at hn; exact e
    have hw := ho.resolve_left hz
    have hi : i < 16 := by rcases hk ho with h | h | ⟨h, _⟩ | ⟨h, _⟩ | ⟨h, _⟩ <;> subst h <;> decide
    have hi' : ¬mSafe = i := by rcases hk ho with h | h | ⟨h, _⟩ | ⟨h, _⟩ | ⟨h, _⟩ <;> subst h <;> decide
    right
    rw [wordOk_iff _ _ hf] at hw
    rw [wordOk_iff _ _ (by rw [getLsbD_withFlag _ _ _ _ hi, if_neg hi', hf])]
    simp only [getLsbD_withFlag _ _ _ _ hi]
    rcases hk ho with h | h | ⟨h, h'⟩ | ⟨h, h'⟩ | ⟨h, h', k, kv⟩ <;> subst h
    · simpa [mLive, mDark, mActive, mStandby, mAdrift, mDoze, mCoast] using hw
    · simpa [mLive, mDark, mActive, mStandby, mAdrift, mDoze, mShallow] using hw
    · subst h'; simp [mLive, mDark, mActive, mStandby, mAdrift, mDoze] at hw ⊢
      exact ⟨hw.1, fun p => (hw.2.2.1 p).2, hw.2.2.2.1, hw.2.2.2.2⟩
    · simp [State.flag, mLive, mDark, mActive, mStandby, mAdrift, mDoze] at hw h' ⊢
      refine ⟨hw.1, hw.2.1, hw.2.2.1, fun hv => ?_, hw.2.2.2.2⟩
      rcases h' with h' | h'
      · simp [h'] at hv
      · exact h'
    · subst kv
      simp [State.flag, mLive, mDark, mActive, mStandby, mAdrift, mDoze] at hw k ⊢
      simp_all
  · intro hs; simp [hs] at hn

theorem setFlag_keeps_safe {s0 : State} {i : Nat} {v : Bool} {src : Nat} {s : State} (h : Keeps s0 s) (hs : s.flag mSafe = true) :
    Keeps s0 (setFlag i v src s) := by
  unfold setFlag; rw [if_pos (by simp [hs])]; exact h

theorem setWord_queue (w : BitVec 16) (src : Nat) (s : State) : (setWord w src s).pending = s.pending := by
  unfold setWord; split
  · rfl
  · exact (logEvent_keeps (s0 := { s with power.word := w }) (Keeps.refl _)).queue

theorem setWord_mem {w : BitVec 16} {src : Nat} {s : State} (h : s.memOk) : (setWord w src s).memOk := by
  unfold setWord; split
  · exact h
  · exact (logEvent_keeps (s0 := { s with power.word := w }) (Keeps.refl _)).mem h

theorem setWord_bound {w : BitVec 16} {src : Nat} {s : State} (h : s.boundOk) : (setWord w src s).boundOk := by
  unfold setWord; split
  · exact h
  · exact (logEvent_keeps (s0 := { s with power.word := w }) (Keeps.refl _)).bound h

theorem localFault_keeps {s0 : State} {kind index bits : Nat} {s : State} (h_s : Keeps s0 s)  :
    Keeps s0 (localFault kind index bits s) := by
  unfold localFault
  repeat' (first
    | with_reducible assumption
    | with_reducible apply logEvent_keeps
    | intro _
    | with_reducible refine Keeps.mk' ?_ ?_ ?_ ?_ ?_
    | exact rfl)

theorem timeEvent_keeps {s0 : State} {sub : Nat} {args : List Nat} {s : State} (h_s : Keeps s0 s)  :
    Keeps s0 (timeEvent sub args s) := by
  unfold timeEvent
  repeat' (first
    | with_reducible assumption
    | with_reducible apply logEvent_keeps
    | intro _
    | with_reducible refine Keeps.mk' ?_ ?_ ?_ ?_ ?_
    | exact rfl)

theorem twinEvent_keeps {s0 : State} {sub arg : Nat} {s : State} (h_s : Keeps s0 s)  :
    Keeps s0 (twinEvent sub arg s) := by
  unfold twinEvent
  repeat' (first
    | with_reducible assumption
    | with_reducible apply logEvent_keeps
    | intro _
    | with_reducible refine Keeps.mk' ?_ ?_ ?_ ?_ ?_
    | exact rfl)

end Sys2Proof.Machine
end

