-- ==== Sys2Proof/Laws/KeepsOps.lean ====
section
/-!
SUPPORT. What the operations of Machine/Ops.lean keep.
-/
namespace Sys2Proof.Machine

/-- A chunk index wraps at 128 (R323). -/
theorem chkDev_ok {n : Nat} {x : Master} (h : Master.indicesOk x) : Master.indicesOk { x with chkDev := n % 128 } := by
  unfold Master.indicesOk at *; dsimp only; omega

theorem updMaster_keeps {s0 : State} {m : Nat} {f : Master → Master} {s : State} (h_s : Keeps s0 s)
    (hf : ∀ x, Master.indicesOk x → Master.indicesOk (f x)) : Keeps s0 (updMaster m f s) :=
  Keeps.mkB h_s rfl rfl rfl fun h =>
    ⟨h.1, h.2.1, SMap.all_upd (P := Master.indicesOk) h.2.2 (by unfold Master.indicesOk; decide) hf⟩

theorem send_keeps {s0 : State} {m : OutMsg} {s : State} (h_s : Keeps s0 s)  :
    Keeps s0 (send m s) := by
  unfold send
  repeat' (first
    | with_reducible assumption
    | intro _
    | with_reducible refine Keeps.mk' ?_ ?_ ?_ ?_ ?_
    | exact rfl)

theorem updPort_keeps {s0 : State} {p : Nat} {f : Port → Port} {s : State} (h_s : Keeps s0 s)  :
    Keeps s0 (updPort p f s) := by
  unfold updPort
  repeat' (first
    | with_reducible assumption
    | intro _
    | with_reducible refine Keeps.mk' ?_ ?_ ?_ ?_ ?_
    | exact rfl)

theorem queueOwn_keeps {s0 : State} {port queue len dscp : Nat} {s : State} (h_s : Keeps s0 s)  :
    Keeps s0 (queueOwn port queue len dscp s) := by
  unfold queueOwn
  repeat' (first
    | with_reducible assumption
    | with_reducible apply updPort_keeps
    | with_reducible apply Keeps.ite
    | intro _
    | with_reducible refine Keeps.mk' ?_ ?_ ?_ ?_ ?_
    | exact rfl)

theorem sendDatagram_keeps {s0 : State} {m kind offset : Nat} {data : Bytes} {s : State} (h_s : Keeps s0 s)  :
    Keeps s0 (sendDatagram m kind offset data s) := by
  unfold sendDatagram
  repeat' (first
    | with_reducible assumption
    | with_reducible apply send_keeps
    | exact fun _ h => h
    | (intro _ h; split <;> exact h)
    | (intro _ h; unfold Master.indicesOk at *; dsimp only; omega)
    | with_reducible apply updMaster_keeps
    | with_reducible apply queueOwn_keeps
    | with_reducible apply Keeps.ite
    | intro _
    | split
    | dsimp -proj only
    | with_reducible refine Keeps.mk' ?_ ?_ ?_ ?_ ?_
    | exact rfl)

theorem sendSegments_keeps {s0 : State} {n m off : Nat} {p : Bytes} {s : State} (h : Keeps s0 s) :
    Keeps s0 (sendSegments n m off p s) := by
  induction n generalizing off p s with
  | zero => exact h
  | succ n ih => unfold sendSegments; exact Keeps.ite (fun _ => h) fun _ => ih (sendDatagram_keeps h)

theorem Keeps.set_mem {s0 s : State} {m : List Host.Cell} (h : Keeps s0 s)
    (hm : memWf s.host.mem = true → memWf m = true) : Keeps s0 { s with host.mem := m } :=
  ⟨h.queue, fun k => hm (h.mem k), h.mode, h.safe, h.bound⟩

theorem memWf_ite {c : Prop} [Decidable c] {a b : List Host.Cell} (ha : memWf a = true) (hb : memWf b = true) :
    memWf (if c then a else b) = true := by by_cases h : c <;> simp [h, ha, hb]

theorem writeResponse_keeps {s0 : State} {r : Response} {roff : Nat} {s : State} (h : Keeps s0 s) :
    Keeps s0 (writeResponse r roff s) := by
  unfold writeResponse
  generalize responseBytes s r roff = e
  have hm := fun (c : Prop) [Decidable c] (k : memWf s.host.mem = true) => memWf_ite (c := c)
    (memWf_writeBytes _ (rspBulk r.master + roff) r.body
      (memWf_writeBytes _ (rspRing r.master + 256 * ((s.master r.master).rspTail % 64)) e k))
    (memWf_writeBytes _ (rspRing r.master + 256 * ((s.master r.master).rspTail % 64)) e k)
  have hu := fun (c : Prop) [Decidable c] => updMaster_keeps (m := r.master) (h.set_mem (hm c)) (f := fun x => { x with
    rspTail := (x.rspTail + 1) % 128,
    bulk := if !r.crane && r.body.length > 192 then x.bulk ++ [(x.rspTail, roff, r.body.length)] else x.bulk,
    answers := if x.seqs.contains r.seq && !r.repeated then (x.answers.filter fun a => a.seq != r.seq) ++ [r]
               else x.answers }) fun x h => by unfold Master.indicesOk at *; dsimp only; omega
  exact Keeps.ite (fun _ => raise_keeps (hu _)) fun _ => sendDatagram_keeps (Keeps.ite
    (fun _ => sendSegments_keeps (hu _)) fun _ => hu _)

theorem dropSeq_keeps {s0 : State} {m seq : Nat} {s : State} (h_s : Keeps s0 s)  :
    Keeps s0 (dropSeq m seq s) := by
  unfold dropSeq
  repeat' (first
    | with_reducible assumption
    | exact fun _ h => h
    | (intro _ h; split <;> exact h)
    | (intro _ h; unfold Master.indicesOk at *; dsimp only; omega)
    | with_reducible apply updMaster_keeps
    | intro _
    | with_reducible refine Keeps.mk' ?_ ?_ ?_ ?_ ?_
    | exact rfl)

theorem respond_keeps {s0 : State} {r : Response} {s : State} (h_s : Keeps s0 s)  :
    Keeps s0 (respond r s) := by
  unfold respond
  repeat' (first
    | with_reducible assumption
    | exact fun _ h => h
    | (intro _ h; split <;> exact h)
    | (intro _ h; unfold Master.indicesOk at *; dsimp only; omega)
    | with_reducible apply updMaster_keeps
    | with_reducible apply writeResponse_keeps
    | with_reducible apply Keeps.ite
    | intro _
    | split
    | dsimp -proj only
    | with_reducible refine Keeps.mk' ?_ ?_ ?_ ?_ ?_
    | exact rfl)

theorem flushHeld_keeps {s0 : State} {n m : Nat} {s : State} (h : Keeps s0 s) : Keeps s0 (flushHeld n m s) := by
  induction n generalizing s with
  | zero => exact h
  | succ n ih =>
    unfold flushHeld; split
    · exact h
    · split
      · exact h
      · exact ih (writeResponse_keeps (updMaster_keeps h fun _ k => k))

theorem answerOwed_keeps {s0 : State} {o : Owed} {st : Status} {body : Bytes} {s : State} (h_s : Keeps s0 s)  :
    Keeps s0 (answerOwed o st body s) := by
  unfold answerOwed
  repeat' (first
    | with_reducible assumption
    | with_reducible apply respond_keeps
    | with_reducible apply dropSeq_keeps
    | with_reducible apply Keeps.ite
    | intro _
    | with_reducible refine Keeps.mk' ?_ ?_ ?_ ?_ ?_
    | exact rfl)

theorem settleOwed_keeps {s0 : State} {op : Opcode} {key : Nat} {st : Status} {body : Bytes} {s : State} (h_s : Keeps s0 s)  :
    Keeps s0 (settleOwed op key st body s) := by
  unfold settleOwed
  repeat' (first
    | with_reducible assumption
    | with_reducible apply answerOwed_keeps
    | intro _
    | with_reducible apply Keeps.foldl
    | with_reducible apply Keeps.foldl_snd
    | with_reducible refine Keeps.mk' ?_ ?_ ?_ ?_ ?_
    | exact rfl)

theorem updObj_keeps {s0 : State} {id : Nat} {f : ObjEntry → ObjEntry} {s : State} (h_s : Keeps s0 s)  :
    Keeps s0 (updObj id f s) := by
  unfold updObj
  repeat' (first
    | with_reducible assumption
    | intro _
    | with_reducible refine Keeps.mk' ?_ ?_ ?_ ?_ ?_
    | exact rfl)

theorem updObjStat_keeps {s0 : State} {id : Nat} {f : ObjStat → ObjStat} {s : State} (h_s : Keeps s0 s)  :
    Keeps s0 (updObjStat id f s) := by
  unfold updObjStat
  repeat' (first
    | with_reducible assumption
    | intro _
    | with_reducible refine Keeps.mk' ?_ ?_ ?_ ?_ ?_
    | exact rfl)

theorem updPeerSt_keeps {s0 : State} {i : Nat} {f : PeerStat → PeerStat} {s : State} (h_s : Keeps s0 s)  :
    Keeps s0 (updPeerSt i f s) := by
  unfold updPeerSt
  repeat' (first
    | with_reducible assumption
    | intro _
    | with_reducible refine Keeps.mk' ?_ ?_ ?_ ?_ ?_
    | exact rfl)

theorem updPortStat_keeps {s0 : State} {p : Nat} {f : PortStat → PortStat} {s : State} (h_s : Keeps s0 s)  :
    Keeps s0 (updPortStat p f s) := by
  unfold updPortStat
  repeat' (first
    | with_reducible assumption
    | with_reducible apply updPort_keeps
    | intro _
    | with_reducible refine Keeps.mk' ?_ ?_ ?_ ?_ ?_
    | exact rfl)

theorem updQuay_keeps {s0 : State} {q : Nat} {f : Quay → Quay} {s : State} (h_s : Keeps s0 s)  :
    Keeps s0 (updQuay q f s) := by
  unfold updQuay
  repeat' (first
    | with_reducible assumption
    | intro _
    | with_reducible refine Keeps.mk' ?_ ?_ ?_ ?_ ?_
    | exact rfl)

theorem updOutChain_keeps {s0 : State} {o : Nat} {f : OutChain → OutChain} {s : State} (h_s : Keeps s0 s)  :
    Keeps s0 (updOutChain o f s) := by
  unfold updOutChain
  repeat' (first
    | with_reducible assumption
    | intro _
    | with_reducible refine Keeps.mk' ?_ ?_ ?_ ?_ ?_
    | exact rfl)

theorem updAccord_keeps {s0 : State} {o : Nat} {f : AccordSlots → AccordSlots} {s : State} (h_s : Keeps s0 s)  :
    Keeps s0 (updAccord o f s) := by
  unfold updAccord
  repeat' (first
    | with_reducible assumption
    | intro _
    | with_reducible refine Keeps.mk' ?_ ?_ ?_ ?_ ?_
    | exact rfl)

theorem updMute_keeps {s0 : State} {o : Nat} {f : MuteRamp → MuteRamp} {s : State} (h_s : Keeps s0 s)  :
    Keeps s0 (updMute o f s) := by
  unfold updMute
  repeat' (first
    | with_reducible assumption
    | intro _
    | with_reducible refine Keeps.mk' ?_ ?_ ?_ ?_ ?_
    | exact rfl)

theorem updDest_keeps {s0 : State} {c : Nat} {f : Dest → Dest} {s : State} (h_s : Keeps s0 s)  :
    Keeps s0 (updDest c f s) := by
  unfold updDest
  repeat' (first
    | with_reducible assumption
    | intro _
    | with_reducible refine Keeps.mk' ?_ ?_ ?_ ?_ ?_
    | exact rfl)

theorem updClock_keeps {s0 : State} {p : Nat} {f : PortClock → PortClock} {s : State} (h_s : Keeps s0 s)  :
    Keeps s0 (updClock p f s) := by
  unfold updClock
  repeat' (first
    | with_reducible assumption
    | intro _
    | with_reducible refine Keeps.mk' ?_ ?_ ?_ ?_ ?_
    | exact rfl)

theorem updTrig_keeps {s0 : State} {i : Nat} {f : Trigger → Trigger} {s : State} (h_s : Keeps s0 s)  :
    Keeps s0 (updTrig i f s) := by
  unfold updTrig
  repeat' (first
    | with_reducible assumption
    | intro _
    | with_reducible refine Keeps.mk' ?_ ?_ ?_ ?_ ?_
    | exact rfl)

theorem updCapt_keeps {s0 : State} {i : Nat} {f : Capture → Capture} {s : State} (h_s : Keeps s0 s)
    (hf : ∀ x, x.queue.length ≤ 16 → (f x).queue.length ≤ 16) : Keeps s0 (updCapt i f s) :=
  Keeps.mkB h_s rfl rfl rfl fun h =>
    ⟨h.1, SMap.all_upd (P := fun x : Capture => x.queue.length ≤ 16) h.2.1 (by decide) hf, h.2.2⟩

theorem updAnaIn_keeps {s0 : State} {i : Nat} {f : AnaIn → AnaIn} {s : State} (h_s : Keeps s0 s)  :
    Keeps s0 (updAnaIn i f s) := by
  unfold updAnaIn
  repeat' (first
    | with_reducible assumption
    | intro _
    | with_reducible refine Keeps.mk' ?_ ?_ ?_ ?_ ?_
    | exact rfl)

theorem updAnaOut_keeps {s0 : State} {i : Nat} {f : AnaOut → AnaOut} {s : State} (h_s : Keeps s0 s)  :
    Keeps s0 (updAnaOut i f s) := by
  unfold updAnaOut
  repeat' (first
    | with_reducible assumption
    | intro _
    | with_reducible refine Keeps.mk' ?_ ?_ ?_ ?_ ?_
    | exact rfl)

theorem updLoop_keeps {s0 : State} {i : Nat} {f : Loop → Loop} {s : State} (h_s : Keeps s0 s)  :
    Keeps s0 (updLoop i f s) := by
  unfold updLoop
  repeat' (first
    | with_reducible assumption
    | intro _
    | with_reducible refine Keeps.mk' ?_ ?_ ?_ ?_ ?_
    | exact rfl)

theorem updTdm_keeps {s0 : State} {i : Nat} {f : Tdm → Tdm} {s : State} (h_s : Keeps s0 s)  :
    Keeps s0 (updTdm i f s) := by
  unfold updTdm
  repeat' (first
    | with_reducible assumption
    | intro _
    | with_reducible refine Keeps.mk' ?_ ?_ ?_ ?_ ?_
    | exact rfl)

theorem updPin_keeps {s0 : State} {i : Nat} {f : Pin → Pin} {s : State} (h_s : Keeps s0 s)  :
    Keeps s0 (updPin i f s) := by
  unfold updPin
  repeat' (first
    | with_reducible assumption
    | intro _
    | with_reducible refine Keeps.mk' ?_ ?_ ?_ ?_ ?_
    | exact rfl)

theorem updTwinStat_keeps {s0 : State} {f : TwinStat → TwinStat} {s : State} (h_s : Keeps s0 s)  :
    Keeps s0 (updTwinStat f s) := by
  unfold updTwinStat
  repeat' (first
    | with_reducible assumption
    | intro _
    | with_reducible refine Keeps.mk' ?_ ?_ ?_ ?_ ?_
    | exact rfl)

theorem updServo_keeps {s0 : State} {f : Servo → Servo} {s : State} (h_s : Keeps s0 s)  :
    Keeps s0 (updServo f s) := by
  unfold updServo
  repeat' (first
    | with_reducible assumption
    | intro _
    | with_reducible refine Keeps.mk' ?_ ?_ ?_ ?_ ?_
    | exact rfl)

theorem updMemStat_keeps {s0 : State} {f : MemStat → MemStat} {s : State} (h_s : Keeps s0 s)  :
    Keeps s0 (updMemStat f s) := by
  unfold updMemStat
  repeat' (first
    | with_reducible assumption
    | intro _
    | with_reducible refine Keeps.mk' ?_ ?_ ?_ ?_ ?_
    | exact rfl)

theorem updRx_keeps {s0 : State} {b : Nat} {f : RxBerth → RxBerth} {s : State} (h_s : Keeps s0 s)  :
    Keeps s0 (updRx b f s) := by
  unfold updRx
  repeat' (first
    | with_reducible assumption
    | with_reducible apply Keeps.ite
    | intro _
    | with_reducible refine Keeps.mk' ?_ ?_ ?_ ?_ ?_
    | exact rfl)

theorem updTx_keeps {s0 : State} {b : Nat} {f : TxBerth → TxBerth} {s : State} (h_s : Keeps s0 s)  :
    Keeps s0 (updTx b f s) := by
  unfold updTx
  repeat' (first
    | with_reducible assumption
    | with_reducible apply Keeps.ite
    | intro _
    | with_reducible refine Keeps.mk' ?_ ?_ ?_ ?_ ?_
    | exact rfl)

end Sys2Proof.Machine
end

