-- ==== Sys2Proof/Laws/KeepsWire.lean ====
section
/-!
SUPPORT. What the operations of Machine/Wire.lean keep.
-/
namespace Sys2Proof.Machine

theorem queuePackets_keeps {s0 : State} {ps : List (Nat × TxPkt)} {s : State} (h_s : Keeps s0 s)  :
    Keeps s0 (queuePackets ps s) := by
  unfold queuePackets
  repeat' (first
    | with_reducible assumption
    | with_reducible apply updPort_keeps
    | with_reducible apply updTx_keeps
    | with_reducible apply Keeps.ite
    | intro _
    | with_reducible apply Keeps.foldl
    | with_reducible apply Keeps.foldl_snd
    | split
    | dsimp -proj only
    | with_reducible refine Keeps.mk' ?_ ?_ ?_ ?_ ?_
    | exact rfl)

theorem sendService_keeps {s0 : State} {service count : Nat} {payload : Bytes} {s : State} (h_s : Keeps s0 s)  :
    Keeps s0 (sendService service count payload s) := by
  unfold sendService
  repeat' (first
    | with_reducible assumption
    | with_reducible apply queuePackets_keeps
    | with_reducible apply Keeps.ite
    | intro _
    | with_reducible refine Keeps.mk' ?_ ?_ ?_ ?_ ?_
    | exact rfl)

theorem sendMoor_keeps {s0 : State} {kind : Nat} {m : MoorHdr → OutMsg} {s : State} (h_s : Keeps s0 s)  :
    Keeps s0 (sendMoor kind m s) := by
  unfold sendMoor
  repeat' (first
    | with_reducible assumption
    | intro _
    | split
    | dsimp -proj only
    | with_reducible refine Keeps.mk' ?_ ?_ ?_ ?_ ?_
    | exact rfl)

theorem sendTwin_keeps {s0 : State} {kind : Nat} {moor : Bool} {args : List Nat} {data : Bytes} {s : State} (h_s : Keeps s0 s)  :
    Keeps s0 (sendTwin kind moor args data s) := by
  unfold sendTwin
  repeat' (first
    | with_reducible assumption
    | with_reducible apply sendMoor_keeps
    | with_reducible apply sendService_keeps
    | with_reducible apply send_keeps
    | with_reducible apply Keeps.ite
    | intro _
    | with_reducible refine Keeps.mk' ?_ ?_ ?_ ?_ ?_
    | exact rfl)

theorem sendSeg_keeps {s0 : State} {bytes : Nat} {seg : WarpSeg} {s : State} (h_s : Keeps s0 s)  :
    Keeps s0 (sendSeg bytes seg s) := by
  unfold sendSeg
  repeat' (first
    | with_reducible assumption
    | with_reducible apply sendMoor_keeps
    | intro _
    | with_reducible refine Keeps.mk' ?_ ?_ ?_ ?_ ?_
    | exact rfl)

theorem forwardCmd_keeps {s0 : State} {o : Origin} {op : Opcode} {rank apply : Nat} {payload : Bytes} {s : State} (h_s : Keeps s0 s)  :
    Keeps s0 (forwardCmd o op rank apply payload s) := by
  unfold forwardCmd
  repeat' (first
    | with_reducible assumption
    | with_reducible apply sendTwin_keeps
    | with_reducible apply Keeps.ite
    | intro _
    | with_reducible refine Keeps.mk' ?_ ?_ ?_ ?_ ?_
    | exact rfl)

theorem forwardDecision_keeps {s0 : State} {args : List Nat} {s : State} (h_s : Keeps s0 s)  :
    Keeps s0 (forwardDecision args s) := by
  unfold forwardDecision
  repeat' (first
    | with_reducible assumption
    | with_reducible apply sendTwin_keeps
    | with_reducible apply Keeps.ite
    | intro _
    | with_reducible refine Keeps.mk' ?_ ?_ ?_ ?_ ?_
    | exact rfl)

theorem forwardNose_keeps {s0 : State} {args : List Nat} {data : Bytes} {s : State} (h_s : Keeps s0 s)  :
    Keeps s0 (forwardNose args data s) := by
  unfold forwardNose
  repeat' (first
    | with_reducible assumption
    | with_reducible apply sendTwin_keeps
    | with_reducible apply Keeps.ite
    | intro _
    | with_reducible refine Keeps.mk' ?_ ?_ ?_ ?_ ?_
    | exact rfl)

theorem setAdrift_keeps {s0 : State} {reason : Nat} {s : State} (h : Keeps s0 s) : Keeps s0 (setAdrift reason s) := by
  unfold setAdrift
  refine Keeps.ite (fun hc => twinEvent_keeps (Keeps.mk' (setFlag_keeps h fun _ => SetOk.adrift ?_) rfl rfl rfl rfl)) fun _ => h
  simp at hc; exact hc.1

theorem failWarp_keeps {s0 : State} {again : Bool} {s : State} (h_s : Keeps s0 s)  :
    Keeps s0 (failWarp again s) := by
  unfold failWarp
  repeat' (first
    | with_reducible assumption
    | with_reducible apply twinEvent_keeps
    | intro _
    | with_reducible refine Keeps.mk' ?_ ?_ ?_ ?_ ?_
    | exact rfl)

theorem endWarp_keeps {s0 : State} {again : Bool} {s : State} (h_s : Keeps s0 s)  :
    Keeps s0 (endWarp again s) := by
  unfold endWarp
  repeat' (first
    | with_reducible assumption
    | with_reducible apply sendTwin_keeps
    | with_reducible apply failWarp_keeps
    | with_reducible apply Keeps.ite
    | intro _
    | with_reducible refine Keeps.mk' ?_ ?_ ?_ ?_ ?_
    | exact rfl)

theorem abandonWarp_keeps {s0 : State} {s : State} (h_s : Keeps s0 s)  :
    Keeps s0 (abandonWarp s) := by
  unfold abandonWarp
  repeat' (first
    | with_reducible assumption
    | with_reducible apply endWarp_keeps
    | intro _
    | with_reducible refine Keeps.mk' ?_ ?_ ?_ ?_ ?_
    | exact rfl)

end Sys2Proof.Machine
end

