-- ==== Sys2Proof/Laws/KeepsOperands.lean ====
section
/-!
SUPPORT. What the operations of Machine/Operands.lean keep.
-/
namespace Sys2Proof.Machine

theorem no_keeps {s0 : State} {st : Status}   :
    KeepsR s0 (no st) := by
  unfold no
  repeat' (first
    | with_reducible assumption
    | with_reducible apply KeepsR.no
    | with_reducible apply KeepsR.refuse
    | with_reducible apply KeepsR.done
    | with_reducible apply KeepsR.owe
    | with_reducible apply KeepsR.deferred
    | with_reducible apply KeepsR.ite
    | intro _
    | with_reducible refine Keeps.mk' ?_ ?_ ?_ ?_ ?_
    | exact rfl)

end Sys2Proof.Machine
end

