-- ==== Sys2Proof/Laws/KeepsChain.lean ====
section
/-!
SUPPORT. What the operations of Machine/Chain.lean keep.
-/
namespace Sys2Proof.Machine

theorem clearBase_keeps {s0 : State} {s : State} (h_s : Keeps s0 s)  :
    Keeps s0 (clearBase s) := by
  unfold clearBase
  repeat' (first
    | with_reducible assumption
    | intro _
    | with_reducible refine Keeps.mk' ?_ ?_ ?_ ?_ ?_
    | exact rfl)

theorem applyChainSet_keeps {s0 : State} {c : Cmd} {s : State} (h_s : Keeps s0 s)  :
    Keeps s0 (applyChainSet c s) := by
  unfold applyChainSet
  repeat' (first
    | with_reducible assumption
    | with_reducible apply abandonWarp_keeps
    | with_reducible apply clearBase_keeps
    | with_reducible apply updOutChain_keeps
    | with_reducible apply Keeps.ite
    | intro _
    | split
    | dsimp -proj only
    | with_reducible refine Keeps.mk' ?_ ?_ ?_ ?_ ?_
    | exact rfl)

theorem readChainSet_keeps {s0 : State} {p : Bytes} {s : State} (h_s : Keeps s0 s)  :
    KeepsR s0 (readChainSet p s) := by
  unfold readChainSet
  repeat' (first
    | with_reducible assumption
    | with_reducible apply no_keeps
    | with_reducible apply updOutChain_keeps
    | with_reducible apply KeepsR.no
    | with_reducible apply KeepsR.refuse
    | with_reducible apply KeepsR.done
    | with_reducible apply KeepsR.owe
    | with_reducible apply KeepsR.deferred
    | with_reducible apply KeepsR.ite
    | with_reducible apply Keeps.ite
    | intro _
    | split
    | dsimp -proj only
    | with_reducible refine Keeps.mk' ?_ ?_ ?_ ?_ ?_
    | exact rfl)

theorem applyBridgeSet_keeps {s0 : State} {c : Cmd} {s : State} (h_s : Keeps s0 s)  :
    Keeps s0 (applyBridgeSet c s) := by
  unfold applyBridgeSet
  repeat' (first
    | with_reducible assumption
    | with_reducible apply Keeps.ite
    | intro _
    | with_reducible refine Keeps.mk' ?_ ?_ ?_ ?_ ?_
    | exact rfl)

theorem readBridgeSet_keeps {s0 : State} {p : Bytes} {s : State} (h_s : Keeps s0 s)  :
    KeepsR s0 (readBridgeSet p s) := by
  unfold readBridgeSet
  repeat' (first
    | with_reducible assumption
    | with_reducible apply no_keeps
    | with_reducible apply KeepsR.no
    | with_reducible apply KeepsR.refuse
    | with_reducible apply KeepsR.done
    | with_reducible apply KeepsR.owe
    | with_reducible apply KeepsR.deferred
    | with_reducible apply KeepsR.ite
    | with_reducible apply Keeps.ite
    | intro _
    | with_reducible refine Keeps.mk' ?_ ?_ ?_ ?_ ?_
    | exact rfl)

end Sys2Proof.Machine
end

