-- ==== Sys2Proof/Laws/KeepsScene.lean ====
section
/-!
SUPPORT. What the operations of Machine/Scene.lean keep.
-/
namespace Sys2Proof.Machine

theorem countSuperseded_keeps {s0 : State} {node n : Nat} {s : State} (h_s : Keeps s0 s)  :
    Keeps s0 (countSuperseded node n s) := by
  unfold countSuperseded
  repeat' (first
    | with_reducible assumption
    | with_reducible apply updPeerSt_keeps
    | intro _
    | split
    | with_reducible refine Keeps.mk' ?_ ?_ ?_ ?_ ?_
    | exact rfl)

theorem applyObjSet_keeps {s0 : State} {c : Cmd} {s : State} (h_s : Keeps s0 s)  :
    Keeps s0 (applyObjSet c s) := by
  unfold applyObjSet
  repeat' (first
    | with_reducible assumption
    | with_reducible apply countSuperseded_keeps
    | with_reducible apply updObj_keeps
    | with_reducible apply updObjStat_keeps
    | with_reducible apply Keeps.ite
    | intro _
    | split
    | dsimp -proj only
    | with_reducible refine Keeps.mk' ?_ ?_ ?_ ?_ ?_
    | exact rfl)

theorem applyObjBind_keeps {s0 : State} {c : Cmd} {s : State} (h_s : Keeps s0 s)  :
    Keeps s0 (applyObjBind c s) := by
  unfold applyObjBind
  repeat' (first
    | with_reducible assumption
    | with_reducible apply updObjStat_keeps
    | with_reducible apply Keeps.ite
    | intro _
    | with_reducible refine Keeps.mk' ?_ ?_ ?_ ?_ ?_
    | exact rfl)

theorem applySpkSet_keeps {s0 : State} {c : Cmd} {s : State} (h_s : Keeps s0 s)  :
    Keeps s0 (applySpkSet c s) := by
  unfold applySpkSet
  repeat' (first
    | with_reducible assumption
    | intro _
    | with_reducible refine Keeps.mk' ?_ ?_ ?_ ?_ ?_
    | exact rfl)

theorem applyZoneSet_keeps {s0 : State} {c : Cmd} {s : State} (h_s : Keeps s0 s)  :
    Keeps s0 (applyZoneSet c s) := by
  unfold applyZoneSet
  repeat' (first
    | with_reducible assumption
    | intro _
    | with_reducible refine Keeps.mk' ?_ ?_ ?_ ?_ ?_
    | exact rfl)

theorem applyAirSet_keeps {s0 : State} {c : Cmd} {s : State} (h_s : Keeps s0 s)  :
    Keeps s0 (applyAirSet c s) := by
  unfold applyAirSet
  repeat' (first
    | with_reducible assumption
    | with_reducible apply Keeps.ite
    | intro _
    | with_reducible refine Keeps.mk' ?_ ?_ ?_ ?_ ?_
    | exact rfl)

theorem applyPeerSet_keeps {s0 : State} {c : Cmd} {s : State} (h_s : Keeps s0 s)  :
    Keeps s0 (applyPeerSet c s) := by
  unfold applyPeerSet
  repeat' (first
    | with_reducible assumption
    | with_reducible apply Keeps.ite
    | intro _
    | with_reducible refine Keeps.mk' ?_ ?_ ?_ ?_ ?_
    | exact rfl)

theorem readObjGet_keeps {s0 : State} {p : Bytes} {s : State} (h_s : Keeps s0 s)  :
    KeepsR s0 (readObjGet p s) := by
  unfold readObjGet
  repeat' (first
    | with_reducible assumption
    | with_reducible apply no_keeps
    | with_reducible apply KeepsR.no
    | with_reducible apply KeepsR.refuse
    | with_reducible apply KeepsR.done
    | with_reducible apply KeepsR.owe
    | with_reducible apply KeepsR.deferred
    | with_reducible apply KeepsR.ite
    | with_reducible apply Keeps.ite
    | intro _
    | with_reducible refine Keeps.mk' ?_ ?_ ?_ ?_ ?_
    | exact rfl)

theorem readSpkGet_keeps {s0 : State} {p : Bytes} {s : State} (h_s : Keeps s0 s)  :
    KeepsR s0 (readSpkGet p s) := by
  unfold readSpkGet
  repeat' (first
    | with_reducible assumption
    | with_reducible apply no_keeps
    | with_reducible apply KeepsR.no
    | with_reducible apply KeepsR.refuse
    | with_reducible apply KeepsR.done
    | with_reducible apply KeepsR.owe
    | with_reducible apply KeepsR.deferred
    | with_reducible apply KeepsR.ite
    | with_reducible apply Keeps.ite
    | intro _
    | with_reducible refine Keeps.mk' ?_ ?_ ?_ ?_ ?_
    | exact rfl)

theorem sendUpdate_keeps {s0 : State} {u : Published} {s : State} (h_s : Keeps s0 s)  :
    Keeps s0 (sendUpdate u s) := by
  unfold sendUpdate
  repeat' (first
    | with_reducible assumption
    | with_reducible apply sendService_keeps
    | with_reducible apply Keeps.ite
    | intro _
    | with_reducible refine Keeps.mk' ?_ ?_ ?_ ?_ ?_
    | exact rfl)

theorem publish_keeps {s0 : State} {op : Opcode} {p : Bytes} {apply : Nat} {proj s : State} (h_proj : Keeps s0 proj) (h_s : Keeps s0 s)  :
    Keeps s0 (publish op p apply proj s) := by
  unfold publish
  repeat' (first
    | with_reducible assumption
    | with_reducible apply sendUpdate_keeps
    | with_reducible apply Keeps.ite
    | intro _
    | with_reducible refine Keeps.mk' ?_ ?_ ?_ ?_ ?_
    | exact rfl)

theorem execPeerSilent_keeps {i : Fin 4096} {s : State} : KeepsO s (execPeerSilent i s) := by
  have h := Keeps.refl s
  unfold execPeerSilent
  repeat' (first
    | with_reducible assumption
    | with_reducible apply updPeerSt_keeps
    | with_reducible apply KeepsO.next
    | with_reducible apply KeepsO.ite
    | with_reducible apply Keeps.ite
    | intro _
    | with_reducible refine Keeps.mk' ?_ ?_ ?_ ?_ ?_
    | exact rfl)

theorem execSceneBusResend_keeps {s : State} : KeepsO s (execSceneBusResend s) := by
  have h := Keeps.refl s
  unfold execSceneBusResend
  repeat' (first
    | with_reducible assumption
    | with_reducible apply sendUpdate_keeps
    | with_reducible apply KeepsO.next
    | with_reducible apply KeepsO.ite
    | with_reducible apply Keeps.ite
    | intro _
    | with_reducible apply Keeps.foldl
    | with_reducible apply Keeps.foldl_snd
    | split
    | dsimp -proj only
    | with_reducible refine Keeps.mk' ?_ ?_ ?_ ?_ ?_
    | exact rfl)

end Sys2Proof.Machine
end

