-- ==== Sys2Proof/Laws/KeepsRoute.lean ====
section
/-!
SUPPORT. What the operations of Machine/Route.lean keep.
-/
namespace Sys2Proof.Machine

theorem noseReplaced_keeps {s0 : State} {proposal winner : Nat} {s : State} (h_s : Keeps s0 s)  :
    Keeps s0 (noseReplaced proposal winner s) := by
  unfold noseReplaced
  repeat' (first
    | with_reducible assumption
    | with_reducible apply logEvent_keeps
    | with_reducible apply Keeps.ite
    | intro _
    | with_reducible refine Keeps.mk' ?_ ?_ ?_ ?_ ?_
    | exact rfl)

theorem loadOutput_keeps {s0 : State} {c : Cmd} {acc : Accord → Accord} {s : State} {o : Nat} (h_s : Keeps s0 s)  :
    Keeps s0 (loadOutput c acc s o) := by
  unfold loadOutput
  repeat' (first
    | with_reducible assumption
    | with_reducible apply updAccord_keeps
    | with_reducible apply noseReplaced_keeps
    | with_reducible apply Keeps.ite
    | intro _
    | split
    | dsimp -proj only
    | with_reducible refine Keeps.mk' ?_ ?_ ?_ ?_ ?_
    | exact rfl)

theorem applyAccordLoad_keeps {s0 : State} {c : Cmd} {s : State} (h_s : Keeps s0 s)  :
    Keeps s0 (applyAccordLoad c s) := by
  unfold applyAccordLoad
  repeat' (first
    | with_reducible assumption
    | with_reducible apply loadOutput_keeps
    | intro _
    | with_reducible apply Keeps.foldl
    | with_reducible apply Keeps.foldl_snd
    | with_reducible refine Keeps.mk' ?_ ?_ ?_ ?_ ?_
    | exact rfl)

theorem ageAccords_keeps {s0 : State} {b0 b1 : Nat} {s : State} (h_s : Keeps s0 s)  :
    Keeps s0 (ageAccords b0 b1 s) := by
  unfold ageAccords
  repeat' (first
    | with_reducible assumption
    | intro _
    | with_reducible refine Keeps.mk' ?_ ?_ ?_ ?_ ?_
    | exact rfl)

theorem fadeStates_keeps {s0 : State} {o : Nat} {s : State} (h_s : Keeps s0 s)  :
    Keeps s0 (fadeStates o s) := by
  unfold fadeStates
  repeat' (first
    | with_reducible assumption
    | with_reducible apply updOutChain_keeps
    | intro _
    | with_reducible refine Keeps.mk' ?_ ?_ ?_ ?_ ?_
    | exact rfl)

theorem fadeDone_keeps {s0 : State} {o : Nat} {s : State} (h_s : Keeps s0 s)  :
    Keeps s0 (fadeDone o s) := by
  unfold fadeDone
  repeat' (first
    | with_reducible assumption
    | with_reducible apply updOutChain_keeps
    | intro _
    | with_reducible refine Keeps.mk' ?_ ?_ ?_ ?_ ?_
    | exact rfl)

theorem accordWith_keeps {s0 : State} {o : Nat} {f : AccordSlots → AccordSlots} {s : State} (h_s : Keeps s0 s)  :
    Keeps s0 (accordWith o f s) := by
  unfold accordWith
  repeat' (first
    | with_reducible assumption
    | with_reducible apply updAccord_keeps
    | with_reducible apply fadeStates_keeps
    | with_reducible apply fadeDone_keeps
    | with_reducible apply Keeps.ite
    | intro _
    | split
    | dsimp -proj only
    | with_reducible refine Keeps.mk' ?_ ?_ ?_ ?_ ?_
    | exact rfl)

theorem accordEnd_keeps {s0 : State} {b o : Nat} {s : State} (h_s : Keeps s0 s)  :
    Keeps s0 (accordEnd b o s) := by
  unfold accordEnd
  repeat' (first
    | with_reducible assumption
    | with_reducible apply accordWith_keeps
    | intro _
    | with_reducible refine Keeps.mk' ?_ ?_ ?_ ?_ ?_
    | exact rfl)

theorem accordStart_keeps {s0 : State} {b o : Nat} {s : State} (h_s : Keeps s0 s)  :
    Keeps s0 (accordStart b o s) := by
  unfold accordStart
  repeat' (first
    | with_reducible assumption
    | with_reducible apply accordWith_keeps
    | with_reducible apply Keeps.ite
    | intro _
    | split
    | with_reducible refine Keeps.mk' ?_ ?_ ?_ ?_ ?_
    | exact rfl)

theorem swapOutput_keeps {s0 : State} {c : Cmd} {s : State} {o : Nat} (h_s : Keeps s0 s)  :
    Keeps s0 (swapOutput c s o) := by
  unfold swapOutput
  repeat' (first
    | with_reducible assumption
    | with_reducible apply accordEnd_keeps
    | with_reducible apply accordWith_keeps
    | with_reducible apply Keeps.ite
    | intro _
    | with_reducible refine Keeps.mk' ?_ ?_ ?_ ?_ ?_
    | exact rfl)

theorem applyAccordSwap_keeps {s0 : State} {c : Cmd} {s : State} (h_s : Keeps s0 s)  :
    Keeps s0 (applyAccordSwap c s) := by
  unfold applyAccordSwap
  repeat' (first
    | with_reducible assumption
    | with_reducible apply swapOutput_keeps
    | intro _
    | with_reducible apply Keeps.foldl
    | with_reducible apply Keeps.foldl_snd
    | with_reducible refine Keeps.mk' ?_ ?_ ?_ ?_ ?_
    | exact rfl)

theorem readAccordSwap_keeps {s0 : State} {p : Bytes} {s next : State} (h_s : Keeps s0 s) (h_next : Keeps s0 next)  :
    KeepsR s0 (readAccordSwap p s next) := by
  unfold readAccordSwap
  repeat' (first
    | with_reducible assumption
    | with_reducible apply no_keeps
    | with_reducible apply KeepsR.no
    | with_reducible apply KeepsR.refuse
    | with_reducible apply KeepsR.done
    | with_reducible apply KeepsR.owe
    | with_reducible apply KeepsR.deferred
    | with_reducible apply KeepsR.ite
    | with_reducible apply Keeps.ite
    | intro _
    | split
    | dsimp -proj only
    | with_reducible refine Keeps.mk' ?_ ?_ ?_ ?_ ?_
    | exact rfl)

theorem applyXp_keeps {s0 : State} {b : Nat} {s : State} {e : XpEntry} (h_s : Keeps s0 s)  :
    Keeps s0 (applyXp b s e) := by
  unfold applyXp
  repeat' (first
    | with_reducible assumption
    | with_reducible apply Keeps.ite
    | intro _
    | split
    | dsimp -proj only
    | with_reducible refine Keeps.mk' ?_ ?_ ?_ ?_ ?_
    | exact rfl)

theorem applyMute_keeps {s0 : State} {s : State} {e : Nat × Bool × Nat} (h_s : Keeps s0 s)  :
    Keeps s0 (applyMute s e) := by
  unfold applyMute
  repeat' (first
    | with_reducible assumption
    | with_reducible apply updMute_keeps
    | with_reducible apply updDest_keeps
    | with_reducible apply Keeps.ite
    | intro _
    | with_reducible refine Keeps.mk' ?_ ?_ ?_ ?_ ?_
    | exact rfl)

theorem applyRouteSet_keeps {s0 : State} {c : Cmd} {s : State} (h_s : Keeps s0 s)  :
    Keeps s0 (applyRouteSet c s) := by
  unfold applyRouteSet
  repeat' (first
    | with_reducible assumption
    | with_reducible apply applyXp_keeps
    | with_reducible apply applyMute_keeps
    | with_reducible apply updDest_keeps
    | with_reducible apply Keeps.ite
    | intro _
    | with_reducible apply Keeps.foldl
    | with_reducible apply Keeps.foldl_snd
    | split
    | dsimp -proj only
    | with_reducible refine Keeps.mk' ?_ ?_ ?_ ?_ ?_
    | exact rfl)

theorem readRouteSet_keeps {s0 : State} {p : Bytes} {s : State} (h_s : Keeps s0 s)  :
    KeepsR s0 (readRouteSet p s) := by
  unfold readRouteSet
  repeat' (first
    | with_reducible assumption
    | with_reducible apply no_keeps
    | with_reducible apply KeepsR.no
    | with_reducible apply KeepsR.refuse
    | with_reducible apply KeepsR.done
    | with_reducible apply KeepsR.owe
    | with_reducible apply KeepsR.deferred
    | with_reducible apply KeepsR.ite
    | with_reducible apply Keeps.ite
    | intro _
    | split
    | dsimp -proj only
    | with_reducible refine Keeps.mk' ?_ ?_ ?_ ?_ ?_
    | exact rfl)

theorem applySilenceSet_keeps {s0 : State} {c : Cmd} {s : State} (h_s : Keeps s0 s)  :
    Keeps s0 (applySilenceSet c s) := by
  unfold applySilenceSet
  repeat' (first
    | with_reducible assumption
    | intro _
    | with_reducible apply Keeps.foldl
    | with_reducible apply Keeps.foldl_snd
    | with_reducible refine Keeps.mk' ?_ ?_ ?_ ?_ ?_
    | exact rfl)

theorem readSilenceSet_keeps {s0 : State} {p : Bytes} {s : State} (h_s : Keeps s0 s)  :
    KeepsR s0 (readSilenceSet p s) := by
  unfold readSilenceSet
  repeat' (first
    | with_reducible assumption
    | with_reducible apply no_keeps
    | with_reducible apply KeepsR.no
    | with_reducible apply KeepsR.refuse
    | with_reducible apply KeepsR.done
    | with_reducible apply KeepsR.owe
    | with_reducible apply KeepsR.deferred
    | with_reducible apply KeepsR.ite
    | with_reducible apply Keeps.ite
    | intro _
    | with_reducible apply Keeps.foldl
    | with_reducible apply Keeps.foldl_snd
    | with_reducible refine Keeps.mk' ?_ ?_ ?_ ?_ ?_
    | exact rfl)

theorem doShortSet_keeps {s0 : State} {p : Bytes} {s : State} (h_s : Keeps s0 s)  :
    KeepsR s0 (doShortSet p s) := by
  unfold doShortSet
  repeat' (first
    | with_reducible assumption
    | with_reducible apply no_keeps
    | with_reducible apply KeepsR.no
    | with_reducible apply KeepsR.refuse
    | with_reducible apply KeepsR.done
    | with_reducible apply KeepsR.owe
    | with_reducible apply KeepsR.deferred
    | with_reducible apply KeepsR.ite
    | with_reducible apply Keeps.ite
    | intro _
    | with_reducible refine Keeps.mk' ?_ ?_ ?_ ?_ ?_
    | exact rfl)

theorem endFades_keeps {s0 : State} {b : Nat} {s : State} (h_s : Keeps s0 s)  :
    Keeps s0 (endFades b s) := by
  unfold endFades
  repeat' (first
    | with_reducible assumption
    | with_reducible apply accordEnd_keeps
    | intro _
    | with_reducible apply Keeps.foldl
    | with_reducible apply Keeps.foldl_snd
    | with_reducible refine Keeps.mk' ?_ ?_ ?_ ?_ ?_
    | exact rfl)

theorem startWaiting_keeps {s0 : State} {b : Nat} {s : State} (h_s : Keeps s0 s)  :
    Keeps s0 (startWaiting b s) := by
  unfold startWaiting
  repeat' (first
    | with_reducible assumption
    | with_reducible apply accordStart_keeps
    | intro _
    | with_reducible apply Keeps.foldl
    | with_reducible apply Keeps.foldl_snd
    | with_reducible refine Keeps.mk' ?_ ?_ ?_ ?_ ?_
    | exact rfl)

theorem startBindings_keeps {s0 : State} {b : Nat} {s : State} (h_s : Keeps s0 s)  :
    Keeps s0 (startBindings b s) := by
  unfold startBindings
  repeat' (first
    | with_reducible assumption
    | intro _
    | with_reducible refine Keeps.mk' ?_ ?_ ?_ ?_ ?_
    | exact rfl)

theorem dropXps_keeps {s0 : State} {b : Nat} {s : State} (h_s : Keeps s0 s)  :
    Keeps s0 (dropXps b s) := by
  unfold dropXps
  repeat' (first
    | with_reducible assumption
    | intro _
    | split
    | with_reducible refine Keeps.mk' ?_ ?_ ?_ ?_ ?_
    | exact rfl)

theorem execAccordFadeEnd_keeps {o : Fin 512} {s : State} : KeepsO s (execAccordFadeEnd o s) := by
  have h := Keeps.refl s
  unfold execAccordFadeEnd
  repeat' (first
    | with_reducible assumption
    | with_reducible apply accordEnd_keeps
    | with_reducible apply accordStart_keeps
    | with_reducible apply KeepsO.next
    | with_reducible apply KeepsO.ite
    | with_reducible apply Keeps.ite
    | intro _
    | with_reducible refine Keeps.mk' ?_ ?_ ?_ ?_ ?_
    | exact rfl)

theorem execZeroCrossCut_keeps {src dst : BitVec 16} {s : State} : KeepsO s (execZeroCrossCut src dst s) := by
  have h := Keeps.refl s
  unfold execZeroCrossCut
  repeat' (first
    | with_reducible assumption
    | with_reducible apply KeepsO.next
    | with_reducible apply KeepsO.ite
    | with_reducible apply Keeps.ite
    | intro _
    | split
    | dsimp -proj only
    | with_reducible refine Keeps.mk' ?_ ?_ ?_ ?_ ?_
    | exact rfl)

theorem execZeroCrossFallback_keeps {src dst : BitVec 16} {s : State} : KeepsO s (execZeroCrossFallback src dst s) := by
  have h := Keeps.refl s
  unfold execZeroCrossFallback
  repeat' (first
    | with_reducible assumption
    | with_reducible apply KeepsO.next
    | with_reducible apply KeepsO.ite
    | with_reducible apply Keeps.ite
    | intro _
    | split
    | dsimp -proj only
    | with_reducible refine Keeps.mk' ?_ ?_ ?_ ?_ ?_
    | exact rfl)

theorem execRouteBindingChange_keeps {dst : BitVec 16} {s : State} : KeepsO s (execRouteBindingChange dst s) := by
  have h := Keeps.refl s
  unfold execRouteBindingChange
  repeat' (first
    | with_reducible assumption
    | with_reducible apply updDest_keeps
    | with_reducible apply KeepsO.next
    | with_reducible apply KeepsO.ite
    | intro _
    | with_reducible refine Keeps.mk' ?_ ?_ ?_ ?_ ?_
    | exact rfl)

theorem execMuteRampLengthChange_keeps {target : BitVec 16} {s : State} : KeepsO s (execMuteRampLengthChange target s) := by
  have h := Keeps.refl s
  unfold execMuteRampLengthChange
  repeat' (first
    | with_reducible assumption
    | with_reducible apply updMute_keeps
    | with_reducible apply updDest_keeps
    | with_reducible apply KeepsO.next
    | with_reducible apply KeepsO.ite
    | with_reducible apply Keeps.ite
    | intro _
    | with_reducible refine Keeps.mk' ?_ ?_ ?_ ?_ ?_
    | exact rfl)

theorem ageDests_keeps {s0 : State} {b n : Nat} {s : State} (h_s : Keeps s0 s)  :
    Keeps s0 (ageDests b n s) := by
  unfold ageDests
  repeat' (first
    | with_reducible assumption
    | with_reducible apply startBindings_keeps
    | intro _
    | with_reducible refine Keeps.mk' ?_ ?_ ?_ ?_ ?_
    | exact rfl)

end Sys2Proof.Machine
end

