-- ==== Sys2Proof/Laws/KeepsTime.lean ====
section
/-!
SUPPORT. What the operations of Machine/Time.lean keep.
-/
namespace Sys2Proof.Machine

/-- A capture record that is written keeps its queue. -/
theorem captWrite_queue (c : Capture) (p : Bytes) : (captWrite c p).queue = c.queue := by unfold captWrite; split <;> rfl

theorem enterHold_keeps {s0 : State} {reason : Nat} {s : State} (h_s : Keeps s0 s)  :
    Keeps s0 (enterHold reason s) := by
  unfold enterHold
  repeat' (first
    | with_reducible assumption
    | with_reducible apply updServo_keeps
    | with_reducible apply timeEvent_keeps
    | with_reducible apply setFlag_keeps
    | with_reducible apply Keeps.ite
    | exact fun _ => SetOk.coast _ _
    | exact fun _ => SetOk.shallow _ _
    | exact fun _ => SetOk.release _
    | exact fun _ => SetOk.rejoin _
    | intro _
    | with_reducible refine Keeps.mk' ?_ ?_ ?_ ?_ ?_
    | exact rfl)

theorem leaveHold_keeps {s0 : State} {state : Nat} {s : State} (h_s : Keeps s0 s)  :
    Keeps s0 (leaveHold state s) := by
  unfold leaveHold
  repeat' (first
    | with_reducible assumption
    | with_reducible apply updServo_keeps
    | with_reducible apply setFlag_keeps
    | with_reducible apply timeEvent_keeps
    | with_reducible apply Keeps.ite
    | exact fun _ => SetOk.coast _ _
    | exact fun _ => SetOk.shallow _ _
    | exact fun _ => SetOk.release _
    | exact fun _ => SetOk.rejoin _
    | intro _
    | with_reducible refine Keeps.mk' ?_ ?_ ?_ ?_ ?_
    | exact rfl)

theorem execSceneBusAnnounceSend_keeps {s : State} : KeepsO s (execSceneBusAnnounceSend s) := by
  have h := Keeps.refl s
  unfold execSceneBusAnnounceSend
  repeat' (first
    | with_reducible assumption
    | with_reducible apply sendService_keeps
    | with_reducible apply KeepsO.next
    | with_reducible apply KeepsO.ite
    | with_reducible apply Keeps.ite
    | intro _
    | with_reducible refine Keeps.mk' ?_ ?_ ?_ ?_ ?_
    | exact rfl)

theorem execSceneBusAnnouncement_keeps {s : State} : KeepsO s (execSceneBusAnnouncement s) := by
  have h := Keeps.refl s
  unfold execSceneBusAnnouncement
  repeat' (first
    | with_reducible assumption
    | with_reducible apply updPeerSt_keeps
    | with_reducible apply KeepsO.next
    | with_reducible apply KeepsO.ite
    | with_reducible apply Keeps.ite
    | intro _
    | split
    | dsimp -proj only
    | with_reducible refine Keeps.mk' ?_ ?_ ?_ ?_ ?_
    | exact rfl)

theorem takeRef_keeps {s0 : State} {p : Nat} {m : Master9} {s : State} (h_s : Keeps s0 s)  :
    Keeps s0 (takeRef p m s) := by
  unfold takeRef
  repeat' (first
    | with_reducible assumption
    | with_reducible apply updServo_keeps
    | intro _
    | with_reducible refine Keeps.mk' ?_ ?_ ?_ ?_ ?_
    | exact rfl)

theorem chooseRef_keeps {s0 : State} {s : State} (h_s : Keeps s0 s)  :
    Keeps s0 (chooseRef s) := by
  unfold chooseRef
  repeat' (first
    | with_reducible assumption
    | with_reducible apply leaveHold_keeps
    | with_reducible apply takeRef_keeps
    | with_reducible apply enterHold_keeps
    | with_reducible apply Keeps.ite
    | intro _
    | split
    | dsimp -proj only
    | with_reducible refine Keeps.mk' ?_ ?_ ?_ ?_ ?_
    | exact rfl)

theorem requalify_keeps {s0 : State} {p : Nat} {s : State} (h_s : Keeps s0 s)  :
    Keeps s0 (requalify p s) := by
  unfold requalify
  repeat' (first
    | with_reducible assumption
    | with_reducible apply updClock_keeps
    | intro _
    | with_reducible refine Keeps.mk' ?_ ?_ ?_ ?_ ?_
    | exact rfl)

theorem farCheck_keeps {s0 : State} {o : Rat} {s : State} (h_s : Keeps s0 s)  :
    Keeps s0 (farCheck o s) := by
  unfold farCheck
  repeat' (first
    | with_reducible assumption
    | with_reducible apply updServo_keeps
    | with_reducible apply timeEvent_keeps
    | with_reducible apply Keeps.ite
    | intro _
    | with_reducible refine Keeps.mk' ?_ ?_ ?_ ?_ ?_
    | exact rfl)

theorem wantStep_keeps {s0 : State} {ns : Rat} {s : State} (h_s : Keeps s0 s)  :
    Keeps s0 (wantStep ns s) := by
  unfold wantStep
  repeat' (first
    | with_reducible assumption
    | with_reducible apply updServo_keeps
    | intro _
    | with_reducible refine Keeps.mk' ?_ ?_ ?_ ?_ ?_
    | exact rfl)

theorem servoApply_keeps {s0 : State} {o t : Rat} {s : State} (h_s : Keeps s0 s)  :
    Keeps s0 (servoApply o t s) := by
  unfold servoApply
  repeat' (first
    | with_reducible assumption
    | with_reducible apply updServo_keeps
    | with_reducible apply wantStep_keeps
    | with_reducible apply Keeps.ite
    | intro _
    | with_reducible refine Keeps.mk' ?_ ?_ ?_ ?_ ?_
    | exact rfl)

theorem exchange_keeps {s0 : State} {p : Nat} {raw : Rat} {d : Option Rat} {t : Rat} {s : State} (h_s : Keeps s0 s)  :
    Keeps s0 (exchange p raw d t s) := by
  unfold exchange
  repeat' (first
    | with_reducible assumption
    | with_reducible apply updServo_keeps
    | with_reducible apply chooseRef_keeps
    | with_reducible apply updClock_keeps
    | with_reducible apply farCheck_keeps
    | with_reducible apply enterHold_keeps
    | with_reducible apply servoApply_keeps
    | with_reducible apply Keeps.ite
    | intro _
    | split
    | dsimp -proj only
    | with_reducible refine Keeps.mk' ?_ ?_ ?_ ?_ ?_
    | exact rfl)

theorem queuePtp_keeps {s0 : State} {p kind tag : Nat} {s : State} (h_s : Keeps s0 s)  :
    Keeps s0 (queuePtp p kind tag s) := by
  unfold queuePtp
  repeat' (first
    | with_reducible assumption
    | with_reducible apply updPort_keeps
    | with_reducible apply Keeps.ite
    | intro _
    | with_reducible refine Keeps.mk' ?_ ?_ ?_ ?_ ?_
    | exact rfl)

theorem sendGeneral_keeps {s0 : State} {p kind time : Nat} {s : State} (h_s : Keeps s0 s)  :
    Keeps s0 (sendGeneral p kind time s) := by
  unfold sendGeneral
  repeat' (first
    | with_reducible assumption
    | with_reducible apply queueOwn_keeps
    | with_reducible apply send_keeps
    | intro _
    | with_reducible refine Keeps.mk' ?_ ?_ ?_ ?_ ?_
    | exact rfl)

theorem readTsq_keeps {s0 : State} {p : Nat} {s : State} (h_s : Keeps s0 s)  :
    Keeps s0 (readTsq p s) := by
  unfold readTsq
  repeat' (first
    | with_reducible assumption
    | with_reducible apply sendGeneral_keeps
    | with_reducible apply updClock_keeps
    | with_reducible apply Keeps.ite
    | intro _
    | with_reducible apply Keeps.foldl
    | with_reducible apply Keeps.foldl_snd
    | split
    | dsimp -proj only
    | with_reducible refine Keeps.mk' ?_ ?_ ?_ ?_ ?_
    | exact rfl)

theorem pushTsq_keeps {s0 : State} {p tag stamp : Nat} {s : State} (h_s : Keeps s0 s)  :
    Keeps s0 (pushTsq p tag stamp s) := by
  unfold pushTsq
  repeat' (first
    | with_reducible assumption
    | with_reducible apply Keeps.ite
    | intro _
    | with_reducible refine Keeps.mk' ?_ ?_ ?_ ?_ ?_
    | exact rfl)

theorem execPtpSync_keeps {port : Fin 3} {t1 t2 : Nat} {corr : Int} {interval : Nat} {s : State} : KeepsO s (execPtpSync port t1 t2 corr interval s) := by
  have h := Keeps.refl s
  unfold execPtpSync
  repeat' (first
    | with_reducible assumption
    | with_reducible apply readTsq_keeps
    | with_reducible apply exchange_keeps
    | with_reducible apply KeepsO.next
    | with_reducible apply KeepsO.ite
    | with_reducible apply Keeps.ite
    | intro _
    | with_reducible refine Keeps.mk' ?_ ?_ ?_ ?_ ?_
    | exact rfl)

theorem execPtpDelayResp_keeps {port : Fin 3} {t1 t2 t3 t4 : Nat} {corr : Int} {s : State} : KeepsO s (execPtpDelayResp port t1 t2 t3 t4 corr s) := by
  have h := Keeps.refl s
  unfold execPtpDelayResp
  repeat' (first
    | with_reducible assumption
    | with_reducible apply readTsq_keeps
    | with_reducible apply updClock_keeps
    | with_reducible apply KeepsO.next
    | with_reducible apply KeepsO.ite
    | with_reducible apply Keeps.ite
    | intro _
    | split
    | dsimp -proj only
    | with_reducible refine Keeps.mk' ?_ ?_ ?_ ?_ ?_
    | exact rfl)

theorem execPtpAnnounce_keeps {port : Fin 3} {m : Master9} {s : State} : KeepsO s (execPtpAnnounce port m s) := by
  have h := Keeps.refl s
  unfold execPtpAnnounce
  repeat' (first
    | with_reducible assumption
    | with_reducible apply updClock_keeps
    | with_reducible apply requalify_keeps
    | with_reducible apply updServo_keeps
    | with_reducible apply timeEvent_keeps
    | with_reducible apply enterHold_keeps
    | with_reducible apply KeepsO.next
    | with_reducible apply KeepsO.ite
    | with_reducible apply Keeps.ite
    | intro _
    | split
    | dsimp -proj only
    | with_reducible refine Keeps.mk' ?_ ?_ ?_ ?_ ?_
    | exact rfl)

theorem portLost_keeps {s0 : State} {p reason : Nat} {forget : Bool} {s : State} (h_s : Keeps s0 s)  :
    Keeps s0 (portLost p reason forget s) := by
  unfold portLost
  repeat' (first
    | with_reducible assumption
    | with_reducible apply requalify_keeps
    | with_reducible apply updClock_keeps
    | with_reducible apply updServo_keeps
    | with_reducible apply enterHold_keeps
    | with_reducible apply Keeps.ite
    | intro _
    | with_reducible refine Keeps.mk' ?_ ?_ ?_ ?_ ?_
    | exact rfl)

theorem execAnnounceTimeout_keeps {port : Fin 3} {s : State} : KeepsO s (execAnnounceTimeout port s) := by
  have h := Keeps.refl s
  unfold execAnnounceTimeout
  repeat' (first
    | with_reducible assumption
    | with_reducible apply portLost_keeps
    | with_reducible apply KeepsO.next
    | with_reducible apply KeepsO.ite
    | intro _
    | with_reducible refine Keeps.mk' ?_ ?_ ?_ ?_ ?_
    | exact rfl)

theorem execSyncTimeout_keeps {port : Fin 3} {s : State} : KeepsO s (execSyncTimeout port s) := by
  have h := Keeps.refl s
  unfold execSyncTimeout
  repeat' (first
    | with_reducible assumption
    | with_reducible apply portLost_keeps
    | with_reducible apply KeepsO.next
    | with_reducible apply KeepsO.ite
    | intro _
    | with_reducible refine Keeps.mk' ?_ ?_ ?_ ?_ ?_
    | exact rfl)

theorem linkLost_keeps {s0 : State} {p : Nat} {s : State} (h_s : Keeps s0 s)  :
    Keeps s0 (linkLost p s) := by
  unfold linkLost
  repeat' (first
    | with_reducible assumption
    | with_reducible apply portLost_keeps
    | with_reducible apply updPortStat_keeps
    | with_reducible apply Keeps.ite
    | intro _
    | with_reducible refine Keeps.mk' ?_ ?_ ?_ ?_ ?_
    | exact rfl)

theorem execLinkDown_keeps {port : Fin 3} {s : State} : KeepsO s (execLinkDown port s) := by
  have h := Keeps.refl s
  unfold execLinkDown
  repeat' (first
    | with_reducible assumption
    | with_reducible apply linkLost_keeps
    | with_reducible apply KeepsO.next
    | with_reducible apply KeepsO.ite
    | intro _
    | with_reducible refine Keeps.mk' ?_ ?_ ?_ ?_ ?_
    | exact rfl)

theorem execLinkUp_keeps {port : Fin 3} {s : State} : KeepsO s (execLinkUp port s) := by
  have h := Keeps.refl s
  unfold execLinkUp
  repeat' (first
    | with_reducible assumption
    | with_reducible apply updPort_keeps
    | with_reducible apply KeepsO.next
    | with_reducible apply KeepsO.ite
    | with_reducible apply Keeps.ite
    | intro _
    | with_reducible refine Keeps.mk' ?_ ?_ ?_ ?_ ?_
    | exact rfl)

theorem execRerouteHoldoffEnd_keeps {s : State} : KeepsO s (execRerouteHoldoffEnd s) := by
  have h := Keeps.refl s
  unfold execRerouteHoldoffEnd
  repeat' (first
    | with_reducible assumption
    | with_reducible apply updServo_keeps
    | with_reducible apply requalify_keeps
    | with_reducible apply updClock_keeps
    | with_reducible apply timeEvent_keeps
    | with_reducible apply leaveHold_keeps
    | with_reducible apply takeRef_keeps
    | with_reducible apply KeepsO.next
    | with_reducible apply KeepsO.ite
    | with_reducible apply Keeps.ite
    | intro _
    | split
    | dsimp -proj only
    | with_reducible refine Keeps.mk' ?_ ?_ ?_ ?_ ?_
    | exact rfl)

theorem discardRender_keeps {s0 : State} {mark : Nat} {s : State} (h_s : Keeps s0 s)  :
    Keeps s0 (discardRender mark s) := by
  unfold discardRender
  repeat' (first
    | with_reducible assumption
    | intro _
    | with_reducible apply Keeps.foldl
    | with_reducible apply Keeps.foldl_snd
    | with_reducible refine Keeps.mk' ?_ ?_ ?_ ?_ ?_
    | exact rfl)

theorem reschedule_keeps {s0 : State} {s : State} (h_s : Keeps s0 s)  :
    Keeps s0 (reschedule s) := by
  unfold reschedule
  repeat' (first
    | with_reducible assumption
    | intro _
    | with_reducible refine Keeps.mk' ?_ ?_ ?_ ?_ ?_
    | exact rfl)

theorem moveRend_keeps {s0 : State} {f : Nat → Nat} {s : State} (h_s : Keeps s0 s)  :
    Keeps s0 (moveRend f s) := by
  unfold moveRend
  repeat' (first
    | with_reducible assumption
    | intro _
    | split
    | dsimp -proj only
    | with_reducible refine Keeps.mk' ?_ ?_ ?_ ?_ ?_
    | exact rfl)

theorem moveStamps_keeps {s0 : State} {f : Nat → Nat} {s : State} (h_s : Keeps s0 s)  :
    Keeps s0 (moveStamps f s) := by
  unfold moveStamps
  exact Keeps.mkB h_s rfl rfl rfl fun h => ⟨h.1, h.2.1, SMap.all_mapVals
    (f := fun _ (m : Master) => { m with lastHeard := f m.lastHeard }) (P := Master.indicesOk)
    (Q := Master.indicesOk) h.2.2 fun _ _ k => k⟩

theorem stepBy_keeps {s0 : State} {n : Int} {s : State} (h_s : Keeps s0 s)  :
    Keeps s0 (stepBy n s) := by
  unfold stepBy
  repeat' (first
    | with_reducible assumption
    | with_reducible apply moveStamps_keeps
    | with_reducible apply moveRend_keeps
    | with_reducible apply discardRender_keeps
    | with_reducible apply updServo_keeps
    | with_reducible apply abandonWarp_keeps
    | with_reducible apply setAdrift_keeps
    | with_reducible apply forwardDecision_keeps
    | with_reducible apply reschedule_keeps
    | with_reducible apply timeEvent_keeps
    | with_reducible apply Keeps.ite
    | intro _
    | with_reducible refine Keeps.mk' ?_ ?_ ?_ ?_ ?_
    | exact rfl)

theorem setTimeNow_keeps {s0 : State} {t : Nat} {now : Int} {s : State} (h_s : Keeps s0 s)  :
    Keeps s0 (setTimeNow t now s) := by
  unfold setTimeNow
  repeat' (first
    | with_reducible assumption
    | with_reducible apply stepBy_keeps
    | with_reducible apply updServo_keeps
    | intro _
    | with_reducible refine Keeps.mk' ?_ ?_ ?_ ?_ ?_
    | exact rfl)

theorem execPhaseStep_keeps {s : State} : KeepsO s (execPhaseStep s) := by
  have h := Keeps.refl s
  unfold execPhaseStep
  repeat' (first
    | with_reducible assumption
    | with_reducible apply setTimeNow_keeps
    | with_reducible apply stepBy_keeps
    | with_reducible apply KeepsO.next
    | with_reducible apply KeepsO.ite
    | with_reducible apply Keeps.ite
    | intro _
    | split
    | dsimp -proj only
    | with_reducible refine Keeps.mk' ?_ ?_ ?_ ?_ ?_
    | exact rfl)

theorem execIrqLatencyCalibration_keeps {ns : Nat} {s : State} : KeepsO s (execIrqLatencyCalibration ns s) := by
  have h := Keeps.refl s
  unfold execIrqLatencyCalibration
  repeat' (first
    | with_reducible assumption
    | with_reducible apply KeepsO.next
    | with_reducible apply KeepsO.ite
    | intro _
    | with_reducible refine Keeps.mk' ?_ ?_ ?_ ?_ ?_
    | exact rfl)

theorem execPllLock_keeps {p : Fin 8} {s : State} : KeepsO s (execPllLock p s) := by
  have h := Keeps.refl s
  unfold execPllLock
  repeat' (first
    | with_reducible assumption
    | with_reducible apply KeepsO.next
    | with_reducible apply KeepsO.ite
    | intro _
    | with_reducible refine Keeps.mk' ?_ ?_ ?_ ?_ ?_
    | exact rfl)

theorem execPllLoss_keeps {p : Fin 8} {refclk : Bool} {s : State} : KeepsO s (execPllLoss p refclk s) := by
  have h := Keeps.refl s
  unfold execPllLoss
  repeat' (first
    | with_reducible assumption
    | with_reducible apply setFlag_keeps
    | with_reducible apply updServo_keeps
    | with_reducible apply timeEvent_keeps
    | with_reducible apply KeepsO.next
    | with_reducible apply KeepsO.ite
    | with_reducible apply Keeps.ite
    | exact fun _ => SetOk.coast _ _
    | exact fun _ => SetOk.shallow _ _
    | exact fun _ => SetOk.release _
    | exact fun _ => SetOk.rejoin _
    | intro _
    | with_reducible refine Keeps.mk' ?_ ?_ ?_ ?_ ?_
    | exact rfl)

theorem execPllReferenceReturn_keeps {p : Fin 8} {s : State} : KeepsO s (execPllReferenceReturn p s) := by
  have h := Keeps.refl s
  unfold execPllReferenceReturn
  repeat' (first
    | with_reducible assumption
    | with_reducible apply updServo_keeps
    | with_reducible apply setFlag_keeps
    | with_reducible apply KeepsO.next
    | with_reducible apply KeepsO.ite
    | with_reducible apply Keeps.ite
    | exact fun _ => SetOk.coast _ _
    | exact fun _ => SetOk.shallow _ _
    | exact fun _ => SetOk.release _
    | exact fun _ => SetOk.rejoin _
    | intro _
    | with_reducible refine Keeps.mk' ?_ ?_ ?_ ?_ ?_
    | exact rfl)

theorem execReferenceLost_keeps {s : State} : KeepsO s (execReferenceLost s) := by
  have h := Keeps.refl s
  unfold execReferenceLost
  repeat' (first
    | with_reducible assumption
    | with_reducible apply updServo_keeps
    | with_reducible apply enterHold_keeps
    | with_reducible apply KeepsO.next
    | with_reducible apply KeepsO.ite
    | with_reducible apply Keeps.ite
    | intro _
    | with_reducible refine Keeps.mk' ?_ ?_ ?_ ?_ ?_
    | exact rfl)

theorem execReferenceQualified_keeps {s : State} : KeepsO s (execReferenceQualified s) := by
  have h := Keeps.refl s
  unfold execReferenceQualified
  repeat' (first
    | with_reducible assumption
    | with_reducible apply leaveHold_keeps
    | with_reducible apply updServo_keeps
    | with_reducible apply KeepsO.next
    | with_reducible apply KeepsO.ite
    | with_reducible apply Keeps.ite
    | intro _
    | with_reducible refine Keeps.mk' ?_ ?_ ?_ ?_ ?_
    | exact rfl)

/-- Rewriting the last entry keeps a queue's length. -/
theorem replaceLast_length {α : Type} (q : List α) (f : α → α) (h : q.length ≤ 16) :
    (q.dropLast ++ (q.getLast?).toList.map f).length ≤ 16 := by
  cases q with
  | nil => simp
  | cons a r => simp [List.getLast?_cons, List.length_dropLast]; simpa using h

theorem execCaptureEdge_keeps {i : Fin 4} {rising : Bool} {width time : Nat} {s : State} : KeepsO s (execCaptureEdge i rising width time s) := by
  have h := Keeps.refl s
  unfold execCaptureEdge
  repeat' (first
    | with_reducible assumption
    | exact fun c h => by
        dsimp only
        split
        · simp only [List.length_append, List.length_cons, List.length_nil]; omega
        · split
          · simp only [List.length_append, List.length_cons, List.length_nil]; omega
          · exact replaceLast_length _ _ h
    | with_reducible apply updCapt_keeps
    | with_reducible apply setTimeNow_keeps
    | with_reducible apply servoApply_keeps
    | with_reducible apply KeepsO.next
    | with_reducible apply KeepsO.ite
    | with_reducible apply Keeps.ite
    | intro _
    | split
    | dsimp -proj only
    | with_reducible refine Keeps.mk' ?_ ?_ ?_ ?_ ?_
    | exact rfl)

theorem execTriggerEdge_keeps {i : Fin 4} {s : State} : KeepsO s (execTriggerEdge i s) := by
  have h := Keeps.refl s
  unfold execTriggerEdge
  repeat' (first
    | with_reducible assumption
    | with_reducible apply updTrig_keeps
    | with_reducible apply KeepsO.next
    | with_reducible apply KeepsO.ite
    | with_reducible apply Keeps.ite
    | intro _
    | split
    | dsimp -proj only
    | with_reducible refine Keeps.mk' ?_ ?_ ?_ ?_ ?_
    | exact rfl)

theorem sendEvent_keeps {s0 : State} {p kind time : Nat} {s : State} (h_s : Keeps s0 s)  :
    Keeps s0 (sendEvent p kind time s) := by
  unfold sendEvent
  repeat' (first
    | with_reducible assumption
    | with_reducible apply updClock_keeps
    | with_reducible apply queuePtp_keeps
    | with_reducible apply send_keeps
    | intro _
    | with_reducible refine Keeps.mk' ?_ ?_ ?_ ?_ ?_
    | exact rfl)

theorem execPtpSendInterval_keeps {port : Fin 3} {kind : Fin 3} {s : State} : KeepsO s (execPtpSendInterval port kind s) := by
  have h := Keeps.refl s
  unfold execPtpSendInterval
  repeat' (first
    | with_reducible assumption
    | with_reducible apply readTsq_keeps
    | with_reducible apply updClock_keeps
    | with_reducible apply sendEvent_keeps
    | with_reducible apply queueOwn_keeps
    | with_reducible apply send_keeps
    | with_reducible apply KeepsO.next
    | with_reducible apply KeepsO.ite
    | with_reducible apply Keeps.ite
    | intro _
    | with_reducible refine Keeps.mk' ?_ ?_ ?_ ?_ ?_
    | exact rfl)

theorem execPtpDelayRequest_keeps {port : Fin 3} {p2p : Bool} {t2 : Nat} {s : State} : KeepsO s (execPtpDelayRequest port p2p t2 s) := by
  have h := Keeps.refl s
  unfold execPtpDelayRequest
  repeat' (first
    | with_reducible assumption
    | with_reducible apply updClock_keeps
    | with_reducible apply sendEvent_keeps
    | with_reducible apply sendGeneral_keeps
    | with_reducible apply KeepsO.next
    | with_reducible apply KeepsO.ite
    | with_reducible apply Keeps.ite
    | intro _
    | with_reducible refine Keeps.mk' ?_ ?_ ?_ ?_ ?_
    | exact rfl)

theorem writeTimeCfg_keeps {s0 : State} {p : Bytes} {s : State} (h_s : Keeps s0 s)  :
    Keeps s0 (writeTimeCfg p s) := by
  unfold writeTimeCfg
  repeat' (first
    | with_reducible assumption
    | with_reducible apply updServo_keeps
    | with_reducible apply Keeps.ite
    | intro _
    | split
    | dsimp -proj only
    | with_reducible refine Keeps.mk' ?_ ?_ ?_ ?_ ?_
    | exact rfl)

theorem doTimeCfg_keeps {s0 : State} {p : Bytes} {near last s : State} (h_near : Keeps s0 near) (h_last : Keeps s0 last) (h_s : Keeps s0 s)  :
    KeepsR s0 (doTimeCfg p near last s) := by
  unfold doTimeCfg
  repeat' (first
    | with_reducible assumption
    | with_reducible apply no_keeps
    | with_reducible apply writeTimeCfg_keeps
    | with_reducible apply KeepsR.no
    | with_reducible apply KeepsR.refuse
    | with_reducible apply KeepsR.done
    | with_reducible apply KeepsR.owe
    | with_reducible apply KeepsR.deferred
    | with_reducible apply KeepsR.ite
    | with_reducible apply Keeps.ite
    | intro _
    | split
    | with_reducible refine Keeps.mk' ?_ ?_ ?_ ?_ ?_
    | exact rfl)

theorem timeBoundary_keeps {s0 : State} {s : State} (h_s : Keeps s0 s)  :
    Keeps s0 (timeBoundary s) := by
  unfold timeBoundary
  repeat' (first
    | with_reducible assumption
    | exact fun _ h => h
    | (intro _ h; rw [captWrite_queue]; exact h)
    | (intro _ h; simp only [List.length_drop]; omega)
    | with_reducible apply updCapt_keeps
    | with_reducible apply requalify_keeps
    | with_reducible apply enterHold_keeps
    | with_reducible apply updServo_keeps
    | with_reducible apply leaveHold_keeps
    | with_reducible apply Keeps.ite
    | intro _
    | with_reducible apply Keeps.foldl
    | with_reducible apply Keeps.foldl_snd
    | split
    | dsimp -proj only
    | with_reducible refine Keeps.mk' ?_ ?_ ?_ ?_ ?_
    | exact rfl)

theorem doTrigSet_keeps {s0 : State} {p : Bytes} {s : State} (h_s : Keeps s0 s)  :
    KeepsR s0 (doTrigSet p s) := by
  unfold doTrigSet
  repeat' (first
    | with_reducible assumption
    | with_reducible apply no_keeps
    | with_reducible apply updTrig_keeps
    | with_reducible apply KeepsR.no
    | with_reducible apply KeepsR.refuse
    | with_reducible apply KeepsR.done
    | with_reducible apply KeepsR.owe
    | with_reducible apply KeepsR.deferred
    | with_reducible apply KeepsR.ite
    | with_reducible apply Keeps.ite
    | intro _
    | with_reducible refine Keeps.mk' ?_ ?_ ?_ ?_ ?_
    | exact rfl)

theorem doCaptRead_keeps {s0 : State} {p : Bytes} {s : State} (h_s : Keeps s0 s)  :
    KeepsR s0 (doCaptRead p s) := by
  unfold doCaptRead
  repeat' (first
    | with_reducible assumption
    | with_reducible apply no_keeps
    | exact fun _ h => h
    | (intro _ h; rw [captWrite_queue]; exact h)
    | (intro _ h; simp only [List.length_drop]; omega)
    | with_reducible apply updCapt_keeps
    | with_reducible apply KeepsR.no
    | with_reducible apply KeepsR.refuse
    | with_reducible apply KeepsR.done
    | with_reducible apply KeepsR.owe
    | with_reducible apply KeepsR.deferred
    | with_reducible apply KeepsR.ite
    | with_reducible apply Keeps.ite
    | intro _
    | with_reducible refine Keeps.mk' ?_ ?_ ?_ ?_ ?_
    | exact rfl)

theorem doTimeStat_keeps {s0 : State} {p : Bytes} {s : State} (h_s : Keeps s0 s)  :
    KeepsR s0 (doTimeStat p s) := by
  unfold doTimeStat
  repeat' (first
    | with_reducible assumption
    | with_reducible apply no_keeps
    | with_reducible apply KeepsR.no
    | with_reducible apply KeepsR.refuse
    | with_reducible apply KeepsR.done
    | with_reducible apply KeepsR.owe
    | with_reducible apply KeepsR.deferred
    | with_reducible apply KeepsR.ite
    | with_reducible apply Keeps.ite
    | intro _
    | with_reducible refine Keeps.mk' ?_ ?_ ?_ ?_ ?_
    | exact rfl)

end Sys2Proof.Machine
end

