-- ==== Sys2Proof/Laws/KeepsNet.lean ====
section
/-!
SUPPORT. What the operations of Machine/Net.lean keep.
-/
namespace Sys2Proof.Machine

theorem doPortCfg_keeps {s0 : State} {p : Bytes} {views : List State} {s : State} (h_s : Keeps s0 s)  :
    KeepsR s0 (doPortCfg p views s) := by
  unfold doPortCfg
  repeat' (first
    | with_reducible assumption
    | with_reducible apply no_keeps
    | with_reducible apply updPort_keeps
    | with_reducible apply linkLost_keeps
    | with_reducible apply KeepsR.no
    | with_reducible apply KeepsR.refuse
    | with_reducible apply KeepsR.done
    | with_reducible apply KeepsR.owe
    | with_reducible apply KeepsR.deferred
    | with_reducible apply KeepsR.ite
    | with_reducible apply Keeps.ite
    | intro _
    | split
    | dsimp -proj only
    | with_reducible refine Keeps.mk' ?_ ?_ ?_ ?_ ?_
    | exact rfl)

theorem execRingDisableDrainEnd_keeps {port : Fin 3} {s : State} : KeepsO s (execRingDisableDrainEnd port s) := by
  have h := Keeps.refl s
  unfold execRingDisableDrainEnd
  repeat' (first
    | with_reducible assumption
    | with_reducible apply settleOwed_keeps
    | with_reducible apply updPort_keeps
    | with_reducible apply KeepsO.next
    | with_reducible apply KeepsO.ite
    | with_reducible apply Keeps.ite
    | intro _
    | with_reducible refine Keeps.mk' ?_ ?_ ?_ ?_ ?_
    | exact rfl)

theorem doFilterSet_keeps {s0 : State} {p : Bytes} {s : State} (h_s : Keeps s0 s)  :
    KeepsR s0 (doFilterSet p s) := by
  unfold doFilterSet
  repeat' (first
    | with_reducible assumption
    | with_reducible apply no_keeps
    | with_reducible apply updPort_keeps
    | with_reducible apply KeepsR.no
    | with_reducible apply KeepsR.refuse
    | with_reducible apply KeepsR.done
    | with_reducible apply KeepsR.owe
    | with_reducible apply KeepsR.deferred
    | with_reducible apply KeepsR.ite
    | with_reducible apply Keeps.ite
    | intro _
    | with_reducible refine Keeps.mk' ?_ ?_ ?_ ?_ ?_
    | exact rfl)

theorem doBerthStat_keeps {s0 : State} {p : Bytes} {s : State} (h_s : Keeps s0 s)  :
    KeepsR s0 (doBerthStat p s) := by
  unfold doBerthStat
  repeat' (first
    | with_reducible assumption
    | with_reducible apply no_keeps
    | with_reducible apply KeepsR.no
    | with_reducible apply KeepsR.refuse
    | with_reducible apply KeepsR.done
    | with_reducible apply KeepsR.owe
    | with_reducible apply KeepsR.deferred
    | with_reducible apply KeepsR.ite
    | with_reducible apply Keeps.ite
    | intro _
    | split
    | dsimp -proj only
    | with_reducible refine Keeps.mk' ?_ ?_ ?_ ?_ ?_
    | exact rfl)

theorem report_keeps {s0 : State} {m : Member} {join : Bool} {s : State} (h_s : Keeps s0 s)  :
    Keeps s0 (report m join s) := by
  unfold report
  repeat' (first
    | with_reducible assumption
    | with_reducible apply send_keeps
    | with_reducible apply queueOwn_keeps
    | with_reducible apply Keeps.ite
    | intro _
    | with_reducible refine Keeps.mk' ?_ ?_ ?_ ?_ ?_
    | exact rfl)

theorem joinGroups_keeps {s0 : State} {ms : List Member} {s : State} (h_s : Keeps s0 s)  :
    Keeps s0 (joinGroups ms s) := by
  unfold joinGroups
  repeat' (first
    | with_reducible assumption
    | with_reducible apply report_keeps
    | intro _
    | with_reducible apply Keeps.foldl
    | with_reducible apply Keeps.foldl_snd
    | with_reducible refine Keeps.mk' ?_ ?_ ?_ ?_ ?_
    | exact rfl)

theorem leaveGroup_keeps {s0 : State} {m : Member} {s : State} (h_s : Keeps s0 s)  :
    Keeps s0 (leaveGroup m s) := by
  unfold leaveGroup
  repeat' (first
    | with_reducible assumption
    | with_reducible apply report_keeps
    | with_reducible apply Keeps.ite
    | intro _
    | with_reducible apply Keeps.foldl
    | with_reducible apply Keeps.foldl_snd
    | with_reducible refine Keeps.mk' ?_ ?_ ?_ ?_ ?_
    | exact rfl)

theorem leaveGroups_keeps {s0 : State} {ms : List Member} {s : State} (h_s : Keeps s0 s)  :
    Keeps s0 (leaveGroups ms s) := by
  unfold leaveGroups
  repeat' (first
    | with_reducible assumption
    | with_reducible apply leaveGroup_keeps
    | intro _
    | with_reducible apply Keeps.foldl
    | with_reducible apply Keeps.foldl_snd
    | with_reducible refine Keeps.mk' ?_ ?_ ?_ ?_ ?_
    | exact rfl)

theorem answerQuery_keeps {s0 : State} {port : Nat} {ip : Ipv4} {s : State} (h_s : Keeps s0 s)  :
    Keeps s0 (answerQuery port ip s) := by
  unfold answerQuery
  repeat' (first
    | with_reducible assumption
    | with_reducible apply report_keeps
    | with_reducible apply Keeps.ite
    | intro _
    | with_reducible apply Keeps.foldl
    | with_reducible apply Keeps.foldl_snd
    | with_reducible refine Keeps.mk' ?_ ?_ ?_ ?_ ?_
    | exact rfl)

theorem freeSlots_keeps {s0 : State} {first n : Nat} {s : State} (h_s : Keeps s0 s)  :
    Keeps s0 (freeSlots first n s) := by
  unfold freeSlots
  repeat' (first
    | with_reducible assumption
    | intro _
    | with_reducible refine Keeps.mk' ?_ ?_ ?_ ?_ ?_
    | exact rfl)

theorem applyBerthOpen_keeps {s0 : State} {c : Cmd} {s : State} (h_s : Keeps s0 s)  :
    Keeps s0 (applyBerthOpen c s) := by
  unfold applyBerthOpen
  repeat' (first
    | with_reducible assumption
    | with_reducible apply joinGroups_keeps
    | with_reducible apply freeSlots_keeps
    | with_reducible apply Keeps.ite
    | intro _
    | with_reducible refine Keeps.mk' ?_ ?_ ?_ ?_ ?_
    | exact rfl)

theorem applyBerthClose_keeps {s0 : State} {c : Cmd} {s : State} (h_s : Keeps s0 s)  :
    Keeps s0 (applyBerthClose c s) := by
  unfold applyBerthClose
  repeat' (first
    | with_reducible assumption
    | with_reducible apply answerOwed_keeps
    | with_reducible apply updRx_keeps
    | with_reducible apply updTx_keeps
    | with_reducible apply Keeps.ite
    | intro _
    | split
    | dsimp -proj only
    | with_reducible refine Keeps.mk' ?_ ?_ ?_ ?_ ?_
    | exact rfl)

theorem endRxDrain_keeps {s0 : State} {b : Nat} {s : State} (h_s : Keeps s0 s)  :
    Keeps s0 (endRxDrain b s) := by
  unfold endRxDrain
  repeat' (first
    | with_reducible assumption
    | with_reducible apply updRx_keeps
    | with_reducible apply freeSlots_keeps
    | with_reducible apply leaveGroups_keeps
    | with_reducible apply settleOwed_keeps
    | with_reducible apply Keeps.ite
    | intro _
    | split
    | dsimp -proj only
    | with_reducible refine Keeps.mk' ?_ ?_ ?_ ?_ ?_
    | exact rfl)

theorem execBerthDrainEnd_keeps {b : Fin 256} {s : State} : KeepsO s (execBerthDrainEnd b s) := by
  have h := Keeps.refl s
  unfold execBerthDrainEnd
  repeat' (first
    | with_reducible assumption
    | with_reducible apply endRxDrain_keeps
    | with_reducible apply KeepsO.next
    | with_reducible apply KeepsO.ite
    | with_reducible apply Keeps.ite
    | intro _
    | split
    | with_reducible refine Keeps.mk' ?_ ?_ ?_ ?_ ?_
    | exact rfl)

theorem endTxDrain_keeps {s0 : State} {b : Nat} {s : State} (h_s : Keeps s0 s)  :
    Keeps s0 (endTxDrain b s) := by
  unfold endTxDrain
  repeat' (first
    | with_reducible assumption
    | with_reducible apply settleOwed_keeps
    | with_reducible apply updTx_keeps
    | with_reducible apply Keeps.ite
    | intro _
    | split
    | with_reducible refine Keeps.mk' ?_ ?_ ?_ ?_ ?_
    | exact rfl)

theorem execTxBerthDrainEnd_keeps {b : Fin 128} {s : State} : KeepsO s (execTxBerthDrainEnd b s) := by
  have h := Keeps.refl s
  unfold execTxBerthDrainEnd
  repeat' (first
    | with_reducible assumption
    | with_reducible apply endTxDrain_keeps
    | with_reducible apply KeepsO.next
    | with_reducible apply KeepsO.ite
    | with_reducible apply Keeps.ite
    | intro _
    | split
    | dsimp -proj only
    | with_reducible refine Keeps.mk' ?_ ?_ ?_ ?_ ?_
    | exact rfl)

theorem placePacket_keeps {s0 : State} {b : Nat} {n0 : Int} {cols : List (List Int)} {s : State} (h_s : Keeps s0 s)  :
    Keeps s0 (placePacket b n0 cols s) := by
  unfold placePacket
  repeat' (first
    | with_reducible assumption
    | with_reducible apply updRx_keeps
    | intro _
    | with_reducible apply Keeps.foldl
    | with_reducible apply Keeps.foldl_snd
    | split
    | dsimp -proj only
    | with_reducible refine Keeps.mk' ?_ ?_ ?_ ?_ ?_
    | exact rfl)

theorem concealRange_keeps {s0 : State} {b lo hi : Nat} {s : State} (h_s : Keeps s0 s)  :
    Keeps s0 (concealRange b lo hi s) := by
  unfold concealRange
  repeat' (first
    | with_reducible assumption
    | with_reducible apply updRx_keeps
    | intro _
    | with_reducible apply Keeps.foldl
    | with_reducible apply Keeps.foldl_snd
    | split
    | dsimp -proj only
    | with_reducible refine Keeps.mk' ?_ ?_ ?_ ?_ ?_
    | exact rfl)

theorem catchBerth_keeps {s0 : State} {b f : Nat} {s : State} (h_s : Keeps s0 s)  :
    Keeps s0 (catchBerth b f s) := by
  unfold catchBerth
  repeat' (first
    | with_reducible assumption
    | with_reducible apply concealRange_keeps
    | with_reducible apply updRx_keeps
    | with_reducible apply Keeps.ite
    | intro _
    | split
    | dsimp -proj only
    | with_reducible refine Keeps.mk' ?_ ?_ ?_ ?_ ?_
    | exact rfl)

theorem writeFree_keeps {s0 : State} {b gap : Nat} {cols : List (List Int)} {s : State} (h_s : Keeps s0 s)  :
    Keeps s0 (writeFree b gap cols s) := by
  unfold writeFree
  repeat' (first
    | with_reducible assumption
    | with_reducible apply concealRange_keeps
    | with_reducible apply updRx_keeps
    | intro _
    | with_reducible apply Keeps.foldl
    | with_reducible apply Keeps.foldl_snd
    | split
    | dsimp -proj only
    | with_reducible refine Keeps.mk' ?_ ?_ ?_ ?_ ?_
    | exact rfl)

theorem placeFree_keeps {s0 : State} {mod b seq : Nat} {cols : List (List Int)} {s : State} (h_s : Keeps s0 s)  :
    Keeps s0 (placeFree mod b seq cols s) := by
  unfold placeFree
  repeat' (first
    | with_reducible assumption
    | with_reducible apply updRx_keeps
    | with_reducible apply writeFree_keeps
    | with_reducible apply Keeps.ite
    | intro _
    | with_reducible apply Keeps.foldl
    | with_reducible apply Keeps.foldl_snd
    | split
    | dsimp -proj only
    | with_reducible refine Keeps.mk' ?_ ?_ ?_ ?_ ?_
    | exact rfl)

theorem arriveFree_keeps {s0 : State} {mod b seq : Nat} {cols : List (List Int)} {s : State} (h_s : Keeps s0 s)  :
    Keeps s0 (arriveFree mod b seq cols s) := by
  unfold arriveFree
  repeat' (first
    | with_reducible assumption
    | with_reducible apply updRx_keeps
    | with_reducible apply placeFree_keeps
    | with_reducible apply Keeps.ite
    | intro _
    | with_reducible refine Keeps.mk' ?_ ?_ ?_ ?_ ?_
    | exact rfl)

theorem malformed_keeps {s0 : State} {b : Nat} {s : State} (h_s : Keeps s0 s)  :
    Keeps s0 (malformed b s) := by
  unfold malformed
  repeat' (first
    | with_reducible assumption
    | with_reducible apply updRx_keeps
    | intro _
    | with_reducible refine Keeps.mk' ?_ ?_ ?_ ?_ ?_
    | exact rfl)

theorem receiveRtp_keeps {s0 : State} {port b : Nat} {f : Frame} {ip : Ipv4} {s : State} (h_s : Keeps s0 s)  :
    Keeps s0 (receiveRtp port b f ip s) := by
  unfold receiveRtp
  repeat' (first
    | with_reducible assumption
    | with_reducible apply malformed_keeps
    | with_reducible apply updRx_keeps
    | with_reducible apply arriveFree_keeps
    | with_reducible apply placePacket_keeps
    | with_reducible apply Keeps.ite
    | intro _
    | split
    | dsimp -proj only
    | with_reducible refine Keeps.mk' ?_ ?_ ?_ ?_ ?_
    | exact rfl)

theorem busRecord_keeps {s0 : State} {port node arrived : Nat} {r : Bytes} {s : State} (h_s : Keeps s0 s)  :
    Keeps s0 (busRecord port node arrived r s) := by
  unfold busRecord
  repeat' (first
    | with_reducible assumption
    | with_reducible apply updPortStat_keeps
    | with_reducible apply updPeerSt_keeps
    | with_reducible apply Keeps.ite
    | intro _
    | split
    | dsimp -proj only
    | with_reducible refine Keeps.mk' ?_ ?_ ?_ ?_ ?_
    | exact rfl)

theorem receivePgx_keeps {s0 : State} {port b : Nat} {f : Frame} {ip : Ipv4} {s : State} (h_s : Keeps s0 s)  :
    Keeps s0 (receivePgx port b f ip s) := by
  unfold receivePgx
  repeat' (first
    | with_reducible assumption
    | with_reducible apply malformed_keeps
    | with_reducible apply updRx_keeps
    | with_reducible apply updPortStat_keeps
    | with_reducible apply logEvent_keeps
    | with_reducible apply arriveFree_keeps
    | with_reducible apply placePacket_keeps
    | with_reducible apply busRecord_keeps
    | with_reducible apply Keeps.ite
    | intro _
    | with_reducible apply Keeps.foldl
    | with_reducible apply Keeps.foldl_snd
    | split
    | dsimp -proj only
    | with_reducible refine Keeps.mk' ?_ ?_ ?_ ?_ ?_
    | exact rfl)

theorem ringFrame_keeps {s0 : State} {port ring : Nat} {f : Frame} {stamp : Option Nat} {s : State} (h_s : Keeps s0 s)  :
    Keeps s0 (ringFrame port ring f stamp s) := by
  unfold ringFrame
  repeat' (first
    | with_reducible assumption
    | with_reducible apply updPortStat_keeps
    | with_reducible apply updPort_keeps
    | with_reducible apply Keeps.ite
    | intro _
    | split
    | dsimp -proj only
    | with_reducible refine Keeps.mk' ?_ ?_ ?_ ?_ ?_
    | exact rfl)

theorem aliveElsewhere_keeps {s0 : State} {s : State} (h_s : Keeps s0 s)  :
    Keeps s0 (aliveElsewhere s) := by
  unfold aliveElsewhere
  repeat' (first
    | with_reducible assumption
    | with_reducible apply setAdrift_keeps
    | with_reducible apply Keeps.ite
    | intro _
    | with_reducible refine Keeps.mk' ?_ ?_ ?_ ?_ ?_
    | exact rfl)

theorem watchPacket_keeps {s0 : State} {s : State} (h_s : Keeps s0 s)  :
    Keeps s0 (watchPacket s) := by
  unfold watchPacket
  repeat' (first
    | with_reducible assumption
    | with_reducible apply aliveElsewhere_keeps
    | intro _
    | with_reducible refine Keeps.mk' ?_ ?_ ?_ ?_ ?_
    | exact rfl)

theorem syncWatch_keeps {s0 : State} {s : State} (h_s : Keeps s0 s)  :
    Keeps s0 (syncWatch s) := by
  unfold syncWatch
  repeat' (first
    | with_reducible assumption
    | with_reducible apply leaveGroups_keeps
    | with_reducible apply joinGroups_keeps
    | with_reducible apply Keeps.ite
    | intro _
    | with_reducible refine Keeps.mk' ?_ ?_ ?_ ?_ ?_
    | exact rfl)

theorem receiveFrame_keeps {s0 : State} {port : Nat} {f : Frame} {s : State} (h_s : Keeps s0 s)  :
    Keeps s0 (receiveFrame port f s) := by
  unfold receiveFrame
  repeat' (first
    | with_reducible assumption
    | with_reducible apply updPortStat_keeps
    | with_reducible apply receiveRtp_keeps
    | with_reducible apply receivePgx_keeps
    | with_reducible apply watchPacket_keeps
    | with_reducible apply ringFrame_keeps
    | with_reducible apply answerQuery_keeps
    | with_reducible apply Keeps.ite
    | intro _
    | split
    | dsimp -proj only
    | with_reducible refine Keeps.mk' ?_ ?_ ?_ ?_ ?_
    | exact rfl)

theorem execFrameReceive_keeps {port : Fin 3} {f : Frame} {s : State} : KeepsO s (execFrameReceive port f s) := by
  have h := Keeps.refl s
  unfold execFrameReceive
  repeat' (first
    | with_reducible assumption
    | with_reducible apply receiveFrame_keeps
    | with_reducible apply KeepsO.next
    | with_reducible apply KeepsO.ite
    | intro _
    | with_reducible refine Keeps.mk' ?_ ?_ ?_ ?_ ?_
    | exact rfl)

theorem cutFrame_keeps {s0 : State} {port : Nat} {f : Frame} {n : Nat} {s : State} (h_s : Keeps s0 s)  :
    Keeps s0 (cutFrame port f n s) := by
  unfold cutFrame
  repeat' (first
    | with_reducible assumption
    | with_reducible apply updPort_keeps
    | with_reducible apply Keeps.ite
    | intro _
    | split
    | dsimp -proj only
    | with_reducible refine Keeps.mk' ?_ ?_ ?_ ?_ ?_
    | exact rfl)

theorem dropRings_keeps {s0 : State} {s : State} (h_s : Keeps s0 s)  :
    Keeps s0 (dropRings s) := by
  unfold dropRings
  repeat' (first
    | with_reducible assumption
    | with_reducible apply updPortStat_keeps
    | with_reducible apply updPort_keeps
    | intro _
    | with_reducible apply Keeps.foldl
    | with_reducible apply Keeps.foldl_snd
    | with_reducible refine Keeps.mk' ?_ ?_ ?_ ?_ ?_
    | exact rfl)

theorem recycleRings_keeps {s0 : State} {s : State} (h_s : Keeps s0 s)  :
    Keeps s0 (recycleRings s) := by
  unfold recycleRings
  repeat' (first
    | with_reducible assumption
    | intro _
    | with_reducible refine Keeps.mk' ?_ ?_ ?_ ?_ ?_
    | exact rfl)

theorem sendNext_keeps {s0 : State} {p gap time : Nat} {s : State} (h_s : Keeps s0 s)  :
    Keeps s0 (sendNext p gap time s) := by
  unfold sendNext
  repeat' (first
    | with_reducible assumption
    | with_reducible apply updPort_keeps
    | with_reducible apply send_keeps
    | with_reducible apply pushTsq_keeps
    | with_reducible apply Keeps.ite
    | intro _
    | split
    | dsimp -proj only
    | with_reducible refine Keeps.mk' ?_ ?_ ?_ ?_ ?_
    | exact rfl)

theorem execTxFrameDone_keeps {port : Fin 3} {gap time : Nat} {s : State} : KeepsO s (execTxFrameDone port gap time s) := by
  have h := Keeps.refl s
  unfold execTxFrameDone
  repeat' (first
    | with_reducible assumption
    | with_reducible apply sendNext_keeps
    | with_reducible apply KeepsO.next
    | with_reducible apply KeepsO.ite
    | intro _
    | with_reducible refine Keeps.mk' ?_ ?_ ?_ ?_ ?_
    | exact rfl)

theorem sendChain_keeps {s0 : State} {p ring : Nat} {chain : List TxDesc} {s : State} (h_s : Keeps s0 s)  :
    Keeps s0 (sendChain p ring chain s) := by
  unfold sendChain
  repeat' (first
    | with_reducible assumption
    | with_reducible apply updPort_keeps
    | with_reducible apply Keeps.ite
    | intro _
    | with_reducible refine Keeps.mk' ?_ ?_ ?_ ?_ ?_
    | exact rfl)

theorem execTxDescriptorSend_keeps {port : Fin 3} {ring : Fin 6} {chain : List TxDesc} {s : State} : KeepsO s (execTxDescriptorSend port ring chain s) := by
  have h := Keeps.refl s
  unfold execTxDescriptorSend
  repeat' (first
    | with_reducible assumption
    | with_reducible apply sendChain_keeps
    | with_reducible apply KeepsO.next
    | with_reducible apply KeepsO.ite
    | intro _
    | with_reducible refine Keeps.mk' ?_ ?_ ?_ ?_ ?_
    | exact rfl)

end Sys2Proof.Machine
end

