-- ==== Sys2Proof/Laws/KeepsTaps.lean ====
section
/-!
SUPPORT. What the operations of Machine/Taps.lean keep.
-/
namespace Sys2Proof.Machine

theorem pressureEvent_keeps {s0 : State} {k : Nat} {r : Solved} {s : State} (h : Keeps s0 s) :
    Keeps s0 (pressureEvent k r s) := by
  unfold pressureEvent
  refine Keeps.ite (fun _ => ?_) (fun _ => ?_)
  · split
    · exact logEvent_keeps (h.mk' rfl rfl rfl rfl)
    · exact raise_keeps (h.mk' rfl rfl rfl rfl)
  · split
    · exact logEvent_keeps (h.mk' rfl rfl rfl rfl)
    · exact h

theorem checkCounts_keeps {s0 : State} {k : Nat} {r : Solved} {s : State} (h_s : Keeps s0 s)  :
    Keeps s0 (checkCounts k r s) := by
  unfold checkCounts
  repeat' (first
    | with_reducible assumption
    | with_reducible apply sendTwin_keeps
    | with_reducible apply Keeps.ite
    | intro _
    | with_reducible refine Keeps.mk' ?_ ?_ ?_ ?_ ?_
    | exact rfl)

theorem solveTick_keeps {s0 : State} {k : Nat} {s : State} (h_s : Keeps s0 s)  :
    Keeps s0 (solveTick k s) := by
  unfold solveTick
  repeat' (first
    | with_reducible assumption
    | with_reducible apply checkCounts_keeps
    | with_reducible apply pressureEvent_keeps
    | with_reducible apply Keeps.ite
    | intro _
    | with_reducible refine Keeps.mk' ?_ ?_ ?_ ?_ ?_
    | exact rfl)

theorem swapTables_keeps {s0 : State} {k : Nat} {s : State} (h_s : Keeps s0 s)  :
    Keeps s0 (swapTables k s) := by
  unfold swapTables
  repeat' (first
    | with_reducible assumption
    | with_reducible apply Keeps.ite
    | intro _
    | with_reducible apply Keeps.foldl
    | with_reducible apply Keeps.foldl_snd
    | split
    | dsimp -proj only
    | with_reducible refine Keeps.mk' ?_ ?_ ?_ ?_ ?_
    | exact rfl)

theorem execHopFadeEnd_keeps {slot o : Fin 512} {s : State} : KeepsO s (execHopFadeEnd slot o s) := by
  have h := Keeps.refl s
  unfold execHopFadeEnd
  repeat' (first
    | with_reducible assumption
    | with_reducible apply KeepsO.next
    | with_reducible apply KeepsO.ite
    | with_reducible apply Keeps.ite
    | intro _
    | split
    | with_reducible refine Keeps.mk' ?_ ?_ ?_ ?_ ?_
    | exact rfl)

end Sys2Proof.Machine
end

