-- ==== Sys2Proof/Laws/KeepsNose.lean ====
section
/-!
SUPPORT. What the operations of Machine/Nose.lean keep.
-/
namespace Sys2Proof.Machine

theorem updAcc_keeps {s0 : State} {i : Nat} {f : PairAcc → PairAcc} {s : State} (h_s : Keeps s0 s)  :
    Keeps s0 (updAcc i f s) := by
  unfold updAcc
  repeat' (first
    | with_reducible assumption
    | intro _
    | with_reducible refine Keeps.mk' ?_ ?_ ?_ ?_ ?_
    | exact rfl)

theorem updHealth_keeps {s0 : State} {o : Nat} {f : Health → Health} {s : State} (h_s : Keeps s0 s)  :
    Keeps s0 (updHealth o f s) := by
  unfold updHealth
  repeat' (first
    | with_reducible assumption
    | intro _
    | with_reducible refine Keeps.mk' ?_ ?_ ?_ ?_ ?_
    | exact rfl)

theorem updObs_keeps {s0 : State} {i : Nat} {f : ObsIn → ObsIn} {s : State} (h_s : Keeps s0 s)  :
    Keeps s0 (updObs i f s) := by
  unfold updObs
  repeat' (first
    | with_reducible assumption
    | intro _
    | with_reducible refine Keeps.mk' ?_ ?_ ?_ ?_ ?_
    | exact rfl)

theorem noseFollow_keeps {s0 : State} {s : State} (h_s : Keeps s0 s)  :
    Keeps s0 (noseFollow s) := by
  unfold noseFollow
  repeat' (first
    | with_reducible assumption
    | with_reducible apply Keeps.ite
    | intro _
    | split
    | dsimp -proj only
    | with_reducible refine Keeps.mk' ?_ ?_ ?_ ?_ ?_
    | exact rfl)

theorem execNoseDrainEnd_keeps {s : State} : KeepsO s (execNoseDrainEnd s) := by
  have h := Keeps.refl s
  unfold execNoseDrainEnd
  repeat' (first
    | with_reducible assumption
    | with_reducible apply settleOwed_keeps
    | with_reducible apply KeepsO.next
    | with_reducible apply KeepsO.ite
    | with_reducible apply Keeps.ite
    | intro _
    | with_reducible refine Keeps.mk' ?_ ?_ ?_ ?_ ?_
    | exact rfl)

theorem noseLeaveShallow_keeps {s0 : State} {s : State} (h_s : Keeps s0 s)  :
    Keeps s0 (noseLeaveShallow s) := by
  unfold noseLeaveShallow
  repeat' (first
    | with_reducible assumption
    | intro _
    | with_reducible refine Keeps.mk' ?_ ?_ ?_ ?_ ?_
    | exact rfl)

theorem clearAcc_keeps {s0 : State} {i : Nat} {s : State} (h_s : Keeps s0 s)  :
    Keeps s0 (clearAcc i s) := by
  unfold clearAcc
  repeat' (first
    | with_reducible assumption
    | with_reducible apply updAcc_keeps
    | intro _
    | with_reducible refine Keeps.mk' ?_ ?_ ?_ ?_ ?_
    | exact rfl)

theorem dropAnchors_keeps {s0 : State} {f : Nat → PairRec → Bool} {s : State} (h_s : Keeps s0 s)  :
    Keeps s0 (dropAnchors f s) := by
  unfold dropAnchors
  repeat' (first
    | with_reducible assumption
    | intro _
    | with_reducible refine Keeps.mk' ?_ ?_ ?_ ?_ ?_
    | exact rfl)

theorem trimWritten_keeps {s0 : State} {kind target : Nat} {s : State} (h_s : Keeps s0 s)  :
    Keeps s0 (trimWritten kind target s) := by
  unfold trimWritten
  repeat' (first
    | with_reducible assumption
    | with_reducible apply dropAnchors_keeps
    | intro _
    | with_reducible refine Keeps.mk' ?_ ?_ ?_ ?_ ?_
    | exact rfl)

theorem healthCleared_keeps {s0 : State} {o : Nat} {s : State} (h_s : Keeps s0 s)  :
    Keeps s0 (healthCleared o s) := by
  unfold healthCleared
  repeat' (first
    | with_reducible assumption
    | with_reducible apply updHealth_keeps
    | intro _
    | with_reducible refine Keeps.mk' ?_ ?_ ?_ ?_ ?_
    | exact rfl)

theorem dropHealth_keeps {s0 : State} {o : Nat} {s : State} (h_s : Keeps s0 s)  :
    Keeps s0 (dropHealth o s) := by
  unfold dropHealth
  repeat' (first
    | with_reducible assumption
    | intro _
    | with_reducible refine Keeps.mk' ?_ ?_ ?_ ?_ ?_
    | exact rfl)

theorem writeNoseCfg_keeps {s0 : State} {p : Bytes} {s : State} (h_s : Keeps s0 s)  :
    Keeps s0 (writeNoseCfg p s) := by
  unfold writeNoseCfg
  repeat' (first
    | with_reducible assumption
    | with_reducible apply noseFollow_keeps
    | with_reducible apply updHealth_keeps
    | with_reducible apply Keeps.ite
    | intro _
    | split
    | dsimp -proj only
    | with_reducible refine Keeps.mk' ?_ ?_ ?_ ?_ ?_
    | exact rfl)

theorem doNoseCfg_keeps {s0 : State} {p : Bytes} {s : State} (h_s : Keeps s0 s)  :
    KeepsR s0 (doNoseCfg p s) := by
  unfold doNoseCfg
  repeat' (first
    | with_reducible assumption
    | with_reducible apply no_keeps
    | with_reducible apply writeNoseCfg_keeps
    | with_reducible apply KeepsR.no
    | with_reducible apply KeepsR.refuse
    | with_reducible apply KeepsR.done
    | with_reducible apply KeepsR.owe
    | with_reducible apply KeepsR.deferred
    | with_reducible apply KeepsR.ite
    | with_reducible apply Keeps.ite
    | intro _
    | split
    | dsimp -proj only
    | with_reducible refine Keeps.mk' ?_ ?_ ?_ ?_ ?_
    | exact rfl)

theorem applyNoseObs_keeps {s0 : State} {c : Cmd} {s : State} (h_s : Keeps s0 s)  :
    Keeps s0 (applyNoseObs c s) := by
  unfold applyNoseObs
  repeat' (first
    | with_reducible assumption
    | with_reducible apply clearAcc_keeps
    | with_reducible apply Keeps.ite
    | intro _
    | with_reducible apply Keeps.foldl
    | with_reducible apply Keeps.foldl_snd
    | with_reducible refine Keeps.mk' ?_ ?_ ?_ ?_ ?_
    | exact rfl)

theorem writePair_keeps {s0 : State} {p : Bytes} {s : State} (h_s : Keeps s0 s)  :
    Keeps s0 (writePair p s) := by
  unfold writePair
  repeat' (first
    | with_reducible assumption
    | with_reducible apply updAcc_keeps
    | with_reducible apply dropAnchors_keeps
    | with_reducible apply Keeps.ite
    | intro _
    | with_reducible refine Keeps.mk' ?_ ?_ ?_ ?_ ?_
    | exact rfl)

theorem doPairSet_keeps {s0 : State} {p : Bytes} {s : State} (h_s : Keeps s0 s)  :
    KeepsR s0 (doPairSet p s) := by
  unfold doPairSet
  repeat' (first
    | with_reducible assumption
    | with_reducible apply no_keeps
    | with_reducible apply writePair_keeps
    | with_reducible apply KeepsR.no
    | with_reducible apply KeepsR.refuse
    | with_reducible apply KeepsR.done
    | with_reducible apply KeepsR.owe
    | with_reducible apply KeepsR.deferred
    | with_reducible apply KeepsR.ite
    | with_reducible apply Keeps.ite
    | intro _
    | with_reducible refine Keeps.mk' ?_ ?_ ?_ ?_ ?_
    | exact rfl)

theorem applyMarkSet_keeps {s0 : State} {c : Cmd} {s : State} (h_s : Keeps s0 s)  :
    Keeps s0 (applyMarkSet c s) := by
  unfold applyMarkSet
  repeat' (first
    | with_reducible assumption
    | intro _
    | with_reducible apply Keeps.foldl
    | with_reducible apply Keeps.foldl_snd
    | with_reducible refine Keeps.mk' ?_ ?_ ?_ ?_ ?_
    | exact rfl)

theorem readMarkSet_keeps {s0 : State} {p : Bytes} {s : State} (h_s : Keeps s0 s)  :
    KeepsR s0 (readMarkSet p s) := by
  unfold readMarkSet
  repeat' (first
    | with_reducible assumption
    | with_reducible apply no_keeps
    | with_reducible apply KeepsR.no
    | with_reducible apply KeepsR.refuse
    | with_reducible apply KeepsR.done
    | with_reducible apply KeepsR.owe
    | with_reducible apply KeepsR.deferred
    | with_reducible apply KeepsR.ite
    | with_reducible apply Keeps.ite
    | intro _
    | with_reducible apply Keeps.foldl
    | with_reducible apply Keeps.foldl_snd
    | with_reducible refine Keeps.mk' ?_ ?_ ?_ ?_ ?_
    | exact rfl)

theorem doPolicySet_keeps {s0 : State} {p : Bytes} {s : State} (h_s : Keeps s0 s)  :
    KeepsR s0 (doPolicySet p s) := by
  unfold doPolicySet
  repeat' (first
    | with_reducible assumption
    | with_reducible apply no_keeps
    | with_reducible apply KeepsR.no
    | with_reducible apply KeepsR.refuse
    | with_reducible apply KeepsR.done
    | with_reducible apply KeepsR.owe
    | with_reducible apply KeepsR.deferred
    | with_reducible apply KeepsR.ite
    | with_reducible apply Keeps.ite
    | intro _
    | with_reducible refine Keeps.mk' ?_ ?_ ?_ ?_ ?_
    | exact rfl)

theorem doEstRead_keeps {s0 : State} {p : Bytes} {s : State} (h_s : Keeps s0 s)  :
    KeepsR s0 (doEstRead p s) := by
  unfold doEstRead
  repeat' (first
    | with_reducible assumption
    | with_reducible apply no_keeps
    | with_reducible apply KeepsR.no
    | with_reducible apply KeepsR.refuse
    | with_reducible apply KeepsR.done
    | with_reducible apply KeepsR.owe
    | with_reducible apply KeepsR.deferred
    | with_reducible apply KeepsR.ite
    | with_reducible apply Keeps.ite
    | intro _
    | with_reducible refine Keeps.mk' ?_ ?_ ?_ ?_ ?_
    | exact rfl)

theorem doProposalRead_keeps {s0 : State} {p : Bytes} {s : State} (h_s : Keeps s0 s)  :
    KeepsR s0 (doProposalRead p s) := by
  unfold doProposalRead
  repeat' (first
    | with_reducible assumption
    | with_reducible apply no_keeps
    | with_reducible apply KeepsR.no
    | with_reducible apply KeepsR.refuse
    | with_reducible apply KeepsR.done
    | with_reducible apply KeepsR.owe
    | with_reducible apply KeepsR.deferred
    | with_reducible apply KeepsR.ite
    | with_reducible apply Keeps.ite
    | intro _
    | split
    | dsimp -proj only
    | with_reducible refine Keeps.mk' ?_ ?_ ?_ ?_ ?_
    | exact rfl)

theorem doHealthRead_keeps {s0 : State} {p : Bytes} {s : State} (h_s : Keeps s0 s)  :
    KeepsR s0 (doHealthRead p s) := by
  unfold doHealthRead
  repeat' (first
    | with_reducible assumption
    | with_reducible apply no_keeps
    | with_reducible apply KeepsR.no
    | with_reducible apply KeepsR.refuse
    | with_reducible apply KeepsR.done
    | with_reducible apply KeepsR.owe
    | with_reducible apply KeepsR.deferred
    | with_reducible apply KeepsR.ite
    | with_reducible apply Keeps.ite
    | intro _
    | split
    | dsimp -proj only
    | with_reducible refine Keeps.mk' ?_ ?_ ?_ ?_ ?_
    | exact rfl)

theorem issue_keeps {s0 : State} {origin : Origin} {op : Opcode} {t : Timing} {p : Bytes} {units : List UnitKey} {proposal : Nat} {s : State} (h_s : Keeps s0 s)  :
    Keeps s0 (issue origin op t p units proposal s) := by
  unfold issue
  repeat' (first
    | with_reducible assumption
    | with_reducible apply forwardCmd_keeps
    | with_reducible apply Keeps.ite
    | intro _
    | with_reducible refine Keeps.mk' ?_ ?_ ?_ ?_ ?_
    | exact rfl)

theorem propose_keeps {s0 : State} {kind target : Nat} {p : Proposal} {step : Int} {stepEq : SMap Int} {s : State} (h_s : Keeps s0 s)  :
    Keeps s0 (propose kind target p step stepEq s) := by
  unfold propose
  repeat' (first
    | with_reducible assumption
    | with_reducible apply forwardNose_keeps
    | with_reducible apply logEvent_keeps
    | with_reducible apply issue_keeps
    | with_reducible apply Keeps.ite
    | intro _
    | split
    | dsimp -proj only
    | with_reducible refine Keeps.mk' ?_ ?_ ?_ ?_ ?_
    | exact rfl)

theorem applyChange_keeps {s0 : State} {c : Cmd} {s : State} (h_s : Keeps s0 s)  :
    Keeps s0 (applyChange c s) := by
  unfold applyChange
  repeat' (first
    | with_reducible assumption
    | with_reducible apply loadOutput_keeps
    | with_reducible apply swapOutput_keeps
    | with_reducible apply Keeps.ite
    | intro _
    | split
    | dsimp -proj only
    | with_reducible refine Keeps.mk' ?_ ?_ ?_ ?_ ?_
    | exact rfl)

theorem noteMarker_keeps {s0 : State} {b o : Nat} {gate : Bool} {l : Option MarkLog} {s : State} (h_s : Keeps s0 s)  :
    Keeps s0 (noteMarker b o gate l s) := by
  unfold noteMarker
  repeat' (first
    | with_reducible assumption
    | with_reducible apply Keeps.ite
    | intro _
    | split
    | dsimp -proj only
    | with_reducible refine Keeps.mk' ?_ ?_ ?_ ?_ ?_
    | exact rfl)

theorem eachHealth_keeps {s0 : State} {f : Nat → Health → Health} {s : State} (h_s : Keeps s0 s)  :
    Keeps s0 (eachHealth f s) := by
  unfold eachHealth
  repeat' (first
    | with_reducible assumption
    | intro _
    | with_reducible apply Keeps.foldl
    | with_reducible apply Keeps.foldl_snd
    | with_reducible refine Keeps.mk' ?_ ?_ ?_ ?_ ?_
    | exact rfl)

theorem skipFrame_keeps {s0 : State} {s : State} (h_s : Keeps s0 s)  :
    Keeps s0 (skipFrame s) := by
  unfold skipFrame
  repeat' (first
    | with_reducible assumption
    | intro _
    | with_reducible refine Keeps.mk' ?_ ?_ ?_ ?_ ?_
    | exact rfl)

theorem execNoseFrame_keeps {s : State} : KeepsO s (execNoseFrame s) := by
  have h := Keeps.refl s
  unfold execNoseFrame
  repeat' (first
    | with_reducible assumption
    | with_reducible apply skipFrame_keeps
    | with_reducible apply clearAcc_keeps
    | with_reducible apply eachHealth_keeps
    | with_reducible apply KeepsO.next
    | with_reducible apply KeepsO.ite
    | with_reducible apply Keeps.ite
    | intro _
    | with_reducible apply Keeps.foldl
    | with_reducible apply Keeps.foldl_snd
    | split
    | dsimp -proj only
    | with_reducible refine Keeps.mk' ?_ ?_ ?_ ?_ ?_
    | exact rfl)

theorem trackAir_keeps {s0 : State} {t : Nat} {s : State} (h_s : Keeps s0 s)  :
    Keeps s0 (trackAir t s) := by
  unfold trackAir
  repeat' (first
    | with_reducible assumption
    | with_reducible apply propose_keeps
    | with_reducible apply Keeps.ite
    | intro _
    | split
    | dsimp -proj only
    | with_reducible refine Keeps.mk' ?_ ?_ ?_ ?_ ?_
    | exact rfl)

theorem trackTrims_keeps {s0 : State} {t : Nat} {s : State} (h_s : Keeps s0 s)  :
    Keeps s0 (trackTrims t s) := by
  unfold trackTrims
  repeat' (first
    | with_reducible assumption
    | with_reducible apply forwardNose_keeps
    | with_reducible apply propose_keeps
    | with_reducible apply Keeps.ite
    | intro _
    | with_reducible apply Keeps.foldl
    | with_reducible apply Keeps.foldl_snd
    | split
    | dsimp -proj only
    | with_reducible refine Keeps.mk' ?_ ?_ ?_ ?_ ?_
    | exact rfl)

theorem execNoseRefresh_keeps {s : State} : KeepsO s (execNoseRefresh s) := by
  have h := Keeps.refl s
  unfold execNoseRefresh
  repeat' (first
    | with_reducible assumption
    | with_reducible apply trackTrims_keeps
    | with_reducible apply trackAir_keeps
    | with_reducible apply eachHealth_keeps
    | with_reducible apply KeepsO.next
    | with_reducible apply KeepsO.ite
    | with_reducible apply Keeps.ite
    | intro _
    | with_reducible apply Keeps.foldl
    | with_reducible apply Keeps.foldl_snd
    | with_reducible refine Keeps.mk' ?_ ?_ ?_ ?_ ?_
    | exact rfl)

theorem proposeEq_keeps {s0 : State} {t : Nat} {s : State} {o : Nat} {k : TargetCurve} (h_s : Keeps s0 s)  :
    Keeps s0 (proposeEq t s o k) := by
  unfold proposeEq
  repeat' (first
    | with_reducible assumption
    | with_reducible apply propose_keeps
    | with_reducible apply Keeps.ite
    | intro _
    | with_reducible apply Keeps.foldl
    | with_reducible apply Keeps.foldl_snd
    | split
    | dsimp -proj only
    | with_reducible refine Keeps.mk' ?_ ?_ ?_ ?_ ?_
    | exact rfl)

theorem execProposalInterval_keeps {s : State} : KeepsO s (execProposalInterval s) := by
  have h := Keeps.refl s
  unfold execProposalInterval
  repeat' (first
    | with_reducible assumption
    | with_reducible apply proposeEq_keeps
    | with_reducible apply KeepsO.next
    | with_reducible apply KeepsO.ite
    | with_reducible apply Keeps.ite
    | intro _
    | with_reducible apply Keeps.foldl
    | with_reducible apply Keeps.foldl_snd
    | with_reducible refine Keeps.mk' ?_ ?_ ?_ ?_ ?_
    | exact rfl)

theorem execHealthEvidenceHold_keeps {o : Fin 512} {s : State} : KeepsO s (execHealthEvidenceHold o s) := by
  have h := Keeps.refl s
  unfold execHealthEvidenceHold
  repeat' (first
    | with_reducible assumption
    | with_reducible apply issue_keeps
    | with_reducible apply KeepsO.next
    | with_reducible apply KeepsO.ite
    | with_reducible apply Keeps.ite
    | intro _
    | split
    | dsimp -proj only
    | with_reducible refine Keeps.mk' ?_ ?_ ?_ ?_ ?_
    | exact rfl)

theorem healthChanged_keeps {s0 : State} {o v : Nat} {s : State} (h_s : Keeps s0 s)  :
    Keeps s0 (healthChanged o v s) := by
  unfold healthChanged
  repeat' (first
    | with_reducible assumption
    | with_reducible apply logEvent_keeps
    | with_reducible apply updHealth_keeps
    | with_reducible apply Keeps.ite
    | intro _
    | with_reducible refine Keeps.mk' ?_ ?_ ?_ ?_ ?_
    | exact rfl)

theorem execZRefLearnEnd_keeps {o : Fin 512} {s : State} : KeepsO s (execZRefLearnEnd o s) := by
  have h := Keeps.refl s
  unfold execZRefLearnEnd
  repeat' (first
    | with_reducible assumption
    | with_reducible apply updHealth_keeps
    | with_reducible apply KeepsO.next
    | with_reducible apply KeepsO.ite
    | with_reducible apply Keeps.ite
    | intro _
    | split
    | with_reducible refine Keeps.mk' ?_ ?_ ?_ ?_ ?_
    | exact rfl)

theorem sweepAbort_keeps {s0 : State} {s : State} (h_s : Keeps s0 s)  :
    Keeps s0 (sweepAbort s) := by
  unfold sweepAbort
  repeat' (first
    | with_reducible assumption
    | with_reducible apply Keeps.ite
    | intro _
    | split
    | with_reducible refine Keeps.mk' ?_ ?_ ?_ ?_ ?_
    | exact rfl)

theorem startSweep_keeps {s0 : State} {p : Bytes} {m first e : Nat} {s : State} (h_s : Keeps s0 s)  :
    Keeps s0 (startSweep p m first e s) := by
  unfold startSweep
  repeat' (first
    | with_reducible assumption
    | intro _
    | with_reducible refine Keeps.mk' ?_ ?_ ?_ ?_ ?_
    | exact rfl)

theorem doSweepRun_keeps {s0 : State} {p : Bytes} {m first : Nat} {at_ s : State} (h_at_ : Keeps s0 at_) (h_s : Keeps s0 s)  :
    KeepsR s0 (doSweepRun p m first at_ s) := by
  unfold doSweepRun
  repeat' (first
    | with_reducible assumption
    | with_reducible apply no_keeps
    | with_reducible apply sweepAbort_keeps
    | with_reducible apply startSweep_keeps
    | with_reducible apply KeepsR.no
    | with_reducible apply KeepsR.refuse
    | with_reducible apply KeepsR.done
    | with_reducible apply KeepsR.owe
    | with_reducible apply KeepsR.deferred
    | with_reducible apply KeepsR.ite
    | with_reducible apply Keeps.ite
    | intro _
    | with_reducible refine Keeps.mk' ?_ ?_ ?_ ?_ ?_
    | exact rfl)

theorem sweepBegin_keeps {s0 : State} {s : State} (h_s : Keeps s0 s)  :
    Keeps s0 (sweepBegin s) := by
  unfold sweepBegin
  repeat' (first
    | with_reducible assumption
    | with_reducible apply noseFollow_keeps
    | with_reducible apply Keeps.ite
    | intro _
    | split
    | with_reducible refine Keeps.mk' ?_ ?_ ?_ ?_ ?_
    | exact rfl)

theorem sweepExcite_keeps {s0 : State} {s : State} (h_s : Keeps s0 s)  :
    Keeps s0 (sweepExcite s) := by
  unfold sweepExcite
  repeat' (first
    | with_reducible assumption
    | with_reducible apply Keeps.ite
    | intro _
    | split
    | with_reducible refine Keeps.mk' ?_ ?_ ?_ ?_ ?_
    | exact rfl)

theorem execSweepExcitationStart_keeps {s : State} : KeepsO s (execSweepExcitationStart s) := by
  have h := Keeps.refl s
  unfold execSweepExcitationStart
  repeat' (first
    | with_reducible assumption
    | with_reducible apply sweepExcite_keeps
    | with_reducible apply KeepsO.next
    | with_reducible apply KeepsO.ite
    | intro _
    | with_reducible refine Keeps.mk' ?_ ?_ ?_ ?_ ?_
    | exact rfl)

theorem sweepCapture_keeps {s0 : State} {b : Nat} {s : State} (h_s : Keeps s0 s)  :
    Keeps s0 (sweepCapture b s) := by
  unfold sweepCapture
  repeat' (first
    | with_reducible assumption
    | with_reducible apply Keeps.ite
    | intro _
    | with_reducible apply Keeps.foldl
    | with_reducible apply Keeps.foldl_snd
    | split
    | dsimp -proj only
    | with_reducible refine Keeps.mk' ?_ ?_ ?_ ?_ ?_
    | exact rfl)

theorem sweepResults_keeps {s0 : State} {r : SweepRun} {s : State} (h_s : Keeps s0 s)  :
    Keeps s0 (sweepResults r s) := by
  unfold sweepResults
  repeat' (first
    | with_reducible assumption
    | with_reducible apply updAcc_keeps
    | with_reducible apply Keeps.ite
    | intro _
    | with_reducible apply Keeps.foldl
    | with_reducible apply Keeps.foldl_snd
    | with_reducible refine Keeps.mk' ?_ ?_ ?_ ?_ ?_
    | exact rfl)

theorem sweepFinish_keeps {s0 : State} {aborted : Bool} {s : State} (h_s : Keeps s0 s)  :
    Keeps s0 (sweepFinish aborted s) := by
  unfold sweepFinish
  repeat' (first
    | with_reducible assumption
    | with_reducible apply sweepResults_keeps
    | with_reducible apply logEvent_keeps
    | with_reducible apply noseFollow_keeps
    | with_reducible apply Keeps.ite
    | intro _
    | split
    | dsimp -proj only
    | with_reducible refine Keeps.mk' ?_ ?_ ?_ ?_ ?_
    | exact rfl)

end Sys2Proof.Machine
end

