-- ==== Sys2Proof/Laws/KeepsSillage.lean ====
section
/-!
SUPPORT. What the operations of Machine/Sillage.lean keep.
-/
namespace Sys2Proof.Machine

theorem fetchReplay_keeps {s0 : State} {b : Nat} {s : State} (h_s : Keeps s0 s)  :
    Keeps s0 (fetchReplay b s) := by
  unfold fetchReplay
  repeat' (first
    | with_reducible assumption
    | intro _
    | with_reducible refine Keeps.mk' ?_ ?_ ?_ ?_ ?_
    | exact rfl)

theorem execFetchWindowOpen_keeps {s : State} : KeepsO s (execFetchWindowOpen s) := by
  have h := Keeps.refl s
  unfold execFetchWindowOpen
  repeat' (first
    | with_reducible assumption
    | with_reducible apply updQuay_keeps
    | with_reducible apply fetchReplay_keeps
    | with_reducible apply KeepsO.next
    | with_reducible apply KeepsO.ite
    | with_reducible apply Keeps.ite
    | intro _
    | with_reducible apply Keeps.foldl
    | with_reducible apply Keeps.foldl_snd
    | with_reducible refine Keeps.mk' ?_ ?_ ?_ ?_ ?_
    | exact rfl)

theorem execFetchListHandover_keeps {s : State} : KeepsO s (execFetchListHandover s) := by
  have h := Keeps.refl s
  unfold execFetchListHandover
  repeat' (first
    | with_reducible assumption
    | with_reducible apply updQuay_keeps
    | with_reducible apply KeepsO.next
    | with_reducible apply KeepsO.ite
    | with_reducible apply Keeps.ite
    | intro _
    | with_reducible apply Keeps.foldl
    | with_reducible apply Keeps.foldl_snd
    | with_reducible refine Keeps.mk' ?_ ?_ ?_ ?_ ?_
    | exact rfl)

theorem execGranuleFetchDone_keeps {q : Fin 4} {tag : Nat} {ecc : Bool} {s : State} : KeepsO s (execGranuleFetchDone q tag ecc s) := by
  have h := Keeps.refl s
  unfold execGranuleFetchDone
  repeat' (first
    | with_reducible assumption
    | with_reducible apply updQuay_keeps
    | with_reducible apply KeepsO.next
    | with_reducible apply KeepsO.ite
    | with_reducible apply Keeps.ite
    | intro _
    | split
    | dsimp -proj only
    | with_reducible refine Keeps.mk' ?_ ?_ ?_ ?_ ?_
    | exact rfl)

theorem execQuayGateDone_keeps {q : Fin 4} {s : State} : KeepsO s (execQuayGateDone q s) := by
  have h := Keeps.refl s
  unfold execQuayGateDone
  repeat' (first
    | with_reducible assumption
    | with_reducible apply updQuay_keeps
    | with_reducible apply KeepsO.next
    | with_reducible apply KeepsO.ite
    | with_reducible apply Keeps.ite
    | intro _
    | with_reducible refine Keeps.mk' ?_ ?_ ?_ ?_ ?_
    | exact rfl)

theorem logLost_keeps {s0 : State} {q : Nat} {gs : List Nat} {s : State} (h_s : Keeps s0 s)  :
    Keeps s0 (logLost q gs s) := by
  unfold logLost
  repeat' (first
    | with_reducible assumption
    | with_reducible apply logEvent_keeps
    | intro _
    | with_reducible apply Keeps.foldl
    | with_reducible apply Keeps.foldl_snd
    | with_reducible refine Keeps.mk' ?_ ?_ ?_ ?_ ?_
    | exact rfl)

theorem runTaps_keeps {s0 : State} {b : Nat} {s : State} (h_s : Keeps s0 s)  :
    Keeps s0 (runTaps b s).2 := by
  unfold runTaps
  repeat' (first
    | with_reducible assumption
    | with_reducible apply logLost_keeps
    | with_reducible apply updQuay_keeps
    | with_reducible apply Keeps.ite
    | with_reducible apply Keeps.ite_snd
    | intro _
    | with_reducible apply Keeps.foldl
    | with_reducible apply Keeps.foldl_snd
    | with_reducible refine Keeps.mk' ?_ ?_ ?_ ?_ ?_
    | exact rfl)

theorem writeNear_keeps {s0 : State} {b slot : Nat} {x : List Int} {s : State} (h_s : Keeps s0 s)  :
    Keeps s0 (writeNear b slot x s) := by
  unfold writeNear
  repeat' (first
    | with_reducible assumption
    | intro _
    | with_reducible apply Keeps.foldl
    | with_reducible apply Keeps.foldl_snd
    | with_reducible refine Keeps.mk' ?_ ?_ ?_ ?_ ?_
    | exact rfl)

theorem writeLong_keeps {s0 : State} {b : Nat} {s : State} (h_s : Keeps s0 s)  :
    Keeps s0 (writeLong b s) := by
  unfold writeLong
  repeat' (first
    | with_reducible assumption
    | with_reducible apply Keeps.ite
    | intro _
    | with_reducible apply Keeps.foldl
    | with_reducible apply Keeps.foldl_snd
    | with_reducible refine Keeps.mk' ?_ ?_ ?_ ?_ ?_
    | exact rfl)

theorem sillageEvent_keeps {s0 : State} {b q late : Nat} {s : State} (h_s : Keeps s0 s)  :
    Keeps s0 (sillageEvent b q late s) := by
  unfold sillageEvent
  repeat' (first
    | with_reducible assumption
    | with_reducible apply logEvent_keeps
    | with_reducible apply raise_keeps
    | with_reducible apply Keeps.ite
    | intro _
    | split
    | with_reducible refine Keeps.mk' ?_ ?_ ?_ ?_ ?_
    | exact rfl)

theorem sillageRead_keeps {s0 : State} {s : State} (h_s : Keeps s0 s)  :
    Keeps s0 (sillageRead s) := by
  unfold sillageRead
  repeat' (first
    | with_reducible assumption
    | with_reducible apply updQuay_keeps
    | intro _
    | with_reducible apply Keeps.foldl
    | with_reducible apply Keeps.foldl_snd
    | with_reducible refine Keeps.mk' ?_ ?_ ?_ ?_ ?_
    | exact rfl)

end Sys2Proof.Machine
end

