-- ==== Sys2Proof/Laws/KeepsRender.lean ====
section
/-!
SUPPORT. What the operations of Machine/Render.lean keep.
-/
namespace Sys2Proof.Machine

theorem inputBlock_keeps {s0 : State} {b : Nat} {s : State} (h_s : Keeps s0 s)  :
    Keeps s0 (inputBlock b s).2 := by
  unfold inputBlock
  repeat' (first
    | with_reducible assumption
    | with_reducible apply Keeps.ite
    | with_reducible apply Keeps.ite_snd
    | intro _
    | with_reducible apply Keeps.foldl
    | with_reducible apply Keeps.foldl_snd
    | split
    | dsimp -proj only
    | with_reducible refine Keeps.mk' ?_ ?_ ?_ ?_ ?_
    | exact rfl)

theorem sillageWrites_keeps {s0 : State} {b : Nat} {s : State} (h_s : Keeps s0 s)  :
    Keeps s0 (sillageWrites b s) := by
  unfold sillageWrites
  repeat' (first
    | with_reducible assumption
    | with_reducible apply writeNear_keeps
    | with_reducible apply Keeps.ite
    | intro _
    | with_reducible apply Keeps.foldl
    | with_reducible apply Keeps.foldl_snd
    | split
    | dsimp -proj only
    | with_reducible refine Keeps.mk' ?_ ?_ ?_ ?_ ?_
    | exact rfl)

theorem objectsAfter_keeps {s0 : State} {b : Nat} {s : State} (h_s : Keeps s0 s)  :
    Keeps s0 (objectsAfter b s) := by
  unfold objectsAfter
  repeat' (first
    | with_reducible assumption
    | with_reducible apply Keeps.ite
    | intro _
    | split
    | dsimp -proj only
    | with_reducible refine Keeps.mk' ?_ ?_ ?_ ?_ ?_
    | exact rfl)

theorem outputBlock_keeps {s0 : State} {b o : Nat} {feed : List Int} {s : State} (h_s : Keeps s0 s)  :
    Keeps s0 (outputBlock b o feed s).2 := by
  unfold outputBlock
  repeat' (first
    | with_reducible assumption
    | with_reducible apply noteMarker_keeps
    | with_reducible apply Keeps.ite
    | with_reducible apply Keeps.ite_snd
    | intro _
    | with_reducible apply Keeps.foldl
    | with_reducible apply Keeps.foldl_snd
    | with_reducible refine Keeps.mk' ?_ ?_ ?_ ?_ ?_
    | exact rfl)

theorem routeBlock_keeps {s0 : State} {b : Nat} {outs : SMap (List Int)} {prevChan prevOut : Nat → Int} {s : State} (h_s : Keeps s0 s)  :
    Keeps s0 (routeBlock b outs prevChan prevOut s).2 := by
  unfold routeBlock
  repeat' (first
    | with_reducible assumption
    | with_reducible apply Keeps.ite
    | with_reducible apply Keeps.ite_snd
    | intro _
    | with_reducible apply Keeps.foldl
    | with_reducible apply Keeps.foldl_snd
    | with_reducible refine Keeps.mk' ?_ ?_ ?_ ?_ ?_
    | exact rfl)

theorem silenceBlock_keeps {s0 : State} {b : Nat} {s : State} (h_s : Keeps s0 s)  :
    Keeps s0 (silenceBlock b s) := by
  unfold silenceBlock
  repeat' (first
    | with_reducible assumption
    | with_reducible apply logEvent_keeps
    | with_reducible apply Keeps.ite
    | intro _
    | with_reducible apply Keeps.foldl
    | with_reducible apply Keeps.foldl_snd
    | with_reducible refine Keeps.mk' ?_ ?_ ?_ ?_ ?_
    | exact rfl)

theorem listenBlock_keeps {s0 : State} {b : Nat} {raw : SMap (List Int)} {s : State} (h_s : Keeps s0 s)  :
    Keeps s0 (listenBlock b raw s) := by
  unfold listenBlock
  repeat' (first
    | with_reducible assumption
    | with_reducible apply sweepCapture_keeps
    | with_reducible apply Keeps.ite
    | intro _
    | with_reducible apply Keeps.foldl
    | with_reducible apply Keeps.foldl_snd
    | with_reducible refine Keeps.mk' ?_ ?_ ?_ ?_ ?_
    | exact rfl)

theorem bridgesStart_keeps {s0 : State} {b : Nat} {s : State} (h_s : Keeps s0 s)  :
    Keeps s0 (bridgesStart b s) := by
  unfold bridgesStart
  repeat' (first
    | with_reducible assumption
    | with_reducible apply Keeps.ite
    | intro _
    | with_reducible refine Keeps.mk' ?_ ?_ ?_ ?_ ?_
    | exact rfl)

theorem bridgesEnd_keeps {s0 : State} {s : State} (h_s : Keeps s0 s)  :
    Keeps s0 (bridgesEnd s) := by
  unfold bridgesEnd
  repeat' (first
    | with_reducible assumption
    | with_reducible apply updRx_keeps
    | intro _
    | with_reducible apply Keeps.foldl
    | with_reducible apply Keeps.foldl_snd
    | split
    | dsimp -proj only
    | with_reducible refine Keeps.mk' ?_ ?_ ?_ ?_ ?_
    | exact rfl)

theorem replayStart_keeps {s0 : State} {b : Nat} {s : State} (h_s : Keeps s0 s)  :
    Keeps s0 (replayStart b s) := by
  unfold replayStart
  repeat' (first
    | with_reducible assumption
    | with_reducible apply Keeps.ite
    | intro _
    | with_reducible apply Keeps.foldl
    | with_reducible apply Keeps.foldl_snd
    | with_reducible refine Keeps.mk' ?_ ?_ ?_ ?_ ?_
    | exact rfl)

theorem replayEnd_keeps {s0 : State} {b : Nat} {s : State} (h_s : Keeps s0 s)  :
    Keeps s0 (replayEnd b s) := by
  unfold replayEnd
  repeat' (first
    | with_reducible assumption
    | with_reducible apply Keeps.ite
    | intro _
    | split
    | with_reducible refine Keeps.mk' ?_ ?_ ?_ ?_ ?_
    | exact rfl)

theorem computeInputs_keeps {s0 : State} {b : Nat} {s : State} (h_s : Keeps s0 s)  :
    Keeps s0 (computeInputs b s) := by
  unfold computeInputs
  repeat' (first
    | with_reducible assumption
    | with_reducible apply bridgesStart_keeps
    | with_reducible apply replayStart_keeps
    | with_reducible apply inputBlock_keeps
    | with_reducible apply objectsAfter_keeps
    | with_reducible apply replayEnd_keeps
    | with_reducible apply bridgesEnd_keeps
    | with_reducible apply listenBlock_keeps
    | intro _
    | with_reducible refine Keeps.mk' ?_ ?_ ?_ ?_ ?_
    | exact rfl)

theorem computeBlock_keeps {s0 : State} {b : Nat} {s : State} (h_s : Keeps s0 s)  :
    Keeps s0 (computeBlock b s) := by
  unfold computeBlock
  repeat' (first
    | with_reducible assumption
    | with_reducible apply bridgesStart_keeps
    | with_reducible apply replayStart_keeps
    | with_reducible apply inputBlock_keeps
    | with_reducible apply sillageWrites_keeps
    | with_reducible apply runTaps_keeps
    | with_reducible apply sillageEvent_keeps
    | with_reducible apply outputBlock_keeps
    | with_reducible apply routeBlock_keeps
    | with_reducible apply silenceBlock_keeps
    | with_reducible apply writeLong_keeps
    | with_reducible apply objectsAfter_keeps
    | with_reducible apply replayEnd_keeps
    | with_reducible apply bridgesEnd_keeps
    | with_reducible apply listenBlock_keeps
    | intro _
    | with_reducible apply Keeps.foldl
    | with_reducible apply Keeps.foldl_snd
    | split
    | dsimp -proj only
    | with_reducible refine Keeps.mk' ?_ ?_ ?_ ?_ ?_
    | exact rfl)

theorem dozeBlock_keeps {s0 : State} {b : Nat} {s : State} (h_s : Keeps s0 s)  :
    Keeps s0 (dozeBlock b s) := by
  unfold dozeBlock
  repeat' (first
    | with_reducible assumption
    | with_reducible apply silenceBlock_keeps
    | with_reducible apply computeInputs_keeps
    | intro _
    | with_reducible refine Keeps.mk' ?_ ?_ ?_ ?_ ?_
    | exact rfl)

end Sys2Proof.Machine
end

