-- ==== Sys2Proof/Laws/KeepsEmit.lean ====
section
/-!
SUPPORT. What the operations of Machine/Emit.lean keep.
-/
namespace Sys2Proof.Machine

theorem formPackets_keeps {s0 : State} {b : Nat} {s : State} (h_s : Keeps s0 s)  :
    Keeps s0 (formPackets b s).2 := by
  unfold formPackets
  repeat' (first
    | with_reducible assumption
    | with_reducible apply updTx_keeps
    | with_reducible apply Keeps.ite
    | with_reducible apply Keeps.ite_snd
    | intro _
    | with_reducible apply Keeps.foldl
    | with_reducible apply Keeps.foldl_snd
    | with_reducible refine Keeps.mk' ?_ ?_ ?_ ?_ ?_
    | exact rfl)

theorem feedLoops_keeps {s0 : State} {ps : List (Nat × TxPkt)} {s : State} (h_s : Keeps s0 s)  :
    Keeps s0 (feedLoops ps s).2 := by
  unfold feedLoops
  repeat' (first
    | with_reducible assumption
    | with_reducible apply receiveRtp_keeps
    | with_reducible apply receivePgx_keeps
    | with_reducible apply Keeps.ite
    | with_reducible apply Keeps.ite_snd
    | intro _
    | with_reducible apply Keeps.foldl
    | with_reducible apply Keeps.foldl_snd
    | split
    | dsimp -proj only
    | with_reducible refine Keeps.mk' ?_ ?_ ?_ ?_ ?_
    | exact rfl)

theorem deliver_keeps {s0 : State} {b : Nat} {ps : List (Nat × TxPkt)} {s : State} (h_s : Keeps s0 s)  :
    Keeps s0 (deliver b ps s) := by
  unfold deliver
  repeat' (first
    | with_reducible assumption
    | with_reducible apply queuePackets_keeps
    | with_reducible apply Keeps.ite
    | intro _
    | with_reducible refine Keeps.mk' ?_ ?_ ?_ ?_ ?_
    | exact rfl)

theorem emitAnalogue_keeps {s0 : State} {b : Nat} {s : State} (h_s : Keeps s0 s)  :
    Keeps s0 (emitAnalogue b s) := by
  unfold emitAnalogue
  repeat' (first
    | with_reducible assumption
    | with_reducible apply updAnaOut_keeps
    | with_reducible apply Keeps.ite
    | intro _
    | with_reducible apply Keeps.foldl
    | with_reducible apply Keeps.foldl_snd
    | split
    | dsimp -proj only
    | with_reducible refine Keeps.mk' ?_ ?_ ?_ ?_ ?_
    | exact rfl)

theorem emitTdm_keeps {s0 : State} {b : Nat} {s : State} (h_s : Keeps s0 s)  :
    Keeps s0 (emitTdm b s) := by
  unfold emitTdm
  repeat' (first
    | with_reducible assumption
    | with_reducible apply updTdm_keeps
    | with_reducible apply Keeps.ite
    | intro _
    | with_reducible apply Keeps.foldl
    | with_reducible apply Keeps.foldl_snd
    | split
    | dsimp -proj only
    | with_reducible refine Keeps.mk' ?_ ?_ ?_ ?_ ?_
    | exact rfl)

theorem countTop_keeps {s0 : State} {b : Nat} {s : State} (h_s : Keeps s0 s)  :
    Keeps s0 (countTop b s) := by
  unfold countTop
  repeat' (first
    | with_reducible assumption
    | intro _
    | with_reducible apply Keeps.foldl
    | with_reducible apply Keeps.foldl_snd
    | with_reducible refine Keeps.mk' ?_ ?_ ?_ ?_ ?_
    | exact rfl)

theorem compareDigest_keeps {s0 : State} {b : Nat} {s : State} (h_s : Keeps s0 s)  :
    Keeps s0 (compareDigest b s) := by
  unfold compareDigest
  repeat' (first
    | with_reducible assumption
    | with_reducible apply logEvent_keeps
    | with_reducible apply abandonWarp_keeps
    | with_reducible apply setAdrift_keeps
    | with_reducible apply Keeps.ite
    | intro _
    | split
    | dsimp -proj only
    | with_reducible refine Keeps.mk' ?_ ?_ ?_ ?_ ?_
    | exact rfl)

theorem emitDigest_keeps {s0 : State} {b : Nat} {s : State} (h_s : Keeps s0 s)  :
    Keeps s0 (emitDigest b s) := by
  unfold emitDigest
  repeat' (first
    | with_reducible assumption
    | with_reducible apply compareDigest_keeps
    | with_reducible apply sendTwin_keeps
    | with_reducible apply Keeps.ite
    | intro _
    | with_reducible refine Keeps.mk' ?_ ?_ ?_ ?_ ?_
    | exact rfl)

theorem emitBlock_keeps {s0 : State} {b : Nat} {s : State} (h_s : Keeps s0 s)  :
    Keeps s0 (emitBlock b s) := by
  unfold emitBlock
  repeat' (first
    | with_reducible assumption
    | with_reducible apply formPackets_keeps
    | with_reducible apply feedLoops_keeps
    | with_reducible apply deliver_keeps
    | with_reducible apply emitTdm_keeps
    | with_reducible apply emitAnalogue_keeps
    | with_reducible apply countTop_keeps
    | with_reducible apply emitDigest_keeps
    | with_reducible apply Keeps.ite
    | intro _
    | split
    | dsimp -proj only
    | with_reducible refine Keeps.mk' ?_ ?_ ?_ ?_ ?_
    | exact rfl)

end Sys2Proof.Machine
end

