-- ==== Sys2Proof/Laws/KeepsPower.lean ====
section
/-!
SUPPORT. What the operations of Machine/Power.lean keep.
-/
namespace Sys2Proof.Machine

theorem setPstate_keeps {s0 : State} {n : Nat} {s : State} (h_s : Keeps s0 s)  :
    Keeps s0 (setPstate n s) := by
  unfold setPstate
  repeat' (first
    | with_reducible assumption
    | with_reducible apply logEvent_keeps
    | with_reducible apply Keeps.ite
    | intro _
    | with_reducible refine Keeps.mk' ?_ ?_ ?_ ?_ ?_
    | exact rfl)

theorem startReplay_keeps {s0 : State} {b : Nat} {map : List ReplayEntry} {s : State} (h_s : Keeps s0 s)  :
    Keeps s0 (startReplay b map s) := by
  unfold startReplay
  repeat' (first
    | with_reducible assumption
    | with_reducible apply Keeps.ite
    | intro _
    | with_reducible apply Keeps.foldl
    | with_reducible apply Keeps.foldl_snd
    | split
    | dsimp -proj only
    | with_reducible refine Keeps.mk' ?_ ?_ ?_ ?_ ?_
    | exact rfl)

theorem darkRises_keeps {s0 : State} {old : BitVec 16} {s : State} (h_s : Keeps s0 s)  :
    Keeps s0 (darkRises old s) := by
  unfold darkRises
  repeat' (first
    | with_reducible assumption
    | with_reducible apply sweepAbort_keeps
    | with_reducible apply Keeps.ite
    | intro _
    | with_reducible refine Keeps.mk' ?_ ?_ ?_ ?_ ?_
    | exact rfl)

/-- Entering DOZE keeps the word legal (note 1 of Table 12.4). -/
theorem setIn_doze_ok {p : Bool} {w : BitVec 16} (h : w = 0 ∨ wordOk p w = true) (hs : w.getLsbD mSafe = false) :
    wordOk p (setIn w mDoze) = true := by
  have e : ∀ j, (setIn w mDoze).getLsbD j = if j = mLive then false else if j = mDark then true else if j = mDoze then true else w.getLsbD j := by
    intro j
    unfold setIn
    rw [if_neg (by decide), if_neg (by decide), if_pos rfl, getLsbD_withFlag _ _ _ _ (by decide), getLsbD_withFlag _ _ _ _ (by decide),
      getLsbD_withFlag _ _ _ _ (by decide)]
  rw [wordOk_iff _ _ (by rw [e]; simpa [mSafe, mLive, mDark, mDoze] using hs)]
  simp only [e]
  rcases h with h | h
  · subst h; simp [mSafe, mLive, mDark, mDoze, mActive, mStandby, mAdrift]
  · rw [wordOk_iff _ _ hs] at h
    simpa [mSafe, mLive, mDark, mDoze, mActive, mStandby, mAdrift] using ⟨h.2.1, h.2.2.1, h.2.2.2.1⟩

theorem enterDoze_keeps {s0 : State} {b src : Nat} {drydown : Bool} {s : State} (h : Keeps s0 s) :
    Keeps s0 (enterDoze b src drydown s) := by
  unfold enterDoze
  refine Keeps.ite (fun _ => h) (fun hn => noseFollow_keeps (darkRises_keeps (setWord_keeps (h.mk' rfl rfl rfl rfl) ?_ ?_)))
  · intro k
    have hs : s.flag mSafe = false := by
      cases e : s.flag mSafe
      · rfl
      · simp [e] at hn
    exact .inr (setIn_doze_ok k hs)
  · intro hs
    change s.flag mSafe = true at hs
    simp [hs] at hn

theorem startWake_keeps {s0 : State} {k : WakeKind} {s : State} (h_s : Keeps s0 s)  :
    Keeps s0 (startWake k s) := by
  unfold startWake
  repeat' (first
    | with_reducible assumption
    | with_reducible apply forwardDecision_keeps
    | with_reducible apply Keeps.ite
    | intro _
    | with_reducible refine Keeps.mk' ?_ ?_ ?_ ?_ ?_
    | exact rfl)

theorem wakeUp_keeps {s0 : State} {k : WakeKind} {s : State} (h_s : Keeps s0 s)  :
    Keeps s0 (wakeUp k s) := by
  unfold wakeUp
  repeat' (first
    | with_reducible assumption
    | with_reducible apply startWake_keeps
    | with_reducible apply Keeps.ite
    | intro _
    | with_reducible refine Keeps.mk' ?_ ?_ ?_ ?_ ?_
    | exact rfl)

/-- The word a SYS_MODE_SET comes to is legal (R344). -/
theorem legalWord_ok {p : Bool} {a b : BitVec 16} (h : a = 0 ∨ wordOk p a = true) :
    legalWord p a b = 0 ∨ wordOk p (legalWord p a b) = true := by
  unfold legalWord
  dsimp only
  split
  · exact .inr (by assumption)
  · split
    · exact .inr (by assumption)
    · exact h

theorem applyModeSet_keeps {s0 : State} {b : Nat} {c : Cmd} {s : State} (h : Keeps s0 s) :
    Keeps s0 (applyModeSet b c s) := by
  unfold applyModeSet
  refine Keeps.ite (fun _ => h) (fun hn => ?_)
  extract_lets m old o src doze w0 w1 p1 t1 t2 events waits p2 t3 t4 t5 t6
  have h1 : Keeps s0 t1 := by
    refine setWord_keeps (h.mk' rfl rfl rfl rfl) (fun k => ?_) (fun hs => absurd hs hn)
    exact legalWord_ok k
  have h2 : Keeps s0 t2 := Keeps.ite (fun _ => enterDoze_keeps h1) fun _ => h1
  have h3 : Keeps s0 t3 := h2.mk' rfl rfl rfl rfl
  have h4 : Keeps s0 t4 := Keeps.ite (fun _ => startReplay_keeps h3) fun _ => Keeps.ite (fun _ => startReplay_keeps h3) fun _ => h3
  have h5 : Keeps s0 t5 := Keeps.ite (fun _ => setAdrift_keeps h4) fun _ => h4
  have h6 : Keeps s0 t6 := noseFollow_keeps (darkRises_keeps h5)
  exact Keeps.ite (fun _ => wakeUp_keeps h6) fun _ => h6

theorem runDeferred_keeps {s0 : State} {event : Nat} {s : State} (h_s : Keeps s0 s)  :
    Keeps s0 (runDeferred event s) := by
  unfold runDeferred
  repeat' (first
    | with_reducible assumption
    | with_reducible apply enterDoze_keeps
    | with_reducible apply Keeps.ite
    | intro _
    | with_reducible apply Keeps.foldl
    | with_reducible apply Keeps.foldl_snd
    | with_reducible refine Keeps.mk' ?_ ?_ ?_ ?_ ?_
    | exact rfl)

/-- The cold state keeps the queue; its ring memory is empty and its mode word 0. -/
theorem coldState_queue (s : State) : (coldState s).pending = s.pending := rfl
theorem coldState_mem (s : State) : (coldState s).memOk := (by decide : memWf State.reset.host.mem = true)
theorem coldState_mode (s : State) : (coldState s).modeOk := .inl rfl
theorem coldState_bound (s : State) : (coldState s).boundOk := ⟨Nat.zero_le _, nofun, nofun⟩

theorem gateQuays_keeps {s0 : State} {on : Bool} {s : State} (h_s : Keeps s0 s)  :
    Keeps s0 (gateQuays on s) := by
  unfold gateQuays
  repeat' (first
    | with_reducible assumption
    | with_reducible apply updQuay_keeps
    | with_reducible apply Keeps.ite
    | intro _
    | with_reducible apply Keeps.foldl
    | with_reducible apply Keeps.foldl_snd
    | with_reducible refine Keeps.mk' ?_ ?_ ?_ ?_ ?_
    | exact rfl)

theorem allAsleep_keeps {s0 : State} {s : State} (h_s : Keeps s0 s)  :
    Keeps s0 (allAsleep s) := by
  unfold allAsleep
  repeat' (first
    | with_reducible assumption
    | intro _
    | with_reducible refine Keeps.mk' ?_ ?_ ?_ ?_ ?_
    | exact rfl)

theorem enterP2_keeps {s0 : State} {s : State} (h_s : Keeps s0 s)  :
    Keeps s0 (enterP2 s) := by
  unfold enterP2
  repeat' (first
    | with_reducible assumption
    | with_reducible apply gateQuays_keeps
    | with_reducible apply allAsleep_keeps
    | with_reducible apply setPstate_keeps
    | intro _
    | with_reducible refine Keeps.mk' ?_ ?_ ?_ ?_ ?_
    | exact rfl)

theorem enterP3_keeps {s0 : State} {s : State} (h_s : Keeps s0 s)  :
    Keeps s0 (enterP3 s) := by
  unfold enterP3
  repeat' (first
    | with_reducible assumption
    | with_reducible apply enterHold_keeps
    | with_reducible apply setFlag_keeps
    | with_reducible apply setPstate_keeps
    | with_reducible apply allAsleep_keeps
    | with_reducible apply discardRender_keeps
    | exact fun _ => SetOk.coast _ _
    | exact fun _ => SetOk.shallow _ _
    | exact fun _ => SetOk.release _
    | exact fun _ => SetOk.rejoin _
    | intro _
    | with_reducible refine Keeps.mk' ?_ ?_ ?_ ?_ ?_
    | exact rfl)

theorem pauseWarp_keeps {s0 : State} {s : State} (h_s : Keeps s0 s)  :
    Keeps s0 (pauseWarp s) := by
  unfold pauseWarp
  repeat' (first
    | with_reducible assumption
    | with_reducible apply Keeps.ite
    | intro _
    | with_reducible refine Keeps.mk' ?_ ?_ ?_ ?_ ?_
    | exact rfl)

theorem dozePause_keeps {s0 : State} {s : State} (h : Keeps s0 s) : Keeps s0 (dozePause s) := by
  unfold dozePause
  refine Keeps.ite (fun _ => h) (fun hn => ?_)
  extract_lets held n q p t u
  have ht : Keeps s0 t := (pauseWarp_keeps h).mk' rfl rfl rfl rfl
  have hs : ¬ s.flag mSafe = true := by intro e; simp [e] at hn
  have hu : Keeps s0 u := Keeps.ite
    (fun _ => ⟨ht.queue, fun _ => coldState_mem t, fun _ => .inl rfl, fun k => absurd (h.safe k) hs, fun _ => coldState_bound t⟩)
    fun _ => Keeps.ite (fun _ => enterP3_keeps ht) fun _ => enterP2_keeps ht
  cases held with
  | some k => exact Keeps.ite (fun _ => hu) fun _ => startWake_keeps hu
  | none => exact hu

theorem execDozePause_keeps {s : State} : KeepsO s (execDozePause s) := by
  have h := Keeps.refl s
  unfold execDozePause
  repeat' (first
    | with_reducible assumption
    | with_reducible apply dozePause_keeps
    | with_reducible apply KeepsO.next
    | with_reducible apply KeepsO.ite
    | intro _
    | with_reducible refine Keeps.mk' ?_ ?_ ?_ ?_ ?_
    | exact rfl)

/-- The word at a resume is legal (R353). -/
theorem resume_ok {p : Bool} {w : BitVec 16} {live : Bool} (h : w = 0 ∨ wordOk p w = true) (hs : w.getLsbD mSafe = false) :
    wordOk p (setIn (withFlag w mDoze false) (if live then mLive else mDark)) = true := by
  have e : ∀ j, (setIn (withFlag w mDoze false) (if live then mLive else mDark)).getLsbD j =
      if j = mLive then live else if j = mDark then !live else if j = mDoze then false else w.getLsbD j := by
    intro j
    cases live
    · have q : setIn (withFlag w mDoze false) mDark = withFlag (withFlag (withFlag w mDoze false) mDark true) mLive false := rfl
      simp only [Bool.false_eq_true, if_false, q]
      simp (disch := decide) only [getLsbD_withFlag]
      simp
    · have q : setIn (withFlag w mDoze false) mLive = withFlag (withFlag (withFlag w mDoze false) mLive true) mDark false := rfl
      simp only [if_true, q]
      simp (disch := decide) only [getLsbD_withFlag, mLive, mDark, mDoze]
      by_cases j0 : j = 0
      · subst j0; rfl
      · simp only [j0, if_false]
        by_cases k : j = 13 <;> simp [k]
  rw [wordOk_iff _ _ (by rw [e]; simpa [mSafe, mLive, mDark, mDoze] using hs)]
  simp only [e]
  rcases h with h | h
  · subst h; simp [mSafe, mLive, mDark, mDoze, mActive, mStandby, mAdrift]
  · rw [wordOk_iff _ _ hs] at h
    simpa [mSafe, mLive, mDark, mDoze, mActive, mStandby, mAdrift] using ⟨h.2.1, h.2.2.1, h.2.2.2.1⟩

theorem dozeResume_keeps {s0 : State} {w : Nat} {s : State} (h : Keeps s0 s) (hn : s.flag mSafe = false) :
    Keeps s0 (dozeResume w s) := by
  unfold dozeResume
  extract_lets slots marks quiet out r p m t live word p2 u
  have ht : Keeps s0 t := h.mk' rfl rfl rfl rfl
  have hu : Keeps s0 u := setWord_keeps (ht.mk' rfl rfl rfl rfl) (fun k => .inr (resume_ok k hn))
    fun k => absurd (show s.flag mSafe = true from k) (by simp [hn])
  exact runDeferred_keeps (runDeferred_keeps (noseFollow_keeps (setPstate_keeps (gateQuays_keeps hu))))

theorem execDozeResume_keeps {s : State} : KeepsO s (execDozeResume s) := by
  unfold execDozeResume
  split
  · refine KeepsO.ite (fun hc => dozeResume_keeps (Keeps.refl s) ?_) (fun _ => Keeps.refl s)
    cases e : s.flag mSafe <;> simp [e] at hc ⊢
  · exact Keeps.refl s

theorem execWakeNLow_keeps {ns : Nat} {s : State} : KeepsO s (execWakeNLow ns s) := by
  have h := Keeps.refl s
  unfold execWakeNLow
  repeat' (first
    | with_reducible assumption
    | with_reducible apply wakeUp_keeps
    | with_reducible apply KeepsO.next
    | with_reducible apply KeepsO.ite
    | with_reducible apply Keeps.ite
    | intro _
    | with_reducible refine Keeps.mk' ?_ ?_ ?_ ?_ ?_
    | exact rfl)

theorem execWakeTimer_keeps {s : State} : KeepsO s (execWakeTimer s) := by
  have h := Keeps.refl s
  unfold execWakeTimer
  repeat' (first
    | with_reducible assumption
    | with_reducible apply wakeUp_keeps
    | with_reducible apply KeepsO.next
    | with_reducible apply KeepsO.ite
    | with_reducible apply Keeps.ite
    | intro _
    | with_reducible refine Keeps.mk' ?_ ?_ ?_ ?_ ?_
    | exact rfl)

theorem trimState_keeps {s0 : State} {s : State} (h_s : Keeps s0 s)  :
    Keeps s0 (trimState s) := by
  unfold trimState
  repeat' (first
    | with_reducible assumption
    | with_reducible apply setPstate_keeps
    | with_reducible apply Keeps.ite
    | intro _
    | with_reducible refine Keeps.mk' ?_ ?_ ?_ ?_ ?_
    | exact rfl)

theorem ungateNeeded_keeps {s0 : State} {s : State} (h_s : Keeps s0 s)  :
    Keeps s0 (ungateNeeded s) := by
  unfold ungateNeeded
  repeat' (first
    | with_reducible assumption
    | with_reducible apply updQuay_keeps
    | with_reducible apply trimState_keeps
    | with_reducible apply Keeps.ite
    | intro _
    | with_reducible apply Keeps.foldl
    | with_reducible apply Keeps.foldl_snd
    | with_reducible refine Keeps.mk' ?_ ?_ ?_ ?_ ?_
    | exact rfl)

theorem execP1GateChange_keeps {s : State} : KeepsO s (execP1GateChange s) := by
  have h := Keeps.refl s
  unfold execP1GateChange
  repeat' (first
    | with_reducible assumption
    | with_reducible apply trimState_keeps
    | with_reducible apply gateQuays_keeps
    | with_reducible apply ungateNeeded_keeps
    | with_reducible apply updQuay_keeps
    | with_reducible apply KeepsO.next
    | with_reducible apply KeepsO.ite
    | with_reducible apply Keeps.ite
    | intro _
    | with_reducible apply Keeps.foldl
    | with_reducible apply Keeps.foldl_snd
    | with_reducible refine Keeps.mk' ?_ ?_ ?_ ?_ ?_
    | exact rfl)

theorem drydownStep_keeps {s0 : State} {was s : State} (h_was : Keeps s0 was) (h_s : Keeps s0 s)  :
    Keeps s0 (drydownStep was s) := by
  unfold drydownStep
  repeat' (first
    | with_reducible assumption
    | with_reducible apply wakeUp_keeps
    | with_reducible apply Keeps.ite
    | intro _
    | split
    | dsimp -proj only
    | with_reducible refine Keeps.mk' ?_ ?_ ?_ ?_ ?_
    | exact rfl)

theorem execDrydown_keeps {s : State} : KeepsO s (execDrydown s) := by
  have h := Keeps.refl s
  unfold execDrydown
  repeat' (first
    | with_reducible assumption
    | with_reducible apply forwardDecision_keeps
    | with_reducible apply KeepsO.next
    | with_reducible apply KeepsO.ite
    | with_reducible apply Keeps.ite
    | intro _
    | split
    | dsimp -proj only
    | with_reducible refine Keeps.mk' ?_ ?_ ?_ ?_ ?_
    | exact rfl)

theorem drydownBlock_keeps {s0 : State} {b : Nat} {s : State} (h_s : Keeps s0 s)  :
    Keeps s0 (drydownBlock b s) := by
  unfold drydownBlock
  repeat' (first
    | with_reducible assumption
    | with_reducible apply enterDoze_keeps
    | with_reducible apply Keeps.ite
    | intro _
    | split
    | with_reducible refine Keeps.mk' ?_ ?_ ?_ ?_ ?_
    | exact rfl)

theorem doPwrPolicy_keeps {s0 : State} {p : Bytes} {s : State} (h_s : Keeps s0 s)  :
    KeepsR s0 (doPwrPolicy p s) := by
  unfold doPwrPolicy
  repeat' (first
    | with_reducible assumption
    | with_reducible apply no_keeps
    | with_reducible apply KeepsR.no
    | with_reducible apply KeepsR.refuse
    | with_reducible apply KeepsR.done
    | with_reducible apply KeepsR.owe
    | with_reducible apply KeepsR.deferred
    | with_reducible apply KeepsR.ite
    | with_reducible apply Keeps.ite
    | intro _
    | with_reducible refine Keeps.mk' ?_ ?_ ?_ ?_ ?_
    | exact rfl)

theorem execSweepEnd_keeps {s : State} : KeepsO s (execSweepEnd s) := by
  have h := Keeps.refl s
  unfold execSweepEnd
  repeat' (first
    | with_reducible assumption
    | with_reducible apply runDeferred_keeps
    | with_reducible apply sweepFinish_keeps
    | with_reducible apply KeepsO.next
    | with_reducible apply KeepsO.ite
    | intro _
    | split
    | with_reducible refine Keeps.mk' ?_ ?_ ?_ ?_ ?_
    | exact rfl)

end Sys2Proof.Machine
end

