-- ==== Sys2Proof/Laws/KeepsSafe.lean ====
section
/-!
SUPPORT. What the operations of Machine/Safe.lean keep.
-/
namespace Sys2Proof.Machine

theorem answerCmd_keeps {s0 : State} {c : Cmd} {st : Status} {body : Bytes} {s : State} (h_s : Keeps s0 s)  :
    Keeps s0 (answerCmd c st body s) := by
  unfold answerCmd
  repeat' (first
    | with_reducible assumption
    | with_reducible apply respond_keeps
    | with_reducible apply Keeps.ite
    | intro _
    | split
    | with_reducible refine Keeps.mk' ?_ ?_ ?_ ?_ ?_
    | exact rfl)

theorem releaseRole_keeps {s0 : State} {s : State} (h_s : Keeps s0 s)  :
    Keeps s0 (releaseRole s) := by
  unfold releaseRole
  repeat' (first
    | with_reducible assumption
    | with_reducible apply sendTwin_keeps
    | with_reducible apply setFlag_keeps
    | with_reducible apply Keeps.ite
    | exact fun _ => SetOk.coast _ _
    | exact fun _ => SetOk.shallow _ _
    | exact fun _ => SetOk.release _
    | exact fun _ => SetOk.rejoin _
    | intro _
    | with_reducible refine Keeps.mk' ?_ ?_ ?_ ?_ ?_
    | exact rfl)

theorem endTransfers_keeps {s0 : State} {f : Transfer → Bool} {st : Status} {s : State} (h_s : Keeps s0 s)  :
    Keeps s0 (endTransfers f st s) := by
  unfold endTransfers
  repeat' (first
    | with_reducible assumption
    | exact fun _ h => h
    | (intro _ h; split <;> exact h)
    | (intro _ h; unfold Master.indicesOk at *; dsimp only; omega)
    | with_reducible apply updMaster_keeps
    | with_reducible apply respond_keeps
    | with_reducible apply dropSeq_keeps
    | with_reducible apply Keeps.ite
    | intro _
    | with_reducible apply Keeps.foldl
    | with_reducible apply Keeps.foldl_snd
    | with_reducible refine Keeps.mk' ?_ ?_ ?_ ?_ ?_
    | exact rfl)

theorem discardCmds_keeps {s0 : State} {s : State} (h_s : Keeps s0 s)  :
    Keeps s0 (discardCmds s) := by
  unfold discardCmds
  repeat' (first
    | with_reducible assumption
    | with_reducible apply answerCmd_keeps
    | intro _
    | with_reducible apply Keeps.foldl
    | with_reducible apply Keeps.foldl_snd
    | with_reducible refine Keeps.mk' ?_ ?_ ?_ ?_ ?_
    | exact rfl)

theorem closeAll_keeps {s0 : State} {s : State} (h_s : Keeps s0 s)  :
    Keeps s0 (closeAll s) := by
  unfold closeAll
  repeat' (first
    | with_reducible assumption
    | with_reducible apply settleOwed_keeps
    | with_reducible apply Keeps.ite
    | intro _
    | with_reducible apply Keeps.foldl
    | with_reducible apply Keeps.foldl_snd
    | with_reducible refine Keeps.mk' ?_ ?_ ?_ ?_ ?_
    | exact rfl)

theorem dropWaiting_keeps {s0 : State} {s : State} (h_s : Keeps s0 s)  :
    Keeps s0 (dropWaiting s) := by
  unfold dropWaiting
  repeat' (first
    | with_reducible assumption
    | intro _
    | with_reducible refine Keeps.mk' ?_ ?_ ?_ ?_ ?_
    | exact rfl)

theorem readyRings_keeps {s0 : State} {s : State} (h_s : Keeps s0 s)  :
    Keeps s0 (readyRings s) := by
  unfold readyRings
  repeat' (first
    | with_reducible assumption
    | with_reducible apply flushHeld_keeps
    | exact fun _ h => h
    | (intro _ h; split <;> exact h)
    | (intro _ h; unfold Master.indicesOk at *; dsimp only; omega)
    | with_reducible apply updMaster_keeps
    | with_reducible apply Keeps.ite
    | intro _
    | with_reducible apply Keeps.foldl
    | with_reducible apply Keeps.foldl_snd
    | with_reducible refine Keeps.mk' ?_ ?_ ?_ ?_ ?_
    | exact rfl)

theorem enterSafe_keeps {s0 : State} {reason : Nat} {s : State} (h_s : Keeps s0 s)  :
    Keeps s0 (enterSafe reason s) := by
  unfold enterSafe
  repeat' (first
    | with_reducible assumption
    | with_reducible apply releaseRole_keeps
    | with_reducible apply readyRings_keeps
    | with_reducible apply discardCmds_keeps
    | with_reducible apply endTransfers_keeps
    | with_reducible apply closeAll_keeps
    | with_reducible apply dropWaiting_keeps
    | with_reducible apply setWord_keeps
    | with_reducible apply logEvent_keeps
    | with_reducible apply gateQuays_keeps
    | with_reducible apply noseFollow_keeps
    | with_reducible apply setPstate_keeps
    | with_reducible apply Keeps.ite
    | exact fun _ => .inr (safeWord_ok _)
    | exact fun _ => rfl
    | intro _
    | with_reducible refine Keeps.mk' ?_ ?_ ?_ ?_ ?_
    | exact rfl)

theorem fatalFault_keeps {s0 : State} {reason addr : Nat} {master : Nat} {s : State} (h_s : Keeps s0 s)  :
    Keeps s0 (fatalFault reason addr master s) := by
  unfold fatalFault
  repeat' (first
    | with_reducible assumption
    | with_reducible apply enterSafe_keeps
    | with_reducible apply Keeps.ite
    | intro _
    | with_reducible refine Keeps.mk' ?_ ?_ ?_ ?_ ?_
    | exact rfl)

end Sys2Proof.Machine
end

