-- ==== Sys2Proof/Laws/KeepsMemory.lean ====
section
/-!
SUPPORT. What the operations of Machine/Memory.lean keep.
-/
namespace Sys2Proof.Machine

theorem execDecodeError_keeps {p : Fin 14} {addr : Nat} {s : State} : KeepsO s (execDecodeError p addr s) := by
  have h := Keeps.refl s
  unfold execDecodeError
  repeat' (first
    | with_reducible assumption
    | with_reducible apply send_keeps
    | with_reducible apply fatalFault_keeps
    | with_reducible apply updMemStat_keeps
    | with_reducible apply KeepsO.next
    | with_reducible apply KeepsO.ite
    | with_reducible apply Keeps.ite
    | intro _
    | with_reducible refine Keeps.mk' ?_ ?_ ?_ ?_ ?_
    | exact rfl)

theorem cutWrite_keeps {s0 : State} {addr : Nat} {d : Bytes} {s : State} (h_s : Keeps s0 s)  :
    Keeps s0 (cutWrite addr d s) := by
  unfold cutWrite
  repeat' (first
    | exact memWf_writeBytes _ _ _
    | with_reducible assumption
    | with_reducible apply Keeps.ite
    | intro _
    | with_reducible refine Keeps.mkM ?_ ?_ ?_ ?_ ?_
    | with_reducible refine Keeps.mk' ?_ ?_ ?_ ?_ ?_
    | exact rfl)

theorem execFabricPortReset_keeps {p : PortReset} {s : State} : KeepsO s (execFabricPortReset p s) := by
  have h := Keeps.refl s
  unfold execFabricPortReset
  repeat' (first
    | with_reducible assumption
    | with_reducible apply updQuay_keeps
    | with_reducible apply endTransfers_keeps
    | with_reducible apply cutWrite_keeps
    | with_reducible apply cutFrame_keeps
    | with_reducible apply abandonWarp_keeps
    | with_reducible apply KeepsO.next
    | with_reducible apply KeepsO.ite
    | with_reducible apply Keeps.ite
    | intro _
    | split
    | dsimp -proj only
    | with_reducible refine Keeps.mk' ?_ ?_ ?_ ?_ ?_
    | exact rfl)

theorem execPciePerstN_keeps {low : Bool} {s : State} : KeepsO s (execPciePerstN low s) := by
  have h := Keeps.refl s
  unfold execPciePerstN
  repeat' (first
    | with_reducible assumption
    | with_reducible apply endTransfers_keeps
    | with_reducible apply KeepsO.next
    | with_reducible apply KeepsO.ite
    | with_reducible apply Keeps.ite
    | intro _
    | with_reducible refine Keeps.mk' ?_ ?_ ?_ ?_ ?_
    | exact rfl)

theorem execLockstepMismatch_keeps {s : State} : KeepsO s (execLockstepMismatch s) := by
  have h := Keeps.refl s
  unfold execLockstepMismatch
  repeat' (first
    | with_reducible assumption
    | with_reducible apply enterSafe_keeps
    | with_reducible apply KeepsO.next
    | with_reducible apply KeepsO.ite
    | with_reducible apply Keeps.ite
    | intro _
    | with_reducible refine Keeps.mk' ?_ ?_ ?_ ?_ ?_
    | exact rfl)

theorem execCompanionLinkLost_keeps {s : State} : KeepsO s (execCompanionLinkLost s) := by
  have h := Keeps.refl s
  unfold execCompanionLinkLost
  repeat' (first
    | with_reducible assumption
    | with_reducible apply enterSafe_keeps
    | with_reducible apply KeepsO.next
    | with_reducible apply KeepsO.ite
    | with_reducible apply Keeps.ite
    | intro _
    | with_reducible refine Keeps.mk' ?_ ?_ ?_ ?_ ?_
    | exact rfl)

theorem execThermalSensorRead_keeps {temp : Int} {s : State} : KeepsO s (execThermalSensorRead temp s) := by
  have h := Keeps.refl s
  unfold execThermalSensorRead
  repeat' (first
    | with_reducible assumption
    | with_reducible apply enterSafe_keeps
    | with_reducible apply KeepsO.next
    | with_reducible apply KeepsO.ite
    | with_reducible apply Keeps.ite
    | intro _
    | with_reducible refine Keeps.mk' ?_ ?_ ?_ ?_ ?_
    | exact rfl)

theorem restoreAccords_keeps {s0 : State} {s : State} (h_s : Keeps s0 s)  :
    Keeps s0 (restoreAccords s) := by
  unfold restoreAccords
  repeat' (first
    | with_reducible assumption
    | with_reducible apply updAccord_keeps
    | intro _
    | with_reducible apply Keeps.foldl
    | with_reducible apply Keeps.foldl_snd
    | with_reducible refine Keeps.mk' ?_ ?_ ?_ ?_ ?_
    | exact rfl)

theorem failRequest_keeps {s0 : State} {m op seq : Nat} {st : Status} {s : State} (h_s : Keeps s0 s)  :
    Keeps s0 (failRequest m op seq st s) := by
  unfold failRequest
  repeat' (first
    | with_reducible assumption
    | exact fun _ h => h
    | (intro _ h; split <;> exact h)
    | (intro _ h; unfold Master.indicesOk at *; dsimp only; omega)
    | with_reducible apply updMaster_keeps
    | with_reducible apply respond_keeps
    | intro _
    | with_reducible refine Keeps.mk' ?_ ?_ ?_ ?_ ?_
    | exact rfl)

theorem jitterHit_keeps {s0 : State} {c n : Nat} {s : State} (h_s : Keeps s0 s)  :
    Keeps s0 (jitterHit c n s) := by
  unfold jitterHit
  repeat' (first
    | with_reducible assumption
    | with_reducible apply updRx_keeps
    | with_reducible apply Keeps.ite
    | intro _
    | split
    | dsimp -proj only
    | with_reducible refine Keeps.mk' ?_ ?_ ?_ ?_ ?_
    | exact rfl)

theorem sramHit_keeps {s0 : State} {site : SramSite} {s : State} (h_s : Keeps s0 s)  :
    Keeps s0 (sramHit site s) := by
  unfold sramHit
  repeat' (first
    | with_reducible assumption
    | with_reducible apply updAccord_keeps
    | with_reducible apply jitterHit_keeps
    | with_reducible apply updQuay_keeps
    | with_reducible apply updOutChain_keeps
    | with_reducible apply skipFrame_keeps
    | with_reducible apply failRequest_keeps
    | with_reducible apply updPortStat_keeps
    | with_reducible apply fatalFault_keeps
    | with_reducible apply Keeps.ite
    | intro _
    | split
    | dsimp -proj only
    | with_reducible refine Keeps.mk' ?_ ?_ ?_ ?_ ?_
    | exact rfl)

theorem execSramScrub_keeps {corrected : Nat} {bad : Option SramSite} {s : State} : KeepsO s (execSramScrub corrected bad s) := by
  have h := Keeps.refl s
  unfold execSramScrub
  repeat' (first
    | with_reducible assumption
    | with_reducible apply updMemStat_keeps
    | with_reducible apply sramHit_keeps
    | with_reducible apply KeepsO.next
    | with_reducible apply KeepsO.ite
    | with_reducible apply Keeps.ite
    | intro _
    | split
    | dsimp -proj only
    | with_reducible refine Keeps.mk' ?_ ?_ ?_ ?_ ?_
    | exact rfl)

theorem dramHit_keeps {s0 : State} {site : DramSite} {s : State} (h_s : Keeps s0 s)  :
    Keeps s0 (dramHit site s) := by
  unfold dramHit
  repeat' (first
    | with_reducible assumption
    | with_reducible apply clearAcc_keeps
    | with_reducible apply failRequest_keeps
    | with_reducible apply updPort_keeps
    | with_reducible apply Keeps.ite
    | intro _
    | split
    | dsimp -proj only
    | with_reducible refine Keeps.mk' ?_ ?_ ?_ ?_ ?_
    | exact rfl)

theorem execDramScrub_keeps {corrected link forwarded : Nat} {bad : Option DramSite} {s : State} : KeepsO s (execDramScrub corrected link forwarded bad s) := by
  have h := Keeps.refl s
  unfold execDramScrub
  repeat' (first
    | with_reducible assumption
    | with_reducible apply updMemStat_keeps
    | with_reducible apply dramHit_keeps
    | with_reducible apply KeepsO.next
    | with_reducible apply KeepsO.ite
    | with_reducible apply Keeps.ite
    | intro _
    | split
    | dsimp -proj only
    | with_reducible refine Keeps.mk' ?_ ?_ ?_ ?_ ?_
    | exact rfl)

theorem dropWaits_keeps {s0 : State} {s : State} (h_s : Keeps s0 s)  :
    Keeps s0 (dropWaits s) := by
  unfold dropWaits
  repeat' (first
    | with_reducible assumption
    | intro _
    | with_reducible refine Keeps.mk' ?_ ?_ ?_ ?_ ?_
    | exact rfl)

theorem enterShallow_keeps {s0 : State} {s : State} (h_s : Keeps s0 s)  :
    Keeps s0 (enterShallow s) := by
  unfold enterShallow
  repeat' (first
    | with_reducible assumption
    | with_reducible apply setFlag_keeps
    | with_reducible apply logEvent_keeps
    | with_reducible apply endTransfers_keeps
    | with_reducible apply dropRings_keeps
    | with_reducible apply sweepAbort_keeps
    | with_reducible apply dropWaits_keeps
    | with_reducible apply noseFollow_keeps
    | with_reducible apply setAdrift_keeps
    | with_reducible apply abandonWarp_keeps
    | with_reducible apply forwardDecision_keeps
    | with_reducible apply Keeps.ite
    | exact fun _ => SetOk.coast _ _
    | exact fun _ => SetOk.shallow _ _
    | exact fun _ => SetOk.release _
    | exact fun _ => SetOk.rejoin _
    | intro _
    | with_reducible refine Keeps.mk' ?_ ?_ ?_ ?_ ?_
    | exact rfl)

theorem raiseMarks_keeps {s0 : State} {mark : Nat} {s : State} (h_s : Keeps s0 s)  :
    Keeps s0 (raiseMarks mark s) := by
  unfold raiseMarks
  repeat' (first
    | with_reducible assumption
    | intro _
    | with_reducible apply Keeps.foldl
    | with_reducible apply Keeps.foldl_snd
    | with_reducible refine Keeps.mk' ?_ ?_ ?_ ?_ ?_
    | exact rfl)

theorem leaveShallow_keeps {s0 : State} {b : Nat} {s : State} (h_s : Keeps s0 s)  :
    Keeps s0 (leaveShallow b s) := by
  unfold leaveShallow
  repeat' (first
    | with_reducible assumption
    | with_reducible apply setFlag_keeps
    | with_reducible apply logEvent_keeps
    | with_reducible apply raiseMarks_keeps
    | with_reducible apply forwardDecision_keeps
    | with_reducible apply noseFollow_keeps
    | with_reducible apply noseLeaveShallow_keeps
    | with_reducible apply Keeps.ite
    | exact fun _ => SetOk.coast _ _
    | exact fun _ => SetOk.shallow _ _
    | exact fun _ => SetOk.release _
    | exact fun _ => SetOk.rejoin _
    | intro _
    | with_reducible refine Keeps.mk' ?_ ?_ ?_ ?_ ?_
    | exact rfl)

theorem followShallow_keeps {s0 : State} {k : Nat} {s : State} (h_s : Keeps s0 s)  :
    Keeps s0 (followShallow k s) := by
  unfold followShallow
  repeat' (first
    | with_reducible assumption
    | with_reducible apply dropWaits_keeps
    | with_reducible apply raiseMarks_keeps
    | with_reducible apply Keeps.ite
    | intro _
    | split
    | dsimp -proj only
    | with_reducible refine Keeps.mk' ?_ ?_ ?_ ?_ ?_
    | exact rfl)

theorem execRetrainStep_keeps {ch : Fin 8} {centre : Option Int} {s : State} : KeepsO s (execRetrainStep ch centre s) := by
  have h := Keeps.refl s
  unfold execRetrainStep
  repeat' (first
    | with_reducible assumption
    | with_reducible apply updMemStat_keeps
    | with_reducible apply KeepsO.next
    | with_reducible apply KeepsO.ite
    | with_reducible apply Keeps.ite
    | intro _
    | split
    | dsimp -proj only
    | with_reducible refine Keeps.mk' ?_ ?_ ?_ ?_ ?_
    | exact rfl)

theorem execDramSearchStep_keeps {ch : Fin 8} {found : Option Int} {s : State} : KeepsO s (execDramSearchStep ch found s) := by
  have h := Keeps.refl s
  unfold execDramSearchStep
  repeat' (first
    | with_reducible assumption
    | with_reducible apply updMemStat_keeps
    | with_reducible apply KeepsO.next
    | with_reducible apply KeepsO.ite
    | with_reducible apply Keeps.ite
    | intro _
    | split
    | dsimp -proj only
    | with_reducible refine Keeps.mk' ?_ ?_ ?_ ?_ ?_
    | exact rfl)

theorem execDramStepDown_keeps {s : State} : KeepsO s (execDramStepDown s) := by
  have h := Keeps.refl s
  unfold execDramStepDown
  repeat' (first
    | with_reducible assumption
    | with_reducible apply enterShallow_keeps
    | with_reducible apply KeepsO.next
    | with_reducible apply KeepsO.ite
    | with_reducible apply Keeps.ite
    | intro _
    | with_reducible refine Keeps.mk' ?_ ?_ ?_ ?_ ?_
    | exact rfl)

theorem setRate_keeps {s0 : State} {r : Nat} {s : State} (h_s : Keeps s0 s)  :
    Keeps s0 (setRate r s) := by
  unfold setRate
  repeat' (first
    | with_reducible assumption
    | with_reducible apply updMemStat_keeps
    | intro _
    | with_reducible refine Keeps.mk' ?_ ?_ ?_ ?_ ?_
    | exact rfl)

theorem execDramRateChange_keeps {s : State} : KeepsO s (execDramRateChange s) := by
  have h := Keeps.refl s
  unfold execDramRateChange
  repeat' (first
    | with_reducible assumption
    | with_reducible apply updMemStat_keeps
    | with_reducible apply setRate_keeps
    | with_reducible apply KeepsO.next
    | with_reducible apply KeepsO.ite
    | intro _
    | split
    | with_reducible refine Keeps.mk' ?_ ?_ ?_ ?_ ?_
    | exact rfl)

theorem execShallowSearch_keeps {pass pattern : Bool} {s : State} : KeepsO s (execShallowSearch pass pattern s) := by
  have h := Keeps.refl s
  unfold execShallowSearch
  repeat' (first
    | with_reducible assumption
    | with_reducible apply updMemStat_keeps
    | with_reducible apply KeepsO.next
    | with_reducible apply KeepsO.ite
    | with_reducible apply Keeps.ite
    | intro _
    | with_reducible refine Keeps.mk' ?_ ?_ ?_ ?_ ?_
    | exact rfl)

theorem execRateClimb_keeps {pass : Bool} {s : State} : KeepsO s (execRateClimb pass s) := by
  have h := Keeps.refl s
  unfold execRateClimb
  repeat' (first
    | with_reducible assumption
    | with_reducible apply updMemStat_keeps
    | with_reducible apply setRate_keeps
    | with_reducible apply KeepsO.next
    | with_reducible apply KeepsO.ite
    | with_reducible apply Keeps.ite
    | intro _
    | with_reducible refine Keeps.mk' ?_ ?_ ?_ ?_ ?_
    | exact rfl)

theorem execDramTempRead_keeps {t0 t1 : Int} {s : State} : KeepsO s (execDramTempRead t0 t1 s) := by
  have h := Keeps.refl s
  unfold execDramTempRead
  repeat' (first
    | with_reducible assumption
    | with_reducible apply KeepsO.next
    | with_reducible apply KeepsO.ite
    | with_reducible apply Keeps.ite
    | intro _
    | with_reducible refine Keeps.mk' ?_ ?_ ?_ ?_ ?_
    | exact rfl)

theorem execHammerWindowReset_keeps {s : State} : KeepsO s (execHammerWindowReset s) := by
  have h := Keeps.refl s
  unfold execHammerWindowReset
  repeat' (first
    | with_reducible assumption
    | with_reducible apply KeepsO.next
    | with_reducible apply KeepsO.ite
    | intro _
    | with_reducible refine Keeps.mk' ?_ ?_ ?_ ?_ ?_
    | exact rfl)

theorem execHammerThrottle_keeps {p : Fin 14} {ch : Fin 8} {group count : Nat} {s : State} : KeepsO s (execHammerThrottle p ch group count s) := by
  have h := Keeps.refl s
  unfold execHammerThrottle
  repeat' (first
    | with_reducible assumption
    | with_reducible apply updMemStat_keeps
    | with_reducible apply KeepsO.next
    | with_reducible apply KeepsO.ite
    | with_reducible apply Keeps.ite
    | intro _
    | with_reducible refine Keeps.mk' ?_ ?_ ?_ ?_ ?_
    | exact rfl)

theorem execChannelSelfRefresh_keeps {ch : Fin 8} {idle : Nat} {s : State} : KeepsO s (execChannelSelfRefresh ch idle s) := by
  have h := Keeps.refl s
  unfold execChannelSelfRefresh
  repeat' (first
    | with_reducible assumption
    | with_reducible apply updMemStat_keeps
    | with_reducible apply KeepsO.next
    | with_reducible apply KeepsO.ite
    | with_reducible apply Keeps.ite
    | intro _
    | with_reducible refine Keeps.mk' ?_ ?_ ?_ ?_ ?_
    | exact rfl)

end Sys2Proof.Machine
end

