-- ==== Sys2Proof/Laws/KeepsIo.lean ====
section
/-!
SUPPORT. What the operations of Machine/Io.lean keep.
-/
namespace Sys2Proof.Machine

theorem doAnaInCfg_keeps {s0 : State} {p : Bytes} {views : List State} {s : State} (h_s : Keeps s0 s)  :
    KeepsR s0 (doAnaInCfg p views s) := by
  unfold doAnaInCfg
  repeat' (first
    | with_reducible assumption
    | with_reducible apply no_keeps
    | with_reducible apply updAnaIn_keeps
    | with_reducible apply KeepsR.no
    | with_reducible apply KeepsR.refuse
    | with_reducible apply KeepsR.done
    | with_reducible apply KeepsR.owe
    | with_reducible apply KeepsR.deferred
    | with_reducible apply KeepsR.ite
    | with_reducible apply Keeps.ite
    | intro _
    | split
    | dsimp -proj only
    | with_reducible refine Keeps.mk' ?_ ?_ ?_ ?_ ?_
    | exact rfl)

theorem execInputGainSwitch_keeps {i : Fin 8} {s : State} : KeepsO s (execInputGainSwitch i s) := by
  have h := Keeps.refl s
  unfold execInputGainSwitch
  repeat' (first
    | with_reducible assumption
    | with_reducible apply updAnaIn_keeps
    | with_reducible apply KeepsO.next
    | with_reducible apply KeepsO.ite
    | intro _
    | with_reducible refine Keeps.mk' ?_ ?_ ?_ ?_ ?_
    | exact rfl)

theorem execPhantomRampDone_keeps {i : Fin 8} {s : State} : KeepsO s (execPhantomRampDone i s) := by
  have h := Keeps.refl s
  unfold execPhantomRampDone
  repeat' (first
    | with_reducible assumption
    | with_reducible apply updAnaIn_keeps
    | with_reducible apply KeepsO.next
    | with_reducible apply KeepsO.ite
    | intro _
    | with_reducible refine Keeps.mk' ?_ ?_ ?_ ?_ ?_
    | exact rfl)

theorem execPhantomFault_keeps {i : Fin 8} {s : State} : KeepsO s (execPhantomFault i s) := by
  have h := Keeps.refl s
  unfold execPhantomFault
  repeat' (first
    | with_reducible assumption
    | with_reducible apply updAnaIn_keeps
    | with_reducible apply localFault_keeps
    | with_reducible apply KeepsO.next
    | with_reducible apply KeepsO.ite
    | with_reducible apply Keeps.ite
    | intro _
    | with_reducible refine Keeps.mk' ?_ ?_ ?_ ?_ ?_
    | exact rfl)

theorem bindLocal_keeps {s0 : State} {s : State} (h_s : Keeps s0 s)  :
    Keeps s0 (bindLocal s) := by
  unfold bindLocal
  repeat' (first
    | with_reducible assumption
    | intro _
    | split
    | with_reducible refine Keeps.mk' ?_ ?_ ?_ ?_ ?_
    | exact rfl)

theorem doAnaOutCfg_keeps {s0 : State} {p : Bytes} {s : State} (h_s : Keeps s0 s)  :
    KeepsR s0 (doAnaOutCfg p s) := by
  unfold doAnaOutCfg
  repeat' (first
    | with_reducible assumption
    | with_reducible apply no_keeps
    | with_reducible apply updAnaOut_keeps
    | with_reducible apply KeepsR.no
    | with_reducible apply KeepsR.refuse
    | with_reducible apply KeepsR.done
    | with_reducible apply KeepsR.owe
    | with_reducible apply KeepsR.deferred
    | with_reducible apply KeepsR.ite
    | with_reducible apply Keeps.ite
    | intro _
    | with_reducible refine Keeps.mk' ?_ ?_ ?_ ?_ ?_
    | exact rfl)

theorem execSpanChangeDone_keeps {o : Fin 8} {s : State} : KeepsO s (execSpanChangeDone o s) := by
  have h := Keeps.refl s
  unfold execSpanChangeDone
  repeat' (first
    | with_reducible assumption
    | with_reducible apply updAnaOut_keeps
    | with_reducible apply KeepsO.next
    | with_reducible apply KeepsO.ite
    | with_reducible apply Keeps.ite
    | intro _
    | split
    | dsimp -proj only
    | with_reducible refine Keeps.mk' ?_ ?_ ?_ ?_ ?_
    | exact rfl)

theorem execOutputCurrentLimit_keeps {o : Fin 8} {s : State} : KeepsO s (execOutputCurrentLimit o s) := by
  have h := Keeps.refl s
  unfold execOutputCurrentLimit
  repeat' (first
    | with_reducible assumption
    | with_reducible apply updAnaOut_keeps
    | with_reducible apply localFault_keeps
    | with_reducible apply KeepsO.next
    | with_reducible apply KeepsO.ite
    | with_reducible apply Keeps.ite
    | intro _
    | with_reducible refine Keeps.mk' ?_ ?_ ?_ ?_ ?_
    | exact rfl)

theorem execOutputLimitRetry_keeps {o : Fin 8} {s : State} : KeepsO s (execOutputLimitRetry o s) := by
  have h := Keeps.refl s
  unfold execOutputLimitRetry
  repeat' (first
    | with_reducible assumption
    | with_reducible apply updAnaOut_keeps
    | with_reducible apply KeepsO.next
    | with_reducible apply KeepsO.ite
    | intro _
    | with_reducible refine Keeps.mk' ?_ ?_ ?_ ?_ ?_
    | exact rfl)

theorem execAnalogueSupplyFault_keeps {s : State} : KeepsO s (execAnalogueSupplyFault s) := by
  have h := Keeps.refl s
  unfold execAnalogueSupplyFault
  repeat' (first
    | with_reducible assumption
    | with_reducible apply updAnaOut_keeps
    | with_reducible apply localFault_keeps
    | with_reducible apply KeepsO.next
    | with_reducible apply KeepsO.ite
    | with_reducible apply Keeps.ite
    | intro _
    | with_reducible apply Keeps.foldl
    | with_reducible apply Keeps.foldl_snd
    | with_reducible refine Keeps.mk' ?_ ?_ ?_ ?_ ?_
    | exact rfl)

theorem execAnalogueSupplyRestored_keeps {s : State} : KeepsO s (execAnalogueSupplyRestored s) := by
  have h := Keeps.refl s
  unfold execAnalogueSupplyRestored
  repeat' (first
    | with_reducible assumption
    | with_reducible apply KeepsO.next
    | with_reducible apply KeepsO.ite
    | intro _
    | with_reducible refine Keeps.mk' ?_ ?_ ?_ ?_ ?_
    | exact rfl)

theorem doLoopCfg_keeps {s0 : State} {p : Bytes} {s : State} (h_s : Keeps s0 s)  :
    KeepsR s0 (doLoopCfg p s) := by
  unfold doLoopCfg
  repeat' (first
    | with_reducible assumption
    | with_reducible apply no_keeps
    | with_reducible apply updLoop_keeps
    | with_reducible apply KeepsR.no
    | with_reducible apply KeepsR.refuse
    | with_reducible apply KeepsR.done
    | with_reducible apply KeepsR.owe
    | with_reducible apply KeepsR.deferred
    | with_reducible apply KeepsR.ite
    | with_reducible apply Keeps.ite
    | intro _
    | with_reducible refine Keeps.mk' ?_ ?_ ?_ ?_ ?_
    | exact rfl)

theorem loopTargets_keeps {s0 : State} {s : State} (h_s : Keeps s0 s)  :
    Keeps s0 (loopTargets s) := by
  unfold loopTargets
  repeat' (first
    | with_reducible assumption
    | with_reducible apply Keeps.ite
    | intro _
    | with_reducible refine Keeps.mk' ?_ ?_ ?_ ?_ ?_
    | exact rfl)

theorem execLoopSlew_keeps {l : Fin 4} {s : State} : KeepsO s (execLoopSlew l s) := by
  have h := Keeps.refl s
  unfold execLoopSlew
  repeat' (first
    | with_reducible assumption
    | with_reducible apply updLoop_keeps
    | with_reducible apply KeepsO.next
    | with_reducible apply KeepsO.ite
    | with_reducible apply Keeps.ite
    | intro _
    | with_reducible refine Keeps.mk' ?_ ?_ ?_ ?_ ?_
    | exact rfl)

theorem execLoopCheck_keeps {l : Fin 4} {m : LoopSense} {s : State} : KeepsO s (execLoopCheck l m s) := by
  have h := Keeps.refl s
  unfold execLoopCheck
  repeat' (first
    | with_reducible assumption
    | with_reducible apply updLoop_keeps
    | with_reducible apply localFault_keeps
    | with_reducible apply KeepsO.next
    | with_reducible apply KeepsO.ite
    | with_reducible apply Keeps.ite
    | intro _
    | with_reducible refine Keeps.mk' ?_ ?_ ?_ ?_ ?_
    | exact rfl)

theorem doTdmCfg_keeps {s0 : State} {p : Bytes} {views : List State} {s : State} (h_s : Keeps s0 s)  :
    KeepsR s0 (doTdmCfg p views s) := by
  unfold doTdmCfg
  repeat' (first
    | with_reducible assumption
    | with_reducible apply no_keeps
    | with_reducible apply updTdm_keeps
    | with_reducible apply KeepsR.no
    | with_reducible apply KeepsR.refuse
    | with_reducible apply KeepsR.done
    | with_reducible apply KeepsR.owe
    | with_reducible apply KeepsR.deferred
    | with_reducible apply KeepsR.ite
    | with_reducible apply Keeps.ite
    | intro _
    | split
    | dsimp -proj only
    | with_reducible refine Keeps.mk' ?_ ?_ ?_ ?_ ?_
    | exact rfl)

theorem execTdmSyncError_keeps {p : Fin 4} {s : State} : KeepsO s (execTdmSyncError p s) := by
  have h := Keeps.refl s
  unfold execTdmSyncError
  repeat' (first
    | with_reducible assumption
    | with_reducible apply updTdm_keeps
    | with_reducible apply localFault_keeps
    | with_reducible apply KeepsO.next
    | with_reducible apply KeepsO.ite
    | with_reducible apply Keeps.ite
    | intro _
    | split
    | dsimp -proj only
    | with_reducible refine Keeps.mk' ?_ ?_ ?_ ?_ ?_
    | exact rfl)

theorem execTdmSyncLoss_keeps {p : Fin 4} {s : State} : KeepsO s (execTdmSyncLoss p s) := by
  have h := Keeps.refl s
  unfold execTdmSyncLoss
  repeat' (first
    | with_reducible assumption
    | with_reducible apply updTdm_keeps
    | with_reducible apply KeepsO.next
    | with_reducible apply KeepsO.ite
    | with_reducible apply Keeps.ite
    | intro _
    | with_reducible refine Keeps.mk' ?_ ?_ ?_ ?_ ?_
    | exact rfl)

theorem doGpioSet_keeps {s0 : State} {p : Bytes} {check : Bytes → Option Status} {s : State} (h_s : Keeps s0 s)  :
    KeepsR s0 (doGpioSet p check s) := by
  unfold doGpioSet
  repeat' (first
    | with_reducible assumption
    | with_reducible apply no_keeps
    | with_reducible apply updPin_keeps
    | with_reducible apply KeepsR.no
    | with_reducible apply KeepsR.refuse
    | with_reducible apply KeepsR.done
    | with_reducible apply KeepsR.owe
    | with_reducible apply KeepsR.deferred
    | with_reducible apply KeepsR.ite
    | with_reducible apply Keeps.ite
    | intro _
    | split
    | dsimp -proj only
    | with_reducible refine Keeps.mk' ?_ ?_ ?_ ?_ ?_
    | exact rfl)

theorem execI2cTransferDone_keeps {status : Fin 3} {data : Bytes} {s : State} : KeepsO s (execI2cTransferDone status data s) := by
  have h := Keeps.refl s
  unfold execI2cTransferDone
  repeat' (first
    | with_reducible assumption
    | with_reducible apply answerOwed_keeps
    | with_reducible apply KeepsO.next
    | with_reducible apply KeepsO.ite
    | intro _
    | split
    | with_reducible refine Keeps.mk' ?_ ?_ ?_ ?_ ?_
    | exact rfl)

theorem execI2cBusHeld_keeps {s : State} : KeepsO s (execI2cBusHeld s) := by
  have h := Keeps.refl s
  unfold execI2cBusHeld
  repeat' (first
    | with_reducible assumption
    | with_reducible apply localFault_keeps
    | with_reducible apply answerOwed_keeps
    | with_reducible apply KeepsO.next
    | with_reducible apply KeepsO.ite
    | intro _
    | split
    | dsimp -proj only
    | with_reducible refine Keeps.mk' ?_ ?_ ?_ ?_ ?_
    | exact rfl)

end Sys2Proof.Machine
end

