-- ==== Sys2Proof/Laws/KeepsSystem.lean ====
section
/-!
SUPPORT. What the operations of Machine/System.lean keep.
-/
namespace Sys2Proof.Machine

theorem doSysInfo_keeps {s0 : State} {p : Bytes} {s : State} (h_s : Keeps s0 s)  :
    KeepsR s0 (doSysInfo p s) := by
  unfold doSysInfo
  repeat' (first
    | with_reducible assumption
    | with_reducible apply no_keeps
    | with_reducible apply sillageRead_keeps
    | with_reducible apply KeepsR.no
    | with_reducible apply KeepsR.refuse
    | with_reducible apply KeepsR.done
    | with_reducible apply KeepsR.owe
    | with_reducible apply KeepsR.deferred
    | with_reducible apply KeepsR.ite
    | with_reducible apply Keeps.ite
    | intro _
    | split
    | with_reducible refine Keeps.mk' ?_ ?_ ?_ ?_ ?_
    | exact rfl)

theorem doSysLogRead_keeps {s0 : State} {p : Bytes} {s : State} (h_s : Keeps s0 s)  :
    KeepsR s0 (doSysLogRead p s) := by
  unfold doSysLogRead
  repeat' (first
    | with_reducible assumption
    | with_reducible apply no_keeps
    | with_reducible apply KeepsR.no
    | with_reducible apply KeepsR.refuse
    | with_reducible apply KeepsR.done
    | with_reducible apply KeepsR.owe
    | with_reducible apply KeepsR.deferred
    | with_reducible apply KeepsR.ite
    | with_reducible apply Keeps.ite
    | intro _
    | with_reducible apply Keeps.foldl
    | with_reducible apply Keeps.foldl_snd
    | split
    | dsimp -proj only
    | with_reducible refine Keeps.mk' ?_ ?_ ?_ ?_ ?_
    | exact rfl)

theorem overflowEntry_keeps {s0 : State} {s : State} (h_s : Keeps s0 s)  :
    Keeps s0 (overflowEntry s) := by
  unfold overflowEntry
  repeat' (first
    | with_reducible assumption
    | with_reducible apply logEvent_keeps
    | with_reducible apply Keeps.ite
    | intro _
    | with_reducible refine Keeps.mk' ?_ ?_ ?_ ?_ ?_
    | exact rfl)

theorem eventDatagrams_keeps {s0 : State} {s : State} (h_s : Keeps s0 s)  :
    Keeps s0 (eventDatagrams s) := by
  unfold eventDatagrams
  repeat' (first
    | with_reducible assumption
    | exact fun _ h => h
    | (intro _ h; split <;> exact h)
    | (intro _ h; unfold Master.indicesOk at *; dsimp only; omega)
    | with_reducible apply updMaster_keeps
    | with_reducible apply sendDatagram_keeps
    | intro _
    | with_reducible apply Keeps.foldl
    | with_reducible apply Keeps.foldl_snd
    | split
    | dsimp -proj only
    | with_reducible refine Keeps.mk' ?_ ?_ ?_ ?_ ?_
    | exact rfl)

theorem doObjClaim_keeps {s0 : State} {p : Bytes} {m rank : Nat} {s : State} (h_s : Keeps s0 s)  :
    KeepsR s0 (doObjClaim p m rank s) := by
  unfold doObjClaim
  repeat' (first
    | with_reducible assumption
    | with_reducible apply no_keeps
    | with_reducible apply KeepsR.no
    | with_reducible apply KeepsR.refuse
    | with_reducible apply KeepsR.done
    | with_reducible apply KeepsR.owe
    | with_reducible apply KeepsR.deferred
    | with_reducible apply KeepsR.ite
    | with_reducible apply Keeps.ite
    | intro _
    | split
    | dsimp -proj only
    | (refine Keeps.claims (by assumption) ?_; exact fun k => claim_room k (by assumption))
    | (refine Keeps.claims (by assumption) ?_; exact fun k => Nat.le_trans (List.length_filter_le _ _) k)
    | with_reducible refine Keeps.mk' ?_ ?_ ?_ ?_ ?_
    | exact rfl)

theorem doSysReset_keeps {s0 : State} {p : Bytes} {s : State} (h_s : Keeps s0 s)  :
    KeepsR s0 (doSysReset p s) := by
  unfold doSysReset
  repeat' (first
    | with_reducible assumption
    | with_reducible apply no_keeps
    | with_reducible apply releaseRole_keeps
    | with_reducible apply KeepsR.no
    | with_reducible apply KeepsR.refuse
    | with_reducible apply KeepsR.done
    | with_reducible apply KeepsR.owe
    | with_reducible apply KeepsR.deferred
    | with_reducible apply KeepsR.ite
    | with_reducible apply Keeps.ite
    | intro _
    | with_reducible refine Keeps.mk' ?_ ?_ ?_ ?_ ?_
    | exact rfl)

theorem doPostReport_keeps {s0 : State} {p : Bytes} {s : State} (h_s : Keeps s0 s)  :
    KeepsR s0 (doPostReport p s) := by
  unfold doPostReport
  repeat' (first
    | with_reducible assumption
    | with_reducible apply no_keeps
    | with_reducible apply KeepsR.no
    | with_reducible apply KeepsR.refuse
    | with_reducible apply KeepsR.done
    | with_reducible apply KeepsR.owe
    | with_reducible apply KeepsR.deferred
    | with_reducible apply KeepsR.ite
    | with_reducible apply Keeps.ite
    | intro _
    | with_reducible refine Keeps.mk' ?_ ?_ ?_ ?_ ?_
    | exact rfl)

theorem plain_keeps {s0 : State} {p : Bytes} {body : Bytes} {s : State} (h_s : Keeps s0 s)  :
    KeepsR s0 (plain p body s) := by
  unfold plain
  repeat' (first
    | with_reducible assumption
    | with_reducible apply no_keeps
    | with_reducible apply KeepsR.no
    | with_reducible apply KeepsR.refuse
    | with_reducible apply KeepsR.done
    | with_reducible apply KeepsR.owe
    | with_reducible apply KeepsR.deferred
    | with_reducible apply KeepsR.ite
    | with_reducible apply Keeps.ite
    | intro _
    | with_reducible refine Keeps.mk' ?_ ?_ ?_ ?_ ?_
    | exact rfl)

theorem clearCounters_keeps {s0 : State} {s : State} (h_s : Keeps s0 s)  :
    Keeps s0 (clearCounters s) := by
  unfold clearCounters
  repeat' (first
    | with_reducible assumption
    | intro _
    | with_reducible refine Keeps.mk' ?_ ?_ ?_ ?_ ?_
    | exact rfl)

end Sys2Proof.Machine
end

