-- ==== Sys2Proof/Laws/KeepsPair.lean ====
section
/-!
SUPPORT. What the operations of Machine/Pair.lean keep.
-/
namespace Sys2Proof.Machine

theorem doTwinCfg_keeps {s0 : State} {p : Bytes} {s : State} (h_s : Keeps s0 s)  :
    KeepsR s0 (doTwinCfg p s) := by
  unfold doTwinCfg
  repeat' (first
    | with_reducible assumption
    | with_reducible apply no_keeps
    | with_reducible apply KeepsR.no
    | with_reducible apply KeepsR.refuse
    | with_reducible apply KeepsR.done
    | with_reducible apply KeepsR.owe
    | with_reducible apply KeepsR.deferred
    | with_reducible apply KeepsR.ite
    | with_reducible apply Keeps.ite
    | intro _
    | with_reducible refine Keeps.mk' ?_ ?_ ?_ ?_ ?_
    | exact rfl)

theorem doWitnessSet_keeps {s0 : State} {p : Bytes} {s : State} (h_s : Keeps s0 s)  :
    KeepsR s0 (doWitnessSet p s) := by
  unfold doWitnessSet
  repeat' (first
    | with_reducible assumption
    | with_reducible apply no_keeps
    | with_reducible apply KeepsR.no
    | with_reducible apply KeepsR.refuse
    | with_reducible apply KeepsR.done
    | with_reducible apply KeepsR.owe
    | with_reducible apply KeepsR.deferred
    | with_reducible apply KeepsR.ite
    | with_reducible apply Keeps.ite
    | intro _
    | with_reducible refine Keeps.mk' ?_ ?_ ?_ ?_ ?_
    | exact rfl)

theorem startWarp_keeps {s0 : State} {s : State} (h_s : Keeps s0 s)  :
    Keeps s0 (startWarp s) := by
  unfold startWarp
  repeat' (first
    | with_reducible assumption
    | with_reducible apply sendTwin_keeps
    | with_reducible apply Keeps.ite
    | intro _
    | with_reducible refine Keeps.mk' ?_ ?_ ?_ ?_ ?_
    | exact rfl)

theorem doTwinWarp_keeps {s0 : State} {p : Bytes} {s : State} (h_s : Keeps s0 s)  :
    KeepsR s0 (doTwinWarp p s) := by
  unfold doTwinWarp
  repeat' (first
    | with_reducible assumption
    | with_reducible apply no_keeps
    | with_reducible apply startWarp_keeps
    | with_reducible apply endWarp_keeps
    | with_reducible apply KeepsR.no
    | with_reducible apply KeepsR.refuse
    | with_reducible apply KeepsR.done
    | with_reducible apply KeepsR.owe
    | with_reducible apply KeepsR.deferred
    | with_reducible apply KeepsR.ite
    | with_reducible apply Keeps.ite
    | intro _
    | with_reducible refine Keeps.mk' ?_ ?_ ?_ ?_ ?_
    | exact rfl)

theorem autoWarp_keeps {s0 : State} {s : State} (h_s : Keeps s0 s)  :
    Keeps s0 (autoWarp s) := by
  unfold autoWarp
  repeat' (first
    | with_reducible assumption
    | with_reducible apply startWarp_keeps
    | with_reducible apply Keeps.ite
    | intro _
    | with_reducible refine Keeps.mk' ?_ ?_ ?_ ?_ ?_
    | exact rfl)

theorem armHandOver_keeps {s0 : State} {h : Nat} {s : State} (h_s : Keeps s0 s)  :
    Keeps s0 (armHandOver h s) := by
  unfold armHandOver
  repeat' (first
    | with_reducible assumption
    | intro _
    | with_reducible refine Keeps.mk' ?_ ?_ ?_ ?_ ?_
    | exact rfl)

theorem startHandOver_keeps {s0 : State} {apply : Nat} {s : State} (h_s : Keeps s0 s)  :
    Keeps s0 (startHandOver apply s) := by
  unfold startHandOver
  repeat' (first
    | with_reducible assumption
    | with_reducible apply sendTwin_keeps
    | with_reducible apply armHandOver_keeps
    | intro _
    | with_reducible refine Keeps.mk' ?_ ?_ ?_ ?_ ?_
    | exact rfl)

theorem doTwinSwitch_keeps {s0 : State} {p : Bytes} {s : State} (h_s : Keeps s0 s)  :
    KeepsR s0 (doTwinSwitch p s) := by
  unfold doTwinSwitch
  repeat' (first
    | with_reducible assumption
    | with_reducible apply no_keeps
    | with_reducible apply startHandOver_keeps
    | with_reducible apply sendTwin_keeps
    | with_reducible apply KeepsR.no
    | with_reducible apply KeepsR.refuse
    | with_reducible apply KeepsR.done
    | with_reducible apply KeepsR.owe
    | with_reducible apply KeepsR.deferred
    | with_reducible apply KeepsR.ite
    | with_reducible apply Keeps.ite
    | intro _
    | with_reducible refine Keeps.mk' ?_ ?_ ?_ ?_ ?_
    | exact rfl)

theorem stopLoops_keeps {s0 : State} {s : State} (h_s : Keeps s0 s)  :
    Keeps s0 (stopLoops s) := by
  unfold stopLoops
  repeat' (first
    | with_reducible assumption
    | intro _
    | with_reducible refine Keeps.mk' ?_ ?_ ?_ ?_ ?_
    | exact rfl)

theorem handOverBlock_keeps {s0 : State} {b : Nat} {s : State} (h : Keeps s0 s) : Keeps s0 (handOverBlock b s) := by
  unfold handOverBlock
  split
  · refine Keeps.ite (fun hc => twinEvent_keeps (setWord_keeps h (fun k => .inr (yield_ok k ?_)) fun k =>
      safe_withFlag (safe_withFlag k (by decide) (by decide)) (by decide) (by decide))) fun _ => h
    simp at hc; exact hc.2
  · refine Keeps.ite (fun hc => twinEvent_keeps (setWord_keeps (Keeps.mk' (stopLoops_keeps h) rfl rfl rfl rfl) (fun k => .inr (claim_ok k ?_)) fun k =>
      safe_withFlag (safe_withFlag (safe_withFlag (safe_withFlag k ?_ ?_) ?_ ?_) ?_ ?_) ?_ ?_))
      fun _ => h
    all_goals first | decide | skip
    simp at hc; exact hc.2
  · exact h

theorem takeOwn_keeps {s0 : State} {s : State} (h_s : Keeps s0 s)  :
    Keeps s0 (takeOwn s) := by
  unfold takeOwn
  repeat' (first
    | with_reducible assumption
    | with_reducible apply updRx_keeps
    | with_reducible apply placeFree_keeps
    | with_reducible apply Keeps.ite
    | intro _
    | with_reducible apply Keeps.foldl
    | with_reducible apply Keeps.foldl_snd
    | with_reducible refine Keeps.mk' ?_ ?_ ?_ ?_ ?_
    | exact rfl)

theorem askLease_keeps {s0 : State} {s : State} (h_s : Keeps s0 s)  :
    Keeps s0 (askLease s) := by
  unfold askLease
  repeat' (first
    | with_reducible assumption
    | with_reducible apply sendTwin_keeps
    | intro _
    | with_reducible refine Keeps.mk' ?_ ?_ ?_ ?_ ?_
    | exact rfl)

theorem considerClaim_keeps {s0 : State} {s : State} (h_s : Keeps s0 s)  :
    Keeps s0 (considerClaim s) := by
  unfold considerClaim
  repeat' (first
    | with_reducible assumption
    | with_reducible apply askLease_keeps
    | with_reducible apply Keeps.ite
    | intro _
    | with_reducible refine Keeps.mk' ?_ ?_ ?_ ?_ ?_
    | exact rfl)

theorem unfollow_keeps {s0 : State} {s : State} (h_s : Keeps s0 s)  :
    Keeps s0 (unfollow s) := by
  unfold unfollow
  repeat' (first
    | with_reducible assumption
    | with_reducible apply raiseMarks_keeps
    | with_reducible apply Keeps.ite
    | intro _
    | with_reducible refine Keeps.mk' ?_ ?_ ?_ ?_ ?_
    | exact rfl)

theorem claimRole_keeps {s0 : State} {s : State} (h : Keeps s0 s) (hf : s.flag mStandby = true) : Keeps s0 (claimRole s) := by
  unfold claimRole
  refine noseFollow_keeps (twinEvent_keeps ?_)
  refine Keeps.mk' (stopLoops_keeps (unfollow_keeps (takeOwn_keeps (setWord_keeps h (fun k => .inr (claim_ok k hf)) fun k =>
    safe_withFlag (safe_withFlag (safe_withFlag (safe_withFlag k ?_ ?_) ?_ ?_) ?_ ?_) ?_ ?_)))) rfl rfl rfl rfl <;> decide

theorem execTwinClaim_keeps {s : State} : KeepsO s (execTwinClaim s) := by
  unfold execTwinClaim
  have h := Keeps.refl s
  split
  · refine KeepsO.ite (fun _ => h) (fun hn => KeepsO.ite (fun _ => claimRole_keeps h ?_) fun _ => Keeps.mk' h rfl rfl rfl rfl)
    simp at hn; exact hn.2
  · exact h

theorem yieldRole_keeps {s0 : State} {s : State} (h : Keeps s0 s) (hf : s.flag mActive = true) : Keeps s0 (yieldRole s) := by
  unfold yieldRole
  exact noseFollow_keeps (setAdrift_keeps (twinEvent_keeps (setWord_keeps (h.mk' rfl rfl rfl rfl) (fun k => .inr (yield_ok k hf))
    fun k => safe_withFlag (safe_withFlag k (by decide) (by decide)) (by decide) (by decide))))

theorem followDecision_keeps {s0 : State} {d : Decision} {s : State} (h_s : Keeps s0 s)  :
    Keeps s0 (followDecision d s) := by
  unfold followDecision
  repeat' (first
    | with_reducible assumption
    | with_reducible apply abandonWarp_keeps
    | with_reducible apply setAdrift_keeps
    | intro _
    | split
    | with_reducible refine Keeps.mk' ?_ ?_ ?_ ?_ ?_
    | exact rfl)

theorem takeDecisions_keeps {s0 : State} {due : Nat × Decision → Bool} {s : State} (h_s : Keeps s0 s)  :
    Keeps s0 (takeDecisions due s) := by
  unfold takeDecisions
  repeat' (first
    | with_reducible assumption
    | with_reducible apply followDecision_keeps
    | intro _
    | with_reducible apply Keeps.foldl
    | with_reducible apply Keeps.foldl_snd
    | with_reducible refine Keeps.mk' ?_ ?_ ?_ ?_ ?_
    | exact rfl)

theorem moorDown_keeps {s0 : State} {s : State} (h_s : Keeps s0 s)  :
    Keeps s0 (moorDown s) := by
  unfold moorDown
  repeat' (first
    | with_reducible assumption
    | with_reducible apply abandonWarp_keeps
    | with_reducible apply Keeps.ite
    | intro _
    | with_reducible refine Keeps.mk' ?_ ?_ ?_ ?_ ?_
    | exact rfl)

theorem execMooringLaneLock_keeps {lane : Fin 2} {s : State} : KeepsO s (execMooringLaneLock lane s) := by
  have h := Keeps.refl s
  unfold execMooringLaneLock
  repeat' (first
    | with_reducible assumption
    | with_reducible apply autoWarp_keeps
    | with_reducible apply KeepsO.next
    | with_reducible apply KeepsO.ite
    | with_reducible apply Keeps.ite
    | intro _
    | with_reducible refine Keeps.mk' ?_ ?_ ?_ ?_ ?_
    | exact rfl)

theorem loseLane_keeps {s0 : State} {lane : Nat} {s : State} (h_s : Keeps s0 s)  :
    Keeps s0 (loseLane lane s) := by
  unfold loseLane
  repeat' (first
    | with_reducible assumption
    | with_reducible apply moorDown_keeps
    | with_reducible apply Keeps.ite
    | intro _
    | with_reducible refine Keeps.mk' ?_ ?_ ?_ ?_ ?_
    | exact rfl)

theorem execMooringLaneLockLoss_keeps {lane : Fin 2} {s : State} : KeepsO s (execMooringLaneLockLoss lane s) := by
  have h := Keeps.refl s
  unfold execMooringLaneLockLoss
  repeat' (first
    | with_reducible assumption
    | with_reducible apply loseLane_keeps
    | with_reducible apply KeepsO.next
    | with_reducible apply KeepsO.ite
    | intro _
    | with_reducible refine Keeps.mk' ?_ ?_ ?_ ?_ ?_
    | exact rfl)

theorem execMooringSilent_keeps {s : State} : KeepsO s (execMooringSilent s) := by
  have h := Keeps.refl s
  unfold execMooringSilent
  repeat' (first
    | with_reducible assumption
    | with_reducible apply moorDown_keeps
    | with_reducible apply considerClaim_keeps
    | with_reducible apply aliveElsewhere_keeps
    | with_reducible apply takeOwn_keeps
    | with_reducible apply KeepsO.next
    | with_reducible apply KeepsO.ite
    | with_reducible apply Keeps.ite
    | intro _
    | with_reducible refine Keeps.mk' ?_ ?_ ?_ ?_ ?_
    | exact rfl)

theorem execNetworkSilent_keeps {s : State} : KeepsO s (execNetworkSilent s) := by
  have h := Keeps.refl s
  unfold execNetworkSilent
  repeat' (first
    | with_reducible assumption
    | with_reducible apply considerClaim_keeps
    | with_reducible apply KeepsO.next
    | with_reducible apply KeepsO.ite
    | with_reducible apply Keeps.ite
    | intro _
    | with_reducible refine Keeps.mk' ?_ ?_ ?_ ?_ ?_
    | exact rfl)

theorem execFlowsSilent_keeps {s : State} : KeepsO s (execFlowsSilent s) := by
  have h := Keeps.refl s
  unfold execFlowsSilent
  repeat' (first
    | with_reducible assumption
    | with_reducible apply considerClaim_keeps
    | with_reducible apply KeepsO.next
    | with_reducible apply KeepsO.ite
    | with_reducible apply Keeps.ite
    | intro _
    | with_reducible refine Keeps.mk' ?_ ?_ ?_ ?_ ?_
    | exact rfl)

theorem execTwinHeartbeatSend_keeps {network : Bool} {s : State} : KeepsO s (execTwinHeartbeatSend network s) := by
  have h := Keeps.refl s
  unfold execTwinHeartbeatSend
  repeat' (first
    | with_reducible assumption
    | with_reducible apply sendTwin_keeps
    | with_reducible apply KeepsO.next
    | with_reducible apply KeepsO.ite
    | with_reducible apply Keeps.ite
    | intro _
    | with_reducible refine Keeps.mk' ?_ ?_ ?_ ?_ ?_
    | exact rfl)

theorem hearBeat_keeps {s0 : State} {network : Bool} {hb : Heartbeat} {s : State} (h_s : Keeps s0 s)  :
    Keeps s0 (hearBeat network hb s) := by
  unfold hearBeat
  repeat' (first
    | with_reducible assumption
    | with_reducible apply aliveElsewhere_keeps
    | with_reducible apply Keeps.ite
    | intro _
    | with_reducible refine Keeps.mk' ?_ ?_ ?_ ?_ ?_
    | exact rfl)

theorem execTwinHeartbeat_keeps {network : Bool} {hb : Heartbeat} {s : State} : KeepsO s (execTwinHeartbeat network hb s) := by
  unfold execTwinHeartbeat
  have h := Keeps.refl s
  extract_lets deaf t
  refine KeepsO.ite (fun _ => h) (fun _ => ?_)
  have ht : Keeps s t := hearBeat_keeps h
  refine autoWarp_keeps (Keeps.ite (fun hc => yieldRole_keeps ht ?_) fun _ => ht)
  simp [mustYield] at hc; exact hc.1.1

theorem execTwinRelease_keeps {_block : Nat} {s : State} : KeepsO s (execTwinRelease _block s) := by
  have h := Keeps.refl s
  unfold execTwinRelease
  repeat' (first
    | with_reducible assumption
    | with_reducible apply considerClaim_keeps
    | with_reducible apply KeepsO.next
    | with_reducible apply KeepsO.ite
    | with_reducible apply Keeps.ite
    | intro _
    | with_reducible refine Keeps.mk' ?_ ?_ ?_ ?_ ?_
    | exact rfl)

theorem execTwinHandOver_keeps {stamp : Nat} {s : State} : KeepsO s (execTwinHandOver stamp s) := by
  have h := Keeps.refl s
  unfold execTwinHandOver
  repeat' (first
    | with_reducible assumption
    | with_reducible apply armHandOver_keeps
    | with_reducible apply KeepsO.next
    | with_reducible apply KeepsO.ite
    | with_reducible apply Keeps.ite
    | intro _
    | with_reducible refine Keeps.mk' ?_ ?_ ?_ ?_ ?_
    | exact rfl)

theorem execLeaseRequest_keeps {pair : Nat} {unit : Fin 2} {epoch : Nat} {s : State} : KeepsO s (execLeaseRequest pair unit epoch s) := by
  have h := Keeps.refl s
  unfold execLeaseRequest
  repeat' (first
    | with_reducible assumption
    | with_reducible apply sendTwin_keeps
    | with_reducible apply KeepsO.next
    | with_reducible apply KeepsO.ite
    | with_reducible apply Keeps.ite
    | intro _
    | split
    | dsimp -proj only
    | with_reducible refine Keeps.mk' ?_ ?_ ?_ ?_ ?_
    | exact rfl)

theorem execLeaseGrant_keeps {holder : Fin 2} {_epoch expiry : Nat} {s : State} : KeepsO s (execLeaseGrant holder _epoch expiry s) := by
  have h := Keeps.refl s
  unfold execLeaseGrant
  repeat' (first
    | with_reducible assumption
    | with_reducible apply considerClaim_keeps
    | with_reducible apply KeepsO.next
    | with_reducible apply KeepsO.ite
    | with_reducible apply Keeps.ite
    | intro _
    | with_reducible refine Keeps.mk' ?_ ?_ ?_ ?_ ?_
    | exact rfl)

theorem execLeaseRenew_keeps {s : State} : KeepsO s (execLeaseRenew s) := by
  have h := Keeps.refl s
  unfold execLeaseRenew
  repeat' (first
    | with_reducible assumption
    | with_reducible apply askLease_keeps
    | with_reducible apply considerClaim_keeps
    | with_reducible apply KeepsO.next
    | with_reducible apply KeepsO.ite
    | with_reducible apply Keeps.ite
    | intro _
    | with_reducible refine Keeps.mk' ?_ ?_ ?_ ?_ ?_
    | exact rfl)

/-- What the unit sends leaves the power and boot records. -/
theorem queuePackets_power (ps : List (Nat × TxPkt)) (s : State) :
    (queuePackets ps s).power = s.power ∧ (queuePackets ps s).boot = s.boot := by
  unfold queuePackets
  induction ps generalizing s with
  | nil => exact ⟨rfl, rfl⟩
  | cons e l ih =>
    refine ⟨(ih _).1.trans ?_, (ih _).2.trans ?_⟩ <;> (dsimp only; split <;> rfl)

theorem sendTwin_power (kind : Nat) (moor : Bool) (args : List Nat) (data : Bytes) (s : State) :
    (sendTwin kind moor args data s).power = s.power ∧ (sendTwin kind moor args data s).boot = s.boot := by
  unfold sendTwin
  split
  · unfold sendMoor; split <;> exact ⟨rfl, rfl⟩
  · split
    · exact ⟨rfl, rfl⟩
    · unfold sendService
      dsimp only
      split
      · exact ⟨rfl, rfl⟩
      · exact ⟨(queuePackets_power _ _).1, (queuePackets_power _ _).2⟩

/-- After a release ACTIVE is clear. -/
theorem releaseRole_word {s : State} (h : s.flag mActive = true) (hs : s.flag mSafe = false) :
    (releaseRole s).power.word = withFlag s.power.word mActive false ∧ (releaseRole s).boot = s.boot := by
  unfold releaseRole
  rw [if_pos h]
  have hz : ¬ (s.flag mSafe || s.power.word == 0) = true := by
    intro e
    simp [hs] at e
    simp [State.flag, e] at h
  dsimp only
  rw [(sendTwin_power ..).1, (sendTwin_power ..).2, (sendTwin_power ..).1, (sendTwin_power ..).2]
  unfold setFlag
  dsimp only
  rw [if_neg (by exact hz)]
  exact setWord_power _ _ _

/-- The standby flag goes up once ACTIVE is clear. -/
theorem execLeaseExpire_keeps {s : State} : KeepsO s (execLeaseExpire s) := by
  unfold execLeaseExpire
  have h := Keeps.refl s
  refine KeepsO.ite (fun _ => h) (fun _ => ?_)
  extract_lets a p t
  have ht : Keeps s t := releaseRole_keeps (Keeps.mk' h rfl rfl rfl rfl)
  refine Keeps.ite (fun ha => noseFollow_keeps ?_) fun _ => ht
  by_cases hs : s.flag mSafe = true
  · exact setFlag_keeps_safe ht (ht.safe hs)
  · have hs' : s.flag mSafe = false := by cases e : s.flag mSafe <;> simp_all
    have e : t.power.word = withFlag s.power.word mActive false ∧ t.boot = s.boot := by
      show (releaseRole _).power.word = _ ∧ (releaseRole _).boot = _
      exact releaseRole_word ha hs'
    have key : s.modeOk → wordOk s.isPair (withFlag t.power.word mStandby true) = true := fun k => by
      rw [e.1]; exact yield_ok k ha
    unfold setFlag
    refine Keeps.ite (fun _ => ht) fun _ => ?_
    refine ⟨(setWord_queue _ _ _).trans ht.queue, fun k => setWord_mem (ht.mem k), fun k => ?_, fun k => absurd k hs,
      fun k => setWord_bound (ht.bound k)⟩
    unfold State.modeOk
    rw [(setWord_power _ _ _).1]
    right
    have : (setWord (withFlag t.power.word mStandby true) srcDevice t).isPair = s.isPair := by
      unfold State.isPair; rw [(setWord_power _ _ _).2, e.2]
    rw [this]; exact key k

end Sys2Proof.Machine
end

