-- ==== Sys2Proof/Laws/KeepsBoot.lean ====
section
/-!
SUPPORT. What the operations of Machine/Boot.lean keep.
-/
namespace Sys2Proof.Machine

theorem writeRecord_keeps {s0 : State} {f : BootRec → BootRec} {s : State} (h_s : Keeps s0 s)  :
    Keeps s0 (writeRecord f s) := by
  unfold writeRecord
  repeat' (first
    | with_reducible assumption
    | with_reducible apply Keeps.ite
    | intro _
    | with_reducible refine Keeps.mk' ?_ ?_ ?_ ?_ ?_
    | exact rfl)

theorem reportStep_keeps {s0 : State} {n : Nat} {t : SelfTest} {s : State} (h_s : Keeps s0 s)  :
    Keeps s0 (reportStep n t s) := by
  unfold reportStep
  repeat' (first
    | with_reducible assumption
    | intro _
    | with_reducible refine Keeps.mk' ?_ ?_ ?_ ?_ ?_
    | exact rfl)

theorem failBoot_keeps {s0 : State} {step reason : Nat} {t : SelfTest} {s : State} (h_s : Keeps s0 s)  :
    Keeps s0 (failBoot step reason t s) := by
  unfold failBoot
  repeat' (first
    | with_reducible assumption
    | with_reducible apply reportStep_keeps
    | with_reducible apply enterSafe_keeps
    | intro _
    | with_reducible refine Keeps.mk' ?_ ?_ ?_ ?_ ?_
    | exact rfl)

theorem openDebug_keeps {s0 : State} {s : State} (h_s : Keeps s0 s)  :
    Keeps s0 (openDebug s) := by
  unfold openDebug
  repeat' (first
    | with_reducible assumption
    | with_reducible apply logEvent_keeps
    | intro _
    | with_reducible refine Keeps.mk' ?_ ?_ ?_ ?_ ?_
    | exact rfl)

theorem loadCreds_keeps {s0 : State} {s : State} (h_s : Keeps s0 s)  :
    Keeps s0 (loadCreds s) := by
  unfold loadCreds
  repeat' (first
    | with_reducible assumption
    | with_reducible apply logEvent_keeps
    | with_reducible apply Keeps.ite
    | intro _
    | split
    | with_reducible refine Keeps.mk' ?_ ?_ ?_ ?_ ?_
    | exact rfl)

theorem raiseFloor_keeps {s0 : State} {m : Image} {s : State} (h_s : Keeps s0 s)  :
    Keeps s0 (raiseFloor m s) := by
  unfold raiseFloor
  repeat' (first
    | with_reducible assumption
    | with_reducible apply writeRecord_keeps
    | with_reducible apply Keeps.ite
    | intro _
    | with_reducible refine Keeps.mk' ?_ ?_ ?_ ?_ ?_
    | exact rfl)

/-- The first word is legal (R345). -/
theorem setWord_first {s0 : State} {w : BitVec 16} {src : Nat} {s : State} (h : Keeps s0 s) (hm : wordOk s.isPair w = true)
    (hz : s0.flag mSafe = false) : Keeps s0 (setWord w src s) := by
  unfold setWord
  refine Keeps.ite (fun _ => h) (fun _ => logEvent_keeps ?_)
  exact ⟨h.queue, h.mem, fun _ => .inr hm, fun k => by simp [hz] at k, h.bound⟩

theorem firstWord_keeps {s0 : State} {s : State} (h : Keeps s0 s) (hz : s0.flag mSafe = false) : Keeps s0 (firstWord s) := by
  unfold firstWord
  refine Keeps.ite (fun hp => twinEvent_keeps (setWord_first (h.mk' rfl rfl rfl rfl) ?_ hz)) (fun hp => setWord_first h ?_ hz)
  · show wordOk s.isPair _ = true
    rw [hp]; decide
  · cases e : s.isPair <;> decide

theorem passBoot_keeps {s0 : State} {m : Image} {t : SelfTest} {s : State} (h_s : Keeps s0 s)  (hz : s0.flag mSafe = false) :
    Keeps s0 (passBoot m t s) := by
  unfold passBoot
  repeat' (first
    | with_reducible assumption
    | with_reducible apply reportStep_keeps
    | with_reducible apply updAnaOut_keeps
    | with_reducible apply raiseFloor_keeps
    | with_reducible apply loadCreds_keeps
    | with_reducible apply firstWord_keeps
    | with_reducible apply readyRings_keeps
    | with_reducible apply enterSafe_keeps
    | with_reducible apply Keeps.ite
    | intro _
    | with_reducible apply Keeps.foldl
    | with_reducible apply Keeps.foldl_snd
    | with_reducible refine Keeps.mk' ?_ ?_ ?_ ?_ ?_
    | exact rfl)

theorem linkLocal_keeps {s0 : State} {s : State} (h_s : Keeps s0 s)  :
    Keeps s0 (linkLocal s) := by
  unfold linkLocal
  repeat' (first
    | with_reducible assumption
    | with_reducible apply updPort_keeps
    | intro _
    | with_reducible refine Keeps.mk' ?_ ?_ ?_ ?_ ?_
    | exact rfl)

theorem runImage_keeps {s0 : State} {slot : Nat} {m : Image} {t : SelfTest} {s : State} (h_s : Keeps s0 s)  (hz : s0.flag mSafe = false) :
    Keeps s0 (runImage slot m t s) := by
  unfold runImage
  repeat' (first
    | with_reducible assumption
    | with_reducible apply reportStep_keeps
    | with_reducible apply failBoot_keeps
    | with_reducible apply passBoot_keeps
    | with_reducible apply Keeps.ite
    | intro _
    | split
    | dsimp -proj only
    | with_reducible refine Keeps.mk' ?_ ?_ ?_ ?_ ?_
    | exact rfl)

theorem bootFlash_keeps {s0 : State} {watchdog : Bool} {t : SelfTest} {s : State} (h_s : Keeps s0 s)  (hz : s0.flag mSafe = false) :
    Keeps s0 (bootFlash watchdog t s) := by
  unfold bootFlash
  repeat' (first
    | with_reducible assumption
    | with_reducible apply failBoot_keeps
    | with_reducible apply runImage_keeps
    | with_reducible apply Keeps.ite
    | intro _
    | split
    | dsimp -proj only
    | with_reducible refine Keeps.mk' ?_ ?_ ?_ ?_ ?_
    | exact rfl)

theorem logStraps_keeps {s0 : State} {s : State} (h_s : Keeps s0 s)  :
    Keeps s0 (logStraps s) := by
  unfold logStraps
  repeat' (first
    | with_reducible assumption
    | with_reducible apply logEvent_keeps
    | with_reducible apply Keeps.ite
    | intro _
    | with_reducible refine Keeps.mk' ?_ ?_ ?_ ?_ ?_
    | exact rfl)

/-- What a boot leaves is reached from the cold state. -/
theorem bootFrom_cold {straps : Straps} {reason : Nat} {watchdog : Bool} {t : SelfTest} {s : State} :
    ∃ c : State, c.pending = s.pending ∧ c.memOk ∧ c.power.word = 0 ∧ c.boundOk ∧ Keeps c (bootFrom straps reason watchdog t s) := by
  unfold bootFrom
  extract_lets c p1 p2 p3 p4 p5 p6 p7 p8 c1 c2 c3
  refine ⟨c1, rfl, coldState_mem s, rfl, coldState_bound s, ?_⟩
  have h2 : Keeps c1 c2 := logStraps_keeps (linkLocal_keeps (Keeps.refl _))
  have h3 : Keeps c1 c3 := loadCreds_keeps (Keeps.ite (fun _ => openDebug_keeps h2) fun _ => h2)
  exact Keeps.ite (fun _ => failBoot_keeps h3) fun _ => Keeps.ite (fun _ => bootFlash_keeps h3 (by show (0 : BitVec 16).getLsbD mSafe = false; decide)) fun _ =>
    h3.mk' rfl rfl rfl rfl

/-- A boot keeps the queue, the canonical ring memory and the legal mode word. -/
theorem bootFrom_q {straps : Straps} {reason : Nat} {watchdog : Bool} {t : SelfTest} {s s0 : State} (hp : s.pending = s0.pending) :
    KeepsQ s0 (.next (bootFrom straps reason watchdog t s)) := by
  obtain ⟨c, hc, hm, hw, hx, hk⟩ := bootFrom_cold (straps := straps) (reason := reason) (watchdog := watchdog) (t := t) (s := s)
  exact ⟨hk.queue.trans (hc.trans hp), fun _ => hk.mem hm, fun _ => hk.mode (.inl hw), fun _ => hk.bound hx⟩

theorem coldState_q {s s0 : State} (hp : s.pending = s0.pending) : KeepsQ s0 (.next (coldState s)) :=
  ⟨hp, fun _ => coldState_mem s, fun _ => .inl rfl, fun _ => coldState_bound s⟩

theorem execPorstNRelease_q {straps : Straps} {t : SelfTest} {s : State} : KeepsQ s (execPorstNRelease straps t s) := by
  unfold execPorstNRelease
  exact KeepsQ.ite (fun _ => (Keeps.refl s).toQ) fun _ => bootFrom_q rfl

theorem execPorstNAssert_q {ns : Nat} {s : State} : KeepsQ s (execPorstNAssert ns s) := by
  unfold execPorstNAssert resetDevice
  refine KeepsQ.ite (fun _ => (Keeps.refl s).toQ) fun _ => KeepsQ.ite (fun _ => coldState_q rfl) fun _ => ?_
  exact KeepsQ.ite (fun _ => coldState_q rfl) fun _ => ((Keeps.refl s).mk' rfl rfl rfl rfl).toQ

theorem execResetBegin_q {t : SelfTest} {s : State} : KeepsQ s (execResetBegin t s) := by
  unfold execResetBegin rebootDevice
  exact KeepsQ.ite (fun _ => bootFrom_q rfl) fun _ => (Keeps.refl s).toQ

theorem execBootWatchdog_q {t : SelfTest} {s : State} : KeepsQ s (execBootWatchdog t s) := by
  unfold execBootWatchdog rebootDevice
  refine KeepsQ.ite (fun _ => (Keeps.refl s).toQ) fun _ => bootFrom_q ?_
  split
  · exact (writeRecord_keeps (Keeps.refl s)).queue
  · rfl

theorem execBootLoadDone_keeps {img : Image} {t : SelfTest} {s : State} : KeepsO s (execBootLoadDone img t s) := by
  unfold execBootLoadDone
  have h := Keeps.refl s
  refine KeepsO.ite (fun _ => h) (fun hn => ?_)
  have hz : s.flag mSafe = false := by
    cases e : s.flag mSafe <;> simp [e] at hn ⊢
  exact Keeps.ite (fun _ => runImage_keeps (h.mk' rfl rfl rfl rfl) hz) fun _ => failBoot_keeps (h.mk' rfl rfl rfl rfl)

theorem execVkeepRise_keeps {s : State} : KeepsO s (execVkeepRise s) := by
  have h := Keeps.refl s
  unfold execVkeepRise
  repeat' (first
    | with_reducible assumption
    | with_reducible apply KeepsO.next
    | with_reducible apply KeepsO.ite
    | with_reducible apply Keeps.ite
    | intro _
    | with_reducible refine Keeps.mk' ?_ ?_ ?_ ?_ ?_
    | exact rfl)

theorem execVkeepLoss_q {s : State} : KeepsQ s (execVkeepLoss s) := by
  unfold execVkeepLoss
  exact KeepsQ.ite (fun _ => (Keeps.refl s).toQ) fun _ => coldState_q rfl

theorem execPgoodFall_keeps {ns : Nat} {s : State} : KeepsO s (execPgoodFall ns s) := by
  have h := Keeps.refl s
  unfold execPgoodFall
  repeat' (first
    | with_reducible assumption
    | with_reducible apply KeepsO.next
    | with_reducible apply KeepsO.ite
    | with_reducible apply Keeps.ite
    | intro _
    | with_reducible refine Keeps.mk' ?_ ?_ ?_ ?_ ?_
    | exact rfl)

theorem execPwrEnRaise_keeps {s : State} : KeepsO s (execPwrEnRaise s) := by
  have h := Keeps.refl s
  unfold execPwrEnRaise
  repeat' (first
    | with_reducible assumption
    | with_reducible apply KeepsO.next
    | with_reducible apply KeepsO.ite
    | with_reducible apply Keeps.ite
    | intro _
    | with_reducible refine Keeps.mk' ?_ ?_ ?_ ?_ ?_
    | exact rfl)

theorem restoreP3_keeps {s0 : State} {kind : WakeKind} {s : State} (h_s : Keeps s0 s)  :
    Keeps s0 (restoreP3 kind s) := by
  unfold restoreP3
  repeat' (first
    | with_reducible assumption
    | with_reducible apply report_keeps
    | intro _
    | with_reducible apply Keeps.foldl
    | with_reducible apply Keeps.foldl_snd
    | with_reducible refine Keeps.mk' ?_ ?_ ?_ ?_ ?_
    | exact rfl)

theorem execP3WakeRestore_q {kind : WakeKind} {sealed trained : Bool} {t : SelfTest} {s : State} :
    KeepsQ s (execP3WakeRestore kind sealed trained t s) := by
  unfold execP3WakeRestore
  refine KeepsQ.ite (fun _ => (Keeps.refl s).toQ) fun _ => KeepsQ.ite (fun _ => (restoreP3_keeps (Keeps.refl s)).toQ) fun _ => ?_
  exact bootFrom_q (s := { s with power.nextReason := 6 }) (s0 := s) rfl

theorem execTapInstruction_keeps {i : TapInstr} {s : State} : KeepsO s (execTapInstruction i s) := by
  have h := Keeps.refl s
  unfold execTapInstruction
  repeat' (first
    | with_reducible assumption
    | with_reducible apply send_keeps
    | with_reducible apply enterSafe_keeps
    | with_reducible apply KeepsO.next
    | with_reducible apply KeepsO.ite
    | with_reducible apply Keeps.ite
    | intro _
    | split
    | dsimp -proj only
    | with_reducible refine Keeps.mk' ?_ ?_ ?_ ?_ ?_
    | exact rfl)

theorem execDebugUnlock_keeps {token : Bytes} {s : State} : KeepsO s (execDebugUnlock token s) := by
  have h := Keeps.refl s
  unfold execDebugUnlock
  repeat' (first
    | with_reducible assumption
    | with_reducible apply openDebug_keeps
    | with_reducible apply KeepsO.next
    | with_reducible apply KeepsO.ite
    | with_reducible apply Keeps.ite
    | intro _
    | with_reducible refine Keeps.mk' ?_ ?_ ?_ ?_ ?_
    | exact rfl)

theorem doFwStage_keeps {s0 : State} {p : Bytes} {m : Nat} {s : State} (h_s : Keeps s0 s)  :
    KeepsR s0 (doFwStage p m s) := by
  unfold doFwStage
  repeat' (first
    | with_reducible assumption
    | with_reducible apply no_keeps
    | with_reducible apply KeepsR.no
    | with_reducible apply KeepsR.refuse
    | with_reducible apply KeepsR.done
    | with_reducible apply KeepsR.owe
    | with_reducible apply KeepsR.deferred
    | with_reducible apply KeepsR.ite
    | with_reducible apply Keeps.ite
    | intro _
    | split
    | dsimp -proj only
    | with_reducible refine Keeps.mk' ?_ ?_ ?_ ?_ ?_
    | exact rfl)

theorem doFwCommit_keeps {s0 : State} {p : Bytes} {s : State} (h_s : Keeps s0 s)  :
    KeepsR s0 (doFwCommit p s) := by
  unfold doFwCommit
  repeat' (first
    | with_reducible assumption
    | with_reducible apply no_keeps
    | with_reducible apply writeRecord_keeps
    | with_reducible apply releaseRole_keeps
    | with_reducible apply KeepsR.no
    | with_reducible apply KeepsR.refuse
    | with_reducible apply KeepsR.done
    | with_reducible apply KeepsR.owe
    | with_reducible apply KeepsR.deferred
    | with_reducible apply KeepsR.ite
    | with_reducible apply Keeps.ite
    | intro _
    | split
    | dsimp -proj only
    | with_reducible refine Keeps.mk' ?_ ?_ ?_ ?_ ?_
    | exact rfl)

end Sys2Proof.Machine
end

