-- ==== Sys2Proof/Laws/KeepsLoopback.lean ====
section
/-!
SUPPORT. What the operations of Machine/Loopback.lean keep.
-/
namespace Sys2Proof.Machine

theorem openLoop_keeps {s0 : State} {iface : Nat} {s : State} (h_s : Keeps s0 s)  :
    Keeps s0 (openLoop iface s) := by
  unfold openLoop
  repeat' (first
    | with_reducible assumption
    | with_reducible apply linkLost_keeps
    | with_reducible apply loseLane_keeps
    | with_reducible apply enterShallow_keeps
    | with_reducible apply Keeps.ite
    | intro _
    | with_reducible refine Keeps.mk' ?_ ?_ ?_ ?_ ?_
    | exact rfl)

theorem doTestLoop_keeps {s0 : State} {p : Bytes} {at_ s : State} (h_at_ : Keeps s0 at_) (h_s : Keeps s0 s)  :
    KeepsR s0 (doTestLoop p at_ s) := by
  unfold doTestLoop
  repeat' (first
    | with_reducible assumption
    | with_reducible apply no_keeps
    | with_reducible apply openLoop_keeps
    | with_reducible apply KeepsR.no
    | with_reducible apply KeepsR.refuse
    | with_reducible apply KeepsR.done
    | with_reducible apply KeepsR.owe
    | with_reducible apply KeepsR.deferred
    | with_reducible apply KeepsR.ite
    | with_reducible apply Keeps.ite
    | intro _
    | split
    | dsimp -proj only
    | with_reducible refine Keeps.mk' ?_ ?_ ?_ ?_ ?_
    | exact rfl)

theorem parkLoop_keeps {s0 : State} {o : Owed} {s : State} (h_s : Keeps s0 s)  :
    Keeps s0 (parkLoop o s) := by
  unfold parkLoop
  repeat' (first
    | with_reducible assumption
    | with_reducible apply Keeps.ite
    | intro _
    | with_reducible refine Keeps.mk' ?_ ?_ ?_ ?_ ?_
    | exact rfl)

theorem execTestLoopEnd_keeps {iface index : Nat} {res : LoopResult} {s : State} : KeepsO s (execTestLoopEnd iface index res s) := by
  have h := Keeps.refl s
  unfold execTestLoopEnd
  repeat' (first
    | with_reducible assumption
    | with_reducible apply answerOwed_keeps
    | with_reducible apply KeepsO.next
    | with_reducible apply KeepsO.ite
    | with_reducible apply Keeps.ite
    | intro _
    | split
    | dsimp -proj only
    | with_reducible refine Keeps.mk' ?_ ?_ ?_ ?_ ?_
    | exact rfl)

end Sys2Proof.Machine
end

