-- ==== Sys2Proof/Laws/KeepsApply.lean ====
section
/-!
SUPPORT. What the operations of Machine/Apply.lean keep.
-/
namespace Sys2Proof.Machine

theorem afterReply_keeps {s0 : State} {s : State} {r : Reply} (h : Keeps s0 s) (hr : KeepsR s0 r) : Keeps s0 (afterReply s r) := by
  cases r with
  | refuse _ _ => exact h
  | _ => exact hr


theorem writeStore_keeps {s0 : State} {offset : Nat} {data : Bytes} {s : State} (h_s : Keeps s0 s)  :
    Keeps s0 (writeStore offset data s) := by
  unfold writeStore
  repeat' (first
    | with_reducible assumption
    | with_reducible apply Keeps.ite
    | intro _
    | with_reducible apply Keeps.foldl
    | with_reducible apply Keeps.foldl_snd
    | with_reducible refine Keeps.mk' ?_ ?_ ?_ ?_ ?_
    | exact rfl)

theorem applyForwarded_keeps {s0 : State} {c : Cmd} {s : State} (h : Keeps s0 s) : Keeps s0 (applyForwarded c s) := by
  unfold applyForwarded
  extract_lets m p
  clear_value m p
  split
  · exact afterReply_keeps h (doObjClaim_keeps h)
  · exact writeTimeCfg_keeps h
  · exact writeNoseCfg_keeps h
  · exact writePair_keeps h
  · exact afterReply_keeps h (doPolicySet_keeps h)
  · exact Keeps.ite (fun _ => h) fun _ => Keeps.ite (fun _ => sweepAbort_keeps h) fun _ => startSweep_keeps h
  · exact afterReply_keeps h (doPwrPolicy_keeps h)
  · exact writeStore_keeps h
  · exact h

theorem afterWrite_keeps {s0 : State} {c : Cmd} {s : State} (h_s : Keeps s0 s)  :
    Keeps s0 (afterWrite c s) := by
  unfold afterWrite
  repeat' (first
    | with_reducible assumption
    | with_reducible apply trimWritten_keeps
    | with_reducible apply dropHealth_keeps
    | with_reducible apply healthCleared_keeps
    | with_reducible apply healthChanged_keeps
    | with_reducible apply Keeps.ite
    | intro _
    | split
    | dsimp -proj only
    | with_reducible refine Keeps.mk' ?_ ?_ ?_ ?_ ?_
    | exact rfl)

theorem applyCmd_keeps {s0 : State} {c : Cmd} {s : State} (h_s : Keeps s0 s)  :
    Keeps s0 (applyCmd c s) := by
  unfold applyCmd
  repeat' (first
    | with_reducible assumption
    | with_reducible apply applyObjSet_keeps
    | with_reducible apply applyObjBind_keeps
    | with_reducible apply afterWrite_keeps
    | with_reducible apply applySpkSet_keeps
    | with_reducible apply applyZoneSet_keeps
    | with_reducible apply applyAirSet_keeps
    | with_reducible apply applyPeerSet_keeps
    | with_reducible apply applyChainSet_keeps
    | with_reducible apply applyBridgeSet_keeps
    | with_reducible apply applyAccordLoad_keeps
    | with_reducible apply applyAccordSwap_keeps
    | with_reducible apply applyRouteSet_keeps
    | with_reducible apply applySilenceSet_keeps
    | with_reducible apply applyBerthOpen_keeps
    | with_reducible apply applyBerthClose_keeps
    | with_reducible apply applyModeSet_keeps
    | with_reducible apply applyMarkSet_keeps
    | with_reducible apply applyNoseObs_keeps
    | with_reducible apply applyForwarded_keeps
    | with_reducible apply applyChange_keeps
    | with_reducible apply Keeps.ite
    | intro _
    | split
    | with_reducible refine Keeps.mk' ?_ ?_ ?_ ?_ ?_
    | exact rfl)

theorem freeLeft_keeps {s0 : State} {b b' : Nat} {s : State} (h_s : Keeps s0 s)  :
    Keeps s0 (freeLeft b b' s) := by
  unfold freeLeft
  repeat' (first
    | with_reducible assumption
    | with_reducible apply Keeps.ite
    | intro _
    | with_reducible refine Keeps.mk' ?_ ?_ ?_ ?_ ?_
    | exact rfl)

theorem ageTo_keeps {s0 : State} {b0 b1 : Nat} {s : State} (h_s : Keeps s0 s)  :
    Keeps s0 (ageTo b0 b1 s) := by
  unfold ageTo
  repeat' (first
    | with_reducible assumption
    | with_reducible apply ageDests_keeps
    | with_reducible apply ageAccords_keeps
    | with_reducible apply freeLeft_keeps
    | intro _
    | with_reducible refine Keeps.mk' ?_ ?_ ?_ ?_ ?_
    | exact rfl)

theorem projectOne_keeps {s0 : State} {cs : List Cmd} {t : State × Nat} {c : Cmd} (h : Keeps s0 t.1) :
    Keeps s0 (projectOne cs t c).1 := applyCmd_keeps (ageTo_keeps h)

theorem projectFrom_keeps {s0 : State} {f : Cmd → Bool} {s : State} (h : Keeps s0 s) : Keeps s0 (projectFrom f s).1 := by
  unfold projectFrom
  generalize inOrder _ = l
  generalize s.toCompute = n
  generalize s.host.cmds = cs
  induction l generalizing s n with
  | nil => exact h
  | cons c l ih => exact ih (projectOne_keeps (t := (s, n)) h) _

theorem projectWith_keeps {s0 : State} {f : Cmd → Bool} {s : State} (h : Keeps s0 s) : Keeps s0 (projectWith f s) :=
  projectFrom_keeps h

theorem projectTo_keeps {s0 : State} {f : Cmd → Bool} {s : State} {at_ : Nat} (h : Keeps s0 s) : Keeps s0 (projectTo f s at_) :=
  ageTo_keeps (projectFrom_keeps h)

theorem project_keeps {s0 : State} {s : State} {at_ : Nat} (h_s : Keeps s0 s)  :
    Keeps s0 (project s at_) := by
  unfold project
  repeat' (first
    | with_reducible assumption
    | with_reducible apply projectTo_keeps
    | intro _
    | with_reducible refine Keeps.mk' ?_ ?_ ?_ ?_ ?_
    | exact rfl)

theorem projectBefore_keeps {s0 : State} {s : State} {c : Cmd} (h_s : Keeps s0 s)  :
    Keeps s0 (projectBefore s c) := by
  unfold projectBefore
  repeat' (first
    | with_reducible assumption
    | with_reducible apply projectTo_keeps
    | intro _
    | with_reducible refine Keeps.mk' ?_ ?_ ?_ ?_ ?_
    | exact rfl)

theorem beforeStarts_keeps {s0 : State} {s : State} {c : Cmd} (h_s : Keeps s0 s)  :
    Keeps s0 (beforeStarts s c) := by
  unfold beforeStarts
  repeat' (first
    | with_reducible assumption
    | with_reducible apply projectTo_keeps
    | intro _
    | with_reducible refine Keeps.mk' ?_ ?_ ?_ ?_ ?_
    | exact rfl)

theorem withCmd_keeps {s0 : State} {c : Cmd} {s : State} (h_s : Keeps s0 s)  :
    Keeps s0 (withCmd c s) := by
  unfold withCmd
  repeat' (first
    | with_reducible assumption
    | intro _
    | with_reducible refine Keeps.mk' ?_ ?_ ?_ ?_ ?_
    | exact rfl)

theorem updCmd_keeps {s0 : State} {id : Nat} {f : Cmd → Cmd} {s : State} (h_s : Keeps s0 s)  :
    Keeps s0 (updCmd id f s) := by
  unfold updCmd
  repeat' (first
    | with_reducible assumption
    | with_reducible apply Keeps.ite
    | intro _
    | with_reducible refine Keeps.mk' ?_ ?_ ?_ ?_ ?_
    | exact rfl)

theorem prune_keeps {s0 : State} {s : State} (h_s : Keeps s0 s)  :
    Keeps s0 (prune s) := by
  unfold prune
  repeat' (first
    | with_reducible assumption
    | intro _
    | with_reducible refine Keeps.mk' ?_ ?_ ?_ ?_ ?_
    | exact rfl)

theorem noteLoss_keeps {s0 : State} {c : Cmd} {s : State} (h_s : Keeps s0 s)  :
    Keeps s0 (noteLoss c s) := by
  unfold noteLoss
  repeat' (first
    | with_reducible assumption
    | with_reducible apply countSuperseded_keeps
    | with_reducible apply noseReplaced_keeps
    | intro _
    | split
    | dsimp -proj only
    | with_reducible refine Keeps.mk' ?_ ?_ ?_ ?_ ?_
    | exact rfl)

theorem resolveCmd_keeps {s0 : State} {c : Cmd} {s : State} (h_s : Keeps s0 s)  :
    Keeps s0 (resolveCmd c s) := by
  unfold resolveCmd
  repeat' (first
    | with_reducible assumption
    | with_reducible apply updCmd_keeps
    | with_reducible apply noteLoss_keeps
    | with_reducible apply Keeps.ite
    | intro _
    | with_reducible refine Keeps.mk' ?_ ?_ ?_ ?_ ?_
    | exact rfl)

theorem settleAnswer_keeps {s0 : State} {c : Cmd} {s : State} (h_s : Keeps s0 s)  :
    Keeps s0 (settleAnswer c s) := by
  unfold settleAnswer
  repeat' (first
    | with_reducible assumption
    | with_reducible apply updCmd_keeps
    | with_reducible apply answerCmd_keeps
    | with_reducible apply Keeps.ite
    | intro _
    | with_reducible refine Keeps.mk' ?_ ?_ ?_ ?_ ?_
    | exact rfl)

theorem forCmds_keeps {s0 : State} {ids : List Nat} {f : Cmd → State → State} {s : State} (h_s : Keeps s0 s) (hf : ∀ a t, Keeps s0 t → Keeps s0 (f a t)) :
    Keeps s0 (forCmds ids f s) := by
  unfold forCmds
  repeat' (first
    | with_reducible assumption
    | with_reducible apply hf
    | intro _
    | with_reducible apply Keeps.foldl
    | with_reducible apply Keeps.foldl_snd
    | split
    | with_reducible refine Keeps.mk' ?_ ?_ ?_ ?_ ?_
    | exact rfl)

theorem settleDue_keeps {s0 : State} {s : State} (h_s : Keeps s0 s)  :
    Keeps s0 (settleDue s) := by
  unfold settleDue
  repeat' (first
    | with_reducible assumption
    | with_reducible apply prune_keeps
    | with_reducible apply forCmds_keeps
    | with_reducible apply settleAnswer_keeps
    | with_reducible apply resolveCmd_keeps
    | intro _
    | with_reducible refine Keeps.mk' ?_ ?_ ?_ ?_ ?_
    | exact rfl)

theorem execCommandSettle_keeps {s : State} : KeepsO s (execCommandSettle s) := by
  have h := Keeps.refl s
  unfold execCommandSettle
  repeat' (first
    | with_reducible assumption
    | with_reducible apply settleDue_keeps
    | with_reducible apply KeepsO.next
    | with_reducible apply KeepsO.ite
    | intro _
    | with_reducible refine Keeps.mk' ?_ ?_ ?_ ?_ ?_
    | exact rfl)

theorem applyDue_keeps {s0 : State} {f : Cmd → Bool} {s : State} (h_s : Keeps s0 s)  :
    Keeps s0 (applyDue f s) := by
  unfold applyDue
  repeat' (first
    | with_reducible assumption
    | with_reducible apply forCmds_keeps
    | with_reducible apply resolveCmd_keeps
    | with_reducible apply prune_keeps
    | with_reducible apply updCmd_keeps
    | with_reducible apply applyCmd_keeps
    | intro _
    | with_reducible refine Keeps.mk' ?_ ?_ ?_ ?_ ?_
    | exact rfl)

end Sys2Proof.Machine
end

