-- ==== Sys2Proof/Laws/KeepsAccept.lean ====
section
/-!
SUPPORT. What the operations of Machine/Accept.lean keep.
-/
namespace Sys2Proof.Machine

theorem answerReq_keeps {s0 : State} {op : Opcode} {r : Req} {accepted apply : Nat} {st : Status} {body : Bytes} {s : State} (h_s : Keeps s0 s)  :
    Keeps s0 (answerReq op r accepted apply st body s) := by
  unfold answerReq
  repeat' (first
    | with_reducible assumption
    | with_reducible apply dropSeq_keeps
    | with_reducible apply respond_keeps
    | with_reducible apply Keeps.ite
    | intro _
    | with_reducible refine Keeps.mk' ?_ ?_ ?_ ?_ ?_
    | exact rfl)

theorem answerCrane_keeps {s0 : State} {op : Opcode} {r : Req} {accepted apply : Nat} {body : Bytes} {s : State} (h_s : Keeps s0 s)  :
    Keeps s0 (answerCrane op r accepted apply body s) := by
  unfold answerCrane
  repeat' (first
    | with_reducible assumption
    | with_reducible apply respond_keeps
    | intro _
    | with_reducible refine Keeps.mk' ?_ ?_ ?_ ?_ ?_
    | exact rfl)

theorem trimSeqs_keeps {s0 : State} {m : Nat} {s : State} (h_s : Keeps s0 s)  :
    Keeps s0 (trimSeqs m s) := by
  unfold trimSeqs
  repeat' (first
    | with_reducible assumption
    | exact fun _ h => h
    | (intro _ h; split <;> exact h)
    | (intro _ h; unfold Master.indicesOk at *; dsimp only; omega)
    | with_reducible apply updMaster_keeps
    | intro _
    | with_reducible refine Keeps.mk' ?_ ?_ ?_ ?_ ?_
    | exact rfl)

theorem park_keeps {s0 : State} {o : Owed} {s : State} (h_s : Keeps s0 s)  :
    Keeps s0 (park o s) := by
  unfold park
  repeat' (first
    | with_reducible assumption
    | with_reducible apply parkLoop_keeps
    | intro _
    | split
    | with_reducible refine Keeps.mk' ?_ ?_ ?_ ?_ ?_
    | exact rfl)

theorem updTransfer_keeps {s0 : State} {id : Nat} {f : Transfer → Transfer} {s : State} (h_s : Keeps s0 s)  :
    Keeps s0 (updTransfer id f s) := by
  unfold updTransfer
  repeat' (first
    | with_reducible assumption
    | with_reducible apply Keeps.ite
    | intro _
    | with_reducible refine Keeps.mk' ?_ ?_ ?_ ?_ ?_
    | exact rfl)

theorem pumpOut_keeps {s0 : State} {n id : Nat} {s : State} (h : Keeps s0 s) : Keeps s0 (pumpOut n id s) := by
  induction n generalizing s with
  | zero => exact h
  | succ n ih =>
    unfold pumpOut
    split
    · exact h
    · refine Keeps.ite (fun _ => h) fun _ => ih (updTransfer_keeps ?_)
      have hm := fun a p => h.set_mem (memWf_writeBytes s.host.mem a p)
      exact Keeps.ite (fun _ => raise_keeps (updMaster_keeps (hm ..) fun _ => chkDev_ok)) fun _ => sendSegments_keeps
        (updMaster_keeps (hm ..) fun _ => chkDev_ok)

theorem chkMoved_keeps {s0 : State} {m : Nat} {s : State} (h_s : Keeps s0 s)  :
    Keeps s0 (chkMoved m s) := by
  unfold chkMoved
  repeat' (first
    | with_reducible assumption
    | with_reducible apply raise_keeps
    | with_reducible apply sendDatagram_keeps
    | with_reducible apply Keeps.ite
    | intro _
    | with_reducible refine Keeps.mk' ?_ ?_ ?_ ?_ ?_
    | exact rfl)

theorem pumpIn_keeps {s0 : State} {n id : Nat} {s : State} (h : Keeps s0 s) : Keeps s0 (pumpIn n id s) := by
  induction n generalizing s with
  | zero => exact h
  | succ n ih =>
    unfold pumpIn
    split
    · exact h
    · refine Keeps.ite (fun _ => h) fun _ => ih (updTransfer_keeps ?_)
      exact chkMoved_keeps (updMaster_keeps h fun _ => chkDev_ok)

theorem beginTransfer_keeps {s0 : State} {t : Transfer} {ch : Nat} {s : State} (h_s : Keeps s0 s)  :
    Keeps s0 (beginTransfer t ch s) := by
  unfold beginTransfer
  repeat' (first
    | with_reducible assumption
    | with_reducible apply updTransfer_keeps
    | exact fun _ h => h
    | (intro _ h; split <;> exact h)
    | (intro _ h; unfold Master.indicesOk at *; dsimp only; omega)
    | with_reducible apply updMaster_keeps
    | with_reducible apply chkMoved_keeps
    | with_reducible apply pumpOut_keeps
    | with_reducible apply pumpIn_keeps
    | with_reducible apply Keeps.ite
    | intro _
    | with_reducible refine Keeps.mk' ?_ ?_ ?_ ?_ ?_
    | exact rfl)

theorem startTransfer_keeps {s0 : State} {s : State} (h_s : Keeps s0 s)  :
    Keeps s0 (startTransfer s) := by
  unfold startTransfer
  repeat' (first
    | with_reducible assumption
    | with_reducible apply beginTransfer_keeps
    | intro _
    | split
    | dsimp -proj only
    | with_reducible refine Keeps.mk' ?_ ?_ ?_ ?_ ?_
    | exact rfl)

theorem addTransfer_keeps {s0 : State} {op : Opcode} {h : StoreHdr} {r : Req} {accepted : Nat} {apply : Option Nat} {d : CraneDesc} {out : Bool} {data : Bytes} {s : State} (h_s : Keeps s0 s)  :
    Keeps s0 (addTransfer op h r accepted apply d out data s) := by
  unfold addTransfer
  repeat' (first
    | with_reducible assumption
    | with_reducible apply startTransfer_keeps
    | with_reducible apply Keeps.ite
    | intro _
    | with_reducible refine Keeps.mk' ?_ ?_ ?_ ?_ ?_
    | exact rfl)

theorem dropTransfer_keeps {s0 : State} {t : Transfer} {s : State} (h_s : Keeps s0 s)  :
    Keeps s0 (dropTransfer t s) := by
  unfold dropTransfer
  repeat' (first
    | with_reducible assumption
    | exact fun _ h => h
    | (intro _ h; split <;> exact h)
    | (intro _ h; unfold Master.indicesOk at *; dsimp only; omega)
    | with_reducible apply updMaster_keeps
    | with_reducible apply Keeps.ite
    | intro _
    | with_reducible refine Keeps.mk' ?_ ?_ ?_ ?_ ?_
    | exact rfl)

theorem readScene_keeps {s0 : State} {op : Opcode} {p : Bytes} {s : State} (h_s : Keeps s0 s)  :
    KeepsR s0 (readScene op p s) := by
  unfold readScene
  repeat' (first
    | with_reducible assumption
    | with_reducible apply no_keeps
    | with_reducible apply readObjGet_keeps
    | with_reducible apply KeepsR.no
    | with_reducible apply KeepsR.refuse
    | with_reducible apply KeepsR.done
    | with_reducible apply KeepsR.owe
    | with_reducible apply KeepsR.deferred
    | with_reducible apply KeepsR.ite
    | with_reducible apply Keeps.ite
    | intro _
    | split
    | with_reducible refine Keeps.mk' ?_ ?_ ?_ ?_ ?_
    | exact rfl)

theorem atBoundary_keeps {s0 : State} {s : State} (h_s : Keeps s0 s)  :
    Keeps s0 (atBoundary s) := by
  unfold atBoundary
  repeat' (first
    | with_reducible assumption
    | with_reducible apply project_keeps
    | intro _
    | with_reducible refine Keeps.mk' ?_ ?_ ?_ ?_ ?_
    | exact rfl)

theorem allInEffect_keeps {s0 : State} {s : State} (h_s : Keeps s0 s)  :
    Keeps s0 (allInEffect s) := by
  unfold allInEffect
  repeat' (first
    | with_reducible assumption
    | with_reducible apply projectWith_keeps
    | intro _
    | with_reducible refine Keeps.mk' ?_ ?_ ?_ ?_ ?_
    | exact rfl)

theorem judgedBy_keeps {s0 : State} {op : Opcode} {r : Req} {s : State} (h_s : Keeps s0 s)  :
    Keeps s0 (judgedBy op r s) := by
  unfold judgedBy
  repeat' (first
    | with_reducible assumption
    | with_reducible apply project_keeps
    | with_reducible apply Keeps.ite
    | intro _
    | with_reducible refine Keeps.mk' ?_ ?_ ?_ ?_ ?_
    | exact rfl)

theorem ifPeriod_keeps {s0 : State} {ok : Bool} {a : Reply} (h : KeepsR s0 a) : KeepsR s0 (ifPeriod ok a) := by
  unfold ifPeriod
  split
  · trivial
  · exact KeepsR.ite (fun _ => h) fun _ => trivial

theorem actNow_keeps {s0 : State} {op : Opcode} {h : StoreHdr} {p : Bytes} {r : Req} {s : State} (h_s : Keeps s0 s)  :
    KeepsR s0 (actNow op h p r s) := by
  unfold actNow
  repeat' (first
    | with_reducible assumption
    | with_reducible apply doSysInfo_keeps
    | with_reducible apply plain_keeps
    | with_reducible apply doSysReset_keeps
    | with_reducible apply doSysLogRead_keeps
    | with_reducible apply readScene_keeps
    | with_reducible apply readObjGet_keeps
    | with_reducible apply readSpkGet_keeps
    | with_reducible apply doObjClaim_keeps
    | with_reducible apply readChainSet_keeps
    | with_reducible apply readBridgeSet_keeps
    | with_reducible apply readAccordSwap_keeps
    | with_reducible apply project_keeps
    | with_reducible apply readRouteSet_keeps
    | with_reducible apply readSilenceSet_keeps
    | with_reducible apply readMarkSet_keeps
    | with_reducible apply doPortCfg_keeps
    | with_reducible apply doBerthStat_keeps
    | with_reducible apply doFilterSet_keeps
    | with_reducible apply doTimeCfg_keeps
    | with_reducible apply atBoundary_keeps
    | with_reducible apply allInEffect_keeps
    | with_reducible apply doTimeStat_keeps
    | with_reducible apply doTrigSet_keeps
    | with_reducible apply doCaptRead_keeps
    | with_reducible apply doNoseCfg_keeps
    | with_reducible apply doPairSet_keeps
    | with_reducible apply doPolicySet_keeps
    | with_reducible apply doEstRead_keeps
    | with_reducible apply doProposalRead_keeps
    | with_reducible apply ifPeriod_keeps
    | with_reducible apply doSweepRun_keeps
    | with_reducible apply doHealthRead_keeps
    | with_reducible apply doTwinCfg_keeps
    | with_reducible apply doTwinWarp_keeps
    | with_reducible apply doTwinSwitch_keeps
    | with_reducible apply doWitnessSet_keeps
    | with_reducible apply doPwrPolicy_keeps
    | with_reducible apply doTestLoop_keeps
    | with_reducible apply doPostReport_keeps
    | with_reducible apply doFwStage_keeps
    | with_reducible apply doFwCommit_keeps
    | with_reducible apply doAnaInCfg_keeps
    | with_reducible apply doAnaOutCfg_keeps
    | with_reducible apply doLoopCfg_keeps
    | with_reducible apply doTdmCfg_keeps
    | with_reducible apply doShortSet_keeps
    | with_reducible apply doGpioSet_keeps
    | with_reducible apply writeStore_keeps
    | with_reducible apply no_keeps
    | with_reducible apply KeepsR.no
    | with_reducible apply KeepsR.refuse
    | with_reducible apply KeepsR.done
    | with_reducible apply KeepsR.owe
    | with_reducible apply KeepsR.deferred
    | with_reducible apply KeepsR.ite
    | intro _
    | split
    | dsimp -proj only
    | with_reducible refine Keeps.mk' ?_ ?_ ?_ ?_ ?_
    | exact rfl)

theorem publishCmd_keeps {s0 : State} {c : Cmd} {s : State} (h_s : Keeps s0 s)  :
    Keeps s0 (publishCmd c s) := by
  unfold publishCmd
  repeat' (first
    | with_reducible assumption
    | with_reducible apply publish_keeps
    | with_reducible apply projectBefore_keeps
    | with_reducible apply Keeps.ite
    | intro _
    | with_reducible refine Keeps.mk' ?_ ?_ ?_ ?_ ?_
    | exact rfl)

theorem offer_keeps {s0 : State} {o : Origin} {rank seq accepted apply : Nat} {t : Timing} {op : Opcode} {p : Bytes}
    {proposal : Nat} {s : State} {x : Cmd × State} (h : Keeps s0 s)
    (hx : offer o rank seq accepted apply t op p proposal s = .inr x) : Keeps s0 x.2 := by
  unfold offer at hx
  extract_lets c sc at hx
  have hs : Keeps s0 sc := withCmd_keeps h
  split at hx
  · cases hx
  · split at hx
    · cases hx
    · split at hx
      · cases hx
      · cases hx; exact hs.mk' rfl rfl rfl rfl

theorem queueReq_keeps {s0 : State} {op : Opcode} {t : Timing} {raw p : Bytes} {proposal : Nat} {r : Req} {accepted : Nat}
    {settled : Option Nat} {s : State} (h : Keeps s0 s) : Keeps s0 (queueReq op t raw p proposal r accepted settled s) := by
  unfold queueReq
  extract_lets m apply late owned
  clear_value apply late owned
  split
  · exact Keeps.ite (fun _ => answerReq_keeps h) fun _ => Keeps.ite (fun _ => answerReq_keeps h) fun _ => answerReq_keeps h
  · exact answerReq_keeps h
  · rename_i c s1 hx
    have h1 : Keeps s0 s1 := offer_keeps h hx
    refine Keeps.ite (fun _ => answerReq_keeps h) fun _ => Keeps.ite (fun _ => answerReq_keeps h) fun _ => ?_
    extract_lets t u
    have h2 : Keeps s0 u := Keeps.ite (fun _ => forwardCmd_keeps (publishCmd_keeps h1)) fun _ => publishCmd_keeps h1
    exact Keeps.ite (fun _ => answerReq_keeps (updCmd_keeps h2)) fun _ => h2

theorem deliverBody_keeps {s0 : State} {op : Opcode} {h : StoreHdr} {r : Req} {accepted apply : Nat} {body : Bytes} {old new : State} (h_old : Keeps s0 old) (h_new : Keeps s0 new)  :
    Keeps s0 (deliverBody op h r accepted apply body old new) := by
  unfold deliverBody
  repeat' (first
    | with_reducible assumption
    | with_reducible apply answerReq_keeps
    | with_reducible apply addTransfer_keeps
    | with_reducible apply Keeps.ite
    | intro _
    | split
    | with_reducible refine Keeps.mk' ?_ ?_ ?_ ?_ ?_
    | exact rfl)

theorem forwardNow_keeps {s0 : State} {op : Opcode} {h : StoreHdr} {p : Bytes} {r : Req} {s : State} (h_s : Keeps s0 s)  :
    Keeps s0 (forwardNow op h p r s) := by
  unfold forwardNow
  repeat' (first
    | with_reducible assumption
    | with_reducible apply forwardCmd_keeps
    | with_reducible apply Keeps.ite
    | intro _
    | with_reducible refine Keeps.mk' ?_ ?_ ?_ ?_ ?_
    | exact rfl)

theorem actLater_keeps {s0 : State} {op : Opcode} {h : StoreHdr} {p : Bytes} {r : Req} {accepted : Nat} {hold : Owed} {a : Reply}
    {s : State} (k : Keeps s0 s) : Keeps s0 (actLater op h p r accepted hold a s) := by
  unfold actLater
  extract_lets apply fwd now
  have hn : Keeps s0 now := Keeps.ite (fun _ => afterReply_keeps k (doTimeCfg_keeps (project_keeps k) (projectWith_keeps k) k)) fun _ => k
  clear_value apply fwd now
  split
  · exact answerReq_keeps k
  · split
    · exact answerReq_keeps k
    · rename_i hx
      have h1 := offer_keeps hn hx
      dsimp -proj only
      split
      · exact deliverBody_keeps k (forwardCmd_keeps (updCmd_keeps h1))
      · exact park_keeps (forwardCmd_keeps (updCmd_keeps h1))
      · exact answerReq_keeps (forwardCmd_keeps (updCmd_keeps h1))

theorem actReq_keeps {s0 : State} {op : Opcode} {h : StoreHdr} {p : Bytes} {r : Req} {accepted : Nat} {settled : Option Nat}
    {s : State} (k : Keeps s0 s) : Keeps s0 (actReq op h p r accepted settled s) := by
  unfold actReq
  extract_lets hold t
  refine Keeps.ite (fun _ => ?_) fun _ => ?_
  · split
    · exact answerReq_keeps k
    · exact queueReq_keeps k
  · clear_value t
    cases t with
    | some t => exact queueReq_keeps k
    | none =>
      refine Keeps.ite (fun _ => actLater_keeps k) fun _ => ?_
      have ha := actNow_keeps (op := op) (h := h) (p := p) (r := r) k
      dsimp -proj only
      split
      · exact answerReq_keeps k
      · rename_i e; rw [e] at ha; exact deliverBody_keeps k (forwardNow_keeps ha)
      · rename_i e; rw [e] at ha; exact park_keeps (forwardNow_keeps (Keeps.mk' ha rfl rfl rfl rfl))
      · rename_i e; rw [e] at ha; exact answerReq_keeps ha

theorem resetRing_keeps {s0 : State} {m : Nat} {s : State} (h_s : Keeps s0 s)  :
    Keeps s0 (resetRing m s) := by
  unfold resetRing
  repeat' (first
    | with_reducible assumption
    | exact fun _ h => h
    | (intro _ h; split <;> exact h)
    | (intro _ h; unfold Master.indicesOk at *; dsimp only; omega)
    | with_reducible apply updMaster_keeps
    | with_reducible apply startTransfer_keeps
    | with_reducible apply forwardCmd_keeps
    | with_reducible apply Keeps.ite
    | intro _
    | with_reducible apply Keeps.foldl
    | with_reducible apply Keeps.foldl_snd
    | (refine Keeps.mkB ?_ rfl rfl rfl fun k => ⟨Nat.le_trans (List.length_filter_le _ _) k.1, k.2⟩)
    | with_reducible refine Keeps.mk' ?_ ?_ ?_ ?_ ?_
    | exact rfl)

theorem endSession_keeps {s0 : State} {m : Nat} {s : State} (h_s : Keeps s0 s)  :
    Keeps s0 (endSession m s) := by
  unfold endSession
  repeat' (first
    | with_reducible assumption
    | with_reducible apply resetRing_keeps
    | exact fun _ h => h
    | (intro _ h; split <;> exact h)
    | (intro _ h; unfold Master.indicesOk at *; dsimp only; omega)
    | with_reducible apply updMaster_keeps
    | intro _
    | with_reducible refine Keeps.mk' ?_ ?_ ?_ ?_ ?_
    | exact rfl)

theorem checkFailRun_keeps {s0 : State} {m : Nat} {s : State} (h_s : Keeps s0 s)  :
    Keeps s0 (checkFailRun m s) := by
  unfold checkFailRun
  repeat' (first
    | with_reducible assumption
    | with_reducible apply endSession_keeps
    | with_reducible apply logEvent_keeps
    | with_reducible apply Keeps.ite
    | intro _
    | with_reducible refine Keeps.mk' ?_ ?_ ?_ ?_ ?_
    | exact rfl)

theorem execFwStageDone_keeps {programmed : Bool} {s : State} : KeepsO s (execFwStageDone programmed s) := by
  have h := Keeps.refl s
  unfold execFwStageDone
  repeat' (first
    | with_reducible assumption
    | with_reducible apply trimSeqs_keeps
    | with_reducible apply answerOwed_keeps
    | with_reducible apply writeRecord_keeps
    | with_reducible apply checkFailRun_keeps
    | with_reducible apply KeepsO.next
    | with_reducible apply KeepsO.ite
    | with_reducible apply Keeps.ite
    | intro _
    | split
    | dsimp -proj only
    | with_reducible refine Keeps.mk' ?_ ?_ ?_ ?_ ?_
    | exact rfl)

theorem finishIn_keeps {s0 : State} {t : Transfer} {data : Bytes} {s : State} (h_s : Keeps s0 s)  :
    Keeps s0 (finishIn t data s) := by
  unfold finishIn
  repeat' (first
    | with_reducible assumption
    | with_reducible apply dropTransfer_keeps
    | with_reducible apply checkFailRun_keeps
    | with_reducible apply answerReq_keeps
    | with_reducible apply trimSeqs_keeps
    | with_reducible apply actReq_keeps
    | with_reducible apply Keeps.ite
    | intro _
    | with_reducible refine Keeps.mk' ?_ ?_ ?_ ?_ ?_
    | exact rfl)

theorem finishOut_keeps {s0 : State} {t : Transfer} {s : State} (h_s : Keeps s0 s)  :
    Keeps s0 (finishOut t s) := by
  unfold finishOut
  repeat' (first
    | with_reducible assumption
    | with_reducible apply flushHeld_keeps
    | with_reducible apply answerCrane_keeps
    | with_reducible apply dropTransfer_keeps
    | intro _
    | with_reducible refine Keeps.mk' ?_ ?_ ?_ ?_ ?_
    | exact rfl)

theorem endStreams_keeps {s0 : State} {n : Nat} {s : State} (h : Keeps s0 s) : Keeps s0 (endStreams n s) := by
  induction n generalizing s with
  | zero => exact h
  | succ n ih =>
    unfold endStreams
    split
    · exact h
    · exact ih (startTransfer_keeps (finishIn_keeps h))

theorem beginNext_keeps {s0 : State} {s : State} (h_s : Keeps s0 s)  :
    Keeps s0 (beginNext s) := by
  unfold beginNext
  repeat' (first
    | with_reducible assumption
    | with_reducible apply endStreams_keeps
    | with_reducible apply startTransfer_keeps
    | intro _
    | with_reducible refine Keeps.mk' ?_ ?_ ?_ ?_ ?_
    | exact rfl)

theorem execCraneChannelStart_keeps {s : State} : KeepsO s (execCraneChannelStart s) := by
  have h := Keeps.refl s
  unfold execCraneChannelStart
  repeat' (first
    | with_reducible assumption
    | with_reducible apply beginNext_keeps
    | with_reducible apply KeepsO.next
    | with_reducible apply KeepsO.ite
    | intro _
    | with_reducible refine Keeps.mk' ?_ ?_ ?_ ?_ ?_
    | exact rfl)

theorem execCraneTransferDone_keeps {ch : Fin 8} {data : Bytes} {s : State} : KeepsO s (execCraneTransferDone ch data s) := by
  have h := Keeps.refl s
  unfold execCraneTransferDone
  repeat' (first
    | with_reducible assumption
    | with_reducible apply beginNext_keeps
    | with_reducible apply finishOut_keeps
    | with_reducible apply finishIn_keeps
    | with_reducible apply KeepsO.next
    | with_reducible apply KeepsO.ite
    | with_reducible apply Keeps.ite
    | intro _
    | split
    | with_reducible refine Keeps.mk' ?_ ?_ ?_ ?_ ?_
    | exact rfl)

theorem pumpLoad_keeps {s0 : State} {n : Nat} {s : State} (h : Keeps s0 s) : Keeps s0 (pumpLoad n s) := by
  induction n generalizing s with
  | zero => exact h
  | succ n ih =>
    unfold pumpLoad
    refine Keeps.ite (fun _ => h) fun _ => ih (chkMoved_keeps (updMaster_keeps ?_ fun _ => chkDev_ok))
    exact h.mk' rfl rfl rfl rfl

theorem moveStream_keeps {s0 : State} {m : Nat} {s : State} (h_s : Keeps s0 s)  :
    Keeps s0 (moveStream m s) := by
  unfold moveStream
  repeat' (first
    | with_reducible assumption
    | with_reducible apply pumpLoad_keeps
    | with_reducible apply pumpOut_keeps
    | with_reducible apply pumpIn_keeps
    | with_reducible apply beginNext_keeps
    | with_reducible apply finishOut_keeps
    | with_reducible apply finishIn_keeps
    | with_reducible apply Keeps.ite
    | intro _
    | split
    | dsimp -proj only
    | with_reducible refine Keeps.mk' ?_ ?_ ?_ ?_ ?_
    | exact rfl)

theorem acceptStore_keeps {s0 : State} {h : StoreHdr} {r : Req} {accepted : Nat} {s : State} (h_s : Keeps s0 s)  :
    Keeps s0 (acceptStore h r accepted s) := by
  unfold acceptStore
  repeat' (first
    | with_reducible assumption
    | with_reducible apply no_keeps
    | with_reducible apply answerReq_keeps
    | with_reducible apply endStreams_keeps
    | with_reducible apply addTransfer_keeps
    | with_reducible apply Keeps.ite
    | intro _
    | split
    | dsimp -proj only
    | with_reducible refine Keeps.mk' ?_ ?_ ?_ ?_ ?_
    | exact rfl)

theorem acceptPayload_keeps {s0 : State} {op : Opcode} {h : StoreHdr} {r : Req} {s : State} (h_s : Keeps s0 s)  :
    Keeps s0 (acceptPayload op h r s) := by
  unfold acceptPayload
  repeat' (first
    | with_reducible assumption
    | with_reducible apply no_keeps
    | with_reducible apply answerReq_keeps
    | with_reducible apply acceptStore_keeps
    | with_reducible apply endStreams_keeps
    | with_reducible apply addTransfer_keeps
    | with_reducible apply actReq_keeps
    | with_reducible apply Keeps.ite
    | intro _
    | split
    | dsimp -proj only
    | with_reducible refine Keeps.mk' ?_ ?_ ?_ ?_ ?_
    | exact rfl)

theorem repeatAnswer_keeps {s0 : State} {m seq : Nat} {s : State} (h_s : Keeps s0 s)  :
    Keeps s0 (repeatAnswer m seq s) := by
  unfold repeatAnswer
  repeat' (first
    | with_reducible assumption
    | with_reducible apply respond_keeps
    | intro _
    | split
    | with_reducible refine Keeps.mk' ?_ ?_ ?_ ?_ ?_
    | exact rfl)

theorem accept_keeps {s0 : State} {op : Opcode} {h : StoreHdr} {r : Req} {s : State} (h_s : Keeps s0 s)  :
    Keeps s0 (accept op h r s) := by
  unfold accept
  repeat' (first
    | with_reducible assumption
    | with_reducible apply repeatAnswer_keeps
    | exact fun _ h => h
    | (intro _ h; split <;> exact h)
    | (intro _ h; unfold Master.indicesOk at *; dsimp only; omega)
    | with_reducible apply updMaster_keeps
    | with_reducible apply no_keeps
    | with_reducible apply checkFailRun_keeps
    | with_reducible apply answerReq_keeps
    | with_reducible apply acceptPayload_keeps
    | with_reducible apply trimSeqs_keeps
    | with_reducible apply Keeps.ite
    | intro _
    | with_reducible refine Keeps.mk' ?_ ?_ ?_ ?_ ?_
    | exact rfl)

end Sys2Proof.Machine
end

