-- ==== Sys2Proof/Laws/KeepsRequests.lean ====
section
/-!
SUPPORT. What the operations of Machine/Requests.lean keep.
-/
namespace Sys2Proof.Machine

theorem execSysInfo_keeps {r : Req} {s : State} : KeepsO s (execSysInfo r s) := by
  have h := Keeps.refl s
  unfold execSysInfo
  repeat' (first
    | with_reducible assumption
    | with_reducible apply accept_keeps
    | with_reducible apply KeepsO.next
    | with_reducible apply KeepsO.ite
    | intro _
    | with_reducible refine Keeps.mk' ?_ ?_ ?_ ?_ ?_
    | exact rfl)

theorem execSysModeSet_keeps {r : Req} {s : State} : KeepsO s (execSysModeSet r s) := by
  have h := Keeps.refl s
  unfold execSysModeSet
  repeat' (first
    | with_reducible assumption
    | with_reducible apply accept_keeps
    | with_reducible apply KeepsO.next
    | with_reducible apply KeepsO.ite
    | intro _
    | with_reducible refine Keeps.mk' ?_ ?_ ?_ ?_ ?_
    | exact rfl)

theorem execSysModeGet_keeps {r : Req} {s : State} : KeepsO s (execSysModeGet r s) := by
  have h := Keeps.refl s
  unfold execSysModeGet
  repeat' (first
    | with_reducible assumption
    | with_reducible apply accept_keeps
    | with_reducible apply KeepsO.next
    | with_reducible apply KeepsO.ite
    | intro _
    | with_reducible refine Keeps.mk' ?_ ?_ ?_ ?_ ?_
    | exact rfl)

theorem execSysReset_keeps {r : Req} {s : State} : KeepsO s (execSysReset r s) := by
  have h := Keeps.refl s
  unfold execSysReset
  repeat' (first
    | with_reducible assumption
    | with_reducible apply accept_keeps
    | with_reducible apply KeepsO.next
    | with_reducible apply KeepsO.ite
    | intro _
    | with_reducible refine Keeps.mk' ?_ ?_ ?_ ?_ ?_
    | exact rfl)

theorem execSysLogRead_keeps {r : Req} {s : State} : KeepsO s (execSysLogRead r s) := by
  have h := Keeps.refl s
  unfold execSysLogRead
  repeat' (first
    | with_reducible assumption
    | with_reducible apply accept_keeps
    | with_reducible apply KeepsO.next
    | with_reducible apply KeepsO.ite
    | intro _
    | with_reducible refine Keeps.mk' ?_ ?_ ?_ ?_ ?_
    | exact rfl)

theorem execObjSet_keeps {r : Req} {s : State} : KeepsO s (execObjSet r s) := by
  have h := Keeps.refl s
  unfold execObjSet
  repeat' (first
    | with_reducible assumption
    | with_reducible apply accept_keeps
    | with_reducible apply KeepsO.next
    | with_reducible apply KeepsO.ite
    | intro _
    | with_reducible refine Keeps.mk' ?_ ?_ ?_ ?_ ?_
    | exact rfl)

theorem execObjGet_keeps {r : Req} {s : State} : KeepsO s (execObjGet r s) := by
  have h := Keeps.refl s
  unfold execObjGet
  repeat' (first
    | with_reducible assumption
    | with_reducible apply accept_keeps
    | with_reducible apply KeepsO.next
    | with_reducible apply KeepsO.ite
    | intro _
    | with_reducible refine Keeps.mk' ?_ ?_ ?_ ?_ ?_
    | exact rfl)

theorem execObjBind_keeps {r : Req} {s : State} : KeepsO s (execObjBind r s) := by
  have h := Keeps.refl s
  unfold execObjBind
  repeat' (first
    | with_reducible assumption
    | with_reducible apply accept_keeps
    | with_reducible apply KeepsO.next
    | with_reducible apply KeepsO.ite
    | intro _
    | with_reducible refine Keeps.mk' ?_ ?_ ?_ ?_ ?_
    | exact rfl)

theorem execObjClaim_keeps {r : Req} {s : State} : KeepsO s (execObjClaim r s) := by
  have h := Keeps.refl s
  unfold execObjClaim
  repeat' (first
    | with_reducible assumption
    | with_reducible apply accept_keeps
    | with_reducible apply KeepsO.next
    | with_reducible apply KeepsO.ite
    | intro _
    | with_reducible refine Keeps.mk' ?_ ?_ ?_ ?_ ?_
    | exact rfl)

theorem execSpkSet_keeps {r : Req} {s : State} : KeepsO s (execSpkSet r s) := by
  have h := Keeps.refl s
  unfold execSpkSet
  repeat' (first
    | with_reducible assumption
    | with_reducible apply accept_keeps
    | with_reducible apply KeepsO.next
    | with_reducible apply KeepsO.ite
    | intro _
    | with_reducible refine Keeps.mk' ?_ ?_ ?_ ?_ ?_
    | exact rfl)

theorem execSpkGet_keeps {r : Req} {s : State} : KeepsO s (execSpkGet r s) := by
  have h := Keeps.refl s
  unfold execSpkGet
  repeat' (first
    | with_reducible assumption
    | with_reducible apply accept_keeps
    | with_reducible apply KeepsO.next
    | with_reducible apply KeepsO.ite
    | intro _
    | with_reducible refine Keeps.mk' ?_ ?_ ?_ ?_ ?_
    | exact rfl)

theorem execZoneSet_keeps {r : Req} {s : State} : KeepsO s (execZoneSet r s) := by
  have h := Keeps.refl s
  unfold execZoneSet
  repeat' (first
    | with_reducible assumption
    | with_reducible apply accept_keeps
    | with_reducible apply KeepsO.next
    | with_reducible apply KeepsO.ite
    | intro _
    | with_reducible refine Keeps.mk' ?_ ?_ ?_ ?_ ?_
    | exact rfl)

theorem execAirSet_keeps {r : Req} {s : State} : KeepsO s (execAirSet r s) := by
  have h := Keeps.refl s
  unfold execAirSet
  repeat' (first
    | with_reducible assumption
    | with_reducible apply accept_keeps
    | with_reducible apply KeepsO.next
    | with_reducible apply KeepsO.ite
    | intro _
    | with_reducible refine Keeps.mk' ?_ ?_ ?_ ?_ ?_
    | exact rfl)

theorem execPeerSet_keeps {r : Req} {s : State} : KeepsO s (execPeerSet r s) := by
  have h := Keeps.refl s
  unfold execPeerSet
  repeat' (first
    | with_reducible assumption
    | with_reducible apply accept_keeps
    | with_reducible apply KeepsO.next
    | with_reducible apply KeepsO.ite
    | intro _
    | with_reducible refine Keeps.mk' ?_ ?_ ?_ ?_ ?_
    | exact rfl)

theorem execChainSet_keeps {r : Req} {s : State} : KeepsO s (execChainSet r s) := by
  have h := Keeps.refl s
  unfold execChainSet
  repeat' (first
    | with_reducible assumption
    | with_reducible apply accept_keeps
    | with_reducible apply KeepsO.next
    | with_reducible apply KeepsO.ite
    | intro _
    | with_reducible refine Keeps.mk' ?_ ?_ ?_ ?_ ?_
    | exact rfl)

theorem execAccordLoad_keeps {r : Req} {s : State} : KeepsO s (execAccordLoad r s) := by
  have h := Keeps.refl s
  unfold execAccordLoad
  repeat' (first
    | with_reducible assumption
    | with_reducible apply accept_keeps
    | with_reducible apply KeepsO.next
    | with_reducible apply KeepsO.ite
    | intro _
    | with_reducible refine Keeps.mk' ?_ ?_ ?_ ?_ ?_
    | exact rfl)

theorem execAccordSwap_keeps {r : Req} {s : State} : KeepsO s (execAccordSwap r s) := by
  have h := Keeps.refl s
  unfold execAccordSwap
  repeat' (first
    | with_reducible assumption
    | with_reducible apply accept_keeps
    | with_reducible apply KeepsO.next
    | with_reducible apply KeepsO.ite
    | intro _
    | with_reducible refine Keeps.mk' ?_ ?_ ?_ ?_ ?_
    | exact rfl)

theorem execRouteSet_keeps {r : Req} {s : State} : KeepsO s (execRouteSet r s) := by
  have h := Keeps.refl s
  unfold execRouteSet
  repeat' (first
    | with_reducible assumption
    | with_reducible apply accept_keeps
    | with_reducible apply KeepsO.next
    | with_reducible apply KeepsO.ite
    | intro _
    | with_reducible refine Keeps.mk' ?_ ?_ ?_ ?_ ?_
    | exact rfl)

theorem execBridgeSet_keeps {r : Req} {s : State} : KeepsO s (execBridgeSet r s) := by
  have h := Keeps.refl s
  unfold execBridgeSet
  repeat' (first
    | with_reducible assumption
    | with_reducible apply accept_keeps
    | with_reducible apply KeepsO.next
    | with_reducible apply KeepsO.ite
    | intro _
    | with_reducible refine Keeps.mk' ?_ ?_ ?_ ?_ ?_
    | exact rfl)

theorem execSilenceSet_keeps {r : Req} {s : State} : KeepsO s (execSilenceSet r s) := by
  have h := Keeps.refl s
  unfold execSilenceSet
  repeat' (first
    | with_reducible assumption
    | with_reducible apply accept_keeps
    | with_reducible apply KeepsO.next
    | with_reducible apply KeepsO.ite
    | intro _
    | with_reducible refine Keeps.mk' ?_ ?_ ?_ ?_ ?_
    | exact rfl)

theorem execPortCfg_keeps {r : Req} {s : State} : KeepsO s (execPortCfg r s) := by
  have h := Keeps.refl s
  unfold execPortCfg
  repeat' (first
    | with_reducible assumption
    | with_reducible apply accept_keeps
    | with_reducible apply KeepsO.next
    | with_reducible apply KeepsO.ite
    | intro _
    | with_reducible refine Keeps.mk' ?_ ?_ ?_ ?_ ?_
    | exact rfl)

theorem execBerthOpen_keeps {r : Req} {s : State} : KeepsO s (execBerthOpen r s) := by
  have h := Keeps.refl s
  unfold execBerthOpen
  repeat' (first
    | with_reducible assumption
    | with_reducible apply accept_keeps
    | with_reducible apply KeepsO.next
    | with_reducible apply KeepsO.ite
    | intro _
    | with_reducible refine Keeps.mk' ?_ ?_ ?_ ?_ ?_
    | exact rfl)

theorem execBerthClose_keeps {r : Req} {s : State} : KeepsO s (execBerthClose r s) := by
  have h := Keeps.refl s
  unfold execBerthClose
  repeat' (first
    | with_reducible assumption
    | with_reducible apply accept_keeps
    | with_reducible apply KeepsO.next
    | with_reducible apply KeepsO.ite
    | intro _
    | with_reducible refine Keeps.mk' ?_ ?_ ?_ ?_ ?_
    | exact rfl)

theorem execBerthStat_keeps {r : Req} {s : State} : KeepsO s (execBerthStat r s) := by
  have h := Keeps.refl s
  unfold execBerthStat
  repeat' (first
    | with_reducible assumption
    | with_reducible apply accept_keeps
    | with_reducible apply KeepsO.next
    | with_reducible apply KeepsO.ite
    | intro _
    | with_reducible refine Keeps.mk' ?_ ?_ ?_ ?_ ?_
    | exact rfl)

theorem execFilterSet_keeps {r : Req} {s : State} : KeepsO s (execFilterSet r s) := by
  have h := Keeps.refl s
  unfold execFilterSet
  repeat' (first
    | with_reducible assumption
    | with_reducible apply accept_keeps
    | with_reducible apply KeepsO.next
    | with_reducible apply KeepsO.ite
    | intro _
    | with_reducible refine Keeps.mk' ?_ ?_ ?_ ?_ ?_
    | exact rfl)

theorem execTimeCfg_keeps {r : Req} {s : State} : KeepsO s (execTimeCfg r s) := by
  have h := Keeps.refl s
  unfold execTimeCfg
  repeat' (first
    | with_reducible assumption
    | with_reducible apply accept_keeps
    | with_reducible apply KeepsO.next
    | with_reducible apply KeepsO.ite
    | intro _
    | with_reducible refine Keeps.mk' ?_ ?_ ?_ ?_ ?_
    | exact rfl)

theorem execTimeStat_keeps {r : Req} {s : State} : KeepsO s (execTimeStat r s) := by
  have h := Keeps.refl s
  unfold execTimeStat
  repeat' (first
    | with_reducible assumption
    | with_reducible apply accept_keeps
    | with_reducible apply KeepsO.next
    | with_reducible apply KeepsO.ite
    | intro _
    | with_reducible refine Keeps.mk' ?_ ?_ ?_ ?_ ?_
    | exact rfl)

theorem execTrigSet_keeps {r : Req} {s : State} : KeepsO s (execTrigSet r s) := by
  have h := Keeps.refl s
  unfold execTrigSet
  repeat' (first
    | with_reducible assumption
    | with_reducible apply accept_keeps
    | with_reducible apply KeepsO.next
    | with_reducible apply KeepsO.ite
    | intro _
    | with_reducible refine Keeps.mk' ?_ ?_ ?_ ?_ ?_
    | exact rfl)

theorem execCaptRead_keeps {r : Req} {s : State} : KeepsO s (execCaptRead r s) := by
  have h := Keeps.refl s
  unfold execCaptRead
  repeat' (first
    | with_reducible assumption
    | with_reducible apply accept_keeps
    | with_reducible apply KeepsO.next
    | with_reducible apply KeepsO.ite
    | intro _
    | with_reducible refine Keeps.mk' ?_ ?_ ?_ ?_ ?_
    | exact rfl)

theorem execNoseCfg_keeps {r : Req} {s : State} : KeepsO s (execNoseCfg r s) := by
  have h := Keeps.refl s
  unfold execNoseCfg
  repeat' (first
    | with_reducible assumption
    | with_reducible apply accept_keeps
    | with_reducible apply KeepsO.next
    | with_reducible apply KeepsO.ite
    | intro _
    | with_reducible refine Keeps.mk' ?_ ?_ ?_ ?_ ?_
    | exact rfl)

theorem execPairSet_keeps {r : Req} {s : State} : KeepsO s (execPairSet r s) := by
  have h := Keeps.refl s
  unfold execPairSet
  repeat' (first
    | with_reducible assumption
    | with_reducible apply accept_keeps
    | with_reducible apply KeepsO.next
    | with_reducible apply KeepsO.ite
    | intro _
    | with_reducible refine Keeps.mk' ?_ ?_ ?_ ?_ ?_
    | exact rfl)

theorem execMarkSet_keeps {r : Req} {s : State} : KeepsO s (execMarkSet r s) := by
  have h := Keeps.refl s
  unfold execMarkSet
  repeat' (first
    | with_reducible assumption
    | with_reducible apply accept_keeps
    | with_reducible apply KeepsO.next
    | with_reducible apply KeepsO.ite
    | intro _
    | with_reducible refine Keeps.mk' ?_ ?_ ?_ ?_ ?_
    | exact rfl)

theorem execPolicySet_keeps {r : Req} {s : State} : KeepsO s (execPolicySet r s) := by
  have h := Keeps.refl s
  unfold execPolicySet
  repeat' (first
    | with_reducible assumption
    | with_reducible apply accept_keeps
    | with_reducible apply KeepsO.next
    | with_reducible apply KeepsO.ite
    | intro _
    | with_reducible refine Keeps.mk' ?_ ?_ ?_ ?_ ?_
    | exact rfl)

theorem execEstRead_keeps {r : Req} {s : State} : KeepsO s (execEstRead r s) := by
  have h := Keeps.refl s
  unfold execEstRead
  repeat' (first
    | with_reducible assumption
    | with_reducible apply accept_keeps
    | with_reducible apply KeepsO.next
    | with_reducible apply KeepsO.ite
    | intro _
    | with_reducible refine Keeps.mk' ?_ ?_ ?_ ?_ ?_
    | exact rfl)

theorem execProposalRead_keeps {r : Req} {s : State} : KeepsO s (execProposalRead r s) := by
  have h := Keeps.refl s
  unfold execProposalRead
  repeat' (first
    | with_reducible assumption
    | with_reducible apply accept_keeps
    | with_reducible apply KeepsO.next
    | with_reducible apply KeepsO.ite
    | intro _
    | with_reducible refine Keeps.mk' ?_ ?_ ?_ ?_ ?_
    | exact rfl)

theorem execProposalApply_keeps {r : Req} {s : State} : KeepsO s (execProposalApply r s) := by
  have h := Keeps.refl s
  unfold execProposalApply
  repeat' (first
    | with_reducible assumption
    | with_reducible apply accept_keeps
    | with_reducible apply KeepsO.next
    | with_reducible apply KeepsO.ite
    | intro _
    | with_reducible refine Keeps.mk' ?_ ?_ ?_ ?_ ?_
    | exact rfl)

theorem execSweepRun_keeps {r : Req} {s : State} : KeepsO s (execSweepRun r s) := by
  have h := Keeps.refl s
  unfold execSweepRun
  repeat' (first
    | with_reducible assumption
    | with_reducible apply accept_keeps
    | with_reducible apply KeepsO.next
    | with_reducible apply KeepsO.ite
    | intro _
    | with_reducible refine Keeps.mk' ?_ ?_ ?_ ?_ ?_
    | exact rfl)

theorem execHealthRead_keeps {r : Req} {s : State} : KeepsO s (execHealthRead r s) := by
  have h := Keeps.refl s
  unfold execHealthRead
  repeat' (first
    | with_reducible assumption
    | with_reducible apply accept_keeps
    | with_reducible apply KeepsO.next
    | with_reducible apply KeepsO.ite
    | intro _
    | with_reducible refine Keeps.mk' ?_ ?_ ?_ ?_ ?_
    | exact rfl)

theorem execTwinCfg_keeps {r : Req} {s : State} : KeepsO s (execTwinCfg r s) := by
  have h := Keeps.refl s
  unfold execTwinCfg
  repeat' (first
    | with_reducible assumption
    | with_reducible apply accept_keeps
    | with_reducible apply KeepsO.next
    | with_reducible apply KeepsO.ite
    | intro _
    | with_reducible refine Keeps.mk' ?_ ?_ ?_ ?_ ?_
    | exact rfl)

theorem execTwinStat_keeps {r : Req} {s : State} : KeepsO s (execTwinStat r s) := by
  have h := Keeps.refl s
  unfold execTwinStat
  repeat' (first
    | with_reducible assumption
    | with_reducible apply accept_keeps
    | with_reducible apply KeepsO.next
    | with_reducible apply KeepsO.ite
    | intro _
    | with_reducible refine Keeps.mk' ?_ ?_ ?_ ?_ ?_
    | exact rfl)

theorem execTwinWarp_keeps {r : Req} {s : State} : KeepsO s (execTwinWarp r s) := by
  have h := Keeps.refl s
  unfold execTwinWarp
  repeat' (first
    | with_reducible assumption
    | with_reducible apply accept_keeps
    | with_reducible apply KeepsO.next
    | with_reducible apply KeepsO.ite
    | intro _
    | with_reducible refine Keeps.mk' ?_ ?_ ?_ ?_ ?_
    | exact rfl)

theorem execTwinSwitch_keeps {r : Req} {s : State} : KeepsO s (execTwinSwitch r s) := by
  have h := Keeps.refl s
  unfold execTwinSwitch
  repeat' (first
    | with_reducible assumption
    | with_reducible apply accept_keeps
    | with_reducible apply KeepsO.next
    | with_reducible apply KeepsO.ite
    | intro _
    | with_reducible refine Keeps.mk' ?_ ?_ ?_ ?_ ?_
    | exact rfl)

theorem execWitnessSet_keeps {r : Req} {s : State} : KeepsO s (execWitnessSet r s) := by
  have h := Keeps.refl s
  unfold execWitnessSet
  repeat' (first
    | with_reducible assumption
    | with_reducible apply accept_keeps
    | with_reducible apply KeepsO.next
    | with_reducible apply KeepsO.ite
    | intro _
    | with_reducible refine Keeps.mk' ?_ ?_ ?_ ?_ ?_
    | exact rfl)

theorem execPwrPolicy_keeps {r : Req} {s : State} : KeepsO s (execPwrPolicy r s) := by
  have h := Keeps.refl s
  unfold execPwrPolicy
  repeat' (first
    | with_reducible assumption
    | with_reducible apply accept_keeps
    | with_reducible apply KeepsO.next
    | with_reducible apply KeepsO.ite
    | intro _
    | with_reducible refine Keeps.mk' ?_ ?_ ?_ ?_ ?_
    | exact rfl)

theorem execPwrStat_keeps {r : Req} {s : State} : KeepsO s (execPwrStat r s) := by
  have h := Keeps.refl s
  unfold execPwrStat
  repeat' (first
    | with_reducible assumption
    | with_reducible apply accept_keeps
    | with_reducible apply KeepsO.next
    | with_reducible apply KeepsO.ite
    | intro _
    | with_reducible refine Keeps.mk' ?_ ?_ ?_ ?_ ?_
    | exact rfl)

theorem execTestLoop_keeps {r : Req} {s : State} : KeepsO s (execTestLoop r s) := by
  have h := Keeps.refl s
  unfold execTestLoop
  repeat' (first
    | with_reducible assumption
    | with_reducible apply accept_keeps
    | with_reducible apply KeepsO.next
    | with_reducible apply KeepsO.ite
    | intro _
    | with_reducible refine Keeps.mk' ?_ ?_ ?_ ?_ ?_
    | exact rfl)

theorem execPostReport_keeps {r : Req} {s : State} : KeepsO s (execPostReport r s) := by
  have h := Keeps.refl s
  unfold execPostReport
  repeat' (first
    | with_reducible assumption
    | with_reducible apply accept_keeps
    | with_reducible apply KeepsO.next
    | with_reducible apply KeepsO.ite
    | intro _
    | with_reducible refine Keeps.mk' ?_ ?_ ?_ ?_ ?_
    | exact rfl)

theorem execFwStage_keeps {r : Req} {s : State} : KeepsO s (execFwStage r s) := by
  have h := Keeps.refl s
  unfold execFwStage
  repeat' (first
    | with_reducible assumption
    | with_reducible apply accept_keeps
    | with_reducible apply KeepsO.next
    | with_reducible apply KeepsO.ite
    | intro _
    | with_reducible refine Keeps.mk' ?_ ?_ ?_ ?_ ?_
    | exact rfl)

theorem execFwCommit_keeps {r : Req} {s : State} : KeepsO s (execFwCommit r s) := by
  have h := Keeps.refl s
  unfold execFwCommit
  repeat' (first
    | with_reducible assumption
    | with_reducible apply accept_keeps
    | with_reducible apply KeepsO.next
    | with_reducible apply KeepsO.ite
    | intro _
    | with_reducible refine Keeps.mk' ?_ ?_ ?_ ?_ ?_
    | exact rfl)

theorem execAnaInCfg_keeps {r : Req} {s : State} : KeepsO s (execAnaInCfg r s) := by
  have h := Keeps.refl s
  unfold execAnaInCfg
  repeat' (first
    | with_reducible assumption
    | with_reducible apply accept_keeps
    | with_reducible apply KeepsO.next
    | with_reducible apply KeepsO.ite
    | intro _
    | with_reducible refine Keeps.mk' ?_ ?_ ?_ ?_ ?_
    | exact rfl)

theorem execAnaOutCfg_keeps {r : Req} {s : State} : KeepsO s (execAnaOutCfg r s) := by
  have h := Keeps.refl s
  unfold execAnaOutCfg
  repeat' (first
    | with_reducible assumption
    | with_reducible apply accept_keeps
    | with_reducible apply KeepsO.next
    | with_reducible apply KeepsO.ite
    | intro _
    | with_reducible refine Keeps.mk' ?_ ?_ ?_ ?_ ?_
    | exact rfl)

theorem execLoopCfg_keeps {r : Req} {s : State} : KeepsO s (execLoopCfg r s) := by
  have h := Keeps.refl s
  unfold execLoopCfg
  repeat' (first
    | with_reducible assumption
    | with_reducible apply accept_keeps
    | with_reducible apply KeepsO.next
    | with_reducible apply KeepsO.ite
    | intro _
    | with_reducible refine Keeps.mk' ?_ ?_ ?_ ?_ ?_
    | exact rfl)

theorem execTdmCfg_keeps {r : Req} {s : State} : KeepsO s (execTdmCfg r s) := by
  have h := Keeps.refl s
  unfold execTdmCfg
  repeat' (first
    | with_reducible assumption
    | with_reducible apply accept_keeps
    | with_reducible apply KeepsO.next
    | with_reducible apply KeepsO.ite
    | intro _
    | with_reducible refine Keeps.mk' ?_ ?_ ?_ ?_ ?_
    | exact rfl)

theorem execShortSet_keeps {r : Req} {s : State} : KeepsO s (execShortSet r s) := by
  have h := Keeps.refl s
  unfold execShortSet
  repeat' (first
    | with_reducible assumption
    | with_reducible apply accept_keeps
    | with_reducible apply KeepsO.next
    | with_reducible apply KeepsO.ite
    | intro _
    | with_reducible refine Keeps.mk' ?_ ?_ ?_ ?_ ?_
    | exact rfl)

theorem execGpioSet_keeps {r : Req} {s : State} : KeepsO s (execGpioSet r s) := by
  have h := Keeps.refl s
  unfold execGpioSet
  repeat' (first
    | with_reducible assumption
    | with_reducible apply accept_keeps
    | with_reducible apply KeepsO.next
    | with_reducible apply KeepsO.ite
    | intro _
    | with_reducible refine Keeps.mk' ?_ ?_ ?_ ?_ ?_
    | exact rfl)

theorem execEcho_keeps {r : Req} {s : State} : KeepsO s (execEcho r s) := by
  have h := Keeps.refl s
  unfold execEcho
  repeat' (first
    | with_reducible assumption
    | with_reducible apply accept_keeps
    | with_reducible apply KeepsO.next
    | with_reducible apply KeepsO.ite
    | intro _
    | with_reducible refine Keeps.mk' ?_ ?_ ?_ ?_ ?_
    | exact rfl)

theorem execStoreTransfer_keeps {r : Req} {h : StoreHdr} {s : State} : KeepsO s (execStoreTransfer r h s) := by
  have h := Keeps.refl s
  unfold execStoreTransfer
  repeat' (first
    | with_reducible assumption
    | with_reducible apply accept_keeps
    | with_reducible apply KeepsO.next
    | with_reducible apply KeepsO.ite
    | intro _
    | with_reducible refine Keeps.mk' ?_ ?_ ?_ ?_ ?_
    | exact rfl)

end Sys2Proof.Machine
end

