-- ==== Sys2Proof/Laws/KeepsRings.lean ====
section
/-!
SUPPORT. What the operations of Machine/Rings.lean keep.
-/
namespace Sys2Proof.Machine

theorem newRound_keeps {s0 : State} {s : State} (h_s : Keeps s0 s)  :
    Keeps s0 (newRound s) := by
  unfold newRound
  exact Keeps.ite (fun _ => h_s) fun _ => Keeps.mkB h_s rfl rfl rfl fun h => ⟨h.1, h.2.1, SMap.all_mapVals
    (f := fun _ (x : Master) => { x with taken := 0 }) (P := Master.indicesOk) (Q := Master.indicesOk) h.2.2 fun _ _ k => k⟩

theorem badEntry_keeps {s0 : State} {m : Nat} {e : Bytes} {s : State} (h_s : Keeps s0 s)  :
    Keeps s0 (badEntry m e s) := by
  unfold badEntry
  repeat' (first
    | with_reducible assumption
    | with_reducible apply repeatAnswer_keeps
    | with_reducible apply respond_keeps
    | exact fun _ h => h
    | (intro _ h; split <;> exact h)
    | (intro _ h; unfold Master.indicesOk at *; dsimp only; omega)
    | with_reducible apply updMaster_keeps
    | with_reducible apply Keeps.ite
    | intro _
    | with_reducible refine Keeps.mk' ?_ ?_ ?_ ?_ ?_
    | exact rfl)

theorem takeEntry_keeps {s0 : State} {m : Fin 8} {s : State} (h_s : Keeps s0 s)  :
    Keeps s0 (takeEntry m s) := by
  unfold takeEntry
  repeat' (first
    | with_reducible assumption
    | exact fun _ h => h
    | (intro _ h; split <;> exact h)
    | (intro _ h; unfold Master.indicesOk at *; dsimp only; omega)
    | with_reducible apply updMaster_keeps
    | with_reducible apply badEntry_keeps
    | with_reducible apply accept_keeps
    | with_reducible apply Keeps.ite
    | intro _
    | split
    | dsimp -proj only
    | with_reducible refine Keeps.mk' ?_ ?_ ?_ ?_ ?_
    | exact rfl)

theorem ringFault_keeps {s0 : State} {m : Nat} {s : State} (h_s : Keeps s0 s)  :
    Keeps s0 (ringFault m s) := by
  unfold ringFault
  repeat' (first
    | with_reducible assumption
    | with_reducible apply logEvent_keeps
    | exact fun _ h => h
    | (intro _ h; split <;> exact h)
    | (intro _ h; unfold Master.indicesOk at *; dsimp only; omega)
    | with_reducible apply updMaster_keeps
    | with_reducible apply Keeps.ite
    | intro _
    | with_reducible refine Keeps.mk' ?_ ?_ ?_ ?_ ?_
    | exact rfl)

theorem serveLoop_keeps {s0 : State} {n : Nat} {s : State} (h : Keeps s0 s) : Keeps s0 (serveLoop n s) := by
  induction n generalizing s with
  | zero => exact h
  | succ n ih =>
    unfold serveLoop
    split
    · exact h
    · exact ih (takeEntry_keeps h)

theorem serve_keeps {s0 : State} {s : State} (h_s : Keeps s0 s)  :
    Keeps s0 (serve s) := by
  unfold serve
  repeat' (first
    | with_reducible assumption
    | with_reducible apply serveLoop_keeps
    | with_reducible apply ringFault_keeps
    | with_reducible apply newRound_keeps
    | with_reducible apply Keeps.ite
    | intro _
    | with_reducible apply Keeps.foldl
    | with_reducible apply Keeps.foldl_snd
    | with_reducible refine Keeps.mk' ?_ ?_ ?_ ?_ ?_
    | exact rfl)

theorem ringReq_keeps {s0 : State} {m : Nat} {s : State} (h_s : Keeps s0 s)  :
    Keeps s0 (ringReq m s) := by
  unfold ringReq
  repeat' (first
    | with_reducible assumption
    | with_reducible apply serve_keeps
    | exact fun _ h => h
    | (intro _ h; split <;> exact h)
    | (intro _ h; unfold Master.indicesOk at *; dsimp only; omega)
    | with_reducible apply updMaster_keeps
    | intro _
    | with_reducible refine Keeps.mk' ?_ ?_ ?_ ?_ ?_
    | exact rfl)

theorem ringRsp_keeps {s0 : State} {m : Nat} {s : State} (h_s : Keeps s0 s)  :
    Keeps s0 (ringRsp m s) := by
  unfold ringRsp
  repeat' (first
    | with_reducible assumption
    | with_reducible apply moveStream_keeps
    | with_reducible apply flushHeld_keeps
    | exact fun _ h => h
    | (intro _ h; split <;> exact h)
    | (intro _ h; unfold Master.indicesOk at *; dsimp only; omega)
    | with_reducible apply updMaster_keeps
    | intro _
    | with_reducible refine Keeps.mk' ?_ ?_ ?_ ?_ ?_
    | exact rfl)

theorem execDoorbellReq_keeps {m : Fin 8} {s : State} : KeepsO s (execDoorbellReq m s) := by
  have h := Keeps.refl s
  unfold execDoorbellReq
  repeat' (first
    | with_reducible assumption
    | with_reducible apply ringReq_keeps
    | with_reducible apply KeepsO.next
    | with_reducible apply KeepsO.ite
    | with_reducible apply Keeps.ite
    | intro _
    | with_reducible refine Keeps.mk' ?_ ?_ ?_ ?_ ?_
    | exact rfl)

theorem execDoorbellRsp_keeps {m : Fin 8} {s : State} : KeepsO s (execDoorbellRsp m s) := by
  have h := Keeps.refl s
  unfold execDoorbellRsp
  repeat' (first
    | with_reducible assumption
    | with_reducible apply ringRsp_keeps
    | with_reducible apply KeepsO.next
    | with_reducible apply KeepsO.ite
    | with_reducible apply Keeps.ite
    | intro _
    | with_reducible refine Keeps.mk' ?_ ?_ ?_ ?_ ?_
    | exact rfl)

theorem execDoorbellChunk_keeps {m : Fin 8} {s : State} : KeepsO s (execDoorbellChunk m s) := by
  have h := Keeps.refl s
  unfold execDoorbellChunk
  repeat' (first
    | with_reducible assumption
    | with_reducible apply moveStream_keeps
    | with_reducible apply KeepsO.next
    | with_reducible apply KeepsO.ite
    | with_reducible apply Keeps.ite
    | intro _
    | with_reducible refine Keeps.mk' ?_ ?_ ?_ ?_ ?_
    | exact rfl)

theorem execDoorbellReset_keeps {m : Fin 8} {s : State} : KeepsO s (execDoorbellReset m s) := by
  have h := Keeps.refl s
  unfold execDoorbellReset
  repeat' (first
    | with_reducible assumption
    | with_reducible apply resetRing_keeps
    | with_reducible apply KeepsO.next
    | with_reducible apply KeepsO.ite
    | with_reducible apply Keeps.ite
    | intro _
    | with_reducible refine Keeps.mk' ?_ ?_ ?_ ?_ ?_
    | exact rfl)

theorem execRingResetDone_keeps {m : Fin 8} {s : State} : KeepsO s (execRingResetDone m s) := by
  have h := Keeps.refl s
  unfold execRingResetDone
  repeat' (first
    | with_reducible assumption
    | exact fun _ h => h
    | (intro _ h; split <;> exact h)
    | (intro _ h; unfold Master.indicesOk at *; dsimp only; omega)
    | with_reducible apply updMaster_keeps
    | with_reducible apply KeepsO.next
    | with_reducible apply KeepsO.ite
    | with_reducible apply Keeps.ite
    | intro _
    | with_reducible refine Keeps.mk' ?_ ?_ ?_ ?_ ?_
    | exact rfl)

theorem clearCause_keeps {s0 : State} {v : BitVec 32} {s : State} (h_s : Keeps s0 s)  :
    Keeps s0 (clearCause v s) := by
  unfold clearCause
  repeat' (first
    | with_reducible assumption
    | intro _
    | with_reducible refine Keeps.mk' ?_ ?_ ?_ ?_ ?_
    | exact rfl)

theorem execIrqCauseWrite_keeps {v : BitVec 32} {s : State} : KeepsO s (execIrqCauseWrite v s) := by
  have h := Keeps.refl s
  unfold execIrqCauseWrite
  repeat' (first
    | with_reducible assumption
    | with_reducible apply clearCause_keeps
    | with_reducible apply KeepsO.next
    | with_reducible apply KeepsO.ite
    | with_reducible apply Keeps.ite
    | intro _
    | with_reducible refine Keeps.mk' ?_ ?_ ?_ ?_ ?_
    | exact rfl)

theorem setMask_keeps {s0 : State} {v : BitVec 32} {s : State} (h_s : Keeps s0 s)  :
    Keeps s0 (setMask v s) := by
  unfold setMask
  repeat' (first
    | with_reducible assumption
    | with_reducible apply sendMsix_keeps
    | intro _
    | with_reducible apply Keeps.foldl
    | with_reducible apply Keeps.foldl_snd
    | with_reducible refine Keeps.mk' ?_ ?_ ?_ ?_ ?_
    | exact rfl)

theorem execIrqMaskWrite_keeps {v : BitVec 32} {s : State} : KeepsO s (execIrqMaskWrite v s) := by
  have h := Keeps.refl s
  unfold execIrqMaskWrite
  repeat' (first
    | with_reducible assumption
    | with_reducible apply setMask_keeps
    | with_reducible apply KeepsO.next
    | with_reducible apply KeepsO.ite
    | with_reducible apply Keeps.ite
    | intro _
    | with_reducible refine Keeps.mk' ?_ ?_ ?_ ?_ ?_
    | exact rfl)

theorem doorbell_keeps {s0 : State} {m v : Nat} {s : State} (h_s : Keeps s0 s)  :
    Keeps s0 (doorbell m v s) := by
  unfold doorbell
  repeat' (first
    | with_reducible assumption
    | with_reducible apply resetRing_keeps
    | with_reducible apply ringRsp_keeps
    | with_reducible apply moveStream_keeps
    | with_reducible apply ringReq_keeps
    | with_reducible apply Keeps.ite
    | intro _
    | with_reducible refine Keeps.mk' ?_ ?_ ?_ ?_ ?_
    | exact rfl)

theorem writeReg_keeps {s0 : State} {a : Nat} {v : BitVec 32} {s : State} (h_s : Keeps s0 s)  :
    Keeps s0 (writeReg a v s) := by
  unfold writeReg
  repeat' (first
    | with_reducible assumption
    | with_reducible apply clearCause_keeps
    | with_reducible apply setMask_keeps
    | with_reducible apply doorbell_keeps
    | exact fun _ h => h
    | (intro _ h; split <;> exact h)
    | (intro _ h; unfold Master.indicesOk at *; dsimp only; omega)
    | with_reducible apply updMaster_keeps
    | with_reducible apply Keeps.ite
    | intro _
    | split
    | dsimp -proj only
    | with_reducible refine Keeps.mk' ?_ ?_ ?_ ?_ ?_
    | exact rfl)

theorem writeWindow_keeps {s0 : State} {addr size : Nat} {v : BitVec 32} {s : State} (h_s : Keeps s0 s)  :
    Keeps s0 (writeWindow addr size v s) := by
  unfold writeWindow
  repeat' (first
    | exact memWf_writeBytes _ _ _
    | with_reducible assumption
    | with_reducible apply writeReg_keeps
    | with_reducible apply releaseMsix_keeps
    | with_reducible apply Keeps.ite
    | intro _
    | with_reducible refine Keeps.mkM ?_ ?_ ?_ ?_ ?_
    | with_reducible refine Keeps.mk' ?_ ?_ ?_ ?_ ?_
    | exact rfl)

theorem execRegisterWrite_keeps {addr size : Nat} {v : Carried} {s : State} : KeepsO s (execRegisterWrite addr size v s) := by
  have h := Keeps.refl s
  unfold execRegisterWrite
  repeat' (first
    | with_reducible assumption
    | with_reducible apply writeWindow_keeps
    | with_reducible apply KeepsO.next
    | with_reducible apply KeepsO.ite
    | with_reducible apply Keeps.ite
    | intro _
    | with_reducible apply Keeps.foldl
    | with_reducible apply Keeps.foldl_snd
    | split
    | dsimp -proj only
    | with_reducible refine Keeps.mk' ?_ ?_ ?_ ?_ ?_
    | exact rfl)

theorem countPlain_keeps {s0 : State} {h : DgramHdr} {s : State} (h_s : Keeps s0 s)  :
    Keeps s0 (countPlain h s) := by
  unfold countPlain
  repeat' (first
    | with_reducible assumption
    | with_reducible apply updPortStat_keeps
    | intro _
    | with_reducible refine Keeps.mk' ?_ ?_ ?_ ?_ ?_
    | exact rfl)

theorem sendClose_keeps {s0 : State} {m : Nat} {p : Peer} {h : DgramHdr} {s : State} (h_s : Keeps s0 s)  :
    Keeps s0 (sendClose m p h s) := by
  unfold sendClose
  repeat' (first
    | with_reducible assumption
    | with_reducible apply send_keeps
    | with_reducible apply queueOwn_keeps
    | with_reducible apply Keeps.ite
    | intro _
    | with_reducible refine Keeps.mk' ?_ ?_ ?_ ?_ ?_
    | exact rfl)

theorem hearDgram_keeps {s0 : State} {m : Nat} {h : DgramHdr} {s : State} (h_s : Keeps s0 s)  :
    Keeps s0 (hearDgram m h s) := by
  unfold hearDgram
  repeat' (first
    | with_reducible assumption
    | exact fun _ h => h
    | (intro _ h; split <;> exact h)
    | (intro _ h; unfold Master.indicesOk at *; dsimp only; omega)
    | with_reducible apply updMaster_keeps
    | intro _
    | with_reducible refine Keeps.mk' ?_ ?_ ?_ ?_ ?_
    | exact rfl)

theorem openSession_keeps {s0 : State} {m : Nat} {p : Peer} {h : DgramHdr} {mask : Nat} {s : State} (h_s : Keeps s0 s)  :
    Keeps s0 (openSession m p h mask s) := by
  unfold openSession
  repeat' (first
    | with_reducible assumption
    | exact fun _ h => h
    | (intro _ h; split <;> exact h)
    | (intro _ h; unfold Master.indicesOk at *; dsimp only; omega)
    | with_reducible apply updMaster_keeps
    | with_reducible apply hearDgram_keeps
    | with_reducible apply sendClose_keeps
    | with_reducible apply Keeps.ite
    | intro _
    | split
    | with_reducible refine Keeps.mk' ?_ ?_ ?_ ?_ ?_
    | exact rfl)

theorem fromPeer_keeps {s0 : State} {m : Nat} {p : Peer} {h : DgramHdr} {n : Nat} {f : State → State} {s : State} (h_s : Keeps s0 s) (hf : ∀ t, Keeps s0 t → Keeps s0 (f t)) :
    Keeps s0 (fromPeer m p h n f s) := by
  unfold fromPeer
  repeat' (first
    | with_reducible assumption
    | with_reducible apply countPlain_keeps
    | with_reducible apply hearDgram_keeps
    | with_reducible apply hf
    | with_reducible apply Keeps.ite
    | intro _
    | with_reducible refine Keeps.mk' ?_ ?_ ?_ ?_ ?_
    | exact rfl)

theorem putRequest_keeps {s0 : State} {m : Nat} {entry : Bytes} {s : State} (h_s : Keeps s0 s)  :
    Keeps s0 (putRequest m entry s) := by
  unfold putRequest
  repeat' (first
    | exact memWf_writeBytes _ _ _
    | with_reducible assumption
    | with_reducible apply serve_keeps
    | exact fun _ h => h
    | (intro _ h; split <;> exact h)
    | (intro _ h; unfold Master.indicesOk at *; dsimp only; omega)
    | with_reducible apply updMaster_keeps
    | with_reducible apply Keeps.ite
    | intro _
    | with_reducible refine Keeps.mkM ?_ ?_ ?_ ?_ ?_
    | with_reducible refine Keeps.mk' ?_ ?_ ?_ ?_ ?_
    | exact rfl)

theorem putSegment_keeps {s0 : State} {m offset : Nat} {data : Bytes} {s : State} (h_s : Keeps s0 s)  :
    Keeps s0 (putSegment m offset data s) := by
  unfold putSegment
  repeat' (first
    | exact memWf_writeBytes _ _ _
    | with_reducible assumption
    | with_reducible apply Keeps.ite
    | intro _
    | with_reducible refine Keeps.mkM ?_ ?_ ?_ ?_ ?_
    | with_reducible refine Keeps.mk' ?_ ?_ ?_ ?_ ?_
    | exact rfl)

theorem putIndex_keeps {s0 : State} {m head tail : Nat} {s : State} (h_s : Keeps s0 s)  :
    Keeps s0 (putIndex m head tail s) := by
  unfold putIndex
  repeat' (first
    | with_reducible assumption
    | with_reducible apply moveStream_keeps
    | with_reducible apply ringRsp_keeps
    | exact fun _ h => h
    | (intro _ h; split <;> exact h)
    | (intro _ h; unfold Master.indicesOk at *; dsimp only; omega)
    | with_reducible apply updMaster_keeps
    | intro _
    | with_reducible refine Keeps.mk' ?_ ?_ ?_ ?_ ?_
    | exact rfl)

theorem execEfvexOpen_keeps {m : Fin 8} {p : Arrival} {mask : BitVec 32} {s : State} : KeepsO s (execEfvexOpen m p mask s) := by
  have h := Keeps.refl s
  unfold execEfvexOpen
  repeat' (first
    | with_reducible assumption
    | with_reducible apply countPlain_keeps
    | with_reducible apply openSession_keeps
    | with_reducible apply KeepsO.next
    | with_reducible apply KeepsO.ite
    | with_reducible apply Keeps.ite
    | intro _
    | with_reducible refine Keeps.mk' ?_ ?_ ?_ ?_ ?_
    | exact rfl)

theorem execEfvexClose_keeps {m : Fin 8} {p : Arrival} {s : State} : KeepsO s (execEfvexClose m p s) := by
  have h := Keeps.refl s
  unfold execEfvexClose
  repeat' (first
    | with_reducible assumption
    | with_reducible apply fromPeer_keeps
    | with_reducible apply endSession_keeps
    | with_reducible apply KeepsO.next
    | with_reducible apply KeepsO.ite
    | intro _
    | with_reducible refine Keeps.mk' ?_ ?_ ?_ ?_ ?_
    | exact rfl)

theorem execEfvexRequest_keeps {m : Fin 8} {p : Arrival} {entry : Bytes} {s : State} : KeepsO s (execEfvexRequest m p entry s) := by
  have h := Keeps.refl s
  unfold execEfvexRequest
  repeat' (first
    | with_reducible assumption
    | with_reducible apply fromPeer_keeps
    | with_reducible apply putRequest_keeps
    | with_reducible apply KeepsO.next
    | with_reducible apply KeepsO.ite
    | intro _
    | with_reducible refine Keeps.mk' ?_ ?_ ?_ ?_ ?_
    | exact rfl)

theorem execEfvexSegmentIn_keeps {m : Fin 8} {p : Arrival} {offset : Nat} {data : Bytes} {s : State} : KeepsO s (execEfvexSegmentIn m p offset data s) := by
  have h := Keeps.refl s
  unfold execEfvexSegmentIn
  repeat' (first
    | with_reducible assumption
    | with_reducible apply fromPeer_keeps
    | with_reducible apply putSegment_keeps
    | with_reducible apply KeepsO.next
    | with_reducible apply KeepsO.ite
    | intro _
    | with_reducible refine Keeps.mk' ?_ ?_ ?_ ?_ ?_
    | exact rfl)

theorem execEfvexIndex_keeps {m : Fin 8} {p : Arrival} {head tail : BitVec 32} {s : State} : KeepsO s (execEfvexIndex m p head tail s) := by
  have h := Keeps.refl s
  unfold execEfvexIndex
  repeat' (first
    | with_reducible assumption
    | with_reducible apply fromPeer_keeps
    | with_reducible apply putIndex_keeps
    | with_reducible apply KeepsO.next
    | with_reducible apply KeepsO.ite
    | intro _
    | with_reducible refine Keeps.mk' ?_ ?_ ?_ ?_ ?_
    | exact rfl)

theorem execEfvexKeepalive_keeps {m : Fin 8} {p : Arrival} {s : State} : KeepsO s (execEfvexKeepalive m p s) :=
  fromPeer_keeps (Keeps.refl s) fun _ h => h

theorem execSessionTimeout_keeps {m : Fin 8} {s : State} : KeepsO s (execSessionTimeout m s) := by
  have h := Keeps.refl s
  unfold execSessionTimeout
  repeat' (first
    | with_reducible assumption
    | with_reducible apply endSession_keeps
    | with_reducible apply KeepsO.next
    | with_reducible apply KeepsO.ite
    | with_reducible apply Keeps.ite
    | intro _
    | with_reducible refine Keeps.mk' ?_ ?_ ?_ ?_ ?_
    | exact rfl)

theorem execUartFrame_keeps {d : UartDatagram} {s : State} : KeepsO s (execUartFrame d s) := by
  unfold execUartFrame
  have h := Keeps.refl s
  refine KeepsO.next (Keeps.ite (fun _ => h) fun _ => ?_)
  extract_lets from_
  split
  · exact Keeps.ite (fun _ => openSession_keeps h) fun _ => h
  · exact fromPeer_keeps h fun _ k => endSession_keeps k
  · exact fromPeer_keeps h fun _ k => putRequest_keeps k
  · exact fromPeer_keeps h fun _ k => putSegment_keeps k
  · exact fromPeer_keeps h fun _ k => putIndex_keeps k
  · exact fromPeer_keeps h fun _ k => k
  · exact h

theorem countLate_keeps {s0 : State} {node : Nat} {s : State} (h_s : Keeps s0 s)  :
    Keeps s0 (countLate node s) := by
  unfold countLate
  repeat' (first
    | with_reducible assumption
    | with_reducible apply updPeerSt_keeps
    | intro _
    | split
    | with_reducible refine Keeps.mk' ?_ ?_ ?_ ?_ ?_
    | exact rfl)

theorem queueUpdate_keeps {s0 : State} {u : BusUpdate} {s : State} (h_s : Keeps s0 s)  :
    Keeps s0 (queueUpdate u s) := by
  unfold queueUpdate
  repeat' (first
    | with_reducible assumption
    | with_reducible apply countLate_keeps
    | with_reducible apply withCmd_keeps
    | with_reducible apply sendTwin_keeps
    | with_reducible apply Keeps.ite
    | intro _
    | split
    | dsimp -proj only
    | with_reducible refine Keeps.mk' ?_ ?_ ?_ ?_ ?_
    | exact rfl)

theorem execSceneBusUpdate_keeps {s : State} : KeepsO s (execSceneBusUpdate s) := by
  have h := Keeps.refl s
  unfold execSceneBusUpdate
  repeat' (first
    | with_reducible assumption
    | with_reducible apply countSuperseded_keeps
    | with_reducible apply queueUpdate_keeps
    | with_reducible apply KeepsO.next
    | with_reducible apply KeepsO.ite
    | with_reducible apply Keeps.ite
    | intro _
    | split
    | dsimp -proj only
    | with_reducible refine Keeps.mk' ?_ ?_ ?_ ?_ ?_
    | exact rfl)

theorem offerAlarm_keeps {s0 : State} {slot : Nat} {p : Bytes} {s : State} (h : Keeps s0 s) : Keeps s0 (offerAlarm slot p s) := by
  unfold offerAlarm
  refine Keeps.ite (fun _ => h) fun _ => ?_
  split
  · exact localFault_keeps h
  · rename_i hx; exact forwardCmd_keeps (offer_keeps h hx)

theorem execAlarmInput_keeps {pin : Fin 16} {level : Bool} {s : State} : KeepsO s (execAlarmInput pin level s) := by
  have h := Keeps.refl s
  unfold execAlarmInput
  repeat' (first
    | with_reducible assumption
    | with_reducible apply updPin_keeps
    | with_reducible apply offerAlarm_keeps
    | with_reducible apply KeepsO.next
    | with_reducible apply KeepsO.ite
    | with_reducible apply Keeps.ite
    | intro _
    | with_reducible refine Keeps.mk' ?_ ?_ ?_ ?_ ?_
    | exact rfl)

end Sys2Proof.Machine
end

