-- ==== Sys2Proof/Laws/KeepsTwin.lean ====
section
/-!
SUPPORT. What the operations of Machine/Twin.lean keep.
-/
namespace Sys2Proof.Machine

theorem inSequence_keeps {s0 : State} {s : State} (h_s : Keeps s0 s)  :
    Keeps s0 (inSequence s) := by
  unfold inSequence
  repeat' (first
    | with_reducible assumption
    | with_reducible apply Keeps.ite
    | intro _
    | split
    | dsimp -proj only
    | with_reducible refine Keeps.mk' ?_ ?_ ?_ ?_ ?_
    | exact rfl)

theorem noteSeq_keeps {s0 : State} {q : Nat} {s : State} (h_s : Keeps s0 s)  :
    Keeps s0 (noteSeq q s) := by
  unfold noteSeq
  repeat' (first
    | with_reducible assumption
    | intro _
    | with_reducible refine Keeps.mk' ?_ ?_ ?_ ?_ ?_
    | exact rfl)

theorem lateRecord_keeps {s0 : State} {s : State} (h_s : Keeps s0 s)  :
    Keeps s0 (lateRecord s) := by
  unfold lateRecord
  repeat' (first
    | with_reducible assumption
    | with_reducible apply setAdrift_keeps
    | intro _
    | with_reducible refine Keeps.mk' ?_ ?_ ?_ ?_ ?_
    | exact rfl)

theorem queueForward_keeps {s0 : State} {f : Forward} {p : Bytes} {s : State} (h_s : Keeps s0 s)  :
    Keeps s0 (queueForward f p s) := by
  unfold queueForward
  repeat' (first
    | with_reducible assumption
    | with_reducible apply inSequence_keeps
    | with_reducible apply withCmd_keeps
    | with_reducible apply lateRecord_keeps
    | with_reducible apply Keeps.ite
    | intro _
    | split
    | dsimp -proj only
    | with_reducible refine Keeps.mk' ?_ ?_ ?_ ?_ ?_
    | exact rfl)

theorem receiveDecision_keeps {s0 : State} {apply : Nat} {d : Decision} {s : State} (h_s : Keeps s0 s)  :
    Keeps s0 (receiveDecision apply d s) := by
  unfold receiveDecision
  repeat' (first
    | with_reducible assumption
    | with_reducible apply followDecision_keeps
    | with_reducible apply lateRecord_keeps
    | with_reducible apply Keeps.ite
    | intro _
    | with_reducible refine Keeps.mk' ?_ ?_ ?_ ?_ ?_
    | exact rfl)

theorem execTwinCommand_keeps {c : TwinCmd} {s : State} : KeepsO s (execTwinCommand c s) := by
  have h := Keeps.refl s
  unfold execTwinCommand
  repeat' (first
    | with_reducible assumption
    | with_reducible apply receiveDecision_keeps
    | with_reducible apply noteSeq_keeps
    | with_reducible apply startHandOver_keeps
    | with_reducible apply queueForward_keeps
    | with_reducible apply KeepsO.next
    | with_reducible apply KeepsO.ite
    | with_reducible apply Keeps.ite
    | intro _
    | split
    | dsimp -proj only
    | with_reducible refine Keeps.mk' ?_ ?_ ?_ ?_ ?_
    | exact rfl)

theorem catchAll_keeps {s0 : State} {b : Nat} {s : State} (h_s : Keeps s0 s)  :
    Keeps s0 (catchAll b s) := by
  unfold catchAll
  repeat' (first
    | with_reducible assumption
    | with_reducible apply catchBerth_keeps
    | intro _
    | with_reducible apply Keeps.foldl
    | with_reducible apply Keeps.foldl_snd
    | with_reducible refine Keeps.mk' ?_ ?_ ?_ ?_ ?_
    | exact rfl)

theorem concealRun_keeps {s0 : State} {c a e : Nat} {s : State} (h : Keeps s0 s) : Keeps s0 (concealRun c a e s).1 :=
  Keeps.mk' h rfl rfl rfl rfl

theorem countMirror_keeps {s0 : State} {r : State × Bool} (h : Keeps s0 r.1) : Keeps s0 (countMirror r) :=
  Keeps.ite (fun _ => Keeps.mk' h rfl rfl rfl rfl) fun _ => h

theorem catchMirrors_keeps {s0 : State} {b : Nat} {s : State} (h_s : Keeps s0 s)  :
    Keeps s0 (catchMirrors b s) := by
  unfold catchMirrors
  repeat' (first
    | with_reducible assumption
    | with_reducible apply countMirror_keeps
    | with_reducible apply Keeps.ite
    | with_reducible apply concealRun_keeps
    | intro _
    | with_reducible apply Keeps.foldl
    | with_reducible apply Keeps.foldl_snd
    | split
    | dsimp -proj only
    | with_reducible refine Keeps.mk' ?_ ?_ ?_ ?_ ?_
    | exact rfl)

theorem obeyBerth_keeps {s0 : State} {e : ManBerth} {s : State} (h_s : Keeps s0 s)  :
    Keeps s0 (obeyBerth e s) := by
  unfold obeyBerth
  repeat' (first
    | with_reducible assumption
    | with_reducible apply updRx_keeps
    | with_reducible apply Keeps.ite
    | intro _
    | with_reducible apply Keeps.foldl
    | with_reducible apply Keeps.foldl_snd
    | split
    | dsimp -proj only
    | with_reducible refine Keeps.mk' ?_ ?_ ?_ ?_ ?_
    | exact rfl)

theorem obeyFree_keeps {s0 : State} {e : ManFree} {s : State} (h_s : Keeps s0 s)  :
    Keeps s0 (obeyFree e s) := by
  unfold obeyFree
  repeat' (first
    | with_reducible assumption
    | with_reducible apply placeFree_keeps
    | with_reducible apply updRx_keeps
    | intro _
    | with_reducible apply Keeps.foldl
    | with_reducible apply Keeps.foldl_snd
    | split
    | with_reducible refine Keeps.mk' ?_ ?_ ?_ ?_ ?_
    | exact rfl)

theorem clearWritten_keeps {s0 : State} {s : State} (h_s : Keeps s0 s)  :
    Keeps s0 (clearWritten s) := by
  unfold clearWritten
  repeat' (first
    | with_reducible assumption
    | intro _
    | with_reducible refine Keeps.mk' ?_ ?_ ?_ ?_ ?_
    | exact rfl)

theorem execTwinManifest_keeps {m : Manifest} {s : State} : KeepsO s (execTwinManifest m s) := by
  have h := Keeps.refl s
  unfold execTwinManifest
  repeat' (first
    | with_reducible assumption
    | with_reducible apply obeyBerth_keeps
    | with_reducible apply clearWritten_keeps
    | with_reducible apply obeyFree_keeps
    | with_reducible apply KeepsO.next
    | with_reducible apply KeepsO.ite
    | with_reducible apply Keeps.ite
    | intro _
    | with_reducible apply Keeps.foldl
    | with_reducible apply Keeps.foldl_snd
    | split
    | dsimp -proj only
    | with_reducible refine Keeps.mk' ?_ ?_ ?_ ?_ ?_
    | exact rfl)

theorem ownBlock_keeps {s0 : State} {b : Nat} {s : State} (h_s : Keeps s0 s)  :
    Keeps s0 (ownBlock b s) := by
  unfold ownBlock
  repeat' (first
    | with_reducible assumption
    | with_reducible apply updRx_keeps
    | with_reducible apply placeFree_keeps
    | with_reducible apply clearWritten_keeps
    | with_reducible apply catchAll_keeps
    | intro _
    | with_reducible apply Keeps.foldl
    | with_reducible apply Keeps.foldl_snd
    | with_reducible refine Keeps.mk' ?_ ?_ ?_ ?_ ?_
    | exact rfl)

theorem execManifestTimeout_keeps {s : State} : KeepsO s (execManifestTimeout s) := by
  have h := Keeps.refl s
  unfold execManifestTimeout
  repeat' (first
    | with_reducible assumption
    | with_reducible apply ownBlock_keeps
    | with_reducible apply KeepsO.next
    | with_reducible apply KeepsO.ite
    | with_reducible apply Keeps.ite
    | intro _
    | split
    | with_reducible refine Keeps.mk' ?_ ?_ ?_ ?_ ?_
    | exact rfl)

theorem execWantPoint_keeps {s : State} : KeepsO s (execWantPoint s) := by
  have h := Keeps.refl s
  unfold execWantPoint
  repeat' (first
    | with_reducible assumption
    | with_reducible apply sendTwin_keeps
    | with_reducible apply KeepsO.next
    | with_reducible apply KeepsO.ite
    | with_reducible apply Keeps.ite
    | intro _
    | with_reducible refine Keeps.mk' ?_ ?_ ?_ ?_ ?_
    | exact rfl)

theorem sendRepairs_keeps {s0 : State} {wants : List Sys2Proof.Want} {s : State} (h_s : Keeps s0 s)  :
    Keeps s0 (sendRepairs wants s) := by
  unfold sendRepairs
  repeat' (first
    | with_reducible assumption
    | with_reducible apply sendTwin_keeps
    | intro _
    | with_reducible apply Keeps.foldl
    | with_reducible apply Keeps.foldl_snd
    | with_reducible refine Keeps.mk' ?_ ?_ ?_ ?_ ?_
    | exact rfl)

theorem execTwinWant_keeps {block : Nat} {wants : List Want} {s : State} : KeepsO s (execTwinWant block wants s) := by
  have h := Keeps.refl s
  unfold execTwinWant
  repeat' (first
    | with_reducible assumption
    | with_reducible apply sendRepairs_keeps
    | with_reducible apply KeepsO.next
    | with_reducible apply KeepsO.ite
    | with_reducible apply Keeps.ite
    | intro _
    | with_reducible refine Keeps.mk' ?_ ?_ ?_ ?_ ?_
    | exact rfl)

theorem execTwinRepair_keeps {rep : Repair} {s : State} : KeepsO s (execTwinRepair rep s) := by
  have h := Keeps.refl s
  unfold execTwinRepair
  repeat' (first
    | with_reducible assumption
    | with_reducible apply updRx_keeps
    | with_reducible apply KeepsO.next
    | with_reducible apply KeepsO.ite
    | with_reducible apply Keeps.ite
    | intro _
    | with_reducible apply Keeps.foldl
    | with_reducible apply Keeps.foldl_snd
    | split
    | dsimp -proj only
    | with_reducible refine Keeps.mk' ?_ ?_ ?_ ?_ ?_
    | exact rfl)

theorem execTwinMirror_keeps {mir : Mirror} {s : State} : KeepsO s (execTwinMirror mir s) := by
  have h := Keeps.refl s
  unfold execTwinMirror
  repeat' (first
    | with_reducible assumption
    | with_reducible apply KeepsO.next
    | with_reducible apply KeepsO.ite
    | with_reducible apply Keeps.ite
    | intro _
    | with_reducible apply Keeps.foldl
    | with_reducible apply Keeps.foldl_snd
    | with_reducible refine Keeps.mk' ?_ ?_ ?_ ?_ ?_
    | exact rfl)

theorem execTwinDigest_keeps {block crc : Nat} {s : State} : KeepsO s (execTwinDigest block crc s) := by
  have h := Keeps.refl s
  unfold execTwinDigest
  repeat' (first
    | with_reducible assumption
    | with_reducible apply compareDigest_keeps
    | with_reducible apply KeepsO.next
    | with_reducible apply KeepsO.ite
    | with_reducible apply Keeps.ite
    | intro _
    | with_reducible refine Keeps.mk' ?_ ?_ ?_ ?_ ?_
    | exact rfl)

theorem compareCheck_keeps {s0 : State} {k : Nat} {s : State} (h_s : Keeps s0 s)  :
    Keeps s0 (compareCheck k s) := by
  unfold compareCheck
  repeat' (first
    | with_reducible assumption
    | with_reducible apply setAdrift_keeps
    | with_reducible apply Keeps.ite
    | intro _
    | split
    | dsimp -proj only
    | with_reducible refine Keeps.mk' ?_ ?_ ?_ ?_ ?_
    | exact rfl)

theorem execTwinCheck_keeps {c : Check} {s : State} : KeepsO s (execTwinCheck c s) := by
  have h := Keeps.refl s
  unfold execTwinCheck
  repeat' (first
    | with_reducible assumption
    | with_reducible apply compareCheck_keeps
    | with_reducible apply KeepsO.next
    | with_reducible apply KeepsO.ite
    | with_reducible apply Keeps.ite
    | intro _
    | split
    | dsimp -proj only
    | with_reducible refine Keeps.mk' ?_ ?_ ?_ ?_ ?_
    | exact rfl)

end Sys2Proof.Machine
end

