-- ==== Sys2Proof/Laws/KeepsWarp.lean ====
section
/-!
SUPPORT. What the operations of Machine/Warp.lean keep.
-/
namespace Sys2Proof.Machine

theorem updWarp_keeps {s0 : State} {f : Warp → Warp} {s : State} (h_s : Keeps s0 s)  :
    Keeps s0 (updWarp f s) := by
  unfold updWarp
  repeat' (first
    | with_reducible assumption
    | intro _
    | with_reducible refine Keeps.mk' ?_ ?_ ?_ ?_ ?_
    | exact rfl)

theorem sendSegs_keeps {s0 : State} {l : List WarpSeg} {s : State} (h_s : Keeps s0 s)  :
    Keeps s0 (sendSegs l s) := by
  unfold sendSegs
  repeat' (first
    | with_reducible assumption
    | with_reducible apply sendSeg_keeps
    | intro _
    | with_reducible apply Keeps.foldl
    | with_reducible apply Keeps.foldl_snd
    | with_reducible refine Keeps.mk' ?_ ?_ ?_ ?_ ?_
    | exact rfl)

theorem warpTick_keeps {s0 : State} {s : State} (h_s : Keeps s0 s)  :
    Keeps s0 (warpTick s) := by
  unfold warpTick
  repeat' (first
    | with_reducible assumption
    | with_reducible apply sendSegs_keeps
    | with_reducible apply sendTwin_keeps
    | with_reducible apply updWarp_keeps
    | with_reducible apply Keeps.ite
    | intro _
    | split
    | with_reducible refine Keeps.mk' ?_ ?_ ?_ ?_ ?_
    | exact rfl)

theorem warpEmit_keeps {s0 : State} {b : Nat} {s : State} (h_s : Keeps s0 s)  :
    Keeps s0 (warpEmit b s) := by
  unfold warpEmit
  repeat' (first
    | with_reducible assumption
    | with_reducible apply sendTwin_keeps
    | with_reducible apply sendSegs_keeps
    | with_reducible apply updWarp_keeps
    | with_reducible apply Keeps.ite
    | intro _
    | split
    | dsimp -proj only
    | with_reducible refine Keeps.mk' ?_ ?_ ?_ ?_ ?_
    | exact rfl)

/-- A warp image leaves SAFE. -/
theorem image_safe {w v : BitVec 16} (h : w.getLsbD mSafe = true) : (w &&& ~~~imageFlags ||| v &&& imageFlags).getLsbD mSafe = true := by
  have e : imageFlags.getLsbD mSafe = false := by decide
  simp only [BitVec.getLsbD_or, BitVec.getLsbD_and, BitVec.getLsbD_not, e, h, Bool.not_false, Bool.and_true, Bool.and_false, Bool.or_false]
  decide

theorem loadSeg_keeps {s0 : State} {seg : WarpSeg} {w : Warp} {s : State} (h_s : Keeps s0 s)  :
    Keeps s0 (loadSeg seg w s) := by
  unfold loadSeg
  repeat' (first
    | with_reducible assumption
    | with_reducible apply updMute_keeps
    | with_reducible apply updDest_keeps
    | with_reducible apply withCmd_keeps
    | with_reducible apply noseFollow_keeps
    | with_reducible apply setWord_keeps
    | with_reducible apply Keeps.ite
    | exact fun _ => .inr (by assumption)
    | exact image_safe
    | intro _
    | split
    | dsimp -proj only
    | (refine Keeps.claims (by assumption) ?_; intro k; simp only [List.length_drop]; omega)
    | with_reducible refine Keeps.mk' ?_ ?_ ?_ ?_ ?_
    | exact rfl)

theorem loadControl_keeps {s0 : State} {c : ImageControl} {w : Warp} {s : State} (h_s : Keeps s0 s)  :
    Keeps s0 (loadControl c w s) := by
  unfold loadControl
  extract_lets has t m u
  have ht : Keeps s0 t := Keeps.foldl h_s fun _ _ k => loadSeg_keeps k
  have hu : Keeps s0 u := Keeps.ite (fun _ => ht) fun _ => clearBase_keeps (ht.mk' rfl rfl rfl rfl)
  clear_value u
  exact Keeps.mkB hu rfl rfl rfl fun k => ⟨Nat.le_trans (List.length_filter_le _ _) k.1, k.2⟩

theorem takeSeg_keeps {s0 : State} {seg : WarpSeg} {w : Warp} {s : State} (h_s : Keeps s0 s)  :
    Keeps s0 (takeSeg seg w s) := by
  unfold takeSeg
  repeat' (first
    | with_reducible assumption
    | with_reducible apply loadControl_keeps
    | with_reducible apply updWarp_keeps
    | with_reducible apply loadSeg_keeps
    | with_reducible apply Keeps.ite
    | intro _
    | split
    | with_reducible refine Keeps.mk' ?_ ?_ ?_ ?_ ?_
    | exact rfl)

theorem execTwinWarpData_keeps {seg : WarpSeg} {bytes : Nat} {s : State} : KeepsO s (execTwinWarpData seg bytes s) := by
  have h := Keeps.refl s
  unfold execTwinWarpData
  repeat' (first
    | with_reducible assumption
    | with_reducible apply takeSeg_keeps
    | with_reducible apply updWarp_keeps
    | with_reducible apply sendTwin_keeps
    | with_reducible apply KeepsO.next
    | with_reducible apply KeepsO.ite
    | with_reducible apply Keeps.ite
    | intro _
    | split
    | dsimp -proj only
    | with_reducible refine Keeps.mk' ?_ ?_ ?_ ?_ ?_
    | exact rfl)

theorem nameSlice_keeps {s0 : State} {k : Nat} {outs : List Nat} {s : State} (h_s : Keeps s0 s)  :
    Keeps s0 (nameSlice k outs s) := by
  unfold nameSlice
  repeat' (first
    | with_reducible assumption
    | with_reducible apply updWarp_keeps
    | intro _
    | with_reducible refine Keeps.mk' ?_ ?_ ?_ ?_ ?_
    | exact rfl)

theorem execTwinWarpControl_keeps {c : WarpCtl} {s : State} : KeepsO s (execTwinWarpControl c s) := by
  have h := Keeps.refl s
  unfold execTwinWarpControl
  repeat' (first
    | with_reducible assumption
    | with_reducible apply updWarp_keeps
    | with_reducible apply startWarp_keeps
    | with_reducible apply sendTwin_keeps
    | with_reducible apply nameSlice_keeps
    | with_reducible apply failWarp_keeps
    | with_reducible apply twinEvent_keeps
    | with_reducible apply KeepsO.next
    | with_reducible apply KeepsO.ite
    | with_reducible apply Keeps.ite
    | intro _
    | split
    | dsimp -proj only
    | with_reducible refine Keeps.mk' ?_ ?_ ?_ ?_ ?_
    | exact rfl)

theorem bridgesAt_keeps {s0 : State} {b : Nat} {s : State} (h_s : Keeps s0 s)  :
    Keeps s0 (bridgesAt b s) := by
  unfold bridgesAt
  repeat' (first
    | with_reducible assumption
    | with_reducible apply Keeps.ite
    | intro _
    | with_reducible apply Keeps.foldl
    | with_reducible apply Keeps.foldl_snd
    | split
    | with_reducible refine Keeps.mk' ?_ ?_ ?_ ?_ ?_
    | exact rfl)

theorem againInputs_keeps {s0 : State} {b : Nat} {s : State} (h_s : Keeps s0 s)  :
    Keeps s0 (againInputs b s) := by
  unfold againInputs
  repeat' (first
    | with_reducible assumption
    | with_reducible apply sillageWrites_keeps
    | with_reducible apply inputBlock_keeps
    | with_reducible apply bridgesAt_keeps
    | intro _
    | with_reducible refine Keeps.mk' ?_ ?_ ?_ ?_ ?_
    | exact rfl)

theorem inputCut_keeps {s0 : State} {b : Nat} {s : State} (h_s : Keeps s0 s)  :
    Keeps s0 (inputCut b s) := by
  unfold inputCut
  repeat' (first
    | with_reducible assumption
    | with_reducible apply sendTwin_keeps
    | with_reducible apply updWarp_keeps
    | with_reducible apply writeLong_keeps
    | with_reducible apply againInputs_keeps
    | with_reducible apply Keeps.ite
    | intro _
    | with_reducible apply Keeps.foldl
    | with_reducible apply Keeps.foldl_snd
    | split
    | dsimp -proj only
    | with_reducible refine Keeps.mk' ?_ ?_ ?_ ?_ ?_
    | exact rfl)

theorem execWarpInputCut_keeps {s : State} : KeepsO s (execWarpInputCut s) := by
  have h := Keeps.refl s
  unfold execWarpInputCut
  repeat' (first
    | with_reducible assumption
    | with_reducible apply inputCut_keeps
    | with_reducible apply KeepsO.next
    | with_reducible apply KeepsO.ite
    | intro _
    | with_reducible refine Keeps.mk' ?_ ?_ ?_ ?_ ?_
    | exact rfl)

theorem carrySlice_keeps {s0 : State} {k : Nat} {s : State} (h_s : Keeps s0 s)  :
    Keeps s0 (carrySlice k s) := by
  unfold carrySlice
  repeat' (first
    | with_reducible assumption
    | with_reducible apply updWarp_keeps
    | with_reducible apply Keeps.ite
    | intro _
    | split
    | dsimp -proj only
    | with_reducible refine Keeps.mk' ?_ ?_ ?_ ?_ ?_
    | exact rfl)

theorem captureSlice_keeps {s0 : State} {b : Nat} {s : State} (h_s : Keeps s0 s)  :
    Keeps s0 (captureSlice b s) := by
  unfold captureSlice
  repeat' (first
    | with_reducible assumption
    | with_reducible apply updWarp_keeps
    | with_reducible apply Keeps.ite
    | intro _
    | split
    | with_reducible refine Keeps.mk' ?_ ?_ ?_ ?_ ?_
    | exact rfl)

theorem loadStash_keeps {s0 : State} {l : Slice} {w : Warp} {s : State} (h_s : Keeps s0 s)  :
    Keeps s0 (loadStash l w s).2 := by
  unfold loadStash
  repeat' (first
    | with_reducible assumption
    | with_reducible apply updOutChain_keeps
    | with_reducible apply loadSeg_keeps
    | with_reducible apply Keeps.ite
    | with_reducible apply Keeps.ite_snd
    | intro _
    | with_reducible apply Keeps.foldl
    | with_reducible apply Keeps.foldl_snd
    | split
    | with_reducible refine Keeps.mk' ?_ ?_ ?_ ?_ ?_
    | exact rfl)

theorem againSlice_keeps {s0 : State} {b : Nat} {l : Slice} {s : State} (h_s : Keeps s0 s)  :
    Keeps s0 (againSlice b l s).2 := by
  unfold againSlice
  repeat' (first
    | with_reducible assumption
    | with_reducible apply outputBlock_keeps
    | with_reducible apply routeBlock_keeps
    | with_reducible apply Keeps.ite
    | with_reducible apply Keeps.ite_snd
    | intro _
    | with_reducible apply Keeps.foldl
    | with_reducible apply Keeps.foldl_snd
    | with_reducible refine Keeps.mk' ?_ ?_ ?_ ?_ ?_
    | exact rfl)

theorem againChanges_keeps {s0 : State} {b : Nat} {l : Slice} {acted : List (Nat × Cmd)} {s : State} (h_s : Keeps s0 s)  :
    Keeps s0 (againChanges b l acted s) := by
  unfold againChanges
  repeat' (first
    | with_reducible assumption
    | with_reducible apply applyCmd_keeps
    | with_reducible apply endFades_keeps
    | with_reducible apply dropXps_keeps
    | with_reducible apply startBindings_keeps
    | with_reducible apply startWaiting_keeps
    | intro _
    | with_reducible apply Keeps.foldl
    | with_reducible apply Keeps.foldl_snd
    | with_reducible refine Keeps.mk' ?_ ?_ ?_ ?_ ?_
    | exact rfl)

theorem cutOne_keeps {s0 : State} {l : Slice} {w : Warp} {s : State} (h_s : Keeps s0 s)  :
    Keeps s0 (cutOne l w s) := by
  unfold cutOne
  repeat' (first
    | with_reducible assumption
    | with_reducible apply loadStash_keeps
    | with_reducible apply againSlice_keeps
    | with_reducible apply againChanges_keeps
    | with_reducible apply Keeps.ite
    | intro _
    | with_reducible refine Keeps.mk' ?_ ?_ ?_ ?_ ?_
    | exact rfl)

theorem cutSlice_keeps {s0 : State} {b : Nat} {s : State} (h_s : Keeps s0 s)  :
    Keeps s0 (cutSlice b s) := by
  unfold cutSlice
  repeat' (first
    | with_reducible assumption
    | with_reducible apply updWarp_keeps
    | with_reducible apply cutOne_keeps
    | with_reducible apply Keeps.ite
    | intro _
    | split
    | with_reducible refine Keeps.mk' ?_ ?_ ?_ ?_ ?_
    | exact rfl)

theorem warpCompute_keeps {s0 : State} {b : Nat} {s : State} (h_s : Keeps s0 s)  :
    Keeps s0 (warpCompute b s) := by
  unfold warpCompute
  repeat' (first
    | with_reducible assumption
    | with_reducible apply cutSlice_keeps
    | with_reducible apply captureSlice_keeps
    | with_reducible apply inputCut_keeps
    | intro _
    | with_reducible refine Keeps.mk' ?_ ?_ ?_ ?_ ?_
    | exact rfl)

theorem execWarpSlice_keeps {outputs : List (Fin 512)} {s : State} : KeepsO s (execWarpSlice outputs s) := by
  have h := Keeps.refl s
  unfold execWarpSlice
  repeat' (first
    | with_reducible assumption
    | with_reducible apply sendSegs_keeps
    | with_reducible apply sendTwin_keeps
    | with_reducible apply nameSlice_keeps
    | with_reducible apply cutSlice_keeps
    | with_reducible apply KeepsO.next
    | with_reducible apply KeepsO.ite
    | with_reducible apply Keeps.ite
    | intro _
    | split
    | dsimp -proj only
    | with_reducible refine Keeps.mk' ?_ ?_ ?_ ?_ ?_
    | exact rfl)

theorem execWarpRejoin_keeps {s : State} : KeepsO s (execWarpRejoin s) := by
  have h := Keeps.refl s
  unfold execWarpRejoin
  repeat' (first
    | with_reducible assumption
    | with_reducible apply setFlag_keeps
    | with_reducible apply sendTwin_keeps
    | with_reducible apply twinEvent_keeps
    | with_reducible apply KeepsO.next
    | with_reducible apply KeepsO.ite
    | with_reducible apply Keeps.ite
    | exact fun _ => SetOk.coast _ _
    | exact fun _ => SetOk.shallow _ _
    | exact fun _ => SetOk.release _
    | exact fun _ => SetOk.rejoin _
    | intro _
    | split
    | dsimp -proj only
    | with_reducible refine Keeps.mk' ?_ ?_ ?_ ?_ ?_
    | exact rfl)

theorem execWarpAbandon_keeps {s : State} : KeepsO s (execWarpAbandon s) := by
  have h := Keeps.refl s
  unfold execWarpAbandon
  repeat' (first
    | with_reducible assumption
    | with_reducible apply autoWarp_keeps
    | with_reducible apply abandonWarp_keeps
    | with_reducible apply KeepsO.next
    | with_reducible apply KeepsO.ite
    | with_reducible apply Keeps.ite
    | intro _
    | with_reducible refine Keeps.mk' ?_ ?_ ?_ ?_ ?_
    | exact rfl)

end Sys2Proof.Machine
end

