-- ==== Sys2Proof/Laws/KeepsBlock.lean ====
section
/-!
SUPPORT. What the operations of Machine/Block.lean keep.
-/
namespace Sys2Proof.Machine

theorem setMarks_keeps {s0 : State} {mark : Nat} {s : State} (h_s : Keeps s0 s)  :
    Keeps s0 (setMarks mark s) := by
  unfold setMarks
  repeat' (first
    | with_reducible assumption
    | intro _
    | with_reducible apply Keeps.foldl
    | with_reducible apply Keeps.foldl_snd
    | with_reducible refine Keeps.mk' ?_ ?_ ?_ ?_ ?_
    | exact rfl)

theorem moveSlots_keeps {s0 : State} {s : State} (h_s : Keeps s0 s)  :
    Keeps s0 (moveSlots s) := by
  unfold moveSlots
  repeat' (first
    | with_reducible assumption
    | with_reducible apply updObjStat_keeps
    | intro _
    | with_reducible apply Keeps.foldl
    | with_reducible apply Keeps.foldl_snd
    | split
    | dsimp -proj only
    | with_reducible refine Keeps.mk' ?_ ?_ ?_ ?_ ?_
    | exact rfl)

theorem rescaleRend_keeps {s0 : State} {old new : Nat} {s : State} (h_s : Keeps s0 s)  :
    Keeps s0 (rescaleRend old new s) := by
  unfold rescaleRend
  repeat' (first
    | with_reducible assumption
    | with_reducible apply moveRend_keeps
    | intro _
    | with_reducible refine Keeps.mk' ?_ ?_ ?_ ?_ ?_
    | exact rfl)

theorem rescaleRest_keeps {s0 : State} {old new : Nat} {s : State} (h_s : Keeps s0 s)  :
    Keeps s0 (rescaleRest old new s) := by
  unfold rescaleRest
  repeat' (first
    | with_reducible assumption
    | with_reducible apply moveStamps_keeps
    | with_reducible apply Keeps.ite
    | intro _
    | with_reducible refine Keeps.mk' ?_ ?_ ?_ ?_ ?_
    | exact rfl)

theorem rateChange_keeps {s0 : State} {h : Nat} {s : State} (h_s : Keeps s0 s)  :
    Keeps s0 (rateChange h s) := by
  unfold rateChange
  repeat' (first
    | with_reducible assumption
    | with_reducible apply rescaleRest_keeps
    | with_reducible apply rescaleRend_keeps
    | with_reducible apply abandonWarp_keeps
    | with_reducible apply moveSlots_keeps
    | with_reducible apply discardRender_keeps
    | with_reducible apply Keeps.ite
    | intro _
    | with_reducible refine Keeps.mk' ?_ ?_ ?_ ?_ ?_
    | exact rfl)

theorem resumeRender_keeps {s0 : State} {s : State} (h_s : Keeps s0 s)  :
    Keeps s0 (resumeRender s) := by
  unfold resumeRender
  repeat' (first
    | with_reducible assumption
    | with_reducible apply setMarks_keeps
    | with_reducible apply Keeps.ite
    | intro _
    | with_reducible refine Keeps.mk' ?_ ?_ ?_ ?_ ?_
    | exact rfl)

theorem catchChange_keeps {s0 : State} {l : Nat} {s : State} (h_s : Keeps s0 s)  :
    Keeps s0 (catchChange l s) := by
  unfold catchChange
  repeat' (first
    | with_reducible assumption
    | with_reducible apply abandonWarp_keeps
    | with_reducible apply Keeps.ite
    | intro _
    | with_reducible refine Keeps.mk' ?_ ?_ ?_ ?_ ?_
    | exact rfl)

theorem instantChanges_keeps {s0 : State} {s : State} (h_s : Keeps s0 s)  :
    Keeps s0 (instantChanges s) := by
  unfold instantChanges
  repeat' (first
    | with_reducible assumption
    | with_reducible apply timeBoundary_keeps
    | with_reducible apply catchChange_keeps
    | with_reducible apply rateChange_keeps
    | with_reducible apply applyDue_keeps
    | with_reducible apply bindLocal_keeps
    | with_reducible apply takeDecisions_keeps
    | with_reducible apply Keeps.ite
    | intro _
    | split
    | dsimp -proj only
    | with_reducible refine Keeps.mk' ?_ ?_ ?_ ?_ ?_
    | exact rfl)

theorem noteActed_keeps {s0 : State} {b : Nat} {s : State} (h_s : Keeps s0 s)  :
    Keeps s0 (noteActed b s) := by
  unfold noteActed
  repeat' (first
    | with_reducible assumption
    | with_reducible apply forCmds_keeps
    | with_reducible apply resolveCmd_keeps
    | with_reducible apply updWarp_keeps
    | with_reducible apply Keeps.ite
    | intro _
    | split
    | dsimp -proj only
    | with_reducible refine Keeps.mk' ?_ ?_ ?_ ?_ ?_
    | exact rfl)

theorem blockChanges_keeps {s0 : State} {b : Nat} {s : State} (h_s : Keeps s0 s)  :
    Keeps s0 (blockChanges b s) := by
  unfold blockChanges
  repeat' (first
    | with_reducible assumption
    | with_reducible apply leaveShallow_keeps
    | with_reducible apply drydownBlock_keeps
    | with_reducible apply applyDue_keeps
    | with_reducible apply noteActed_keeps
    | with_reducible apply endFades_keeps
    | with_reducible apply dropXps_keeps
    | with_reducible apply startBindings_keeps
    | with_reducible apply startWaiting_keeps
    | with_reducible apply swapTables_keeps
    | with_reducible apply sweepExcite_keeps
    | with_reducible apply sweepBegin_keeps
    | with_reducible apply handOverBlock_keeps
    | with_reducible apply Keeps.ite
    | intro _
    | with_reducible refine Keeps.mk' ?_ ?_ ?_ ?_ ?_
    | exact rfl)

theorem boundaryWork_keeps {s0 : State} {s : State} (h_s : Keeps s0 s)  :
    Keeps s0 (boundaryWork s) := by
  unfold boundaryWork
  repeat' (first
    | with_reducible assumption
    | with_reducible apply clearCounters_keeps
    | with_reducible apply recycleRings_keeps
    | with_reducible apply loopTargets_keeps
    | with_reducible apply eventDatagrams_keeps
    | with_reducible apply overflowEntry_keeps
    | with_reducible apply serve_keeps
    | with_reducible apply warpTick_keeps
    | with_reducible apply autoWarp_keeps
    | with_reducible apply syncWatch_keeps
    | with_reducible apply ungateNeeded_keeps
    | with_reducible apply Keeps.ite
    | intro _
    | with_reducible refine Keeps.mk' ?_ ?_ ?_ ?_ ?_
    | exact rfl)

theorem execBlockBoundary_keeps {s : State} : KeepsO s (execBlockBoundary s) := by
  have h := Keeps.refl s
  unfold execBlockBoundary
  repeat' (first
    | with_reducible assumption
    | with_reducible apply resumeRender_keeps
    | with_reducible apply instantChanges_keeps
    | with_reducible apply restoreAccords_keeps
    | with_reducible apply settleDue_keeps
    | with_reducible apply blockChanges_keeps
    | with_reducible apply boundaryWork_keeps
    | with_reducible apply KeepsO.next
    | with_reducible apply KeepsO.ite
    | with_reducible apply Keeps.ite
    | intro _
    | with_reducible refine Keeps.mk' ?_ ?_ ?_ ?_ ?_
    | exact rfl)

theorem idle_keeps {s0 : State} {s : State} (h_s : Keeps s0 s)  :
    Keeps s0 (idle s) := by
  unfold idle
  repeat' (first
    | with_reducible assumption
    | with_reducible apply Keeps.ite
    | intro _
    | with_reducible refine Keeps.mk' ?_ ?_ ?_ ?_ ?_
    | exact rfl)

theorem snapshotTick_keeps {s0 : State} {k : Nat} {s : State} (h_s : Keeps s0 s)  :
    Keeps s0 (snapshotTick k s) := by
  unfold snapshotTick
  repeat' (first
    | with_reducible assumption
    | with_reducible apply carrySlice_keeps
    | with_reducible apply swapTables_keeps
    | with_reducible apply followShallow_keeps
    | with_reducible apply takeDecisions_keeps
    | with_reducible apply settleDue_keeps
    | with_reducible apply applyDue_keeps
    | with_reducible apply solveTick_keeps
    | with_reducible apply compareCheck_keeps
    | with_reducible apply Keeps.ite
    | intro _
    | with_reducible refine Keeps.mk' ?_ ?_ ?_ ?_ ?_
    | exact rfl)

theorem execSceneSnapshot_keeps {s : State} : KeepsO s (execSceneSnapshot s) := by
  have h := Keeps.refl s
  unfold execSceneSnapshot
  repeat' (first
    | with_reducible assumption
    | with_reducible apply snapshotTick_keeps
    | with_reducible apply KeepsO.next
    | with_reducible apply KeepsO.ite
    | with_reducible apply Keeps.ite
    | intro _
    | with_reducible refine Keeps.mk' ?_ ?_ ?_ ?_ ?_
    | exact rfl)

theorem placeAnalogue_keeps {s0 : State} {l : LocalIn} {s : State} (h_s : Keeps s0 s)  :
    Keeps s0 (placeAnalogue l s) := by
  unfold placeAnalogue
  repeat' (first
    | with_reducible assumption
    | with_reducible apply updAnaIn_keeps
    | with_reducible apply Keeps.ite
    | intro _
    | with_reducible apply Keeps.foldl
    | with_reducible apply Keeps.foldl_snd
    | split
    | dsimp -proj only
    | with_reducible refine Keeps.mk' ?_ ?_ ?_ ?_ ?_
    | exact rfl)

theorem placeTdm_keeps {s0 : State} {l : LocalIn} {s : State} (h_s : Keeps s0 s)  :
    Keeps s0 (placeTdm l s) := by
  unfold placeTdm
  repeat' (first
    | with_reducible assumption
    | with_reducible apply updTdm_keeps
    | with_reducible apply Keeps.ite
    | intro _
    | with_reducible apply Keeps.foldl
    | with_reducible apply Keeps.foldl_snd
    | split
    | dsimp -proj only
    | with_reducible refine Keeps.mk' ?_ ?_ ?_ ?_ ?_
    | exact rfl)

theorem placeLocal_keeps {s0 : State} {l : LocalIn} {s : State} (h_s : Keeps s0 s)  :
    Keeps s0 (placeLocal l s) := by
  unfold placeLocal
  repeat' (first
    | with_reducible assumption
    | with_reducible apply placeTdm_keeps
    | with_reducible apply placeAnalogue_keeps
    | with_reducible apply Keeps.ite
    | intro _
    | with_reducible refine Keeps.mk' ?_ ?_ ?_ ?_ ?_
    | exact rfl)

theorem shortPath_keeps {s0 : State} {inputs : List LocalIn} {s : State} (h_s : Keeps s0 s)  :
    Keeps s0 (shortPath inputs s) := by
  unfold shortPath
  repeat' (first
    | with_reducible assumption
    | with_reducible apply updAnaOut_keeps
    | with_reducible apply Keeps.ite
    | intro _
    | with_reducible apply Keeps.foldl
    | with_reducible apply Keeps.foldl_snd
    | with_reducible refine Keeps.mk' ?_ ?_ ?_ ?_ ?_
    | exact rfl)

theorem sendMirrors_keeps {s0 : State} {inputs : List LocalIn} {s : State} (h_s : Keeps s0 s)  :
    Keeps s0 (sendMirrors inputs s) := by
  unfold sendMirrors
  repeat' (first
    | with_reducible assumption
    | with_reducible apply sendTwin_keeps
    | with_reducible apply Keeps.ite
    | intro _
    | with_reducible apply Keeps.foldl
    | with_reducible apply Keeps.foldl_snd
    | split
    | dsimp -proj only
    | with_reducible refine Keeps.mk' ?_ ?_ ?_ ?_ ?_
    | exact rfl)

theorem sendPresence_keeps {s0 : State} {b : Nat} {inputs : List LocalIn} {s : State} (h_s : Keeps s0 s)  :
    Keeps s0 (sendPresence b inputs s) := by
  unfold sendPresence
  repeat' (first
    | with_reducible assumption
    | with_reducible apply sendRepairs_keeps
    | with_reducible apply sendMirrors_keeps
    | with_reducible apply sendTwin_keeps
    | with_reducible apply Keeps.ite
    | intro _
    | with_reducible refine Keeps.mk' ?_ ?_ ?_ ?_ ?_
    | exact rfl)

theorem catchBlock_keeps {s0 : State} {b : Nat} {inputs : List LocalIn} {s : State} (h_s : Keeps s0 s)  :
    Keeps s0 (catchBlock b inputs s) := by
  unfold catchBlock
  repeat' (first
    | with_reducible assumption
    | with_reducible apply shortPath_keeps
    | with_reducible apply placeLocal_keeps
    | with_reducible apply sendPresence_keeps
    | with_reducible apply catchMirrors_keeps
    | with_reducible apply clearWritten_keeps
    | with_reducible apply catchAll_keeps
    | with_reducible apply Keeps.ite
    | intro _
    | with_reducible apply Keeps.foldl
    | with_reducible apply Keeps.foldl_snd
    | with_reducible refine Keeps.mk' ?_ ?_ ?_ ?_ ?_
    | exact rfl)

theorem execCatchDeadline_keeps {inputs : List LocalIn} {s : State} : KeepsO s (execCatchDeadline inputs s) := by
  have h := Keeps.refl s
  unfold execCatchDeadline
  repeat' (first
    | with_reducible assumption
    | with_reducible apply catchBlock_keeps
    | with_reducible apply KeepsO.next
    | with_reducible apply KeepsO.ite
    | with_reducible apply Keeps.ite
    | intro _
    | with_reducible refine Keeps.mk' ?_ ?_ ?_ ?_ ?_
    | exact rfl)

theorem computeSlot_keeps {s0 : State} {b : Nat} {s : State} (h_s : Keeps s0 s)  :
    Keeps s0 (computeSlot b s) := by
  unfold computeSlot
  repeat' (first
    | with_reducible assumption
    | with_reducible apply ownBlock_keeps
    | with_reducible apply warpCompute_keeps
    | with_reducible apply dozeBlock_keeps
    | with_reducible apply computeBlock_keeps
    | with_reducible apply drydownStep_keeps
    | with_reducible apply Keeps.ite
    | intro _
    | with_reducible refine Keeps.mk' ?_ ?_ ?_ ?_ ?_
    | exact rfl)

theorem execComputeSlot_keeps {s : State} : KeepsO s (execComputeSlot s) := by
  have h := Keeps.refl s
  unfold execComputeSlot
  repeat' (first
    | with_reducible assumption
    | with_reducible apply computeSlot_keeps
    | with_reducible apply KeepsO.next
    | with_reducible apply KeepsO.ite
    | with_reducible apply Keeps.ite
    | intro _
    | with_reducible refine Keeps.mk' ?_ ?_ ?_ ?_ ?_
    | exact rfl)

theorem execEmitSlot_keeps {s : State} : KeepsO s (execEmitSlot s) := by
  have h := Keeps.refl s
  unfold execEmitSlot
  repeat' (first
    | with_reducible assumption
    | with_reducible apply warpEmit_keeps
    | with_reducible apply emitBlock_keeps
    | with_reducible apply KeepsO.next
    | with_reducible apply KeepsO.ite
    | with_reducible apply Keeps.ite
    | intro _
    | with_reducible refine Keeps.mk' ?_ ?_ ?_ ?_ ?_
    | exact rfl)

end Sys2Proof.Machine
end

