-- ==== Sys2Proof/Laws/Map.lean ====
section
/-!
SUPPORT. The memory map: samples lie inside their partitions, no two samples that live at once share an address, and a granule
lies in one DRAM channel.
-/
namespace Sys2Proof.Machine

/-- A near-window sample lies in the near-window partition (R86, Table 13.5). -/
theorem nearAddr_in_partition {slot i : Nat} (h : slot < 512) : 0x10000000 ≤ nearAddr slot i ∧ nearAddr slot i < 0x11000000 := by
  unfold nearAddr; omega

/-- Two samples of one slot share a near-window address only when their stamps differ by a multiple of 8,192 (R86). -/
theorem nearAddr_eq_iff {slot i j : Nat} : nearAddr slot i = nearAddr slot j ↔ i % 8192 = j % 8192 := by
  unfold nearAddr; omega

/-- A long-line sample lies in the sillage partition (R86, Table 13.7). -/
theorem longOffset_in_partition {slot i : Nat} (h : slot < 512) :
    0x1C0000000 ≤ longOffset slot i ∧ longOffset slot i < 0x1C0000000 + 0x17700000 := by
  unfold longOffset; omega

/-- The 32 samples of a granule lie in one DRAM channel (R86, R370). -/
theorem granule_one_channel {slot g k : Nat} (h : k < 32) :
    dramChannel (longOffset slot (32 * g + k)) = dramChannel (longOffset slot (32 * g)) := by
  unfold dramChannel longOffset; omega

end Sys2Proof.Machine
end

