-- ==== Sys2Proof/WellFormed.lean ====
section
/-!
DEFINITION. Well-formed commands: operands that the wires, the rings and the link can carry. What the block itself refuses
is no matter of form: it has its answer.
-/
namespace Sys2Proof

/-- A crane descriptor fits Table 11.12. -/
def CraneDesc.wf (d : CraneDesc) : Bool :=
  d.via < 256 && d.length < 4294967296 && d.address < 2 ^ 64 && (d.digest.length == 32 || d.digest.isEmpty)

/-- A store header fits R324. -/
def StoreHdr.wf (h : StoreHdr) : Bool := h.store < 256 && h.dir < 256 && h.offset < 2 ^ 64 && h.length < 4294967296

/-- A request entry fits Table 11.10: field widths, the payload by its kind, the tag. -/
def Req.wf (r : Req) : Bool :=
  r.rank < 8 && r.heart < 4 && r.seq < 4294967296 && r.apply < 2 ^ 64 && r.poff < 65536 &&
  (match r.pkind with
   | .inline => r.payload.length ≤ (if r.ret.isSome then 136 else 200)
   | .bulk => 1 ≤ r.payload.length && r.payload.length ≤ 4096 && r.poff % 4 == 0 && r.poff + r.payload.length ≤ 16384
   | .crane => r.payload.isEmpty) &&
  r.crane.wf && (match r.ret with | some d => d.wf | none => true) && (r.tag.length == 32 || r.tag.isEmpty)

/-- A window write: one to eight bytes inside the 1 MiB window; one that is no aligned word is ignored (R316). -/
def registerOk (addr size : Nat) : Bool := 1 ≤ size && size ≤ 8 && addr + size ≤ 1048576

/-- A peer's address and port (R327). -/
def Peer.wf (p : Peer) : Bool := p.ip < 4294967296 && p.port < 65536

/-- Fields of a datagram's header (R326). -/
def DgramHdr.wf (h : DgramHdr) : Bool :=
  h.eth < 3 && h.magic < 65536 && h.dseq < 4294967296 && h.length < 65536 && h.reserved < 65536

/-- The instruction of a transaction of the quad SPI target is a byte (R315). -/
def Carried.wf : Carried → Bool
  | .word _ => true
  | .spi ins _ => ins < 256

/-- An access of the host window (R315, R316): over the quad SPI target words of four bytes at a 32-bit address. -/
def accessOk (addr size : Nat) (v : Carried) : Bool :=
  v.wf && (match v with | .word _ => registerOk addr size | .spi _ _ => addr < 4294967296 && size == 4)

def Arrival.wf (p : Arrival) : Bool := p.peer.wf && p.hdr.wf

/-- A segment datagram (Table 11.13). -/
def segmentOk (offset : Nat) (data : Bytes) : Bool := data.length ≤ 1024 && offset + data.length ≤ 16384

/-- Straps (Table 14.1). -/
def Straps.wf (s : Straps) : Bool := s.boot < 4 && s.twin < 4 && s.host < 4 && s.heart < 2 && s.spread < 4 && s.node < 16

/-- A received frame: addresses of 48 bits; a runt and an overlong frame can arrive, and are counted (R219). -/
def Frame.wf (f : Frame) : Bool :=
  f.da < 2 ^ 48 && f.sa < 2 ^ 48 && f.etype < 65536 && f.len < 65536 &&
  (match f.tci with | some t => t < 65536 | none => true) &&
  (match f.ip with
   | some p => p.src < 2 ^ 32 && p.dst < 2 ^ 32 && p.sport < 65536 && p.dport < 65536 && p.payload.length ≤ f.len
   | none => true)

/-- A transmit descriptor chain (Table 8.13): its first descriptor is marked first, its last is marked last. -/
def chainOk (c : List TxDesc) : Bool :=
  (match c.head?, c.getLast? with | some a, some b => a.first && b.last | _, _ => false) &&
  c.all fun d => d.data.length < 65536

/-- What a local input presents: 24-bit words of an input that exists. -/
def LocalIn.wf (l : LocalIn) : Bool :=
  l.index < (if l.tdm then 64 else 8) && ((l.samples ++ l.short).all fun w => -8388608 ≤ w && w ≤ 8388607)

/-- A heartbeat record (Table 10.3). -/
def Heartbeat.wf (h : Heartbeat) : Bool := h.unit < 2 && h.epoch < 4294967296 && h.mode < 65536

/-- A manifest (Table 10.5). -/
def Manifest.wf (m : Manifest) : Bool :=
  m.block % 16 == 0 && (m.silent.all (· < 1024)) && m.berths.length ≤ 256 && m.frees.length ≤ 256 &&
  (m.berths.all fun b => b.berth < 256 && b.runs.all fun r => r.1 + r.2 ≤ b.count)

/-- A repair record (Table 10.2): every period has the same number of samples. -/
def Repair.wf (r : Repair) : Bool :=
  r.berth < 256 && r.samples.all fun x => x.length == (r.samples.headD []).length

/-- A UART datagram (R397, Table 11.13). -/
def UartDatagram.wf (d : UartDatagram) : Bool := d.kind < 256 && d.master < 256 && d.hdr.wf && d.data.length ≤ 1024

/-- A word of the Quaymaster's and of the general partition exists (Table 13.5). -/
def siteOk : Option SramSite → Bool
  | some (.quaymaster w) => w < 1048576
  | some (.general w) => w < 524288
  | _ => true

/-- A port reset: the frame is one that can arrive, of which not all has; a write's leading bytes lie in the window. -/
def PortReset.wf (p : PortReset) : Bool :=
  p.channel < 16 && (match p.frame with | some e => e.1.wf && e.2 < e.1.len | none => true) &&
  (match p.write with | some e => e.1 + e.2.length ≤ 1048576 | none => true)

/-- The command is well-formed. -/
def Instr.wf : Instr → Bool
  | .sysInfo r => r.wf
  | .sysModeSet r => r.wf
  | .sysModeGet r => r.wf
  | .sysReset r => r.wf
  | .sysLogRead r => r.wf
  | .objSet r => r.wf
  | .objGet r => r.wf
  | .objBind r => r.wf
  | .objClaim r => r.wf
  | .spkSet r => r.wf
  | .spkGet r => r.wf
  | .zoneSet r => r.wf
  | .airSet r => r.wf
  | .peerSet r => r.wf
  | .chainSet r => r.wf
  | .accordLoad r => r.wf
  | .accordSwap r => r.wf
  | .routeSet r => r.wf
  | .bridgeSet r => r.wf
  | .silenceSet r => r.wf
  | .portCfg r => r.wf
  | .berthOpen r => r.wf
  | .berthClose r => r.wf
  | .berthStat r => r.wf
  | .filterSet r => r.wf
  | .timeCfg r => r.wf
  | .timeStat r => r.wf
  | .trigSet r => r.wf
  | .captRead r => r.wf
  | .noseCfg r => r.wf
  | .pairSet r => r.wf
  | .markSet r => r.wf
  | .policySet r => r.wf
  | .estRead r => r.wf
  | .proposalRead r => r.wf
  | .proposalApply r => r.wf
  | .sweepRun r => r.wf
  | .healthRead r => r.wf
  | .twinCfg r => r.wf
  | .twinStat r => r.wf
  | .twinWarp r => r.wf
  | .twinSwitch r => r.wf
  | .witnessSet r => r.wf
  | .pwrPolicy r => r.wf
  | .pwrStat r => r.wf
  | .testLoop r => r.wf
  | .postReport r => r.wf
  | .fwStage r => r.wf
  | .fwCommit r => r.wf
  | .anaInCfg r => r.wf
  | .anaOutCfg r => r.wf
  | .loopCfg r => r.wf
  | .tdmCfg r => r.wf
  | .shortSet r => r.wf
  | .gpioSet r => r.wf
  | .echo r => r.wf
  | .storeTransfer r h => r.wf && r.pkind == .crane && h.wf
  | .doorbellReq _ => true
  | .doorbellRsp _ => true
  | .doorbellChunk _ => true
  | .doorbellReset _ => true
  | .ringResetDone _ => true
  | .irqCauseWrite _ => true
  | .irqMaskWrite _ => true
  | .registerWrite addr size v => accessOk addr size v
  | .efvexOpen _ p _ => p.wf
  | .efvexClose _ p => p.wf
  | .efvexRequest _ p entry => p.wf && entry.length == 256
  | .efvexSegmentIn _ p offset data => p.wf && segmentOk offset data
  | .efvexIndex _ p _ _ => p.wf
  | .efvexKeepalive _ p => p.wf
  | .sessionTimeout _ => true
  | .commandSettle => true
  | .craneChannelStart => true
  | .craneTransferDone _ data => data.length ≤ 268435456
  | .porstNRelease straps _ => straps.wf
  | .porstNAssert _ => true
  | .bootWatchdog _ => true
  | .bootLoadDone _ _ => true
  | .vkeepRise => true
  | .pgoodFall _ => true
  | .wakeNLow _ => true
  | .wakeTimer => true
  | .pciePerstN _ => true
  | .fabricPortReset p => p.wf
  | .decodeError _ addr => addr < 2 ^ 36
  | .lockstepMismatch => true
  | .companionLinkLost => true
  | .thermalSensorRead _ => true
  | .tapInstruction _ => true
  | .debugUnlock _ => true
  | .frameReceive _ f => f.wf
  | .sceneBusUpdate => true
  | .sceneBusAnnouncement => true
  | .sceneBusAnnounceSend => true
  | .peerSilent _ => true
  | .sceneBusResend => true
  | .txDescriptorSend _ _ chain => chainOk chain
  | .txFrameDone _ _ _ => true
  | .ringDisableDrainEnd _ => true
  | .linkDown _ => true
  | .linkUp _ => true
  | .mooringLaneLockLoss _ => true
  | .ptpSync _ _ _ _ _ => true
  | .ptpDelayResp _ _ _ _ _ _ => true
  | .ptpAnnounce _ _ => true
  | .announceTimeout _ => true
  | .syncTimeout _ => true
  | .rerouteHoldoffEnd => true
  | .phaseStep => true
  | .irqLatencyCalibration _ => true
  | .pllLock _ => true
  | .pllLoss _ _ => true
  | .pllReferenceReturn _ => true
  | .referenceLost => true
  | .referenceQualified => true
  | .captureEdge _ _ _ _ => true
  | .triggerEdge _ => true
  | .blockBoundary => true
  | .sceneSnapshot => true
  | .fetchListHandover => true
  | .fetchWindowOpen => true
  | .granuleFetchDone _ _ _ => true
  | .catchDeadline inputs => inputs.all LocalIn.wf
  | .computeSlot => true
  | .emitSlot => true
  | .accordFadeEnd _ => true
  | .hopFadeEnd _ _ => true
  | .zeroCrossCut _ _ => true
  | .zeroCrossFallback _ _ => true
  | .routeBindingChange _ => true
  | .muteRampLengthChange _ => true
  | .berthDrainEnd _ => true
  | .txBerthDrainEnd _ => true
  | .quayGateDone _ => true
  | .noseDrainEnd => true
  | .noseFrame => true
  | .noseRefresh => true
  | .proposalInterval => true
  | .healthEvidenceHold _ => true
  | .zRefLearnEnd _ => true
  | .sweepExcitationStart => true
  | .sweepEnd => true
  | .drydown => true
  | .dozePause => true
  | .dozeResume => true
  | .p3WakeRestore _ _ _ _ => true
  | .pwrEnRaise => true
  | .p1GateChange => true
  | .retrainStep _ _ => true
  | .dramSearchStep _ _ => true
  | .dramStepDown => true
  | .dramRateChange => true
  | .shallowSearch _ _ => true
  | .rateClimb _ => true
  | .dramTempRead _ _ => true
  | .hammerWindowReset => true
  | .hammerThrottle _ _ _ _ => true
  | .channelSelfRefresh _ _ => true
  | .sramScrub _ bad => siteOk bad
  | .dramScrub _ _ _ _ => true
  | .twinHeartbeatSend _ => true
  | .twinHeartbeat _ hb => hb.wf
  | .twinCommand _ => true
  | .twinManifest m => m.wf
  | .manifestTimeout => true
  | .wantPoint => true
  | .twinWant block wants => block % 16 == 0 && wants.length ≤ 65535
  | .twinRepair rep => rep.wf
  | .twinMirror mir => mir.samples.length ≤ 16
  | .twinDigest block crc => block % 16 == 0 && crc < 4294967296
  | .twinCheck c => c.tick % 64 == 0 && c.counts.length ≤ 5
  | .twinWarpData _ _ => true
  | .twinWarpControl _ => true
  | .warpInputCut => true
  | .warpSlice outputs => outputs.length ≤ 32 && outputs.Nodup
  | .warpRejoin => true
  | .warpAbandon => true
  | .twinRelease _ => true
  | .twinHandOver _ => true
  | .leaseRequest pair _ epoch => pair < 1048576 && epoch < 4294967296
  | .leaseGrant _ epoch _ => epoch < 4294967296
  | .leaseRenew => true
  | .leaseExpire => true
  | .mooringSilent => true
  | .networkSilent => true
  | .flowsSilent => true
  | .twinClaim => true
  | .spanChangeDone _ => true
  | .inputGainSwitch _ => true
  | .outputCurrentLimit _ => true
  | .outputLimitRetry _ => true
  | .phantomFault _ => true
  | .analogueSupplyFault => true
  | .loopCheck _ _ => true
  | .loopSlew _ => true
  | .tdmSyncError _ => true
  | .tdmSyncLoss _ => true
  | .alarmInput _ _ => true
  | .i2cTransferDone _ data => data.length ≤ 64
  | .i2cBusHeld => true
  | .testLoopEnd _ _ _ => true
  | .fwStageDone _ => true
  | .uartFrame d => d.wf
  | .mooringLaneLock _ => true
  | .vkeepLoss => true
  | .analogueSupplyRestored => true
  | .phantomRampDone _ => true
  | .resetBegin _ => true
  | .ptpSendInterval _ _ => true
  | .ptpDelayRequest _ _ _ => true

end Sys2Proof
end

