-- ==== Sys2Proof/Tests/Slice0.lean ====
section
/-!
SUPPORT. Small tests: each well-formedness check refuses an ill-formed command, and each statement's hypotheses are met by a
concrete state and operands.
-/
namespace Sys2Proof.Tests
set_option Elab.async false
open Sys2Proof.Machine

/-! Ill-formed commands are refused, well-formed ones are not. -/

/-- A request of master 0 with sequence number 1 and a payload. -/
def ask (p : Bytes) : Req := { master := 0, seq := 1, payload := p }
/-- Any self-test: every step passes, with the readings at their defaults. -/
def pass : SelfTest := {}

theorem test_wf_requests : Instr.wf (.sysInfo (ask (zeros 8))) = true ∧ Instr.wf (.sysInfo { ask [] with rank := 8 }) = false ∧
    Instr.wf (.sysInfo { ask [] with heart := 4 }) = false ∧ Instr.wf (.sysInfo { ask [] with seq := 4294967296 }) = false ∧
    Instr.wf (.sysInfo { ask [] with apply := 2 ^ 64 }) = false ∧ Instr.wf (.sysInfo { ask [] with poff := 65536 }) = false ∧
    Instr.wf (.sysInfo { ask [] with tag := [0] }) = false := by decide +kernel
theorem test_wf_payload_kinds : Instr.wf (.echo (ask (zeros 200))) = true ∧ Instr.wf (.echo (ask (zeros 201))) = false ∧
    Instr.wf (.echo { ask (zeros 137) with ret := some {} }) = false ∧ Instr.wf (.echo { ask [] with pkind := .bulk }) = false ∧
    Instr.wf (.echo { ask (zeros 4) with pkind := .bulk, poff := 16384 }) = false ∧
    Instr.wf (.echo { ask (zeros 4) with pkind := .crane }) = false := by decide +kernel
theorem test_wf_crane : CraneDesc.wf {} = true ∧ CraneDesc.wf { via := 256 } = false ∧ CraneDesc.wf { length := 4294967296 } = false ∧
    CraneDesc.wf { address := 2 ^ 64 } = false ∧ CraneDesc.wf { digest := [0] } = false := by decide +kernel
theorem test_wf_store : StoreHdr.wf {} = true ∧ StoreHdr.wf { store := 256 } = false ∧ StoreHdr.wf { dir := 256 } = false ∧
    StoreHdr.wf { offset := 2 ^ 64 } = false ∧ StoreHdr.wf { length := 4294967296 } = false ∧
    Instr.wf (.storeTransfer { ask [] with pkind := .inline } {}) = false := by decide +kernel
theorem test_wf_window : registerOk 0xFFFFC 4 = true ∧ registerOk 0x10 0 = false ∧ registerOk 0x10 9 = false ∧
    registerOk 0xFFFFE 4 = false ∧ Carried.wf (.spi 0x38 []) = true ∧ Carried.wf (.spi 256 []) = false ∧
    Instr.wf (.registerWrite 4294967296 4 (.spi 0xEB [])) = false ∧ Instr.wf (.registerWrite 0x10 9 (.word 0)) = false := by decide +kernel
theorem test_wf_datagrams : Peer.wf { ip := 1, port := 2 } = true ∧ Peer.wf { ip := 4294967296, port := 2 } = false ∧
    Peer.wf { ip := 1, port := 65536 } = false ∧ segmentOk 16383 (zeros 1) = true ∧ segmentOk 16384 (zeros 1) = false ∧
    Instr.wf (.efvexRequest 4 { peer := { ip := 1, port := 2 } } []) = false ∧
    UartDatagram.wf { kind := 256, master := 7 } = false ∧ DgramHdr.wf { eth := 3 } = false ∧
    DgramHdr.wf { magic := 65536 } = false ∧ DgramHdr.wf { dseq := 4294967296 } = false ∧ DgramHdr.wf { length := 65536 } = false ∧
    DgramHdr.wf { reserved := 65536 } = false ∧ DgramHdr.wf {} = true := by decide +kernel
theorem test_wf_straps : Straps.wf {} = true ∧ Straps.wf { boot := 4 } = false ∧ Straps.wf { twin := 4 } = false ∧
    Straps.wf { host := 4 } = false ∧ Straps.wf { heart := 2 } = false ∧ Straps.wf { spread := 4 } = false ∧
    Straps.wf { node := 16 } = false := by decide +kernel
theorem test_wf_frames : Frame.wf { da := 0 } = true ∧ Frame.wf { da := 2 ^ 48 } = false ∧ Frame.wf { da := 0, sa := 2 ^ 48 } = false ∧
    Frame.wf { da := 0, etype := 65536 } = false ∧ Frame.wf { da := 0, len := 65536 } = false ∧
    Frame.wf { da := 0, tci := some 65536 } = false := by decide +kernel
theorem test_wf_chains : chainOk [{ data := [], first := true, last := true }] = true ∧ chainOk [] = false ∧
    chainOk [{ data := [], first := false, last := true }] = false := by decide +kernel
theorem test_wf_locals : LocalIn.wf { tdm := false, index := 7, first := 0, samples := [8388607] } = true ∧
    LocalIn.wf { tdm := false, index := 8, first := 0, samples := [] } = false ∧
    LocalIn.wf { tdm := false, index := 0, first := 0, samples := [8388608] } = false := by decide +kernel
theorem test_wf_twin : Heartbeat.wf { unit := 1, active := true } = true ∧ Heartbeat.wf { unit := 2, active := true } = false ∧
    Manifest.wf { block := 16 } = true ∧ Manifest.wf { block := 8 } = false ∧
    Repair.wf { berth := 0, first := 0, samples := [[1], [2]] } = true ∧ Repair.wf { berth := 256, first := 0, samples := [] } = false ∧
    Repair.wf { berth := 0, first := 0, samples := [[1], []] } = false := by decide +kernel
theorem test_wf_links : Instr.wf (.twinWant 8 []) = false ∧ Instr.wf (.twinDigest 16 4294967296) = false ∧
    Instr.wf (.twinCheck { tick := 32, counts := [] }) = false ∧ Instr.wf (.leaseRequest 1048576 0 0) = false ∧
    Instr.wf (.leaseGrant 0 4294967296 0) = false ∧ Instr.wf (.i2cTransferDone 0 (zeros 65)) = false ∧
    Instr.wf (.warpSlice [0, 0]) = false := by decide +kernel
theorem test_wf_sites : siteOk (some (.quaymaster 1048575)) = true ∧ siteOk (some (.quaymaster 1048576)) = false ∧
    siteOk (some (.general 524288)) = false ∧ siteOk none = true := by decide +kernel

/-! What the statements assume is met. The device is up and DARK, with no other flag, unless a test says otherwise. -/

/-- A solo device that has passed self-test and takes requests. -/
def up : State := { State.reset with
  boot.up := true, boot.postDone := true, boot.postPass := true, host.ready := true, power.word := BitVec.ofNat 16 (2 ^ mDark) }
/-- The same device with a mode word of its own. -/
def inMode (w : Nat) : State := { up with power.word := BitVec.ofNat 16 w }
/-- Unit A of a pair, with a mode word. -/
def unitA (w : Nat) : State := { inMode w with boot.straps.twin := 1 }
/-- The device at a period. -/
def atPeriod (n : Nat) (s : State) : State := { s with media.c := n * 512 }
/-- A record payload: a mask, then zeros. -/
def put (mask n : Nat) : Bytes := le 4 mask ++ zeros n
/-- A request is admitted with its payload in the entry. -/
def goes (op : Opcode) (p : Bytes) (s : State) : Bool := admits op {} (ask p) s && delivered (ask p) s
/-- The state after acceptance. -/
def after (p : Bytes) (s : State) : State := taken (ask p) s

theorem witness_StepTakesTheFrontCommand : ({ up with pending := [.commandSettle] } : State).pending = [.commandSettle] ∧
    up.pending = [] := by decide +kernel
theorem witness_StepKeepsInvariant : State.reset.Inv ∧ up.Inv := by
  constructor <;> exact ⟨by unfold State.modeOk; decide +kernel, by unfold State.memOk; decide +kernel⟩
theorem witness_StepKeepsInvariant_bounds : State.reset.boundOk ∧ (updMaster 0 (fun x => { x with reqTail := 127 }) up).boundOk := by
  constructor <;> (unfold State.boundOk Master.indicesOk; decide +kernel)
/-- The statement's conclusions hold of a state that a step gives: DARK alone, and SAFE alone. -/
theorem witness_ModeWordStaysLegal : step up = .next { up with media.c := 1 } ∧ up.power.word ≠ 0 ∧ up.flag mDark = true ∧
    step (inMode (2 ^ mSafe)) = .next { inMode (2 ^ mSafe) with media.c := 1 } ∧
    (unitA (2 ^ mDark + 2 ^ mStandby + 2 ^ mAdrift)).Inv := by
  refine ⟨rfl, by decide +kernel, by decide +kernel, rfl, by unfold State.modeOk; decide +kernel, by unfold State.memOk; decide +kernel⟩
theorem witness_SafeLeftOnlyByReset : (inMode (2 ^ mSafe)).flag mSafe = true ∧ (inMode (2 ^ mSafe)).pending = [] ∧
    isReset .blockBoundary = false := by decide +kernel
theorem witness_RequestActs : requestOf (.echo (ask [])) = some (.echo, {}, ask []) ∧ goes .echo [] up = true := by decide +kernel
theorem witness_DuplicateRequestRepeatsAnswer :
    (ask []).seq ∈ ((after [] up).master 0).seqs ∧ (after [] up).host.ready = true ∧ (after [] up).power.stage < 3 := by decide +kernel
theorem witness_SafeRefusesOthers : let s := inMode (2 ^ mSafe)
    s.flag mSafe = true ∧ s.host.ready = true ∧ 1 ∉ (s.master 0).seqs ∧ s.hasMaster 0 = true ∧
    authOk s .objSet (ask (put 1 60)) {} = true ∧ safeAccepts .objSet (put 1 60) {} = false ∧ safeAccepts .fwCommit [] {} = true ∧ s.enforced = false := by decide +kernel
theorem witness_AnswersGoToTheRing :
    let a : Response := { opcode := 1, master := 0, status := .ok, seq := 1, body := [1] }
    let full := updMaster 0 (fun x => { x with rspTail := 64 }) up
    (up.master 0).held = [] ∧ canWrite up a = some 0 ∧ canWrite full a = none := by decide +kernel
theorem witness_ReadsAnswer :
    goes .sysInfo (zeros 8) up = true ∧ goes .sysInfo (le 4 1 ++ zeros 4) up = true ∧ goes .sysInfo (le 4 4 ++ zeros 4) up = true ∧
    goes .sysModeGet [] up = true ∧ goes .sysLogRead (le 8 0 ++ le 2 128 ++ zeros 6) up = true ∧ goes .twinStat [] up = true ∧
    goes .pwrStat [] up = true ∧ goes .timeStat [] up = true ∧ goes .postReport [] up = true ∧ goes .echo [] up = true ∧
    goes .objSet ((zeros 64).set 4 1) up = true ∧ objPayloadOk ((zeros 64).set 4 1) = true ∧
    goes .objGet (le 2 65535 ++ zeros 6) up = true ∧ up.flag mShallow = false ∧ goes .spkGet (le 2 511 ++ zeros 6) up = true ∧
    goes .spkSet (zeros 48) up = true ∧ spkPayloadOk (zeros 48) = true ∧ goes .zoneSet (zeros 32) up = true ∧
    zonePayloadOk (zeros 32) = true ∧ goes .airSet (zeros 16) up = true ∧ airPayloadOk (zeros 16) = true ∧
    goes .peerSet (zeros 32) up = true ∧ peerPayloadOk (zeros 32) = true := by decide +kernel
theorem witness_ReadsAnswer_sizes :
    (mastersBody up).length ≤ 4096 ∧ (memoryBody up).length ≤ 4096 ∧
    (twinStatBody up).length ≤ 4096 ∧ (identityBody up).length ≤ 4096 ∧ (timeStatBody up).length ≤ 4096 ∧ (pwrStatBody up).length ≤ 4096 ∧
    (spkBody up 511).length ≤ 4096 ∧ (zoneBody up 0).length ≤ 4096 ∧ (airBody up).length ≤ 4096 ∧ (peerBody up 0).length ≤ 4096 ∧
    (objBody up 65535).length ≤ 4096 ∧ (objBody up 1).length ≤ 4096 := by decide +kernel
theorem le_len (n v : Nat) : (le n v).length = n := by induction n generalizing v <;> simp [le, *]
theorem slice_len (p : Bytes) (o n : Nat) : (slice p o n).length = n := by simp [slice] <;> omega
theorem report_len : up.boot.report.bytes.length ≤ 4096 := by
  unfold Report.bytes
  rw [List.length_append, slice_len]
  decide +kernel
theorem witness_ReadsAnswer_mode : (modeGetBody up).length ≤ 4096 ∧ up.boot.report.bytes.length ≤ 4096 :=
  ⟨by simp [modeGetBody, up, State.reset, le_len, zeros], report_len⟩
theorem witness_UnitReadsAnswer : let s := { up with net.rx := [(0, { cfg := {} })], net.tx := [(0, { cfg := {} })] }
    goes .berthStat (zeros 4) s = true ∧ berthPayloadOk (zeros 4) = true ∧ SMap.look s.net.rx 0 = some { cfg := {} } ∧
    goes .berthStat (le 1 1 ++ zeros 3) s = true ∧ berthPayloadOk (le 1 1 ++ zeros 3) = true ∧
    SMap.look s.net.tx 0 = some { cfg := {} } ∧ goes .captRead (le 1 3 ++ le 1 16 ++ zeros 6) s = true ∧
    goes .estRead (le 2 4032 ++ le 2 64 ++ zeros 4) s = true ∧ goes .proposalRead (zeros 2 ++ le 2 63 ++ le 2 1 ++ zeros 2) s = true ∧
    goes .healthRead (le 2 511 ++ le 2 1 ++ zeros 4) s = true := by decide +kernel
theorem witness_TimedCommandsWait : let p := put 2 28
    let e := 128
    let c := waitingCmd .zoneSet .tick e p 0 (ask p) 0 (after p up)
    requestOf (.zoneSet (ask p)) = some (.zoneSet, {}, ask p) ∧ Opcode.zoneSet ∈ timedOps ∧ goes .zoneSet p up = true ∧
    waitsAs .zoneSet p = some .tick ∧ applyPeriod (after p up) 0 (ask p) = some e ∧
    usedApply .zoneSet (ask p) up.idx e (after p up) = e ∧ queues c (ask p) (after p up) = true := by decide +kernel

/-- A pair whose standby is adrift, seen from its active unit with the mooring up. -/
def driftPair : State := { unitA (2 ^ mDark + 2 ^ mActive) with
  twin.partnerAdrift := true, twin.moorUp := true, twin.partnerFw := fwRelease }
/-- The same pair in step. -/
def calmPair : State := { unitA (2 ^ mDark + 2 ^ mActive) with twin.moorUp := true }

theorem witness_BridgeAndProposalWait_bridge : let p := le 4 2 ++ zeros 8 ++ le 2 64 ++ zeros 18
    let c := fun (s : State) => waitingCmd .bridgeSet .block (untimedApply (ask p) (after p s)) p 0 (ask p) 0 (after p s)
    maskOf p ≠ 0 ∧ ∀ s ∈ [up, calmPair], goes .bridgeSet p s = true ∧ queues (c s) (ask p) (after p s) = true := by decide +kernel
/-- A proposal for loudspeaker 0's delay. -/
def proposed : State := { up with nose.proposals := [(propKey 0 0, { id := 5, state := 1, value := 10 })] }
theorem witness_BridgeAndProposalWait_proposal : let p := le 4 5 ++ le 2 256 ++ zeros 2
    let change := proposalChange 5 256 0 0 0 10 []
    let c := waitingCmd .proposalApply (changeTiming change) 128 change 5 (ask p) 0 (after p proposed)
    goes .proposalApply p proposed = true ∧ proposalApplied p (after p proposed) = .inr change ∧
    applyPeriod (after p proposed) 0 (ask p) = some 128 ∧ queues c (ask p) (after p proposed) = true := by decide +kernel
theorem witness_BridgeAndProposalWait_forwarded :
    let policy := put 1 28
    let dev := put 2 60
    let run := put 1 28
    let n := fun p => after p calmPair
    let c := fun (op : Opcode) p => waitingCmd op .block (untimedApply (ask p) (n p)) (forwardPart op p) 0 (ask p) 0 (n p)
    calmPair.flag mActive = true ∧ (∀ e ∈ [(Opcode.policySet, policy), (.pwrPolicy, policy), (.noseCfg, run), (.pairSet, run)],
      goes e.1 e.2 calmPair = true ∧ waitsOnActive e.1 e.2 {} = true ∧ waitsAs e.1 e.2 = none ∧ queues (c e.1 e.2) (ask e.2) (n e.2) = true) ∧
    goes .timeCfg dev calmPair = true ∧ waitsOnActive .timeCfg dev {} = true ∧ waitsAs .timeCfg dev = none ∧
    queues (waitingCmd .timeCfg .block (untimedApply (ask dev) (n dev)) (forwardPart .timeCfg dev) 0 (ask dev) 0
      (afterReply (n dev) (doTimeCfg (localPart .timeCfg dev) (atBoundary (n dev)) (allInEffect (n dev)) (n dev)))) (ask dev)
      (afterReply (n dev) (doTimeCfg (localPart .timeCfg dev) (atBoundary (n dev)) (allInEffect (n dev)) (n dev))) = true := by
  decide +kernel
/-- The checks of a POLICY_SET are answered at once, those of a NOSE_CFG that stops a draining Nose later. -/
theorem witness_BridgeAndProposalWait_answers :
    let stop := put 1 28
    let drains := { calmPair with nose.dev := { run := true, state := 2 } }
    ((match actNow .policySet {} (put 1 28) (ask (put 1 28)) (after (put 1 28) calmPair) with
      | .done _ b => decide (b.length ≤ 4096) | _ => false : Bool) = true) ∧
    ((match actNow .noseCfg {} stop (ask stop) (after stop drains) with | .owe _ _ => true | _ => false : Bool) = true) := by decide +kernel
theorem witness_ResetAndClaimsAct :
    goes .sysReset (zeros 8) up = true ∧ goes .sysReset (le 1 1 ++ zeros 7) up = true ∧
    (∀ z ∈ [true, false], ∀ k ∈ [0, 1, 2], goes .objClaim (le 1 (bit z) ++ le 1 k ++ le 2 63 ++ zeros 4) up = true) ∧
    up.host.claims.find? (fun c => c.zone == true && c.id == 63) = none ∧ up.host.claims.length < 1024 ∧
    (∃ c ∈ ({ up with host.claims := [⟨true, 63, 0, 0⟩] } : State).host.claims, c.master = (ask []).master.val) := by decide +kernel
theorem witness_RecordAndPortWritesAct : let pair := unitA (2 ^ mDark)
    goes .filterSet (put 1 108) up = true ∧ filterPayloadOk (put 1 108) = true ∧
    goes .policySet (put 1 28) up = true ∧ policyPayloadOk (put 1 28) = true ∧ actsNow .policySet {} (ask (put 1 28)) up = true ∧
    goes .pwrPolicy (put 1 28) up = true ∧ actsNow .pwrPolicy {} (ask (put 1 28)) up = true ∧ powerPayloadOk (put 1 28) = true ∧
    goes .twinCfg (put 1 28) pair = true ∧ twinPayloadOk (put 1 28) = true ∧
    goes .witnessSet (put 1 12) pair = true ∧ witnessPayloadOk (put 1 12) = true ∧ maskOf (put 1 12) ≠ 0 := by decide +kernel
theorem witness_RecordAndPortWritesAct_port :
    let on : Bytes := le 4 2 ++ zeros 3 ++ le 1 1 ++ zeros 32
    let off := put 2 36
    let dark := updPort 0 (fun q => { q with cfg.flags := 0 }) up
    let lit := updPort 0 (fun q => { q with cfg.flags := 1 }) up
    goes .portCfg on dark = true ∧ checkPortCfg on (after on dark) (viewsOf (after on dark)) = none ∧
    ((after on dark).port 0).cfg.enabled = false ∧ (((after on dark).port 0).cfg.write (maskOf on) on).enabled = true ∧
    goes .portCfg off lit = true ∧ checkPortCfg off (after off lit) (viewsOf (after off lit)) = none ∧
    ((after off lit).port 0).cfg.enabled = true ∧ (((after off lit).port 0).cfg.write (maskOf off) off).enabled = false ∧
    checkPortCfg off (after off dark) (viewsOf (after off dark)) = none := by decide +kernel
theorem witness_TimeCommandsAct : let dev := put 2 60
    let port : Bytes := (put 1 28).set 4 1
    let ref : Bytes := (put 1 12).set 4 2
    goes .timeCfg dev up = true ∧ timePayloadOk up.time.dev.profile dev = true ∧ kindOf dev = 0 ∧
    checkTimeDev dev (after dev up) (atBoundary (after dev up)) (allInEffect (after dev up)) = none ∧ (maskOf dev).testBit 7 = false ∧
    goes .timeCfg port up = true ∧ timePayloadOk up.time.dev.profile port = true ∧ kindOf port = 1 ∧
    goes .timeCfg ref up = true ∧ timePayloadOk up.time.dev.profile ref = true ∧ kindOf ref = 2 ∧ getU ref 8 1 ≠ 2 ∧
    actsNow .timeCfg {} (ask dev) up = true ∧ indexOf port ≠ 2 ∧ ((maskOf port).testBit 0 && indexOf port = 2 && (getU port 8 1).testBit 2) = false ∧
    (let word : Bytes := ((put 1 12).set 4 2).set 8 2
     let s := { up with time.capts := [(0, { edges := 1 })] }
     goes .timeCfg word s = true ∧ timePayloadOk s.time.dev.profile word = true ∧ kindOf word = 2 ∧ getU word 8 1 = 2 ∧
     ((after word s).captNext 0).edges.testBit 0 = true) ∧
    (let capt : Bytes := (put 1 12).set 4 3
     goes .timeCfg capt up = true ∧ timePayloadOk up.time.dev.profile capt = true ∧ kindOf capt = 3) ∧
    goes .timeCfg (zeros 64) up = true ∧ timePayloadOk up.time.dev.profile (zeros 64) = true ∧ (timeBody (zeros 64) up).length ≤ 4096 := by
  decide +kernel
theorem witness_TimeCommandsAct_trigger : let trig : Bytes := put 1 36
    let arm : Bytes := le 4 1 ++ le 1 0 ++ le 1 2 ++ zeros 34
    goes .trigSet trig up = true ∧ trigPayloadOk trig = true ∧ ((up.trig 0).cfg.write (maskOf trig) trig).mode = 0 ∧
    goes .trigSet arm up = true ∧ trigPayloadOk arm = true ∧ ((up.trig 0).cfg.write (maskOf arm) arm).mode = 2 ∧
    goes .trigSet (zeros 40) up = true ∧ trigPayloadOk (zeros 40) = true ∧ (trigBody (after (zeros 40) up) 0).length ≤ 4096 := by decide +kernel
theorem witness_TimeCommandsAct_single : let one : Bytes := le 4 1 ++ le 1 0 ++ le 1 1 ++ zeros 34
    let s := { up with time.trigs := [(0, { cfg := { start := 2000000 } })] }
    goes .trigSet one s = true ∧ trigPayloadOk one = true ∧ ((s.trig 0).cfg.write (maskOf one) one).mode = 1 ∧
    (firstEdge (after one s) ((s.trig 0).cfg.write (maskOf one) one)).isSome = true := by decide +kernel
theorem witness_NoseCommandsAct :
    let stop := put 1 28
    let drains := { up with nose.dev := { run := true, state := 2 } }
    let health : Bytes := le 4 8 ++ le 1 2 ++ zeros 27
    let curve : Bytes := le 4 1 ++ le 1 3 ++ zeros 139
    let pair : Bytes := put 1 28
    up.flag mActive = false ∧ goes .noseCfg stop up = true ∧ nosePayloadOk stop = true ∧ kindOf stop = 0 ∧
    (noseFollow { after stop up with nose.dev := { run := false } }).nose.dev.state ≠ 2 ∧
    goes .noseCfg stop drains = true ∧ (noseFollow (after stop drains)).nose.dev.state = 2 ∧
    goes .noseCfg health up = true ∧ nosePayloadOk health = true ∧ kindOf health = 2 ∧
    ((maskOf health).testBit 3 && (getU health 19 1).testBit 2) = false ∧
    goes .noseCfg curve up = true ∧ nosePayloadOk curve = true ∧ kindOf curve = 3 ∧
    goes .pairSet pair up = true ∧ pairPayloadOk pair = true ∧ getU pair 4 2 < pairCap (after pair up).heartNext ∧
    outExists (after pair up).heartNext 0 = true ∧
    (((after pair up).pair 0).write (maskOf pair) pair).trackKind = 0 ∧
    (let new := ((after pair up).pair 0).write (maskOf pair) pair
     (new.flags.testBit 0 && new.trackKind ≠ 0) = false ∧ (new.output = 65535 ∨ outExists (after pair up).heartNext new.output = true)) := by decide +kernel
theorem witness_IoRecordWritesAct :
    let n := fun p => after p up
    let tdm := put 2 12
    let short : Bytes := le 4 8 ++ zeros 108
    let moved : Bytes := le 4 1 ++ zeros 1 ++ le 1 1 ++ zeros 106
    goes .anaInCfg (put 3 12) up = true ∧ checkAnaIn (put 3 12) (n (put 3 12)) (viewsOf (n (put 3 12))) = none ∧
    goes .anaOutCfg (put 3 12) up = true ∧ anaOutPayloadOk (put 3 12) = true ∧
    goes .loopCfg (put 1 28) up = true ∧ loopPayloadOk (put 1 28) = true ∧
    goes .tdmCfg tdm up = true ∧ checkTdm tdm (n tdm) (viewsOf (n tdm)) = none ∧
    goes .shortSet short up = true ∧ recordOk shortFields 4 112 short = true ∧ (maskOf short).testBit 0 = false ∧
    goes .shortSet moved up = true ∧ recordOk shortFields 4 112 moved = true ∧
    (SMap.get {} up.rend.shorts 0).enabled = false ∧ (getU moved 5 1).testBit 0 = true := by decide +kernel
theorem witness_GpioSetActs :
    let plan : Bytes := le 4 0 ++ le 1 1 ++ zeros 11
    let uart : Bytes := le 4 0 ++ le 1 2 ++ zeros 3 ++ le 4 9600 ++ le 1 2 ++ zeros 3
    let i2c : Bytes := le 4 0 ++ le 1 3 ++ zeros 3 ++ le 1 8 ++ zeros 3
    let pad : Bytes := le 4 1 ++ le 1 4 ++ zeros 11
    goes .gpioSet (put 1 12) up = true ∧ kindOf (put 1 12) = 0 ∧ recordOk pinFields 5 16 (put 1 12) = true ∧
    goes .gpioSet plan up = true ∧ kindOf plan = 1 ∧ planOk plan = true ∧ planPart (checkPlan (after plan up)) [] = none ∧
    goes .gpioSet uart up = true ∧ kindOf uart = 2 ∧ uartOk uart = true ∧
    goes .gpioSet i2c up = true ∧ kindOf i2c = 3 ∧ i2cOk i2c = true ∧ (after i2c up).io.i2c = none ∧
    goes .gpioSet pad up = true ∧ kindOf pad = 4 ∧ maskOf pad ≠ 0 ∧ padPayloadOk pad = true := by decide +kernel
/-- A device set to SWEEP, which renders. -/
def sweeping : State := { inMode (2 ^ mLive + 2 ^ mSweep) with rend.mutes := [(0, { muted := false })] }
theorem witness_RunsBegin :
    let p : Bytes := le 2 0 ++ le 1 0 ++ le 1 15 ++ le 2 0 ++ le 2 1 ++ le 4 10 ++ le 4 20 ++ le 4 8192 ++ le 4 0 ++ le 8 1 ++ le 8 0 ++
      le 2 16 ++ zeros 6
    let n := after p sweeping
    goes .sweepRun p sweeping = true ∧ actsNow .sweepRun {} (ask p) sweeping = true ∧ (payloadPeriod n (ask p) (getU p 32 8)).isSome = true ∧ sweepPayloadOk n.hz p = true ∧ (sweepOf p).kind ≠ 3 ∧
    outExists n.media.heart 0 = true ∧ n.flag mSweep = true ∧ n.flag mDark = false ∧ n.flag mShallow = false ∧
    n.nose.sweep = none ∧ (n.mute 0).muted = false ∧ blotterNeed (sweepOf p) (sweepOf p).obsMask ≤ 268435456 ∧
    goes .twinWarp (zeros 8) driftPair = true ∧ (after (zeros 8) driftPair).twin.warp = none ∧
    goes .twinSwitch (zeros 8) calmPair = true ∧ switchRefused (after (zeros 8) calmPair) = false ∧
    (after (zeros 8) calmPair).twin.handOver = none ∧ (payloadPeriod (after (zeros 8) calmPair) (ask (zeros 8)) 0).isSome = true ∧
    calmPair.flag mActive = true ∧
    (let b := { unitA (2 ^ mDark + 2 ^ mStandby) with twin.moorUp := true }
     goes .twinSwitch (zeros 8) b = true ∧ switchRefused (after (zeros 8) b) = false ∧ b.flag mActive = false) := by decide +kernel
theorem witness_RunsBegin_warp : warpOk (after (zeros 8) driftPair) = true := by
  have h : (fwRelease == fwRelease) = true := beq_self_eq_true _
  have : warpOk (after (zeros 8) driftPair) = (fwRelease == fwRelease) := by
    simp only [h]; unfold warpOk; simp [driftPair, after, taken, updMaster, unitA, inMode, up, State.flag]; decide
  rw [this, h]
theorem witness_FieldServiceActs :
    let p : Bytes := zeros 6 ++ le 1 2 ++ zeros 1 ++ le 4 60000 ++ zeros 12
    let s := inMode (2 ^ mDark + 2 ^ mLoop)
    let stage : Bytes := zeros 8
    let kept := { up with boot.staged := [(0, 1)] }
    goes .testLoop p s = true ∧ testLoopOk p = true ∧ getU p 7 1 ≠ 1 ∧ (after p s).flag mLoop = true ∧ (after p s).flag mDark = true ∧
    (after p s).boot.loops = [] ∧ goes .fwStage stage up = true ∧ checkFwStage stage 0 (after stage up) = none ∧
    goes .fwCommit stage kept = true ∧ SMap.look (after stage kept).boot.staged 0 = some 1 ∧
    expectOk (after stage kept) 0 1 0 = true ∧ (after stage kept).host.resetDue = false := by decide +kernel
/-- A transfer in the crane's channel 0. -/
def moving (out : Bool) : Transfer := { id := 0, op := .echo, req := ask [], accepted := 0, out := out, via := 0, length := 4, channel := some 0 }
theorem witness_TransfersMoveAndSettle :
    let h : StoreHdr := { store := 0, dir := 1, length := 384 }
    let r := { ask [] with pkind := .crane }
    let s := fun t => { up with host.transfers := [t] }
    let w := { moving false with channel := none }
    admits .storeTransfer h r up = true ∧ storeOk h = true ∧ (0 : Nat) ≠ h.dir ∧ craneRefused (taken r up) 0 r.crane = none ∧
    (s w).host.transfers.find? (fun t => t.channel.isNone) = some w ∧
    (List.range 8).find? (fun c => !((s w).host.transfers.filterMap Transfer.channel).contains c) = some 0 ∧
    (∀ o ∈ [true, false], (s (moving o)).host.transfers.find? (fun t => t.channel == some 0 && t.via == 0) = some (moving o)) ∧
    up.enforced = false ∧ modeRefuses .echo (zeros 4) {} (dropTransfer (moving false) (s (moving false))) = false := by decide +kernel

theorem witness_DoorbellsActOnTheirRing : up.windowUp = true ∧ (3 : Fin 8).val < 4 ∧
    ((updMaster 3 (fun x => { x with resetting := true }) up).master 3).resetting = true := by decide +kernel
theorem witness_WindowWritesStore : up.windowUp = true ∧ (0x9FFFC % 4 = 0 ∧ 0x80000 ≤ 0x9FFFC ∧ 0x9FFFC < 0xA0000) ∧
    (0x10000 % 4 = 0 ∧ 0x10000 < 0x30000) ∧ 0x10002 % 4 ≠ 0 ∧
    (let s := { up with boot.straps.host := 1 }; s.windowUp = true ∧ s.boot.straps.host = 1) := by decide +kernel
/-- A host on the network. -/
def host4 : Peer := { ip := 0x0A000001, port := 4471 }
/-- A session of master 4 with it. -/
def joined : State := updMaster 4 (fun x => { x with peer := some host4 }) up
theorem witness_SessionsFollowTheirPeer :
    up.hears 4 host4 { length := 4 } 4 = true ∧ plainDenied up host4 = false ∧ (up.master 4).peer = none ∧ up.boot.debugOpen = false ∧
    (∀ n ∈ [0, 8, 256, 1024], joined.hears 4 host4 { length := n } n = true) ∧ plainDenied joined host4 = false ∧ (joined.master 4).peer = some host4 ∧
    (let q : Peer := { ip := 0x0A000002, port := 4471 }; plainDenied joined q = false ∧ q ≠ host4) ∧
    (let s := atPeriod 960000 joined; (s.master 4).lastHeard + 10 * s.hz ≤ s.idx) := by decide +kernel
theorem witness_SessionsFollowTheirPeer_uart :
    let s := updMaster 7 (fun x => { x with peer := some uartPeer }) { up with io.uart := ⟨115200, 1⟩ }
    s.uartOpen = true ∧ (∀ n ∈ [4, 256], s.hears 7 uartPeer { length := n } n = true) ∧ (s.master 7).peer = some uartPeer := by decide +kernel
theorem witness_BootsStartTheDevice :
    let s := { up with host.resetDue := true, boot.stalled := true, boot.running := 1, boot.loading := true, boot.loaded := zeros 512 }
    let on := { State.reset with power.vkeep := true, power.pwrEn := true }
    on.boot.up = false ∧ on.power.vkeep = true ∧ on.power.pwrEn = true ∧ State.reset.power.vkeep = false ∧
    s.host.resetDue = true ∧ s.boot.stalled = true ∧ s.boot.running < 2 ∧
    s.boot.loading = true ∧ s.flag mSafe = false ∧ (loadedImage ⟨[]⟩ s).arrived = true := by
  decide +kernel
theorem witness_SelfTestSetsModeWord :
    isReset (.resetBegin pass) = true ∧ (∃ img t, Instr.bootLoadDone ⟨[]⟩ pass = .bootLoadDone img t) :=
  ⟨rfl, _, _, rfl⟩
theorem witness_ResetAndLantern :
    let on := { up with power.vkeep := true, power.pwrEn := true }
    let p4 := { up with power.stage := 4, power.wake := .timer }
    up.power.stage ≠ 4 ∧ up.power.vkeep = false ∧ on.power.vkeep = true ∧ on.power.pwrEn = true ∧ p4.power.stage = 4 ∧
    p4.power.wake ≠ .none := by decide +kernel
theorem witness_FatalFaultsEnterSafe : let hot := { up with boot.hot := true }
    up.flag mSafe = false ∧ up.alive = true ∧ up.boot.postDone = true ∧ hot.alive = true ∧ hot.boot.hot = true ∧
    fabricTarget 0xFFFFFFFF = 9 ∧ TapInstr.extest ∈ [TapInstr.extest, .clamp, .highz, .extestPulse, .extestTrain] ∧
    up.boot.hot = false := by decide +kernel
/-- An answer owed to master 0. -/
def debt (op : Opcode) : Owed := { id := 0, op := op, master := 0, seq := 1, apply := 0, accepted := 0, payload := zeros 8 }
/-- A loopback that has run its time. -/
def ranLoop : Loopback :=
  { iface := 4, depth := 0, index := 0, index2 := 0, pattern := 2, duration := 1, start := 0, owed := debt .testLoop }
theorem witness_FieldServiceEvents :
    let s := fun k => { up with boot.staging := some (k, 1, debt .fwStage) }
    let l := atPeriod 96 { up with boot.loops := [ranLoop] }
    (s 0).boot.staging = some (0, 1, debt .fwStage) ∧ badFlag (s 0).bootRec 1 = false ∧
    (s 1).boot.staging = some (1, 1, debt .fwStage) ∧
    (l.boot.loops.find? fun k => k.iface == 4 && k.index == 0) = some ranLoop ∧
    ranLoop.duration ≤ (l.idx - ranLoop.start) * 1000 / l.hz ∧ ranLoop.stop = none ∧ up.alive = true ∧ up.pcie = true := by decide +kernel
/-- The debug clause asks for a token that the hardware's key accepts: nothing else about the state is out of reach. -/
theorem witness_FieldServiceEvents_debug : let s := { up with boot.straps.dbg := true }
    s.boot.up = true ∧ s.boot.straps.dbg = true ∧ s.boot.debugOpen = false := by decide +kernel
theorem witness_PowerStatesChange :
    let at' := fun n => { up with power.stage := n, power.timer := 1 }
    (∀ n ∈ [2, 3, 4], (at' n).flag mStandby = false ∧ (at' n).waking = false ∧ (at' n).power.timer ≠ 0) ∧
    allDown (at' 1) = true ∧ choosePower (at' 1) = 2 ∧ (at' 1).power.wakeHeld = false ∧
    choosePower { at' 1 with power.entry := { flags := 4, wakeTol := 60000, idleExp := 5000 } } = 3 ∧
    choosePower { at' 1 with power.entry := { flags := 12, wakeTol := 1850000, idleExp := 120000 } } = 4 ∧
    (let s := atPeriod 1000 { at' 2 with power.resumeTick := some 256 }
     s.power.resumeTick = some 256 ∧ 256 + s.media.catchL + 16 ≤ s.idx) ∧
    wakesFrom (at' 3) .timer 3 = true := by decide +kernel
theorem witness_PowerStatesChange_resume : let s := atPeriod 464 { up with power.stage := 2, power.resumeTick := some 256 }
    s.power.stage = 2 ∧ s.media.catchL = 192 ∧ s.idx = 464 ∧ 256 + s.media.catchL + 16 ≤ s.idx ∧ s.nextBlock ≤ 512 := by decide +kernel
theorem witness_IdleBlocksGateAndDry :
    let s := fun f => { up with power.policy.flags := f }
    (s 0).power.stage = 0 ∧ (s 0).flag mSafe = false ∧ (s 0).boot.postDone = true ∧ (s 0).power.policy.flags.testBit 0 = false ∧
    (s 1).power.policy.flags.testBit 0 = true := by decide +kernel
theorem witness_IdleBlocksGateAndDry_dry :
    let s := atPeriod (600 * 96000) { up with power.dryFrom := some 0 }
    s.power.dryFrom = some 0 ∧ s.decides = true ∧ s.power.dryAt = none ∧ drydownCounts s = true ∧
    0 + s.power.policy.dryTime * s.hz ≤ s.idx := by decide +kernel
theorem witness_DramSearchesFollowTraining :
    let s := fun n => { up with mem.searches := [(7, n)] }
    let sh := inMode (2 ^ mDark + 2 ^ mShallow)
    up.alive = true ∧ up.boot.postDone = true ∧ up.flag mShallow = false ∧ SMap.look up.mem.searches 7 = none ∧
    SMap.look (s 62).mem.searches 7 = some 62 ∧ SMap.look (s 63).mem.searches 7 = some 63 ∧
    sh.flag mShallow = true ∧ sh.mem.clearing = false ∧ sh.alive = true ∧ sh.mem.byLoop = false := by decide +kernel
theorem witness_DramRateFollowsFailures :
    let s := fun r => { up with mem.stepWanted := true, mem.rate := r, mem.rateWanted := some 1 }
    (s 1).mem.stepWanted = true ∧ (s 1).mem.rate < 2 ∧ 2 ≤ (s 2).mem.rate ∧ (s 1).mem.rateWanted = some 1 ∧ (s 1).climbOk = true ∧
    (s 2).alive = true ∧ (s 2).flag mShallow = false ∧ (s 2).flag mSafe = false ∧ (s 2).power.word ≠ 0 := by decide +kernel
theorem witness_RefreshThrottleAndScrub : up.alive = true ∧ up.power.stage < 2 ∧
    up.mem.throttled.contains (13, 7, 5) = false ∧ 16384 < 16385 ∧ up.mem.selfRefresh.getLsbD 7 = false ∧
    up.flag mShallow = false := by decide +kernel
/-- A port that takes frames for one address, and a receive berth of a format. -/
def wired (format : Nat) : State := { up with
  net.ports := [(0, { filter := { valid := 2, entries := [(1, 0x020000000001)] } })]
  net.rx := [(0, { cfg := { format := format, ports := 1, channels := 1, group := 0xEF000001, udpPort := 5004 } })] }
theorem witness_FramesAreSorted :
    let f : Frame := { da := 0x020000000001 }
    let q := (wired 0).port 0
    let ip : Ipv4 := { src := 1, dst := 0xEF000001, dport := 5004 }
    portDeaf (wired 0) 0 = false ∧ f.fcsOk = true ∧ 64 ≤ f.len ∧ f.len ≤ frameLimit q.cfg f.tci.isSome ∧
    (9019 ≤ 9019 ∧ frameLimit q.cfg false < 9019) ∧ f.etype ≠ 0x8808 ∧ f.etype ≠ 0x88F7 ∧ isGroup f.da = false ∧
    q.filter.has 0 f.da = true ∧ q.filter.has 0 0x020000000002 = false ∧ isGroup 0x020000000002 = false ∧ f.ip = none ∧
    (∀ k ∈ [1, 2], matchBerth (wired k) 0 f ip = some 0 ∧
      (SMap.look (wired k).net.rx 0).map (fun x => x.cfg.format) = some k) := by decide +kernel
/-- One frame of 60 bytes that waits in queue 5. -/
def packet : TxPkt := { queue := 5, wire := 84 }
theorem witness_FramesAreQueuedAndSent :
    let d : TxDesc := { data := zeros 60, first := true, last := true }
    let off := updPort 0 (fun q => { q with tx := q.tx.map fun r => { r with enabled := false } }) (wired 0)
    let q := (wired 0).port 0
    let full := updPort 0 (fun q => { q with queued := [packet] }) up
    (5 < q.tx.length ∧ ringBusy (q.tx.getD 5 {}) + 1 ≤ 256 ∧ (∀ x ∈ q.tx, ∀ t ∈ x.ring, t.taken = true) ∧
      (∀ t ∈ (q.tx.getD 5 {}).ring, t.id ≠ (q.tx.getD 5 {}).sends)) ∧
    ((off.port 0).tx.getD 5 {}).enabled = false ∧ 5 < (off.port 0).tx.length ∧
    (q.tx.getD 5 {}).enabled = true ∧ chainFrames q.cfg [d] = some [zeros 60] ∧
    chainFrames q.cfg [{ d with segment := true, mss := 63 }] = none ∧ nextFrame (full.port 0) = some packet := by decide +kernel
theorem witness_DrainsLinksAndLanes :
    let dr := updPort 2 (fun q => { q with draining := true, stat := { q.stat with link := 1 } }) up
    let rx := atPeriod 240 { up with net.rx := [(255, { state := 2 })], net.tx := [(127, { state := 2 })], media.emitted := some 0 }
    let pr := { unitA (2 ^ mDark + 2 ^ mStandby) with twin.lanes := 1 }
    (dr.port 2).draining = true ∧ (dr.port 2).stat.link % 2 = 1 ∧ portDeaf dr 2 = false ∧
    SMap.look rx.net.rx 255 = some { state := 2 } ∧ 0 + rx.media.catchL + 48 ≤ rx.idx ∧
    SMap.look rx.net.tx 127 = some { state := 2 } ∧ txQueuedNow rx 127 = false ∧ rx.media.emitted = some 0 ∧
    pr.isPair = true ∧ pr.alive = true ∧ looped pr 3 0 = false := by decide +kernel
/-- Updates of the air and of an object that have arrived. -/
def update (air : Bool) : BusUpdate :=
  { air := air, resend := false, node := 7, apply := 640, rank := 0, pubSeq := 1, arrived := 0, body := if air then put 1 12 else put 2 60 |>.set 4 1 }
theorem witness_BusUpdatesJoinTheCommands :
    let s := fun a w => { inMode w with scene.updates := [update a], scene.busTick := 1 }
    (∀ a ∈ [true, false], (s a (2 ^ mDark)).alive = true ∧ (s a (2 ^ mDark)).flag mSafe = false ∧
      (s a (2 ^ mDark)).flag mStandby = false ∧ updateOk (update a) = true) ∧
    (s false 2).scene.busTick ≠ (s false 2).idx / 64 ∧ outOfReach (update false) (s false (2 ^ mDark)) = false ∧
    outOfReach (update false) (s false (2 ^ mDark + 2 ^ mShallow)) = true ∧ (s true (2 ^ mSafe)).flag mSafe = true ∧
    (s true 2).flag mActive = false ∧ (s true 2).media.snapped = none ∧ (update true).arrived = (s true 2).idx := by decide +kernel
theorem witness_PeersAnnounceAndFallSilent :
    let a : Announcement := { node := 7, domain := 0, heart := 1, ptpDomain := 0, catchOff := 192, gm := 0, arrived := 0 }
    let s := atPeriod 3072 { up with
      scene.announced := [a], scene.peers := [(0, { roles := 3, nodeId := 1 }), (4095, { nodeId := 7 })]
      scene.peerSt := [(4095, { state := 1 })], scene.published := [4] }
    s.peerOf 7 = some 4095 ∧ a.domain = (s.peer 0).sceneDomain ∧ (s.peer 0).roles.testBit 0 = true ∧ s.host.ready = true ∧
    s.flag mSafe = false ∧ (s.peerSt 4095).state = 1 ∧ (s.peerSt 4095).lastHeard + 48 * 64 ≤ s.idx ∧ s.publishes = true ∧
    s.scene.published[s.scene.cursor % s.scene.published.length]? = some 4 := by decide +kernel
theorem witness_PtpExchanges :
    let m : Master9 := { gmId := 1 }
    let s := fun (p : Nat) => { up with
      time.dev.gmFlags := 0, time.clocks := [(p, { master := some m, t3 := some 5 })], time.ports := [(p, { flags := if p = 1 then 5 else 1 })] }
    let gm := { up with time.dev.gmFlags := 1 }
    (∀ p ∈ [0, 1, 2], (readTsq p (s p)).ptpOn p = true ∧ (readTsq p (s p)).time.ref = 0 ∧ ((readTsq p (s p)).clock p).master ≠ none ∧
      ((readTsq p (s p)).clock p).passive = false ∧ (readTsq p (s p)).isGm = false ∧ ((readTsq p (s p)).clock p).t3 = some 5 ∧
      (readTsq p (s p)).masterOn p = false) ∧
    (readTsq 0 (s 0)).p2p 0 = false ∧ (readTsq 1 (s 1)).p2p 1 = true ∧ (readTsq 0 gm).ptpOn 0 = true ∧ (readTsq 0 gm).masterOn 0 = true ∧
    gm.masterOn 0 = true ∧ gm.p2p 0 = false := by decide +kernel
theorem witness_MastersComeAndGo : let s := { up with time.servo.ref := some 1 }
    s.ptpOn 1 = true ∧ s.time.ref = 0 ∧ s.time.servo.ref = some 1 ∧ up.time.servo.ref ≠ some 1 := by decide +kernel

theorem witness_PhaseStepsMoveC :
    let s := { up with time.servo.pending := some (-5), time.servo.holdoff := some 0 }
    s.time.servo.setTime = none ∧ s.time.servo.pending = some (-5) ∧ s.time.servo.holdoff = some 0 ∧ 0 ≤ s.idx ∧
    (s.refPorts.any fun e => e.1 != s.time.servo.rrPort && absR (s.clock e.1).offset ≤ s.time.dev.rerouteThr) = false := by decide +kernel
theorem witness_ReferencesHoldAndReturn :
    let lost := fun n => { up with time.servo.refclkLost := true, time.servo.state := n }
    let ext := fun r n => { up with time.ref := r, time.servo.state := n }
    up.flag mSafe = false ∧ up.power.word ≠ 0 ∧ up.time.servo.refclkLost = false ∧ (lost 3).time.servo.refclkLost = true ∧
    (refclkPlls (lost 4)).getLsbD 6 = true ∧ (lost 3).time.servo.state ≠ 4 ∧ (lost 4).time.servo.state = 4 ∧
    (∀ r ∈ [1, 2, 3], (ext r 4).time.ref ∈ [1, 2, 3] ∧ (ext r 4).time.servo.state = 4 ∧ (ext r 3).time.servo.state ≠ 4) := by decide +kernel
theorem witness_CapturesAndTriggers :
    let s := fun n => { up with time.capts := [(1, { edges := 3, filter := 10, queue := List.replicate n { stamp := 0, seq := 0 } })] }
    let t := { up with time.trigs := [(3, { next := some 0 })] }
    (∀ n ∈ [14, 15], filterCycles ((s n).capt 1).filter * 10 ≤ 10 * 12 ∧ ((s n).capt 1).edges.testBit 1 = true ∧ ((s n).capt 1).queue.length = n) ∧
    9 * 12 < filterCycles ((s 0).capt 1).filter * 10 ∧ up.time.ref ≠ 2 ∧ t.flag mSafe = false ∧ (t.trig 3).newNext = none ∧ (t.trig 3).next = some 0 ∧
    edgeAt t (t.trig 3).running 0 ≤ t.media.c := by decide +kernel
/-- Rendering runs at a period. -/
def renders (n : Nat) : State := atPeriod n { up with media.running := true, power.word := BitVec.ofNat 16 (2 ^ mLive) }
theorem witness_RhythmRunsEachStepOnce :
    let p3 := { up with power.stage := 3 }
    let done := { renders 240 with media.snapped := some 64, media.caught := some 32, media.computed := some 32, media.emitted := some 16 }
    State.reset.boot.up = false ∧ p3.boot.up = true ∧ 3 ≤ p3.power.stage ∧ up.power.stage < 3 ∧
    (renders 144).media.running = true ∧ (renders 144).media.catchL ≤ (renders 144).idx + 48 ∧ doneAt (renders 144).media.snapped 0 = false ∧
    (renders 208).media.catchL + 16 ≤ (renders 208).idx ∧ (renders 208).alive = true ∧ doneAt (renders 208).media.caught 0 = false ∧
    doneAt (renders 208).media.computed 0 = false ∧ (renders 224).media.catchL + 32 ≤ (renders 224).idx ∧
    doneAt (renders 224).media.emitted 0 = false ∧ done.media.running = true ∧
    doneAt done.media.snapped (floorTo 64 (done.idx + 48 - done.media.catchL)) = true ∧
    doneAt done.media.caught (floorTo 16 (done.idx - done.media.catchL - 16)) = true ∧
    doneAt done.media.computed (floorTo 16 (done.idx - done.media.catchL - 16)) = true ∧
    doneAt done.media.emitted (floorTo 16 (done.idx - done.media.catchL - 32)) = true := by decide +kernel
theorem witness_GranulesAreFetched :
    let s := renders 176
    let f := { renders 176 with rend.quays := [(3, { flight := [(9, ⟨5, [(1, 2)]⟩)] })] }
    let d := { renders 176 with rend.quays := [(0, { draining := true })] }
    s.media.running = true ∧ s.media.catchL ≤ s.idx + 16 ∧ floorTo 64 (s.idx + 16 - s.media.catchL) = 0 ∧ s.media.handed ≠ some 0 ∧
    s.media.windowed ≠ some 0 ∧ s.noFetch 0 = false ∧ ((f.quay 3).flight.find? fun e => e.1 == 9) = some (9, ⟨5, [(1, 2)]⟩) ∧
    (f.quay 3).draining = false ∧ (f.quay 3).gated = false ∧ f.noFetch (f.media.windowed.getD 0) = false ∧ (d.quay 0).draining = true := by decide +kernel
theorem witness_FadesAndRoutesChange :
    let t : Tap := { hop := true }
    let s := { up with rend.taps := [(511, [(511, t)])], rend.tapTick := some 0, media.computed := some 48 }
    let x : Xpoint := { source := 65535, dest := 0, gain := 0, move := .watch 0 5 3 none false }
    let w := fun (v : List Int) n => { up with rend.xpoints := [{ x with source := 0, move := .watch 0 5 n none false }], rend.outs := [{ block := 32, chans := [(0, v)] }], media.computed := some 32 }
    let c := { s with host.cmds := [{ waitingCmd .accordSwap .block 0 [] 0 (ask []) 0 up with effect := 0 }] }
    let d := fun (ph : Nat) => { up with rend.dests := [(0x3FF, { ramp := { newR := some 16, ph := ph } })] }
    (s.host.cmds.any fun k => !k.applied && k.timing == .block && k.effect ≤ s.toCompute) = false ∧
    (c.host.cmds.any fun k => !k.applied && k.timing == .block && k.effect ≤ c.toCompute) = true ∧
    (atPeriod 240 (w [1, -1] 0)).toCompute = 48 ∧ (crossed (w [1, -1] 0) 32 0 && decide ((0 : Nat) ≤ 32)) = true ∧
    (crossed (w [1, -1] 48) 32 0 && decide ((48 : Nat) ≤ 32)) = false ∧ (crossed (w (List.replicate 16 1) 0) 32 0) = false ∧
    48 < 0 + up.hz / 200 ∧ 0 + up.hz / 200 ≤ 480 ∧
    tapOf s.rend.taps 511 511 = some t ∧ t.hop = true ∧ t.carries = false ∧ s.rend.tapTick = some 0 ∧ s.media.computed = some 48 ∧ 0 + 48 ≤ 48 ∧
    ({ up with rend.xpoints := [x] } : State).rend.xpoints = [x] ∧ x.source = (65535 : BitVec 16).toNat ∧ x.dest = (0 : BitVec 16).toNat ∧
    (∀ ph ∈ [0, 1, 480], (SMap.get ({} : Dest) (d ph).rend.dests 0x3FF).ramp.newR = some 16 ∧ (SMap.get ({} : Dest) (d ph).rend.dests 0x3FF).ramp.ph = ph) ∧
    (0x3FF : BitVec 16).toNat < 0x400 ∧ (SMap.get ({} : Dest) (d 480).rend.dests 0x3FF).ramp.r = 480 := by decide +kernel
/-- The Nose in a state, the last block computed, and one pair. -/
def nosing (state block rate : Nat) : State := { up with
  nose.dev := { run := true, state := state, propInterval := 10 }, media.computed := some block, mem.rate := rate }
theorem witness_NoseRunsInFrames :
    let s := nosing 1 8176 0
    let starved := { nosing 1 8176 2 with nose.pairs := (List.range 4096).map fun i => (i, { output := 0 }) }
    (nosing 2 0 0).nose.dev.state = 2 ∧ floorTo 4096 s.heardTo = 8192 ∧ s.nose.dev.state = 1 ∧ s.nose.dev.frameIdx < 8192 / 4096 ∧
    (frameCredit s).1 = true ∧ (s.mem.throttled.any fun e => e.1 == 6) = false ∧ floorTo 8192 s.heardTo = 8192 ∧
    s.nose.dev.lastRefresh < 8192 ∧ s.decides = true ∧ floorTo 4096 starved.heardTo = 8192 ∧ (frameCredit starved).1 = false ∧
    (let p := atPeriod 960000 s; p.nose.dev.lastProposal + p.nose.dev.propInterval * p.hz ≤ p.idx) := by decide +kernel
theorem witness_HealthAndSweeps :
    let s := fun (k : Nat) (h : Health) => atPeriod (60 * 96000) { nosing 1 8176 0 with
      nose.health := [(511, h)], scene.speakers := [(511, { health := k })] }
    let r : SweepRun := { cfg := { output := 0 }, start := 0, excite := 0, last := 8 }
    let w := { nosing 3 0 0 with nose.sweep := some r }
    (s 0 { since := [(0, 0)] }).nose.dev.state = 1 ∧ (s 0 {}).decides = true ∧ ((s 0 {}).spk 511).health = 0 ∧
    SMap.look ((s 0 { since := [(0, 0)] }).health 511).since 0 = some 0 ∧ SMap.look ((s 0 { since := [(0, 0)] }).health 511).since 1 = none ∧
    0 + ((s 0 {}).health 511).hold * (s 0 {}).hz ≤ (s 0 {}).idx ∧ ((s 1 {}).spk 511).health ≤ 1 ∧
    SMap.look ((s 1 { since := [(1, 0)] }).health 511).since 1 = some 0 ∧
    ((s 0 { learnFrom := some 0 }).health 511).learnFrom = some 0 ∧ 0 + 60 * (s 0 {}).hz ≤ (s 0 {}).idx ∧ (s 0 {}).idx < 1 + 60 * (s 0 {}).hz ∧
    w.nose.sweep = some r ∧ r.exciting = false ∧ r.void = false ∧ sweepHeard w r ≤ w.heardTo ∧
    ((s 0 { since := [(0, 0)] }).host.cmds.any fun c => !c.applied && c.origin == .nose && c.units == [⟨.spkSet, 511, 6⟩]) = false ∧ r.excite ≤ w.toCompute + 48 + 15 ∧ othersDown w r.cfg.output = true ∧
    r.aborting = none ∧ r.last < w.heardTo ∧ w.power.deferred = [] := by decide +kernel
theorem witness_AnalogueInputsAndOutputs :
    let s := { up with
      io.anaIn := [(7, { phantom := true })], io.anaOut := [(6, { change := some 1, written := true }), (7, { change := some 1, waiting := some 0 })] }
    (s.anaIn 7).phantom = true ∧ (s.anaIn 7).fault = false ∧ (s.anaOut 6).change = some 1 ∧ (s.anaOut 6).waiting = none ∧
    (s.anaOut 7).change = some 1 ∧ (s.anaOut 7).waiting = some 0 ∧ (s.anaOut 6).limit = false ∧ (s.anaOut 6).supply = false ∧
    (s.anaOut 6).written = true ∧ s.io.supplyFault = false := by decide +kernel
theorem witness_LoopsTdmAndPins :
    let l := fun (r : Loop) => { up with io.loops := [(3, r)] }
    let t := fun (r : Tdm) => { up with io.tdm := [(3, r)] }
    let g := { up with io.pins := [(15, { function := 3, alarm := 4 })] }
    up.power.stage ≠ 4 ∧ up.io.supplyFault = false ∧ up.flag mSafe = false ∧ ((l {}).loop 3).latched = false ∧
    ((l { latched := true }).loop 3).latched = true ∧ 2000 ≤ ((l { target := 2000, openMs := 49 }).loop 3).target ∧
    ((l { target := 2000, openMs := 49 }).loop 3).openMs = 49 ∧ ((l { target := 1999 }).loop 3).target < 2000 ∧
    ((t { role := 2, lastFault := some 0 }).tdm 3).lastFault = some 0 ∧ up.idx < 0 + up.hz ∧ ((t { role := 2 }).tdm 3).role = 2 ∧
    ((t { role := 2 }).tdm 3).lastFault = none ∧ (up.pin 15).function ≠ 3 ∧ (g.pin 15).function = 3 ∧ g.alive = true ∧
    g.host.ready = true ∧ g.isPair = false ∧ (∀ j < 16, j ≠ 15 → (g.pin j).function ≠ 3) ∧ (false != (g.pin 15).alarm.testBit 2) = true ∧
    planOn g 0 = false ∧ g.alarms = true ∧ planOn (updPin 15 (fun r => { r with asserted := true }) g) 0 = true ∧
    planOn (updPin 15 (fun r => { r with pinLevel := false }) g) 0 = false ∧ ({ up with io.i2c := some (debt .gpioSet) } : State).io.i2c = some (debt .gpioSet) := by
  decide +kernel
theorem witness_PairRolesSettle :
    let a := { unitA (2 ^ mDark + 2 ^ mActive) with twin.lanes := 1 }
    let v := { unitA (2 ^ mDark + 2 ^ mStandby) with
      twin.witness.witness := 4, net.rx := [(0, { cfg := { format := 4, ports := 3 }, state := 1 })]
      net.tx := [(0, { cfg := { format := 4, ports := 3 }, state := 1 })] }
    let late := atPeriod 96000 (unitA (2 ^ mDark + 2 ^ mStandby))
    let b := { unitA (2 ^ mDark + 2 ^ mStandby) with twin.released := true, twin.claimAt := some 0 }
    let hb : Heartbeat := { unit := 1, active := true, epoch := 1 }
    a.isPair = true ∧ a.alive = true ∧ a.boot.postDone = true ∧ a.twin.lanes ≠ 0 ∧ a.flag mActive = true ∧ a.flag mSafe = false ∧
    hb.unit ≠ a.unitCode ∧ a.twin.epoch < hb.epoch ∧ b.twin.claimAt = some 0 ∧ 0 ≤ b.idx ∧ b.flag mStandby = true ∧ b.mayClaim = true ∧
    b.flag mAdrift = false ∧ b.hasWitness = false ∧ v.hasWitness = true ∧ v.twin.lease = false ∧ v.allSilent = false ∧ v.twinBerths = true ∧
    ({ a with twin.lanes := 3 } : State).twin.lanes = 3 ∧ hb.active = true ∧ ({ hb with active := false } : Heartbeat).active = false ∧
    (let c := { unitA (2 ^ mDark + 2 ^ mStandby) with twin.moorUp := true }
     c.flag mActive = false ∧ switchRefused c = false ∧ c.twin.handOver = none) ∧
    late.heartFresh = false ∧ late.moorHeld = false ∧ late.netHeld = false ∧ late.flowsHeld = false ∧ late.isPair = true ∧
    late.flag mStandby = true ∧ b.netHeld = true ∧ b.flowsHeld = true := by decide +kernel
theorem witness_LeasesAreKept :
    let berths := fun (s : State) => { s with
      net.rx := [(0, { cfg := { format := 4, ports := 3 }, state := 1 })], net.tx := [(0, { cfg := { format := 4, ports := 3 }, state := 1 })] }
    let s := berths (atPeriod 20000 { up with twin.witness.serve := true })
    let again := { s with twin.leases := [⟨9, 1, 0, 0⟩] }
    let h := berths { unitA (2 ^ mDark + 2 ^ mActive) with twin.witness.witness := 4, twin.lease := true }
    s.twinBerths = true ∧ h.twinBerths = true ∧
    s.twin.witness.serve = true ∧ s.boot.postDone = true ∧ s.flag mSafe = false ∧
    s.twin.servedFrom + s.msPeriods (s.twin.witness.leaseMs + 1) ≤ s.idx ∧ s.twin.leases.length < 64 ∧
    (again.twin.leases.find? fun l => l.pair == 9) = some ⟨9, 1, 0, 0⟩ ∧ 0 + again.msPeriods 1 ≤ again.idx ∧
    h.isPair = true ∧ h.hasWitness = true ∧ (0 : Fin 2).val = h.unitCode ∧ h.idx < 1 ∧ h.flag mActive = true ∧ h.twin.lease = true ∧
    h.twin.leaseEnd ≤ h.idx ∧ h.flag mSafe = false ∧ h.flag mDark = true := by decide +kernel
/-- A standby that follows, rendering at a period. -/
def standby (n : Nat) : State := { atPeriod n (unitA (2 ^ mLive + 2 ^ mStandby)) with media.running := true, twin.lanes := 1 }
theorem witness_StandbyFollows :
    let f : Forward := { fseq := 0, origin := .master 0, rank := 0, apply := 0, op := .objSet, payload := put 1 60 }
    let x : RxBerth := { cfg := { channels := 2, udpPort := 1 } }
    let s := { standby 200 with net.rx := [(0, x)], io.tdm := [(0, { inFirst := 100 })] }
    let c := { standby 208 with media.caught := some 0 }
    let a := { unitA (2 ^ mDark + 2 ^ mActive) with twin.lanes := 1 }
    s.follows = true ∧ beforeWarp (noteSeq 0 s) f.apply = false ∧ standbyPayload f (noteSeq 0 s) = some f.payload ∧ f.op ≠ .twinSwitch ∧
    beforeWarp s 640 = false ∧ tooLate (noteSeq 0 s) .tick 640 = false ∧ tooLate (noteSeq 0 s) .block 640 = false ∧
    (let m := { unitA (2 ^ mDark + 2 ^ mActive) with twin.lanes := 1, twin.moorUp := true }
     m.moored = true ∧ m.flag mActive = true ∧ switchRefused m = false ∧ m.twin.handOver = none) ∧
    s.twin.ownPresence = false ∧
    s.media.running = true ∧ s.twin.decided = none ∧ s.media.catchL + 8 ≤ s.idx ∧ floorTo 16 (s.idx - s.media.catchL - 8) = 0 ∧
    (caughtBerths 0 s).flatMap (fun e => runsOf (absentOf s e.2.1 e.2.2.1 e.2.2.2)) ≠ [] ∧ SMap.look s.net.rx 0 = some x ∧
    x.decided.getD 0 ≤ 0 ∧ (s.localChannels.any fun e => e.1 == 100) = true ∧
    SMap.look (SMap.get [] s.net.jitter 100) 0 = none ∧ c.media.caught = some 0 ∧ c.awaits 0 = true ∧ c.media.running = true ∧
    c.media.computed ≠ some 0 ∧ a.moored = true ∧ a.flag mActive = true ∧ a.media.caught ≠ some 16 := by decide +kernel
theorem witness_DigestsAndWarp :
    let w : Warp := { tick := 64 }
    let s := { standby 300 with twin.warp := some w, twin.checks := [(0, [(1, 2)])], media.snapped := some 0 }
    let act := fun (v : Warp) => { unitA (2 ^ mLive + 2 ^ mActive) with twin.lanes := 1, twin.warp := some v, media.c := 300 * 512 }
    let cut : Warp := { tick := 64, active := true, phase := 1 }
    let go : Warp := { tick := 64, active := true, phase := 3, cut := true }
    let one := { act cut with media.computed := some 48, media.c := 270 * 512 }
    let sl := { act go with rend.tapTick := some 128 }
    let dg := { standby 300 with twin.digests := [(16, 5)] }
    (dg.twin.warp = none ∧ SMap.look dg.twin.digests 16 = some 5 ∧ dg.twin.missRun = 0 ∧ dg.flag mAdrift = false) ∧
    waits w (.near 0 0 []) = false ∧ waits w (.marker 0 {}) = true ∧
    (let ad := { unitA (2 ^ mDark + 2 ^ mStandby + 2 ^ mAdrift) with twin.lanes := 1, twin.warp := some w }
     ad.moored = true ∧ ad.flag mActive = false ∧ ad.flag mStandby = true ∧ ad.flag mAdrift = true) ∧
    one.toCompute = cut.tick ∧ cut.phase = 1 ∧ w.theirs = none ∧ ({ w with theirs := some 1 } : Warp).theirs.isSome = true ∧
    3 ≤ go.phase ∧ go.phase ≤ 4 ∧ go.tick < sl.rend.tapTick.getD 0 ∧ go.slices = [] ∧ go.sliced = [] ∧
    s.moored = true ∧ s.follows = true ∧ (standby 300).media.snapped = none ∧ SMap.look s.twin.checks 0 = some [(1, 2)] ∧
    s.twin.warp = some w ∧ w.active = false ∧ waits w (.outChain 0 {}) = true ∧ waits w (.mute 0 {}) = false ∧ s.flag mStandby = true ∧
    (act cut).moored = true ∧ (act cut).flag mActive = true ∧ cut.cut = false ∧ cut.tick ≠ 0 ∧
    sliceOk sl go [0, 127] = true ∧ ({ w with phase := 6 } : Warp).phase = 6 ∧ s.flag mSafe = false := by
  decide +kernel
theorem witness_CollisionsGoByRank :
    let c := fun i m rank => ({ id := i, op := .zoneSet, origin := .master m, rank := rank, seq := 0, timing := .tick, apply := 0, effect := 64
                                accepted := 0, payload := [], units := [⟨.zoneSet, 0, 0⟩], select := false } : Cmd)
    let cs := [c 0 0 0, c 1 1 2, c 2 0 2]
    (cs.map Cmd.id).Nodup ∧ (∀ d ∈ cs, d.origin = .master 0 ∨ d.origin = .master 1) ∧
    unitWinner cs 64 ⟨.zoneSet, 0, 0⟩ = some (c 2 0 2) := by decide +kernel
theorem witness_TimeAndWakeCommandsComplete :
    let at' := fun n => { up with power.stage := n, power.timer := 1 }
    let deep := fun n => { at' n with power.entry := { flags := 12, wakeTol := 1850000, idleExp := 120000 } }
    let kept := { atPeriod 464 { up with power.stage := 2, power.resumeTick := some 256 } with scene.stats := [(1, { slot := some 3 })] }
    let p : Bytes := (put 1 28).set 4 1
    goes .timeCfg p up = true ∧ maskOf p ≠ 0 ∧ timePayloadOk (up.time.newDev.getD up.time.dev).profile p = true ∧ kindOf p = 1 ∧
    indexOf p ≠ 2 ∧ (∀ n ∈ [2, 3, 4], (at' n).flag mStandby = false ∧ (at' n).waking = false ∧ (at' n).power.stage = n ∧
      (at' n).power.timer ≠ 0) ∧
    allDown (at' 1) = true ∧ (at' 1).flag mSafe = false ∧ choosePower (at' 1) = 2 ∧ choosePower (deep 1) = 4 ∧
    kept.power.resumeTick = some 256 ∧ kept.power.deferred = [] ∧ kept.nextBlock ≤ 256 + 16 + 224 ∧ 256 + kept.media.catchL + 16 ≤ kept.idx ∧
    wakesFrom (at' 3) .wakeN 3 = true := by decide +kernel

/-! Clauses of the statements that need states of their own. -/

theorem witness_TransfersMoveAndSettle_settle :
    let c := fun b => { waitingCmd .zoneSet .tick 0 (put 2 28) 0 (ask (put 2 28)) 0 up with settled := b }
    let s := fun b => atPeriod 240 { up with host.cmds := [c b] }
    ∀ b ∈ [true, false], (s b).host.cmds = [c b] ∧ (c b).origin = .master 0 ∧ (c b).answered = false ∧ (c b).applied = false ∧
      (c b).effect + (s b).media.catchL ≤ (s b).idx + 48 ∧ (c b).op = .zoneSet := by decide +kernel
theorem witness_PowerStatesChange_ignored :
    let by' := unitA (2 ^ mDark + 2 ^ mStandby)
    let wakes := { up with power.stage := 2, power.resumeTick := some 256 }
    let pause := { up with power.stage := 1 }
    by'.flag mStandby = true ∧ wakes.waking = true ∧ pause.flag mStandby = false ∧ pause.waking = false ∧ pause.power.wakeHeld = false := by decide +kernel
theorem witness_FatalFaultsEnterSafe_word : fabricTarget (2 ^ 36 - 1) = 9 ∧ (12 : Fin 14).val ≠ 13 ∧ (13 : Fin 14).val = 13 := by
  decide +kernel
theorem witness_FieldServiceEvents_port :
    let w : PortReset := { port := 8, write := some (0x10000, [1, 2, 3]) }
    let f : PortReset := { port := 11, frame := some ({ da := 1 }, 64) }
    w.write = some (0x10000, [1, 2, 3]) ∧ w.port.val = 8 ∧ f.frame = some ({ da := 1 }, 64) ∧ 9 ≤ f.port.val ∧ f.port.val ≤ 11 := by
  decide +kernel
theorem witness_DramSearchesFollowTraining_moves :
    let s := { up with mem.searches := [(7, 3)], mem.settings := [(0, -2)] }
    (SMap.look s.mem.searches 7).isSome = true ∧ SMap.look s.mem.searches 0 = none ∧ SMap.get 0 s.mem.settings 0 = -2 ∧
    (∀ l ∈ s.boot.loops, l.iface ≠ 6) := by decide +kernel
theorem witness_RefreshThrottleAndScrub_places :
    let k : Tap := { gainA := 5 }
    let g : Fetch := ⟨5, [(1, 2)]⟩
    let s := { up with
      rend.taps := putTap [] 3 511 k, net.jitter := [(9, [(100, { value := 1 })])], net.rx := [(0, { cfg := { first := 8, channels := 2 } })]
      rend.quays := [(3, { staged := [g] })], rend.replay := [(9, { entry := ⟨9, false, 0, 1, 0⟩, start := 0 })], nose.dev := { run := true, state := 1 }
      net.ports := [(2, { queued := [{ queue := 0, wire := 84 }] })] }
    tapOf s.rend.taps 3 511 = some k ∧ (SMap.look (SMap.get [] s.net.jitter 9) 100).isSome = true ∧
    (∀ e ∈ s.net.rx, e.2.state = 0 ∨ 9 < e.2.cfg.first ∨ e.2.cfg.first + e.2.cfg.channels ≤ 9 ∨ e.2.decided = none) ∧
    ((s.quay 3).staged.any fun f => f.granule == 5) = true ∧ s.nose.dev.state = 1 ∧ (SMap.look s.rend.replay 9).isSome = true ∧
    ((s.port 2).queued[0]?).map (fun k => k.berth.isSome) = some false := by decide +kernel
theorem witness_FramesAreSorted_rings :
    let own : Nat := 0x0A000001
    let s := updPort 0 (fun q => { q with cfg.ipv4 := own }) (wired 0)
    let udp := fun (dport dst : Nat) => ({ src := 1, dst := dst, dport := dport } : Ipv4)
    let f := fun (da : Nat) (ip : Ipv4) => ({ da := da, ip := some ip } : Frame)
    let one : Nat := 0x020000000001
    let group : Nat := 0x01005E010203
    (udp 319 own).udp = true ∧ (udp 319 own).frag = false ∧ portDeaf s 0 = false ∧
    ringOf s 0 (f one (udp 320 own)) = 3 ∧ ringOf s 0 (f one (udp 4470 own)) = 2 ∧ ringOf s 0 (f one (udp 80 own)) = 1 ∧
    ringOf s 0 (f one (udp 80 7)) = 0 ∧ (∀ p ∈ [320, 4470, 80], matchBerth s 0 (f one (udp p own)) (udp p own) = none ∧
      watchedFlow s 0 (udp p own) = false) ∧
    isGroup group = true ∧ group ≠ 0xFFFFFFFFFFFF ∧ inMediaPass group = true ∧ (s.port 0).filter.flags.testBit 0 = true ∧
    (s.port 0).filter.has 0 group = false ∧ isGroup 0xFFFFFFFFFFFF = true ∧ (s.port 0).cfg.bcast = true ∧
    ({ flags := 1 } : PortRec).bcast = false ∧ inMediaPass 0x01005E800000 = false ∧ (wired 0).net.rx ≠ [] := by decide +kernel
theorem witness_BusUpdatesJoinTheCommands_ticks :
    let s := fun (a : Bool) (k : Option Nat) => atPeriod 200 { inMode (2 ^ mLive) with
      scene.updates := [update a], media.snapped := k, scene.busTick := 3, scene.busCount := 2047 }
    (∀ a ∈ [true, false], ∀ k ∈ [none, some 640], (s a k).alive = true ∧ (s a k).flag mSafe = false ∧ (s a k).flag mStandby = false ∧
      (s a k).flag mActive = false ∧ updateOk (update a) = true ∧ (s a k).media.snapped = k ∧ outOfReach (update false) (s a k) = false ∧
      (s a k).scene.busCount < 2048) ∧
    (update true).apply ≤ 640 ∧ max (update true).arrived (floorTo 64 200) / 64 ≤ 640 / 64 ∧
    max (update true).arrived (floorTo 64 200) ≤ (update true).apply ∧ floorTo 64 1000 > (update true).apply := by decide +kernel
theorem witness_MastersComeAndGo_grandmaster :
    let old : Master9 := { gmId := 9, priority1 := 200 }
    let s := { up with time.clocks := [(0, { master := some old })], time.servo.ref := some 0, time.servo.gmId := 9 }
    let m : Master9 := { gmId := 7, priority1 := 100 }
    let n := updClock 0 (fun c => { c with master := some (keptMaster (s.clock 0).master m) }) s
    s.ptpOn 0 = true ∧ keptMaster (s.clock 0).master m = m ∧ (s.clock 0).master.map Master9.gmId ≠ some m.gmId ∧
    n.chosenGm = some m ∧ s.time.servo.ref ≠ none ∧ s.time.servo.gmId ≠ 0 ∧ s.time.servo.gmId ≠ m.gmId ∧ s.time.ref = 0 := by decide +kernel
theorem witness_RhythmRunsEachStepOnce_contents :
    let x : RxBerth := { cfg := { first := 4, channels := 2 } }
    let s := { renders 240 with net.rx := [(7, x)], net.jitter := [(5, [(3, { value := 9 })])] }
    SMap.look s.net.rx 7 = some x ∧ x.cfg.first ≤ 5 ∧ 5 < x.cfg.first + x.cfg.channels ∧
    SMap.look (SMap.get [] s.net.jitter 5) 3 = some { value := 9 } ∧ SMap.look (SMap.get [] s.net.jitter 5) 4 = none ∧
    x.cfg.channels ≠ 0 ∧ (s.bridge 7).mode ≠ 2 ∧ x.openAt ≤ 16 ∧ x.state = 1 ∧
    floorTo 64 (s.idx + 48 - s.media.catchL) = 64 ∧ doneAt s.media.snapped 64 = false ∧ s.flag mStandby = false ∧
    floorTo 16 (s.idx - s.media.catchL - 32) = 16 ∧ doneAt s.media.emitted 16 = false ∧ s.isPair = false ∧ s.twin.warp = none := by
  decide +kernel
theorem witness_NoseRunsInFrames_estimates :
    let s := nosing 1 8176 0
    let r : PairRec := {}
    let a : PairAcc := { a := [(0, (1, 0))], b := [(0, (1, 0))], frames := 1 }
    let est := { s with
      nose.pairs := [(0, { flags := 1, output := 511 })], nose.accs := [(0, { est := { flags := 3, coh := 0 } })] }
    8192 % (8192 * s.decOf (s.obs r.obs)) = 0 ∧ 8191 % (8192 * s.decOf (s.obs r.obs)) ≠ 0 ∧ a.a ≠ [] ∧ a.b ≠ [] ∧
    ({} : PairAcc).a = [] ∧ (est.acc 0).est.coh < est.nose.policy.cohMin := by decide +kernel
theorem witness_HealthAndSweeps_rows :
    let s := fun (k condition : Nat) => atPeriod (600 * 96000) { nosing 1 8176 0 with
      nose.health := [(511, { since := [(condition, 0)] })], scene.speakers := [(511, { health := k })] }
    (∀ c ∈ [0, 1, 2, 3], SMap.look ((s 1 c).health 511).since c = some 0 ∧ 0 + 6 * ((s 1 c).health 511).hold * (s 1 c).hz ≤ (s 1 c).idx) ∧
    ((s 1 2).spk 511).health = 1 ∧ ((s 2 0).spk 511).health = 2 ∧ (s 1 2).decides = true ∧ (s 1 2).nose.dev.state = 1 ∧
    (nosing 2 0 0).nose.dev.state ≠ 1 := by decide +kernel
theorem witness_AnalogueInputsAndOutputs_ramps :
    let held := { up with io.anaOut := [(0, { limit := true }), (1, { limit := true, waiting := some 1 }), (2, { change := some 1, waiting := some 0 })] }
    (held.anaOut 0).limit = true ∧ (held.anaOut 0).waiting = none ∧ (held.anaOut 1).waiting = some 1 ∧ 1 ≠ (held.anaOut 1).spanNow ∧
    (held.anaOut 2).change = some 1 ∧ (held.anaOut 2).waiting = some 0 ∧ (0 : Nat) ≠ 1 ∧ (held.anaOut 3).limit = false := by decide +kernel
theorem witness_LoopsTdmAndPins_latch :
    let l := fun (r : Loop) => { inMode (2 ^ mSafe) with io.loops := [(3, r)] }
    let m : LoopSense := { headroom := 200, current := 2000, volts := 249 }
    (l {}).flag mSafe = true ∧ (l {}).power.stage ≠ 4 ∧ (l {}).io.supplyFault = false ∧ ((l {}).loop 3).latched = false ∧
    ((l { target := 2000, shortMs := 49 }).loop 3).shortMs = 49 ∧ ((l { target := 2000, shortMs := 49 }).loop 3).openMs < 50 ∧
    200 ≤ m.headroom ∧ m.volts < 250 ∧ 2000 ≤ m.current ∧ ((l {}).loop 3).target < 2000 := by decide +kernel
theorem witness_StandbyFollows_image :
    let f : Forward := { fseq := 0, origin := .master 0, rank := 0, apply := 640, op := .objSet, payload := put 1 60 }
    let late : Warp := { tick := 704 }
    asksOnly f.op f.payload = false ∧ beforeWarp { standby 200 with twin.warp := some late } f.apply = true ∧
    (standby 200).follows = true := by decide +kernel

end Sys2Proof.Tests
end

section
/-!
PROOFS. The host window: what a write of its registers and of its ring memory stores, and what it leaves (R5, R315 to R318).
-/
namespace Sys2Proof.Machine

/-! The rows of the window that write. -/

theorem exec_irqCauseWrite {v : BitVec 32} {s : State} (hw : s.windowUp = true) :
    exec (.irqCauseWrite v) s = .next (clearCause v s) := by
  change execIrqCauseWrite v s = _
  unfold execIrqCauseWrite
  rw [if_pos hw]

theorem exec_irqMaskWrite {v : BitVec 32} {s : State} (hw : s.windowUp = true) :
    exec (.irqMaskWrite v) s = .next (setMask v s) := by
  change execIrqMaskWrite v s = _
  unfold execIrqMaskWrite
  rw [if_pos hw]

theorem exec_registerWrite_word {addr size : Nat} {v : BitVec 32} {s : State} (hw : s.windowUp = true) :
    exec (.registerWrite addr size (.word v)) s = .next (writeWindow addr size v s) := by
  change execRegisterWrite addr size (.word v) s = _
  unfold execRegisterWrite
  simp only [hw, Bool.not_true, Bool.false_eq_true, if_false]

/-- An instruction other than 0x38, or a transaction without a whole word, writes nothing (R315). -/
theorem exec_registerWrite_spi_ignored {addr size ins : Nat} {ns : List (BitVec 4)} {s : State}
    (h : ins ≠ 0x38 ∨ spiWords ns = []) : exec (.registerWrite addr size (.spi ins ns)) s = .next s := by
  change execRegisterWrite addr size (.spi ins ns) s = _
  unfold execRegisterWrite
  rcases h with h | h
  · simp [h]
  · simp [h]

/-- A write instruction with one word that lies in its row writes that word (R315). -/
theorem exec_registerWrite_spi_word {addr size : Nat} {ns : List (BitVec 4)} {v : BitVec 32} {s : State} (hw : s.windowUp = true)
    (hs : s.boot.straps.host = 1) (hn : spiWords ns = [v]) (hb : burstLen addr 1 = 1) :
    exec (.registerWrite addr size (.spi 0x38 ns)) s = .next (writeWindow addr 4 v s) := by
  change execRegisterWrite addr size (.spi 0x38 ns) s = _
  unfold execRegisterWrite
  simp [hw, hs, hn, hb]

/-- Fewer than eight nibbles spell no word. -/
theorem spiWords_short {ns : List (BitVec 4)} (h : ns.length < 8) : spiWords ns = [] := by
  unfold spiWords
  split
  · simp only [List.length_cons] at h; omega
  · rfl

/-! The mask of causes (R318). -/

/-- From `s` to `t` only the records of MSI-X messages have changed. -/
def MsixOnly (s t : State) : Prop :=
  ∃ sent counts pend, t = { s with host.msixSent := sent, host.msix := counts, host.msixPend := pend }

theorem MsixOnly.refl (s : State) : MsixOnly s s := ⟨_, _, _, rfl⟩

theorem MsixOnly.trans {s t u : State} (h : MsixOnly s t) (k : MsixOnly t u) : MsixOnly s u := by
  obtain ⟨_, _, _, rfl⟩ := h
  obtain ⟨_, _, _, rfl⟩ := k
  exact ⟨_, _, _, rfl⟩

theorem sendMsix_msixOnly (i : Nat) (s : State) : MsixOnly s (sendMsix i s) := by
  unfold sendMsix sendVector
  split
  · split <;> exact ⟨_, _, _, rfl⟩
  · exact .refl s

theorem foldl_sendMsix_msixOnly (l : List Nat) (s : State) : MsixOnly s (l.foldl (fun s i => sendMsix i s) s) := by
  induction l generalizing s with
  | nil => exact .refl s
  | cons i l ih => exact (sendMsix_msixOnly i s).trans (ih _)

/-- A write of the mask stores its causes, and may send messages. -/
theorem setMask_msixOnly (v : BitVec 32) (s : State) : MsixOnly { s with host.irqMask := v &&& causeBits } (setMask v s) :=
  foldl_sendMsix_msixOnly _ _

/-! The ring memory (R5, R316). -/

/-- The address lies in the rings or in the bulk regions (Table 11.2). -/
def inRingMemory (a : Nat) : Prop := 0x10000 ≤ a ∧ a < 0x30000 ∨ 0x80000 ≤ a ∧ a < 0xA0000

theorem writeWindow_ignored {addr size : Nat} {v : BitVec 32} {s : State} (h : size ≠ 4 ∨ addr % 4 ≠ 0) :
    writeWindow addr size v s = s := by
  unfold writeWindow
  rw [if_pos (by simpa using h)]

theorem writeWindow_ringMemory {addr : Nat} {v : BitVec 32} {s : State} (ha : addr % 4 = 0) (h : inRingMemory addr) :
    writeWindow addr 4 v s = { s with host.mem := writeBytes s.host.mem addr (le 4 v.toNat) } := by
  unfold inRingMemory at h
  unfold writeWindow
  rw [if_neg (by simp [ha]), if_neg (by omega), if_pos (by simpa using h)]

/-- One aligned word stays within the row of the host address map that it starts in (Table 11.2, R315). -/
theorem burstLen_one {addr : Nat} (ha : addr % 4 = 0) (h : inRingMemory addr) : burstLen addr 1 = 1 := by
  unfold inRingMemory at h
  have hr : hostRow addr = some (addr / 0x4000 * 0x4000, addr / 0x4000 * 0x4000 + 0x4000) := by
    unfold hostRow
    rw [if_neg (by omega), if_pos (by simpa using h)]
  unfold burstLen
  simp only [hr, ha, if_true]
  omega

/-- The bytes of a word, least significant first (R5). -/
theorem le_word (v : BitVec 32) :
    le 4 v.toNat = [v.extractLsb' 0 8, v.extractLsb' 8 8, v.extractLsb' 16 8, v.extractLsb' 24 8] := by
  have byte (k : Nat) : BitVec.ofNat 8 (v.toNat / 2 ^ k) = v.extractLsb' k 8 := by
    apply BitVec.eq_of_toNat_eq
    simp [BitVec.extractLsb'_toNat, Nat.shiftRight_eq_div_pow]
  simp only [le, Nat.div_div_eq_div_mul, ← byte]
  simp

/-- A word written to the ring memory reads back byte by byte, and every other byte as before. -/
theorem readByte_writeBytes_word (mem : List Host.Cell) (addr : Nat) (v : BitVec 32) :
    let m := writeBytes mem addr (le 4 v.toNat)
    readByte m addr = v.extractLsb' 0 8 ∧ readByte m (addr + 1) = v.extractLsb' 8 8 ∧
    readByte m (addr + 2) = v.extractLsb' 16 8 ∧ readByte m (addr + 3) = v.extractLsb' 24 8 ∧
    ∀ a, a < addr ∨ addr + 4 ≤ a → readByte m a = readByte mem a := by
  rw [le_word]
  have inside := readByte_writeBytes_inside mem addr
  exact ⟨inside 0 _ (by simp), inside 1 _ (by simp), inside 2 _ (by simp), inside 3 _ (by simp),
    fun a h => readByte_writeBytes_outside mem addr a _ h⟩

/-- Settles O26: the registers by what each write runs, the ring memory by the bytes of the word written. -/
theorem windowWritesStore : Obligations.WindowWritesStore := by
  refine ⟨fun v s hw => ⟨exec_irqCauseWrite hw, exec_registerWrite_word hw, ?_, ?_⟩, fun addr size v s hw => ⟨?_, ?_, ?_, ?_⟩⟩
  · obtain ⟨_, _, _, h⟩ := setMask_msixOnly v s
    exact ⟨_, exec_irqMaskWrite hw, by rw [h]; exact ⟨rfl, rfl, rfl, rfl, rfl⟩⟩
  · rw [exec_registerWrite_word hw, exec_irqMaskWrite hw]; rfl
  · rintro rfl ha hr
    obtain ⟨h0, h1, h2, h3, hrest⟩ := readByte_writeBytes_word s.host.mem addr v
    exact ⟨_, by rw [exec_registerWrite_word hw, writeWindow_ringMemory ha hr], h0, h1, h2, h3, hrest, rfl⟩
  · intro h
    rw [exec_registerWrite_word hw, writeWindow_ignored h]
  · intro hs ha hr a b c d e f g h
    rw [exec_registerWrite_word hw, exec_registerWrite_spi_word hw hs rfl (burstLen_one ha hr)]
  · intro ins ns h
    exact exec_registerWrite_spi_ignored (h.imp_right spiWords_short)

end Sys2Proof.Machine
end

section
/-!
PROOFS. Crane transfers that wait, start and end, and the answer of a command whose settle point has come (R10, R322 to R324, R333, R335).
-/
namespace Sys2Proof.Machine

/-! Acceptance of a store transfer (R324). -/

/-- A request that is admitted goes on to its payload, one more answer being owed and its sequence number the newest (R320, R331). -/
theorem accept_eq_acceptPayload {op : Opcode} {h : StoreHdr} {r : Req} {s : State} (ha : admits op h r s = true) :
    accept op h r s = trimmed r (acceptPayload op h r (taken r s)) := by
  unfold admits at ha
  simp only [Bool.and_eq_true, Bool.not_eq_true', decide_eq_true_eq] at ha
  obtain ⟨⟨⟨⟨⟨⟨hserve, hstage⟩, hdup⟩, hmaster⟩, hseq⟩, hauth⟩, hmode⟩ := ha
  let owing := updMaster r.master.val (fun x => { x with unanswered := x.unanswered + 1 }) s
  have hmaster' : owing.hasMaster r.master.val = true := hmaster
  have hseq' : (owing.enforced && !seqNewer owing r.master.val r.seq) = false := by
    rw [seqNewer_taken, show owing.enforced = s.enforced from rfl]
    revert hseq
    cases s.enforced <;> simp
  have hauth' : authOk owing op r h = true := hauth
  have hmode' : modeRefuses op r.payload h owing = false := hmode
  unfold accept
  dsimp only
  rw [if_neg (by simp [hserve]; omega), if_neg (by simp only [hdup]; decide), if_neg (by rw [hmaster']; decide),
    if_neg (by rw [hseq']; decide), if_neg (by rw [hauth']; decide), if_neg (by rw [hmode']; decide)]
  rfl

/-- The transfer of a store request accepted in period `accepted`, from state `s` (R322, R324). -/
def storeTransferOf (h : StoreHdr) (r : Req) (accepted : Nat) (s : State) : Transfer :=
  let data := if h.dir = 0 then [] else storeData h s
  { id := s.host.nextId, op := .storeTransfer, req := r, accepted := accepted, store := h, out := decide (h.dir ≠ 0), via := r.crane.via
    length := if h.dir = 0 then r.crane.length else data.length, data := data
    apply := if h.dir = 0 then applyPeriod s accepted r else none }

/-- A transfer joins those waiting, and takes a channel if one is free (R322). -/
def joinTransfers (t : Transfer) (s : State) : State :=
  startTransfer { s with host.nextId := s.host.nextId + 1, host.transfers := s.host.transfers ++ [t] }

/-- A store transfer that passes its checks joins those waiting; a stream whose chunks are all there ends at once (R323, R324). -/
theorem acceptStore_joins {h : StoreHdr} {r : Req} {accepted : Nat} {s : State} (hk : r.pkind = .crane) (ho : storeOk h = true)
    (hlen : h.dir = 0 → r.crane.length = h.length) (hc : craneRefused s r.master.val r.crane = none)
    (hb : h.store = 1 → s.capturing = false) :
    acceptStore h r accepted s =
      let v := joinTransfers (storeTransferOf h r accepted s) s
      if h.dir = 0 then endStreams 16 v else v := by
  unfold acceptStore
  dsimp only
  rw [if_neg (by simpa [hk, ho] using hlen), hc]
  dsimp only
  rw [if_neg (by simpa using hb)]
  by_cases hd : h.dir = 0 <;> simp [hd, addTransfer, joinTransfers, storeTransferOf]

theorem exec_storeTransfer {h : StoreHdr} {r : Req} {s : State} (ha : admits .storeTransfer h r s = true) :
    exec (.storeTransfer r h) s = .next (trimmed r (acceptStore h r s.idx (taken r s))) := by
  change Host.Outcome.next (accept .storeTransfer h r s) = _
  rw [accept_eq_acceptPayload ha]
  rfl

/-! The settle point (R333). -/

/-- A fold that at each element keeps what it has or takes that element ends with what it had or with one of them. -/
theorem foldl_keeps_or_takes {α : Type} {f : Option α → α → Option α} (hf : ∀ best a, f best a = some a ∨ f best a = best)
    {l : List α} {best : Option α} {w : α} (h : l.foldl f best = some w) : best = some w ∨ w ∈ l := by
  induction l generalizing best with
  | nil => exact .inl h
  | cons a l ih =>
    rcases ih h with hw | hw
    · rcases hf best a with ha | ha
      · rw [ha] at hw
        exact .inr (List.mem_cons.2 (.inl (Option.some.inj hw).symm))
      · exact .inl (ha ▸ hw)
    · exact .inr (List.mem_cons_of_mem _ hw)

/-- The command that wins a unit is one of those that compete (R335). -/
theorem unitWinner_mem {cs : List Cmd} {e : Nat} {u : UnitKey} {w : Cmd} (h : unitWinner cs e u = some w) : w ∈ cs := by
  unfold unitWinner at h
  refine (foldl_keeps_or_takes ?_ h).elim nofun fun hw => (List.mem_filter.1 (List.mem_filter.1 hw).1).1
  intro best c
  cases best with
  | none => exact .inl rfl
  | some b => dsimp only; split <;> simp

/-- A command alone loses no unit (R335). -/
theorem lostUnits_singleton (c : Cmd) : lostUnits [c] c = [] := by
  unfold lostUnits
  split
  · rfl
  · rw [List.filter_eq_nil_iff]
    intro u _
    cases h : unitWinner [c] c.effect u with
    | none => simp
    | some w => simp [List.mem_singleton.1 (unitWinner_mem h)]

/-- Only a swap, a change of mode and a proposal's change can lose or defer part of their effect for another reason than
arbitration (R146, R347, R350). -/
theorem outcomeOf_other {s : State} {c : Cmd} (h : c.op ∉ [Opcode.accordSwap, .sysModeSet, .proposalApply]) :
    outcomeOf s c = ([], false) := by
  simp only [List.mem_cons, List.not_mem_nil, or_false, not_or] at h
  obtain ⟨hswap, hmode, hprop⟩ := h
  unfold outcomeOf
  split
  · next e => exact absurd e hswap
  · next e => exact absurd e hmode
  · next e => exact absurd e hprop
  · rfl

/-- A master that loses is told in its answer alone. -/
theorem noteLoss_master {c : Cmd} {m : Nat} (s : State) (h : c.origin = .master m) : noteLoss c s = s := by
  unfold noteLoss
  rw [h]
  cases c.lost <;> rfl

/-- Change the only command waiting. -/
theorem updCmd_singleton {c : Cmd} {s : State} (f : Cmd → Cmd) (h : s.host.cmds = [c]) :
    updCmd c.id f s = { s with host.cmds := [f c] } := by
  simp [updCmd, h]

theorem resolveCmd_settled {c : Cmd} {s : State} (h : c.settled = true) : resolveCmd c s = s := by
  unfold resolveCmd
  rw [if_pos h]

/-- A command alone in its boundary loses nothing when its collisions are resolved (R335). -/
theorem resolveCmd_singleton {c : Cmd} {m : Nat} {s : State} (hs : s.host.cmds = [c]) (hm : c.origin = .master m)
    (hc : c.settled = false) (ho : c.op ∉ [Opcode.accordSwap, .sysModeSet, .proposalApply]) :
    resolveCmd c s = { s with host.cmds := [{ c with settled := true, lost := [], deferred := false }] } := by
  unfold resolveCmd
  rw [if_neg (by simp [hc])]
  have houtcome : outcomeOf s { c with lost := [], settled := true } = ([], false) := outcomeOf_other ho
  have hnote : noteLoss { c with lost := [], settled := true, deferred := false } s = s := noteLoss_master s hm
  simp only [hs, lostUnits_singleton, houtcome, List.append_nil, hnote]
  exact updCmd_singleton (c := c) (fun _ => _) hs

/-- What a master's command is answered at its settle point: SUPERSEDED with what it lost, DEFERRED if it waits, or OK (R333). -/
def settleResponse (c : Cmd) (m : Nat) : Response :=
  if c.lost ≠ [] then answerOf c m .superseded (lostBody c)
  else if c.deferred = true then answerOf c m .deferred []
  else answerOf c m .ok []

/-- The only command waiting is answered at its settle point (R333). -/
theorem settleAnswer_singleton {c : Cmd} {m : Nat} {s : State} (hs : s.host.cmds = [c]) (hm : c.origin = .master m)
    (ha : c.answered = false) (hclose : c.op ≠ .berthClose) (hpeer : c.op ≠ .peerSet) :
    settleAnswer c s = respond (settleResponse c m) { s with host.cmds := [{ c with answered := true }] } := by
  have answer (st : Status) (body : Bytes) (t : State) : answerCmd c st body t = respond (answerOf c m st body) t := by
    unfold answerCmd
    rw [hm, ha]
    rfl
  have body : okBody c s = [] := by unfold okBody; simp [hpeer]
  unfold settleAnswer settleResponse
  rw [if_neg (by simp [ha, hclose]), updCmd_singleton _ hs]
  simp only [answer, body, Bool.not_eq_true', List.isEmpty_eq_false_iff]
  split
  · rfl
  · split <;> rfl

/-- A step for the only command waiting. -/
theorem forCmds_singleton {c : Cmd} {s : State} (f : Cmd → State → State) (h : s.host.cmds = [c]) : forCmds [c.id] f s = f c s := by
  simp [forCmds, h]

/-- The settling of the only command waiting, once its settle point has come. -/
theorem settleDue_singleton {c : Cmd} {s : State} (hs : s.host.cmds = [c]) (hd : c.effect + s.media.catchL ≤ s.idx + 48) :
    settleDue s = prune (forCmds [c.id] settleAnswer (resolveCmd c s)) := by
  unfold settleDue
  rw [← forCmds_singleton resolveCmd hs, hs]
  simp [hd, inOrder]

/-- A command whose collisions were resolved before is answered as they left it. -/
theorem settleDue_settled {c : Cmd} {m : Nat} {s : State} (hs : s.host.cmds = [c]) (hm : c.origin = .master m)
    (ha : c.answered = false) (hd : c.effect + s.media.catchL ≤ s.idx + 48) (hc : c.settled = true) (hclose : c.op ≠ .berthClose)
    (hpeer : c.op ≠ .peerSet) :
    settleDue s = prune (respond (settleResponse c m) { s with host.cmds := [{ c with answered := true }] }) := by
  rw [settleDue_singleton hs hd, resolveCmd_settled hc, forCmds_singleton _ hs, settleAnswer_singleton hs hm ha hclose hpeer]

/-- A command alone in its boundary is answered OK. -/
theorem settleDue_alone {c : Cmd} {m : Nat} {s : State} (hs : s.host.cmds = [c]) (hm : c.origin = .master m)
    (ha : c.answered = false) (hd : c.effect + s.media.catchL ≤ s.idx + 48) (hc : c.settled = false)
    (ho : c.op ∉ [Opcode.accordSwap, .sysModeSet, .proposalApply, .berthClose, .peerSet]) :
    settleDue s = prune (respond (answerOf c m .ok [])
      { s with host.cmds := [{ c with settled := true, lost := [], deferred := false, answered := true }] }) := by
  simp only [List.mem_cons, List.not_mem_nil, or_false, not_or] at ho
  obtain ⟨hswap, hmode, hprop, hclose, hpeer⟩ := ho
  let w : Cmd := { c with settled := true, lost := [], deferred := false }
  have hr : resolveCmd c s = { s with host.cmds := [w] } := resolveCmd_singleton hs hm hc (by simp [hswap, hmode, hprop])
  rw [settleDue_singleton hs hd, hr, show c.id = w.id from rfl, forCmds_singleton _ rfl,
    settleAnswer_singleton (c := w) (m := m) rfl hm ha hclose hpeer]
  rfl

/-! Crane channels (R322, R323). -/

theorem startTransfer_begins {s : State} {c : Nat} {t : Transfer}
    (hc : (List.range 8).find? (fun c => !(s.host.transfers.filterMap Transfer.channel).contains c) = some c)
    (ht : (s.host.transfers.find? fun t => t.channel.isNone) = some t) : startTransfer s = beginTransfer t c s := by
  unfold startTransfer
  dsimp only
  rw [hc, ht]

theorem exec_craneTransferDone {ch : Fin 8} {data : Bytes} {s : State} {t : Transfer}
    (ht : (s.host.transfers.find? fun t => t.channel == some ch.val && t.via == 0) = some t) :
    exec (.craneTransferDone ch data) s =
      .next (beginNext (if t.out then finishOut t s else finishIn t (padTo t.length (data.take t.length)) s)) := by
  change execCraneTransferDone ch data s = _
  unfold execCraneTransferDone
  rw [ht]

/-- Data that have come whole, and pass their digest, are acted on where the mode allows their command (R322, R338). -/
theorem finishIn_acts {t : Transfer} {d : Bytes} {s : State} (hd : s.enforced = false ∨ Config.sha256 d = t.req.crane.digest)
    (hm : modeRefuses t.op d t.store (dropTransfer t s) = false) :
    finishIn t d s = checkFailRun t.req.master.val (trimSeqs t.req.master.val
      (actReq t.op t.store d t.req t.accepted t.apply (dropTransfer t s))) := by
  unfold finishIn
  dsimp only
  rw [if_neg, hm]
  · rfl
  · rw [show (dropTransfer t s).enforced = s.enforced from rfl]
    rcases hd with hd | hd <;> simp [hd]

/-- Settles O24: acceptance, the settling of a command alone, and what a channel that is free or done leads to, each by the lemma
that says what its operation does there. -/
theorem transfersMoveAndSettle : Obligations.TransfersMoveAndSettle := by
  refine ⟨fun r h s ha hk ho hlen hc hb => ?_, fun s => ⟨fun c m hs hm hans _ hd => ⟨fun hc hclose hpeer => ?_, fun hc hop => ?_⟩,
    fun c t hc ht => ?_, fun ch data t ht => ⟨fun hout => ?_, fun hout hd hm => ?_⟩⟩⟩
  · rw [exec_storeTransfer ha, acceptStore_joins hk ho hlen hc hb]
    rfl
  · exact congrArg Host.Outcome.next (settleDue_settled hs hm hans hd hc hclose hpeer)
  · exact congrArg Host.Outcome.next (settleDue_alone hs hm hans hd hc hop)
  · exact congrArg (fun v => Host.Outcome.next (endStreams 16 v)) (startTransfer_begins hc ht)
  · rw [exec_craneTransferDone ht, if_pos hout]
    rfl
  · rw [exec_craneTransferDone ht, if_neg (by simp [hout]), finishIn_acts hd hm]

end Sys2Proof.Machine
end

section
/-!
PROOFS. The snapshot of a tick in the active of a pair (R59, R84, R85, R290): with tap pressure it sends a check record, and the
network's records change.
-/
namespace Sys2Proof.Machine

/-! A boundary at which nothing is due. -/

theorem noCmds_eta {s : State} (h : s.host.cmds = []) : { s with host.cmds := [] } = s := by rw [← h]

theorem applyDue_noCmds {f : Cmd → Bool} {s : State} (h : s.host.cmds = []) : applyDue f s = s := by
  simpa [applyDue, inOrder, forCmds, prune, h] using noCmds_eta h

theorem settleDue_noCmds {s : State} (h : s.host.cmds = []) : settleDue s = s := by
  simpa [settleDue, inOrder, forCmds, prune, h] using noCmds_eta h

/-! Composition of a tap whose gains are all at 0 dB (R61, R102). -/

/-- The values that an elementary function in binary32 may give for an exact one (R63). -/
def neighbours32 (exact : Rat) : List Rat :=
  let u := ulpOf 24 (-126) exact
  [0, exact, ((exact / u).floor + 1 : Int) * u, (exact / u).floor * u]

theorem near32_mem_neighbours32 (f : Nat) (x y exact : Rat) : near32 f x y exact ∈ neighbours32 exact := by
  unfold near32 neighbours32
  dsimp only
  split
  · simp
  · split
    · simp
    · split <;> simp

theorem gain32_zero : gain32 0 = 1 := by decide +kernel

theorem mul32_one_one : mul32 1 1 = 1 := by decide +kernel

/-- The gain at which a tap is mute lies below 0 dB, whichever way it is rounded. -/
theorem muteGain_le_one : pow32 10 (div32 (-14400) 2000) ≤ 1 := by
  have bound : ∀ v ∈ neighbours32 (Fx.toRat (Fx.pow (Fx.ofRat 10) (Fx.ofRat (div32 (-14400) 2000)))), v ≤ 1 := by decide +kernel
  exact bound _ (near32_mem_neighbours32 ..)

theorem compose_zeroDb {s : State} {o : ObjRec} {t : LawTap} (slot id : Nat) (ho : o.gain = 0) (ht : t.gain = 1)
    (hk : (s.spk t.output).trim = 0) (hz : (s.zone (s.spk t.output).zone).gain = 0) :
    ∃ w, compose s slot id o t = some w ∧ w.output = t.output := by
  unfold compose
  simp only [ho, ht, hk, hz, gain32_zero, mul32_one_one]
  rw [if_neg]
  · exact ⟨_, rfl, rfl⟩
  · rintro (zero | mute)
    · exact absurd zero (by decide)
    · rw [if_neg (by decide)] at mute
      exact Rat.not_lt.2 muteGain_le_one mute

theorem shallowKeep_deep {s : State} (h : s.shallow = false) : shallowKeep s = some := by
  funext w
  simp [shallowKeep, h]

/-! The wants of one Quay (R82, R84). -/

/-- Outside SHALLOW an object of at most 128 candidates, none of them mute, wants them all. -/
theorem objectWants_countP {s : State} {slot id : Nat} {p : Want1 → Bool} (hs : s.shallow = false)
    (hlen : (lawTaps s (s.obj id).cfg).length ≤ 128)
    (h : ∀ t ∈ lawTaps s (s.obj id).cfg, ∃ w, compose s slot id (s.obj id).cfg t = some w ∧ p w = true) :
    (objectWants s slot id).countP p = (lawTaps s (s.obj id).cfg).length := by
  have room : ((lawTaps s (s.obj id).cfg).filterMap (compose s slot id (s.obj id).cfg)).length ≤ 128 :=
    Nat.le_trans (List.length_filterMap_le ..) hlen
  unfold objectWants
  dsimp only
  rw [shallowKeep_deep hs, List.filterMap_some, List.take_of_length_le (by rwa [List.length_mergeSort]),
    (List.mergeSort_perm _ _).countP_eq, List.countP_filterMap, List.countP_eq_length]
  intro t ht
  obtain ⟨w, hw, hp⟩ := h t ht
  simp [hw, hp]

/-- Objects in slots, of a number of wants each. -/
theorem solve_wants_countP {k n : Nat} {s : State} {p : Want1 → Bool} {slots : List (Nat × Nat)}
    (hs : (s.scene.stats.filterMap fun e => e.2.slot.map fun i => (i, e.1)) = slots)
    (h : ∀ e ∈ slots, (objectWants s e.1 e.2).countP p = n) : (solve k s).wants.countP p = slots.length * n := by
  unfold solve solveFrom
  dsimp only
  have each : slots.map (List.countP p ∘ fun e => objectWants s e.1 e.2) = slots.map fun _ => n := List.map_congr_left h
  rw [(List.mergeSort_perm _ _).countP_eq, hs, List.countP_flatMap, each, List.map_const', List.sum_replicate_nat]

/-! Tap pressure (R84, R85). -/

/-- A tap counts for its own Quay. -/
theorem Totals.add_quay {t : Totals} {q n : Nat} (p : Nat) (hq : q < t.quay.length) :
    (t.add p n).quay.getD q 0 = t.quay.getD q 0 + if p = q then n else 0 := by
  simp only [Totals.add, List.getD_eq_getElem?_getD, List.getElem?_set]
  split
  · next e => subst e; simp [hq]
  · simp

/-- Each want of a Quay that is counted costs at least one read of it. -/
theorem countP_le_quay {cost : Want1 → Nat} {q : Nat} (hc : ∀ w, 1 ≤ cost w) (l : List Want1) (t : Totals) (hq : q < t.quay.length) :
    t.quay.getD q 0 + l.countP (fun w => w.output / 128 == q) ≤
      (l.foldl (fun a w => a.add (w.output / 128) (cost w)) t).quay.getD q 0 := by
  induction l generalizing t with
  | nil => simp
  | cons w l ih =>
    have one := hc w
    have rest := ih (t.add (w.output / 128) (cost w)) (by simpa [Totals.add] using hq)
    rw [Totals.add_quay _ hq] at rest
    rw [List.foldl_cons, List.countP_cons]
    refine Nat.le_trans ?_ rest
    by_cases h : w.output / 128 = q
    · simp [h]; omega
    · simp [h]

theorem any_of_lt_getD {l : List Nat} {i n : Nat} (h : n < l.getD i 0) : l.any (· > n) = true := by
  by_cases hi : i < l.length
  · exact List.any_eq_true.2 ⟨l[i], List.getElem_mem hi, by simpa [List.getD_eq_getElem?_getD, hi] using h⟩
  · simp [List.getD_eq_getElem?_getD, hi] at h

/-- More wants of one Quay than its taps are tap pressure. -/
theorem solve_pressure {k q : Nat} {s : State} (hq : q < 4)
    (h : quayTapCap s.media.heart < (solve k s).wants.countP fun w => w.output / 128 == q) : (solve k s).pressure = true := by
  unfold solve solveFrom at h ⊢
  dsimp only at h ⊢
  refine Bool.or_eq_true_iff.2 (.inr (any_of_lt_getD (i := q) (Nat.lt_of_lt_of_le h ?_)))
  refine Nat.le_trans (Nat.le_add_left _ _) (countP_le_quay (fun w => ?_) _ {} hq)
  split
  · split <;> omega
  · omega

/-! What a solve with tap pressure sends (R290). -/

theorem raise_net (i : Nat) (s : State) : (raise i s).net = s.net := by
  have msix (t : State) : (sendMsix i t).net = t.net := by
    obtain ⟨_, _, _, h⟩ := sendMsix_msixOnly i t
    rw [h]
  unfold raise noteEvent
  dsimp only
  split <;> split <;> simp only [msix]

theorem logEvent_net (cause sub src : Nat) (args : List Nat) (s : State) : (logEvent cause sub src args s).net = s.net := raise_net ..

theorem pressureEvent_net (k : Nat) (r : Solved) (s : State) : (pressureEvent k r s).net = s.net := by
  unfold pressureEvent
  dsimp only
  split <;> split <;> simp only [logEvent_net, raise_net]

theorem setFlag_net (i : Nat) (v : Bool) (src : Nat) (s : State) : (setFlag i v src s).net = s.net := by
  unfold setFlag setWord
  split
  · rfl
  · split
    · rfl
    · exact logEvent_net ..

theorem setAdrift_net (reason : Nat) (s : State) : (setAdrift reason s).net = s.net := by
  unfold setAdrift twinEvent
  split
  · exact (logEvent_net ..).trans (setFlag_net ..)
  · rfl

theorem compareCheck_net (k : Nat) (s : State) : (compareCheck k s).net = s.net := by
  unfold compareCheck
  split
  · rfl
  · dsimp only
    split
    · rfl
    · exact setAdrift_net ..

theorem solveTick_net (k : Nat) (s : State) : (solveTick k s).net = (checkCounts k (solve k s) s).net := pressureEvent_net ..

/-- A record on the mooring link takes the next sequence number of the twin-control service (Table 8.7). -/
theorem sendMoor_serviceSeq {kind lane : Nat} {m : MoorHdr → OutMsg} {s : State} (h : laneOf s.twin.lanes kind = some lane) :
    SMap.get 0 (sendMoor kind m s).net.serviceSeq 2 = wrapAdd 32 (SMap.get 0 s.net.serviceSeq 2) 1 := by
  unfold sendMoor
  rw [h]
  exact SMap.get_put_same ..

theorem solveTick_sendsCheck {k lane : Nat} {s : State} (hp : (solve k s).pressure = true) (hpair : s.isPair = true)
    (ha : s.flag mActive = true) (hl : laneOf s.twin.lanes 7 = some lane) :
    SMap.get 0 (solveTick k s).net.serviceSeq 2 = wrapAdd 32 (SMap.get 0 s.net.serviceSeq 2) 1 := by
  have sent : checkCounts k (solve k s) s =
      sendTwin 7 true (k :: (solve k s).counts.flatMap fun e => [e.1, e.2]) [] s := by
    simp [checkCounts, hp, hpair, ha]
  rw [solveTick_net, sent, sendTwin, if_pos rfl]
  exact sendMoor_serviceSeq hl

/-- What the snapshot of tick k solves: the records with the commands of the tick settled (R33, R59). -/
def snapshotBase (k : Nat) (s : State) : State :=
  settleDue (applyDue (tickDue k) (followShallow k (takeDecisions (fun e => e.2.ofTick && e.1 ≤ k)
    { swapTables (k - 64) (carrySlice k s) with rend.leaving := [] })))

theorem snapshotTick_net (k : Nat) (s : State) : (snapshotTick k s).net = (solveTick k (snapshotBase k s)).net := by
  have solved : (snapshotTick k s).net = (if (solveTick k (snapshotBase k s)).flag mStandby then
      compareCheck k (solveTick k (snapshotBase k s)) else solveTick k (snapshotBase k s)).net := rfl
  rw [solved]
  split
  · exact compareCheck_net ..
  · rfl

/-! An active of a pair with more wants than the taps of a Quay. -/

/-- An object that feeds the 128 loudspeakers of Quay 0 at 0 dB (R73). -/
def quayFiller : ObjRec := { law := 4, direct := (List.range 128).map fun o => (o, 0) }

/-- Unit A of a pair, active, its mooring lane 0 in lock, at the snapshot of tick 0: 193 objects want 24,704 taps of Quay 0, which
has 24,576. -/
def crowded : State :=
  { media := { c := 144 * 512, running := true }
    power := { word := BitVec.ofNat 16 (2 ^ mLive + 2 ^ mActive) }
    boot := { up := true, postDone := true, postPass := true, straps := { twin := 1 } }
    host := { ready := true }
    twin := { lanes := 1, moorUp := true }
    scene := {
      objects := (List.range 193).map fun i => (i, { cfg := quayFiller })
      stats := (List.range 193).map fun i => (i, { slot := some i })
      speakers := (List.range 128).map fun o => (o, { flags := 1 }) } }

theorem lawTaps_quayFiller : lawTaps crowded quayFiller = (List.range 128).map fun o => { output := o, gain := 1 } := by decide +kernel
theorem crowded_obj : ∀ i < 193, (crowded.obj i).cfg = quayFiller := by decide +kernel
theorem crowded_trim : ∀ o < 128, (crowded.spk o).trim = 0 := by decide +kernel

theorem crowded_objectWants {id : Nat} (slot : Nat) (h : id < 193) :
    (objectWants crowded slot id).countP (fun w => w.output / 128 == 0) = 128 := by
  rw [objectWants_countP (by decide +kernel)]
  all_goals rw [crowded_obj id h, lawTaps_quayFiller]
  · simp
  · simp
  · intro t ht
    obtain ⟨o, ho, rfl⟩ := List.mem_map.1 ht
    have ho := List.mem_range.1 ho
    obtain ⟨w, hw, out⟩ := compose_zeroDb (s := crowded) (o := quayFiller) (t := { output := o, gain := 1 }) slot id rfl rfl
      (crowded_trim o ho) rfl
    exact ⟨w, hw, by simp [out]; omega⟩

theorem crowded_slots : (crowded.scene.stats.filterMap fun e => e.2.slot.map fun i => (i, e.1)) = (List.range 193).map fun i => (i, i) :=
  by decide +kernel

/-- 193 × 128 wants exceed the 24,576 taps of Quay 0 (Table 1.2). -/
theorem crowded_pressure : (solve 0 crowded).pressure = true := by
  refine solve_pressure (q := 0) (by decide) ?_
  rw [solve_wants_countP (n := 128) crowded_slots]
  · rw [List.length_map, List.length_range]
    exact show 24576 < 193 * 128 by decide
  · intro e he
    obtain ⟨i, hi, rfl⟩ := List.mem_map.1 he
    exact crowded_objectWants i (List.mem_range.1 hi)

theorem crowded_snapshotBase : snapshotBase 0 crowded = crowded := by
  have quiet : followShallow 0 (takeDecisions (fun e => e.2.ofTick && e.1 ≤ 0)
    { swapTables (0 - 64) (carrySlice 0 crowded) with rend.leaving := [] }) = crowded := rfl
  unfold snapshotBase
  rw [quiet, applyDue_noCmds rfl, settleDue_noCmds rfl]

theorem crowded_snapshot_serviceSeq : SMap.get 0 (snapshotTick 0 crowded).net.serviceSeq 2 = 1 := by
  rw [snapshotTick_net, crowded_snapshotBase,
    solveTick_sendsCheck (lane := 0) crowded_pressure (by decide) (by decide) (by decide)]
  rfl

/-- Refutes O48: its clause on the snapshot has the network's records as the settled commands left them, also for the active of a
pair. With tap pressure (R85) that unit sends a check record (R290), which takes a sequence number of the twin-control service:
in `crowded` the snapshot of tick 0 leaves it at 1, where it was 0. -/
theorem not_rhythmRunsEachStepOnce : ¬ Obligations.RhythmRunsEachStepOnce := by
  unfold Obligations.RhythmRunsEachStepOnce
  intro h
  obtain ⟨-, -, contents⟩ := h
  obtain ⟨-, -, snapshot, -⟩ := contents crowded
  obtain ⟨t, ht, -, -, -, net⟩ := snapshot 0 rfl (by decide) (by decide) rfl (by decide)
  have solved : exec .sceneSnapshot crowded = .next (snapshotTick 0 crowded) := rfl
  have kept : (snapshotTick 0 crowded).net = (snapshotBase 0 crowded).net := by
    rw [solved] at ht
    exact Host.Outcome.next.inj ht ▸ net
  have sent := crowded_snapshot_serviceSeq
  rw [kept, crowded_snapshotBase] at sent
  exact absurd sent (by decide)

end Sys2Proof.Machine
end

section
/-!
PROOFS. The commands of the scene (R32 to R50): what a request comes to, reads that are answered at acceptance, and commands that
wait for their boundary.
-/
namespace Sys2Proof.Machine

/-! Requests. -/

/-- Every request is accepted or refused by its opcode (Table 11.19). -/
theorem exec_request {i : Instr} {op : Opcode} {h : StoreHdr} {r : Req} (hi : requestOf i = some (op, h, r)) (s : State) :
    exec i s = .next (accept op h r s) := by
  unfold requestOf at hi
  split at hi <;> cases hi <;> rfl

/-! Commands that wait for a boundary (R33, R333). -/

theorem timedOps_ne {op : Opcode} (h : op ∈ timedOps) : op ≠ .storeTransfer ∧ op ≠ .proposalApply ∧ op ≠ .bridgeSet := by
  refine ⟨?_, ?_, ?_⟩ <;> rintro rfl <;> exact absurd h (by decide)

/-- A command that waits is offered to the queue with its whole payload. -/
theorem actReq_waits {op : Opcode} {h : StoreHdr} {p : Bytes} {r : Req} {accepted : Nat} {settled : Option Nat} {s : State} {t : Timing}
    (hp : op ≠ .proposalApply) (hw : waitsAs op p = some t) :
    actReq op h p r accepted settled s = queueReq op t p p 0 r accepted settled s := by
  unfold waitsAs at hw
  unfold actReq
  dsimp only
  rw [if_neg (by simpa using hp), hw]

/-- Settles O14: the request is acted on in the state that takes it, is offered to the queue, and joins it. -/
theorem timedCommandsWait : Obligations.TimedCommandsWait := by
  intro i op r s t e hi hop ha hd hw he n c hq
  obtain ⟨hstore, hproposal, hbridge⟩ := timedOps_ne hop
  have period : applyPeriod s s.idx r = some e := he
  rw [exec_request hi, accept_admitted ha hd hstore, period, actReq_waits hproposal hw, queueReq_queues hq hbridge]
  simp only [beq_iff_eq]
  rfl

/-! Reads (R32, R283). -/

/-- Of class read are neither store writes nor PROPOSAL_APPLY (Table 10.4). -/
theorem read_ne {op : Opcode} {p : Bytes} (hc : classOf op p {} = .read) : op ≠ .storeTransfer ∧ op ≠ .proposalApply := by
  constructor <;> rintro rfl <;> exact absurd hc (by simp [classOf, isSelect])

theorem actsNow_of_read {op : Opcode} {h : StoreHdr} {r : Req} (s : State) (hc : classOf op r.payload h = .read) :
    actsNow op h r s = true := by
  simp [actsNow, waitsOnActive, hc]

/-- A read is answered OK with its body: it has no apply period, and nothing is forwarded. -/
theorem exec_read {i : Instr} {op : Opcode} {r : Req} {p : Bytes} {s t : State} {body : Bytes} (hi : requestOf i = some (op, {}, r))
    (hp : r.payload = p) (ha : admits op {} r s = true) (hd : delivered r s = true) (hc : classOf op p {} = .read)
    (hw : waitsAs op p = none) (hn : actNow op {} p r (taken r s) = .done t body) (hb : body.length ≤ 4096) :
    exec i s = .next (finish op r s.idx 0 .ok body t) := by
  subst hp
  obtain ⟨hstore, hproposal⟩ := read_ne hc
  have period : appliedNow op {} r.payload s = 0 := by simp [appliedNow, hc]
  have alone : forwardNow op {} r.payload r t = t := by simp [forwardNow, hc]
  rw [exec_request hi, accept_done ha hd hstore hproposal hw (actsNow_of_read s hc) hn hb, period, alone]

/-- The scene's commands on a select-mask record (R32). -/
def sceneRecordOps : List Opcode := [.objSet, .spkSet, .zoneSet, .airSet, .peerSet]

theorem mem_sceneRecordOps {op : Opcode} (h : op ∈ sceneRecordOps) :
    op = .objSet ∨ op = .spkSet ∨ op = .zoneSet ∨ op = .airSet ∨ op = .peerSet := by
  simpa only [sceneRecordOps, List.mem_cons, List.not_mem_nil, or_false] using h

theorem classOf_mask_zero {op : Opcode} {p : Bytes} (h : StoreHdr) (ho : op ∈ sceneRecordOps) (hm : maskOf p = 0) :
    classOf op p h = .read := by
  rcases mem_sceneRecordOps ho with rfl | rfl | rfl | rfl | rfl <;> simp [classOf, isSelect, hm]

theorem waitsAs_mask_zero {op : Opcode} {p : Bytes} (ho : op ∈ sceneRecordOps) (hm : maskOf p = 0) : waitsAs op p = none := by
  rcases mem_sceneRecordOps ho with rfl | rfl | rfl | rfl | rfl <;> simp [waitsAs, timingOf, hm]

theorem actNow_scene {op : Opcode} {h : StoreHdr} {p : Bytes} {r : Req} {s : State} (ho : op ∈ sceneRecordOps) :
    actNow op h p r s = readScene op p s := by
  rcases mem_sceneRecordOps ho with rfl | rfl | rfl | rfl | rfl <;> rfl

/-- A select-mask command of the scene with a mask of 0 is answered with the record (R32). -/
theorem exec_mask_zero {i : Instr} {op : Opcode} {r : Req} {s : State} {body : Bytes} (hi : requestOf i = some (op, {}, r))
    (ho : op ∈ sceneRecordOps) (hm : maskOf r.payload = 0) (ha : admits op {} r s = true) (hd : delivered r s = true)
    (hn : readScene op r.payload (taken r s) = .done (taken r s) body) (hb : body.length ≤ 4096) :
    exec i s = .next (finish op r s.idx 0 .ok body (taken r s)) :=
  exec_read hi rfl ha hd (classOf_mask_zero {} ho hm) (waitsAs_mask_zero ho hm) ((actNow_scene ho).trans hn) hb

/-! Fields of a payload (R5). -/

theorem unLe_le {n v : Nat} (h : v < 256 ^ n) : unLe (le n v) = v := by
  induction n generalizing v with
  | zero => simp only [le, unLe]; omega
  | succ n ih =>
    rw [le, unLe, ih (by rw [Nat.pow_succ] at h; omega), BitVec.toNat_ofNat]
    omega

@[simp] theorem length_le (n v : Nat) : (le n v).length = n := by
  induction n generalizing v with
  | zero => rfl
  | succ n ih => rw [le, List.length_cons, ih]

theorem length_slice (p : Bytes) (off n : Nat) : (slice p off n).length = n := by
  simp only [slice, List.length_append, List.length_take, List.length_replicate]
  omega

/-- The first field of a payload. -/
theorem slice_append_left {p q : Bytes} {n : Nat} (hp : p.length = n) : slice (p ++ q) 0 n = p := by
  subst hp
  simp [slice]

/-- A field past the first bytes of a payload. -/
theorem slice_append_right {p q : Bytes} {k : Nat} (hp : p.length = k) (off n : Nat) : slice (p ++ q) (k + off) n = slice q off n := by
  subst hp
  simp [slice, ← List.drop_drop]

/-- A number written first reads back. -/
theorem getU_le_append {n v : Nat} (q : Bytes) (hv : v < 256 ^ n) : getU (le n v ++ q) 0 n = v := by
  rw [getU, slice_append_left (length_le n v), unLe_le hv]

theorem getU_le_append_right (k v : Nat) (q : Bytes) (off n : Nat) : getU (le k v ++ q) (k + off) n = getU q off n := by
  rw [getU, slice_append_right (length_le k v), getU]

/-! What each read answers. -/

/-- OBJ_GET outside SHALLOW, of the object that two bytes name (R37, R381). -/
theorem readObjGet_named {q : Bytes} {s : State} (hq : q.length = 2) (hid : unLe q ≠ 0) (hs : s.flag mShallow = false) :
    readObjGet (q ++ zeros 6) s = .done s (objBody s (unLe q)) := by
  have name : getU (q ++ zeros 6) 0 2 = unLe q := by rw [getU, slice_append_left hq]
  have rest : slice (q ++ zeros 6) 2 6 = zeros 6 := slice_append_right hq 0 6
  unfold readObjGet
  rw [name, rest, if_neg (by simp [zeros, hq, hid]), if_neg (by simp [hs])]

/-- OBJ_GET of an object by its identifier. -/
theorem readObjGet_id {id : Nat} {s : State} (hlo : 1 ≤ id) (hhi : id ≤ 65535) (hs : s.flag mShallow = false) :
    readObjGet (le 2 id ++ zeros 6) s = .done s (objBody s id) := by
  have named : unLe (le 2 id) = id := unLe_le (by omega)
  rw [readObjGet_named (length_le 2 id) (by omega) hs, named]

theorem readSpkGet_output {o : Nat} {s : State} (ho : o ≤ 511) :
    readSpkGet (le 2 o ++ zeros 6) s = .done s (spkBody s o) := by
  have name := getU_le_append (n := 2) (v := o) (zeros 6) (by omega)
  have rest : slice (le 2 o ++ zeros 6) 2 6 = zeros 6 := slice_append_right (length_le 2 o) 0 6
  unfold readSpkGet
  rw [name, rest, if_neg (by simp [zeros]; omega)]

/-- SYS_LOG_READ of entries from a sequence number on (R341). -/
theorem doSysLogRead_from {first count : Nat} {s : State} (hf : first < 2 ^ 64) (hlo : 1 ≤ count) (hhi : count ≤ 128) :
    let es := ((logView s).filter fun e => first ≤ e.lseq).take count
    let head := match es with | [] => 0 | e :: _ => e.lseq
    doSysLogRead (le 8 first ++ le 2 count ++ zeros 6) s =
      .done { s with host.highRead := es.foldl (fun a e => max a e.lseq) s.host.highRead }
        (le 4 head ++ le 2 es.length ++ le 1 (bit (decide (head > first) && decide (head > 1))) ++ zeros 1 ++
          es.flatMap LogEntry.bytes) := by
  rw [List.append_assoc]
  have hfirst := getU_le_append (n := 8) (v := first) (le 2 count ++ zeros 6) (by omega)
  have hcount : getU (le 8 first ++ (le 2 count ++ zeros 6)) 8 2 = count :=
    (getU_le_append_right 8 first _ 0 2).trans (getU_le_append _ (by omega))
  have hrest : getU (le 8 first ++ (le 2 count ++ zeros 6)) 10 6 = 0 :=
    (getU_le_append_right 8 first _ 2 6).trans (getU_le_append_right 2 count _ 0 6)
  unfold doSysLogRead
  rw [hfirst, hcount, hrest]
  exact if_neg (by simp [zeros]; omega)

/-- A field that names a record lies in its range (R32). -/
theorem recordOk_named {fs : List Fld} {groups len : Nat} {p : Bytes} {f : Fld} (h : recordOk fs groups len p = true) (hf : f ∈ fs)
    (hg : f.group = none) : f.inRange p = true := by
  unfold recordOk layoutOk at h
  simp only [Bool.and_eq_true, List.all_eq_true] at h
  obtain ⟨-, -, fields⟩ := h
  have field := (fields f hf).2
  rwa [hg] at field

/-- A field within the first bytes of a payload. -/
theorem getU_take {p : Bytes} {off n m : Nat} (h : off + n ≤ m) : getU (p.take m) off n = getU p off n := by
  have same : ((p.take m).drop off).take n = (p.drop off).take n := by
    rw [List.drop_take, List.take_take, Nat.min_eq_left (by omega)]
  unfold getU slice
  rw [same]

/-- The identifier of an object's record is not 0 (Table 2.2). -/
theorem objPayloadOk_id {p : Bytes} (h : objPayloadOk p = true) : getU p 4 2 ≠ 0 := by
  intro zero
  unfold objPayloadOk at h
  have named := recordOk_named (f := ⟨4, 2, none, 1, 65535, false, 0, []⟩) (Bool.and_eq_true_iff.1 h).1 (List.mem_cons_self ..) rfl
  simp [Fld.inRange, getU_take, zero] at named

/-- OBJ_SET with a mask of 0, outside SHALLOW (R32, R37). -/
theorem readScene_objSet {p : Bytes} {s : State} (hp : objPayloadOk p = true) (hs : s.flag mShallow = false) :
    readScene .objSet p s = .done s (objBody s (getU p 4 2)) := by
  unfold readScene
  dsimp only
  rw [if_neg (by simp [hp]), readObjGet_named (length_slice ..) (objPayloadOk_id hp) hs, getU]

/-- SYS_INFO of a selector that the device has (R339). -/
theorem doSysInfo_selector {k : Nat} {s : State} {body : Bytes} (hk : k = 0 ∧ body = identityBody s ∨ k = 1 ∧ body = mastersBody s ∨
    k = 4 ∧ body = memoryBody s) : doSysInfo (le 4 k ++ zeros 4) s = .done s body := by
  have rest : getU (le 4 k ++ zeros 4) 4 4 = 0 := getU_le_append_right 4 k _ 0 4
  have selector : getU (le 4 k ++ zeros 4) 0 4 = k := getU_le_append _ (by omega)
  unfold doSysInfo
  rw [rest, selector, if_neg (by simp [zeros])]
  obtain ⟨hk, hb⟩ | ⟨hk, hb⟩ | ⟨hk, hb⟩ := hk
  all_goals
    subst hk
    rw [hb]
    rfl

/-- Settles O12: each is of class read and waits for no boundary, so that it is answered with what it does at acceptance. -/
theorem readsAnswer : Obligations.ReadsAnswer := by
  refine ⟨fun r s hd => ⟨fun ha hp => ?_, fun ha hp => ?_, fun ha hp => ?_, fun ha hp => ?_, fun first count ha hp hf hlo hhi => ?_,
    fun ha hp => ?_, fun ha hp => ?_, fun ha hp => ?_, fun ha hp => ?_, fun ha => ?_⟩,
    fun r s hd => ⟨fun id ha hp hlo hhi hs => ?_, fun o ha hp ho => ?_, fun ha hm hp hs => ?_, fun ha hm hp => ?_, fun ha hm hp => ?_,
      fun ha hm hp => ?_, fun ha hm hp => ?_⟩⟩
  · exact exec_read (p := le 4 0 ++ zeros 4) rfl hp ha hd rfl rfl (doSysInfo_selector (.inl ⟨rfl, rfl⟩))
  · exact exec_read rfl hp ha hd rfl rfl (doSysInfo_selector (.inr (.inl ⟨rfl, rfl⟩)))
  · exact exec_read rfl hp ha hd rfl rfl (doSysInfo_selector (.inr (.inr ⟨rfl, rfl⟩)))
  · exact exec_read rfl hp ha hd rfl rfl rfl
  · have entries := doSysLogRead_from (s := taken r s) hf hlo hhi
    exact exec_read rfl hp ha hd rfl rfl entries
  · exact exec_read rfl hp ha hd rfl rfl rfl
  · exact exec_read rfl hp ha hd rfl rfl rfl
  · exact exec_read rfl hp ha hd rfl rfl rfl
  · exact exec_read rfl hp ha hd rfl rfl rfl
  · exact exec_read rfl rfl ha hd rfl rfl rfl (by decide)
  · exact exec_read rfl hp ha hd rfl rfl (readObjGet_id hlo hhi hs)
  · exact exec_read rfl hp ha hd rfl rfl (readSpkGet_output ho)
  · exact exec_mask_zero rfl (by decide) hm ha hd (readScene_objSet hp hs)
  · exact exec_mask_zero rfl (by decide) hm ha hd (by simp [readScene, hp])
  · exact exec_mask_zero rfl (by decide) hm ha hd (by simp [readScene, hp])
  · exact exec_mask_zero rfl (by decide) hm ha hd (by simp [readScene, hp])
  · exact exec_mask_zero rfl (by decide) hm ha hd (by simp [readScene, hp])

end Sys2Proof.Machine
end

section
/-!
PROOFS. The scene bus (R51 to R58): announcements and re-sends, and updates that join the waiting commands at their tick.
-/
namespace Sys2Proof.Machine

/-! Announcements and re-sends (R52, R57). -/

/-- An announcement of a peer in the same domain: what it differs in is judged with it taken from those received. -/
theorem exec_sceneBusAnnouncement {a : Announcement} {rest : List Announcement} {i : Nat} {s : State}
    (ha : s.scene.announced = a :: rest) (hi : s.peerOf a.node = some i) (hd : a.domain = (s.peer 0).sceneDomain) :
    exec .sceneBusAnnouncement s = .next (updPeerSt i (fun t => { t with
      state := if mismatchOf a s = 0 then 1 else 2, mismatch := mismatchOf a s, lastHeard := a.arrived })
      { s with scene.announced := rest }) := by
  have known : ({ s with scene.announced := rest } : State).peerOf a.node = some i := hi
  change execSceneBusAnnouncement s = _
  unfold execSceneBusAnnouncement
  rw [ha]
  dsimp only
  rw [known]
  exact if_pos hd

theorem exec_sceneBusAnnounceSend {s : State} (hr : (s.peer 0).roles.testBit 0 = true) (hready : s.host.ready = true)
    (hs : s.flag mSafe = false) : exec .sceneBusAnnounceSend s = .next (sendService 1 1 (announceRecord s) s) := by
  change execSceneBusAnnounceSend s = _
  unfold execSceneBusAnnounceSend
  rw [if_pos (by simp only [hr, hready, hs]; rfl)]

theorem exec_peerSilent {i : Fin 4096} {s : State} (hstate : (s.peerSt i.val).state = 1 ∨ (s.peerSt i.val).state = 2)
    (hlast : (s.peerSt i.val).lastHeard + 48 * 64 ≤ s.idx) :
    exec (.peerSilent i) s = .next (updPeerSt i.val (fun t => { t with state := 3 }) s) := by
  change execPeerSilent i s = _
  unfold execPeerSilent
  rw [if_pos (by simpa using ⟨hstate, hlast⟩)]

theorem queuePackets_scene (ps : List (Nat × TxPkt)) (s : State) : (queuePackets ps s).scene = s.scene := by
  refine List.foldlRecOn (motive := fun t : State => t.scene = s.scene) ps _ rfl fun t ht e _ => ?_
  dsimp only
  split <;> exact ht

theorem sendService_scene (service count : Nat) (payload : Bytes) (s : State) :
    (sendService service count payload s).scene = s.scene := by
  unfold sendService
  dsimp only
  split
  · rfl
  · exact queuePackets_scene ..

theorem sendUpdate_scene (u : Published) (s : State) : (sendUpdate u s).scene = s.scene := sendService_scene ..

/-- Updates sent one after the other all carry the same scene domain. -/
theorem foldl_sendUpdate_domain {α : Type} {f : α → Nat → Published} {d : Nat} {s : State} (l : List α)
    (hd : (s.peer 0).sceneDomain = d) :
    l.foldl (fun n v => sendUpdate (f v (n.peer 0).sceneDomain) n) s = l.foldl (fun n v => sendUpdate (f v d) n) s := by
  induction l generalizing s with
  | nil => rw [List.foldl_nil, List.foldl_nil]
  | cons v l ih =>
    rw [List.foldl_cons, List.foldl_cons, hd]
    refine ih ?_
    rw [State.peer, sendUpdate_scene]
    exact hd

/-- The object whose turn it is to be sent again goes out in one update for each of its apply periods. -/
theorem exec_sceneBusResend {id : Nat} {s : State} (hp : s.publishes = true)
    (hid : s.scene.published[s.scene.cursor % s.scene.published.length]? = some id) :
    exec .sceneBusResend s = .next ((resendParts (s.obj id)).foldl
      (fun n v => sendUpdate ⟨false, true, v.1, (s.peer 0).rank, (s.peer 0).sceneDomain, 0, (s.obj id).cfg.update v.2 id⟩ n)
      { s with scene.cursor := s.scene.cursor + 1 }) := by
  have published : s.scene.published.length ≠ 0 := by
    obtain ⟨hlt, -⟩ := List.getElem?_eq_some_iff.1 hid
    omega
  change execSceneBusResend s = _
  unfold execSceneBusResend
  dsimp only
  rw [if_neg (by simp [hp]), if_neg published, hid]
  have same := foldl_sendUpdate_domain (d := (s.peer 0).sceneDomain) (s := { s with scene.cursor := s.scene.cursor + 1 })
    (f := fun v d => ⟨false, true, v.1, (s.peer 0).rank, d, 0, (s.obj id).cfg.update v.2 id⟩) (resendParts (s.obj id)) rfl
  exact congrArg Host.Outcome.next same

/-- Settles O42: what each of the four does where it acts. -/
theorem peersAnnounceAndFallSilent : Obligations.PeersAnnounceAndFallSilent := fun _ =>
  ⟨fun _ _ _ ha hi hd => exec_sceneBusAnnouncement ha hi hd, exec_sceneBusAnnounceSend, fun _ => exec_peerSilent,
    fun _ => exec_sceneBusResend⟩

/-! What an update does at its arrival (R55, R56, R58). -/

/-- Updates of objects that the present tick has taken (R56). -/
def objectsTaken (s : State) : Nat := if s.scene.busTick = s.idx / 64 then s.scene.busCount else 0

/-- An update is taken from the front of those received, and one of an object is counted (R56). -/
def takeUpdate (u : BusUpdate) (rest : List BusUpdate) (s : State) : State :=
  { s with scene.updates := rest, scene.busTick := s.idx / 64
           scene.busCount := if u.air then objectsTaken s else objectsTaken s + 1 }

/-- What becomes of an update that has been taken (R55, R381). -/
def offerUpdate (u : BusUpdate) (s : State) : State :=
  if !updateOk u then s else if outOfReach u s then countSuperseded u.node 1 s else queueUpdate u s

theorem objectsTaken_newTick {s : State} (h : s.scene.busTick ≠ s.idx / 64) : objectsTaken s = 0 := if_neg h

/-- An update of the air is not counted. -/
theorem takeUpdate_air {u : BusUpdate} {rest : List BusUpdate} {s : State} (hu : u.air = true) :
    takeUpdate u rest s = { s with scene.updates := rest, scene.busTick := s.idx / 64, scene.busCount := objectsTaken s } := by
  rw [takeUpdate, if_pos hu]

/-- An object's is the first of its tick. -/
theorem takeUpdate_first {u : BusUpdate} {rest : List BusUpdate} {s : State} (hu : u.air = false)
    (ht : s.scene.busTick ≠ s.idx / 64) :
    takeUpdate u rest s = { s with scene.updates := rest, scene.busTick := s.idx / 64, scene.busCount := 1 } := by
  rw [takeUpdate, if_neg (by simp [hu]), objectsTaken_newTick ht]

theorem offerUpdate_malformed {u : BusUpdate} {s : State} (h : updateOk u = false) : offerUpdate u s = s := by
  simp [offerUpdate, h]

theorem offerUpdate_outOfReach {u : BusUpdate} {s : State} (h : updateOk u = true) (hr : outOfReach u s = true) :
    offerUpdate u s = countSuperseded u.node 1 s := by
  simp [offerUpdate, h, hr]

theorem offerUpdate_inReach {u : BusUpdate} {s : State} (h : updateOk u = true) (hr : outOfReach u s = false) :
    offerUpdate u s = queueUpdate u s := by
  simp [offerUpdate, h, hr]

theorem outOfReach_air {u : BusUpdate} (s : State) (hu : u.air = true) : outOfReach u s = false := by simp [outOfReach, hu]

theorem exec_sceneBusUpdate_taken {u : BusUpdate} {rest : List BusUpdate} {s : State} (hu : s.scene.updates = u :: rest)
    (halive : s.alive = true) (hsafe : s.flag mSafe = false) (hstandby : s.flag mStandby = false)
    (hroom : u.air = true ∨ objectsTaken s < 2048) : exec .sceneBusUpdate s = .next (offerUpdate u (takeUpdate u rest s)) := by
  change execSceneBusUpdate s = _
  unfold execSceneBusUpdate
  rw [hu]
  have room : ¬(!u.air && decide (objectsTaken s ≥ 2048)) = true := by
    rcases hroom with h | h <;> simp [h]
  exact congrArg Host.Outcome.next ((if_neg (by simp [halive, hsafe, hstandby])).trans (if_neg room))

theorem exec_sceneBusUpdate_waits {u : BusUpdate} {rest : List BusUpdate} {s : State} (hu : s.scene.updates = u :: rest)
    (halive : s.alive = true) (hsafe : s.flag mSafe = false) (hstandby : s.flag mStandby = false) (hair : u.air = false)
    (hfull : 2048 ≤ objectsTaken s) : exec .sceneBusUpdate s = .next s := by
  change execSceneBusUpdate s = _
  unfold execSceneBusUpdate
  rw [hu]
  have full : (!u.air && decide (objectsTaken s ≥ 2048)) = true := by simp [hair, hfull]
  exact congrArg Host.Outcome.next ((if_neg (by simp [halive, hsafe, hstandby])).trans (if_pos full))

theorem exec_sceneBusUpdate_discarded {u : BusUpdate} {rest : List BusUpdate} {s : State} (hu : s.scene.updates = u :: rest)
    (h : s.flag mStandby = true ∨ s.flag mSafe = true) : exec .sceneBusUpdate s = .next { s with scene.updates := rest } := by
  change execSceneBusUpdate s = _
  unfold execSceneBusUpdate
  rw [hu]
  dsimp only
  rw [if_pos (by rcases h with h | h <;> simp [h])]

/-! The tick of an update (R33, R55, R56). -/

/-- The period at which an update counts as arrived (assumption 24). -/
def updateArrival (u : BusUpdate) (s : State) : Nat := max u.arrived (floorTo 64 s.idx)

/-- The tick that an apply period names, and for one that is late the next tick after its arrival. -/
def updateTick (arrived apply : Nat) : Nat := if apply < arrived then (arrived / 64 + 1) * 64 else ceilTo 64 apply

/-- The tick of an update: never one already solved. -/
def updateEffect (u : BusUpdate) (s : State) : Nat :=
  match s.media.snapped with
  | some k => max (updateTick (updateArrival u s) u.apply) (k + 64)
  | none => updateTick (updateArrival u s) u.apply

/-- The command an update becomes while it waits for its tick. -/
def updateCmd (u : BusUpdate) (s : State) : Cmd :=
  let op : Opcode := if u.air then .airSet else .objSet
  { id := s.host.nextId, op := op, origin := .bus u.node, rank := u.rank, seq := 0, timing := .tick, apply := u.apply
    effect := updateEffect u s, accepted := s.idx, payload := u.body, units := unitsOf op u.body, select := true, answered := true
    resend := u.resend, fseq := s.forwardSeq }

theorem updateTick_mod (a p : Nat) : updateTick a p % 64 = 0 := by
  unfold updateTick ceilTo
  split <;> omega

theorem updateTick_onTime {a p : Nat} (h : a ≤ p) : p ≤ updateTick a p ∧ updateTick a p < p + 64 := by
  rw [updateTick, if_neg (by omega), ceilTo]
  omega

theorem updateTick_late {a p : Nat} (h : p < a) : a < updateTick a p ∧ updateTick a p ≤ a + 64 := by
  rw [updateTick, if_pos h]
  omega

/-- A tick that is no later than the one after tick `k`, which is solved. -/
theorem updateTick_le_next {a p k : Nat} (hp : p ≤ k) (ha : a / 64 ≤ k / 64) (hk : k % 64 = 0) : updateTick a p ≤ k + 64 := by
  unfold updateTick ceilTo
  split <;> omega

section
variable {u : BusUpdate} {s : State}

theorem updateEffect_none (h : s.media.snapped = none) : updateEffect u s = updateTick (updateArrival u s) u.apply := by
  rw [updateEffect, h]

theorem updateEffect_some {k : Nat} (h : s.media.snapped = some k) :
    updateEffect u s = max (updateTick (updateArrival u s) u.apply) (k + 64) := by
  rw [updateEffect, h]

/-! With no tick solved. -/

theorem updateEffect_mod (h : s.media.snapped = none) : updateEffect u s % 64 = 0 := by
  rw [updateEffect_none h, updateTick_mod]

theorem updateEffect_onTime (h : s.media.snapped = none) (ha : updateArrival u s ≤ u.apply) :
    u.apply ≤ updateEffect u s ∧ updateEffect u s < u.apply + 64 := by
  rw [updateEffect_none h]
  exact updateTick_onTime ha

theorem updateEffect_late (h : s.media.snapped = none) (ha : u.apply < updateArrival u s) :
    updateArrival u s < updateEffect u s ∧ updateEffect u s ≤ updateArrival u s + 64 := by
  rw [updateEffect_none h]
  exact updateTick_late ha

/-! With tick `k` the last one solved. -/

theorem updateEffect_unsolved {k : Nat} (h : s.media.snapped = some k) : k + 64 ≤ updateEffect u s := by
  rw [updateEffect_some h]
  exact Nat.le_max_right ..

theorem updateEffect_named {k : Nat} (h : s.media.snapped = some k) (ha : updateArrival u s ≤ u.apply) (hk : k + 64 ≤ u.apply) :
    u.apply ≤ updateEffect u s ∧ updateEffect u s < u.apply + 64 := by
  obtain ⟨hle, hlt⟩ := updateTick_onTime ha
  rw [updateEffect_some h]
  omega

theorem updateEffect_next {k : Nat} (h : s.media.snapped = some k) (hp : u.apply ≤ k) (ha : updateArrival u s / 64 ≤ k / 64)
    (hk : k % 64 = 0) : updateEffect u s = k + 64 := by
  rw [updateEffect_some h]
  exact Nat.max_eq_right (updateTick_le_next hp ha hk)

end

/-- An update that is not a re-send is counted when it takes effect after the tick its apply period names (R56). -/
def countIfLate (u : BusUpdate) (s : State) : State :=
  if (decide (u.apply < updateArrival u s) || updateEffect u s != ceilTo 64 u.apply) && !u.resend then countLate u.node s else s

theorem countIfLate_scene (u : BusUpdate) (s : State) : ∃ scene, countIfLate u s = { s with scene := scene } := by
  unfold countIfLate countLate
  split
  · split <;> exact ⟨_, rfl⟩
  · exact ⟨_, rfl⟩

/-- Outside a pair's active unit an update joins the waiting commands, and of the other records only the scene's changes. -/
theorem queueUpdate_joins {u : BusUpdate} {s : State} (h : s.flag mActive = false) :
    ∃ scene, queueUpdate u s =
      { withCmd (updateCmd u s) { s with host.nextId := s.host.nextId + 1 } with scene := scene } := by
  obtain ⟨scene, counted⟩ := countIfLate_scene u s
  have alone : (countIfLate u s).flag mActive = false := by
    rw [counted]
    exact h
  have joins : queueUpdate u s = withCmd { updateCmd u (countIfLate u s) with effect := updateEffect u s }
      { countIfLate u s with host.nextId := (countIfLate u s).host.nextId + 1 } := if_neg (by rw [Bool.not_eq_true]; exact alone)
  rw [counted] at joins
  exact ⟨scene, joins⟩

/-- An update taken with room in its tick becomes a command of its apply period (R33, R55, R56). -/
theorem exec_sceneBusUpdate_joins {u : BusUpdate} {rest : List BusUpdate} {s : State} (hu : s.scene.updates = u :: rest)
    (halive : s.alive = true) (hsafe : s.flag mSafe = false) (hstandby : s.flag mStandby = false) (hactive : s.flag mActive = false)
    (hok : updateOk u = true) (hroom : u.air = true ∨ objectsTaken s < 2048) (hreach : outOfReach u s = false) :
    ∃ t, exec .sceneBusUpdate s = .next t ∧ t.host.cmds = s.host.cmds ++ [updateCmd u s] := by
  obtain ⟨scene, joins⟩ := queueUpdate_joins (u := u) (s := takeUpdate u rest s) hactive
  have reach : outOfReach u (takeUpdate u rest s) = false := hreach
  refine ⟨_, exec_sceneBusUpdate_taken hu halive hsafe hstandby hroom, ?_⟩
  rw [offerUpdate_inReach hok reach, joins]
  rfl

/-- Settles O41: what becomes of the update at the front by whether it is taken, in reach and well formed, and its tick by whether
it is late and what is solved. -/
theorem busUpdatesJoinTheCommands : Obligations.BusUpdatesJoinTheCommands := by
  refine ⟨fun u rest s hu => ⟨fun halive hsafe hstandby hair hok => ?_, fun halive hsafe hstandby hair htick hok => ?_,
      fun halive hsafe hstandby hair hok => ?_, fun halive hsafe hstandby hair htick hfull => ?_,
      fun _ h => exec_sceneBusUpdate_discarded hu h⟩,
    fun u rest s hu halive hsafe hstandby hactive hok hroom => ?_⟩
  · rw [exec_sceneBusUpdate_taken hu halive hsafe hstandby (.inl hair), offerUpdate_inReach hok (outOfReach_air _ hair),
      takeUpdate_air hair]
    rfl
  · have room : objectsTaken s < 2048 := by rw [objectsTaken_newTick htick]; omega
    rw [exec_sceneBusUpdate_taken hu halive hsafe hstandby (.inr room), takeUpdate_first hair htick]
    exact ⟨fun hreach => by rw [offerUpdate_inReach hok hreach], fun hreach => by rw [offerUpdate_outOfReach hok hreach]⟩
  · rw [exec_sceneBusUpdate_taken hu halive hsafe hstandby (.inl hair), offerUpdate_malformed hok, takeUpdate_air hair]
    rfl
  · refine exec_sceneBusUpdate_waits hu halive hsafe hstandby hair ?_
    rwa [objectsTaken, if_pos htick]
  · have room : u.air = true ∨ objectsTaken s < 2048 := by
      refine hroom.imp_right fun ⟨_, h⟩ => ?_
      unfold objectsTaken
      split <;> omega
    have reach : outOfReach u s = false := hroom.elim (outOfReach_air s) And.left
    obtain ⟨t, ht, hcmds⟩ := exec_sceneBusUpdate_joins hu halive hsafe hstandby hactive hok room reach
    exact ⟨t, updateCmd u s, ht, hcmds, rfl, rfl, rfl, rfl, rfl, updateEffect_mod, updateEffect_onTime, updateEffect_late,
      fun _ hk => ⟨updateEffect_unsolved hk, updateEffect_named hk, updateEffect_next hk⟩⟩

end Sys2Proof.Machine
end

section
/-!
PROOFS. Fades end at their block (R80, R148, R149), and the router's changes wait for a zero crossing, for a ramp at 0, or for a
ramp's end (R153, R159, R162).
-/
namespace Sys2Proof.Machine

/-! Fades end at their block (R80, R148, R149). -/

/-- A block's command that has come and is still to act: loads and swaps of the block go before the swap that waits (R147). -/
def blockCommandsDue (s : State) : Bool :=
  s.host.cmds.any fun c => !c.applied && c.timing == .block && c.effect ≤ s.toCompute

theorem exec_accordFadeEnd_starts {s : State} (o : Fin 512) (h : blockCommandsDue s = false) :
    exec (.accordFadeEnd o) s = .next (accordStart s.toCompute o.val (accordEnd s.toCompute o.val s)) :=
  congrArg Host.Outcome.next (if_neg (Bool.eq_false_iff.1 h))

theorem exec_accordFadeEnd_due {s : State} (o : Fin 512) (h : blockCommandsDue s = true) :
    exec (.accordFadeEnd o) s = .next (accordEnd s.toCompute o.val s) :=
  congrArg Host.Outcome.next (if_pos h)

theorem exec_hopFadeEnd_over {slot o : Fin 512} {t : Tap} {k c : Nat} {s : State}
    (ht : tapOf s.rend.taps slot.val o.val = some t) (hop : t.hop = true) (carries : t.carries = false)
    (hk : s.rend.tapTick = some k) (hc : s.media.computed = some c) (hended : k + 48 ≤ c) :
    exec (.hopFadeEnd slot o) s =
      .next { s with rend.taps := putTap s.rend.taps slot.val o.val { t with hop := false, yOld := 0 } } := by
  change execHopFadeEnd slot o s = _
  unfold execHopFadeEnd
  rw [ht]
  exact if_pos (by simp [hop, carries, hk, hc, hended])

/-! A single crosspoint that waits for a zero crossing (R162). -/

section
variable {src dst : BitVec 16} {x : Xpoint} {g0 g1 : Int} {n : Nat} {m : Option Int} {s : State}

/-- The source has crossed in the block computed last, and the crosspoint has waited since that block at the latest. -/
def crossedSince (s : State) (src n : Nat) : Bool := crossed s (s.toCompute - 16) src && decide (n ≤ s.toCompute - 16)

theorem exec_zeroCrossCut_crossed (hs : s.rend.xpoints = [x]) (hsrc : x.source = src.toNat) (hdst : x.dest = dst.toNat)
    (hm : x.move = .watch g0 g1 n m false) (seen : crossedSince s src.toNat n = true) :
    exec (.zeroCrossCut src dst) s = .next { s with rend.xpoints := [{ x with gain := g1, move := .steady }] } := by
  obtain ⟨hcross, hn⟩ := Bool.and_eq_true_iff.1 seen
  change execZeroCrossCut src dst s = _
  simp [execZeroCrossCut, hs, hsrc, hdst, hm, hcross, hn]

theorem exec_zeroCrossCut_waits (hs : s.rend.xpoints = [x]) (hm : x.move = .watch g0 g1 n m false)
    (seen : crossedSince s src.toNat n = false) : exec (.zeroCrossCut src dst) s = .next s := by
  have kept : { s with rend.xpoints := [x] } = s := by rw [← hs]
  have unseen : ¬(crossed s (s.toCompute - 16) src.toNat = true ∧ n ≤ s.toCompute - 16) := fun ⟨hcross, hn⟩ => by
    simp [crossedSince, hcross, hn] at seen
  change execZeroCrossCut src dst s = _
  simp [execZeroCrossCut, hs, hm, and_assoc, unseen, kept]

theorem exec_zeroCrossFallback_fades (hs : s.rend.xpoints = [x]) (hsrc : x.source = src.toNat) (hdst : x.dest = dst.toNat)
    (hm : x.move = .watch g0 g1 n m false) (late : n + s.hz / 200 ≤ s.toCompute) :
    exec (.zeroCrossFallback src dst) s = .next { s with
      rend.xpoints := [{ x with move := .fade g0 g1 (s.hz / 1000) (n + s.hz / 200) false }]
      rend.fallbacks := wrapAdd 32 s.rend.fallbacks 1 } := by
  change execZeroCrossFallback src dst s = _
  simp [execZeroCrossFallback, fallbackXp, hs, hsrc, hdst, hm, late]

theorem exec_zeroCrossFallback_waits (hs : s.rend.xpoints = [x]) (hm : x.move = .watch g0 g1 n m false)
    (early : s.toCompute < n + s.hz / 200) : exec (.zeroCrossFallback src dst) s = .next s := by
  have soon : ¬n + s.hz / 200 ≤ s.toCompute := Nat.not_le.2 early
  change execZeroCrossFallback src dst s = _
  exact if_neg (by simp [hs, hm, soon])

end

/-! Bindings, and the length of a ramp (R153, R159). -/

theorem exec_routeBindingChange (dst : BitVec 16) (s : State) :
    exec (.routeBindingChange dst) s = .next (updDest dst.toNat (bindDest s.toCompute) s) := rfl

theorem takeR_none {m : MuteRamp} (h : m.newR = none) : m.takeR = m := by
  rw [MuteRamp.takeR, h]

theorem takeR_atZero {m : MuteRamp} {r : Nat} (h : m.newR = some r) (h0 : m.ph = 0) :
    m.takeR = { m with r := r, newR := none } := by
  rw [MuteRamp.takeR, h]
  exact if_pos h0

theorem takeR_atEnd {m : MuteRamp} {r : Nat} (h : m.newR = some r) (h0 : m.ph ≠ 0) (hend : m.ph = m.r) :
    m.takeR = { m with r := r, ph := r, newR := none } := by
  rw [MuteRamp.takeR, h]
  exact (if_neg h0).trans (if_pos hend)

theorem takeR_between {m : MuteRamp} {r : Nat} (h : m.newR = some r) (h0 : m.ph ≠ 0) (hend : m.ph ≠ m.r) : m.takeR = m := by
  rw [MuteRamp.takeR, h]
  exact (if_neg h0).trans (if_neg hend)

/-- A router destination's ramp takes its new length. -/
def takeDestR (d : Dest) : Dest := { d with ramp := d.ramp.takeR }

theorem takeDestR_same {d : Dest} (h : d.ramp.takeR = d.ramp) : takeDestR d = d := by rw [takeDestR, h]

theorem exec_muteRampLengthChange_dest {target : BitVec 16} (s : State) (h : target.toNat < 0x400) :
    exec (.muteRampLengthChange target) s = .next (updDest target.toNat takeDestR s) := if_neg (Nat.not_le.2 h)

/-- Settles O50: fades, crosspoints and bindings by what each event does, and a ramp by where its phase stands. -/
theorem fadesAndRoutesChange : Obligations.FadesAndRoutesChange := by
  refine ⟨fun s => ⟨fun o => ⟨exec_accordFadeEnd_starts o, exec_accordFadeEnd_due o⟩,
      fun _ _ _ _ _ => exec_hopFadeEnd_over⟩,
    fun s => ⟨fun src dst x g0 g1 n m hs hsrc hdst hm => ⟨exec_zeroCrossCut_crossed hs hsrc hdst hm,
        exec_zeroCrossCut_waits hs hm, exec_zeroCrossFallback_fades hs hsrc hdst hm, exec_zeroCrossFallback_waits hs hm⟩,
      fun dst => exec_routeBindingChange dst s, fun target h => ?_⟩⟩
  intro d
  refine ⟨_, exec_muteRampLengthChange_dest s h, rfl, ?_⟩
  intro e
  have taken : e = takeDestR d := updDest_same ..
  rw [taken]
  refine ⟨fun hr => takeDestR_same (takeR_none hr), fun r hr => ⟨fun h0 => ?_, fun hend h0 => ?_, fun h0 hend => ?_⟩⟩
  · rw [takeDestR, takeR_atZero hr h0]
    exact ⟨rfl, h0, rfl⟩
  · rw [takeDestR, takeR_atEnd hr h0 hend]
    exact ⟨rfl, rfl, rfl⟩
  · exact takeDestR_same (takeR_between hr h0 hend)

end Sys2Proof.Machine
end

section
/-!
PROOFS. The DRAM rate ladder, and the entry to SHALLOW at its last rung (R101, R276, R378, R379, R381, R382).
-/
namespace Sys2Proof.Machine

/-! The rungs (R378, R379, R382). -/

theorem exec_dramStepDown_lower {s : State} (hw : s.mem.stepWanted = true) (ha : s.alive = true) (hr : s.mem.rate < 2) :
    exec .dramStepDown s =
      .next { s with mem.stepWanted := false, mem.rateWanted := some (s.mem.rate + 1), mem.lastStep := some s.idx } := by
  change execDramStepDown s = _
  exact (if_neg (by simp [hw, ha])).trans (if_pos hr)

theorem exec_dramStepDown_lowest {s : State} (hw : s.mem.stepWanted = true) (ha : s.alive = true) (hr : 2 ≤ s.mem.rate) :
    exec .dramStepDown s = .next (enterShallow { s with mem.stepWanted := false, mem.searches := [] }) := by
  change execDramStepDown s = _
  exact (if_neg (by simp [hw, ha])).trans (if_neg (Nat.not_lt.2 hr))

theorem exec_dramRateChange_wanted {r : Nat} {s : State} (h : s.mem.rateWanted = some r) :
    exec .dramRateChange s = .next (updMemStat (fun t => { t with stepDowns := wrapAdd 32 t.stepDowns 1 }) (setRate r s)) := by
  change execDramRateChange s = _
  unfold execDramRateChange
  rw [h]

/-- A climb sets the next higher rate and searches at it (R382). -/
def climbSearch (s : State) : State :=
  updMemStat (fun t => { t with searches := wrapAdd 32 t.searches 1 }) (setRate (s.mem.rate - 1) s)

theorem exec_rateClimb_pass {s : State} (hc : s.climbOk = true) (ha : s.alive = true) :
    exec (.rateClimb true) s = .next (updMemStat (fun t => { t with climbs := wrapAdd 32 t.climbs 1 }) (climbSearch s)) := by
  change execRateClimb true s = _
  exact (if_neg (by simp [hc, ha])).trans (if_pos rfl)

theorem exec_rateClimb_fail {s : State} (hc : s.climbOk = true) (ha : s.alive = true) :
    exec (.rateClimb false) s = .next (updMemStat (fun t => { t with searchFails := wrapAdd 32 t.searchFails 1 })
      (setRate s.mem.rate { climbSearch s with mem.lastStep := some s.idx })) := by
  change execRateClimb false s = _
  exact (if_neg (by simp [hc, ha])).trans (if_neg Bool.false_ne_true)

/-! The crane transfers under way, through causes, log entries and answers. -/

theorem raise_transfers (i : Nat) (s : State) : (raise i s).host.transfers = s.host.transfers := by
  have msix (t : State) : (sendMsix i t).host.transfers = t.host.transfers := by
    obtain ⟨_, _, _, h⟩ := sendMsix_msixOnly i t
    rw [h]
  unfold raise noteEvent
  dsimp only
  split <;> split <;> simp only [msix]

theorem logEvent_transfers (cause sub src : Nat) (args : List Nat) (s : State) :
    (logEvent cause sub src args s).host.transfers = s.host.transfers := raise_transfers ..

theorem sendDatagram_transfers (m kind off : Nat) (d : Bytes) (s : State) :
    (sendDatagram m kind off d s).host.transfers = s.host.transfers := by
  unfold sendDatagram queueOwn
  dsimp only
  split
  · rfl
  · split
    · rfl
    · split <;> rfl

theorem sendSegments_transfers (n m off : Nat) (p : Bytes) (s : State) :
    (sendSegments n m off p s).host.transfers = s.host.transfers := by
  induction n generalizing off p s with
  | zero => rfl
  | succ n ih =>
    unfold sendSegments
    split
    · rfl
    · rw [ih, sendDatagram_transfers]

theorem writeResponse_transfers (r : Response) (o : Nat) (s : State) : (writeResponse r o s).host.transfers = s.host.transfers := by
  unfold writeResponse
  dsimp only
  split
  · rw [raise_transfers]; rfl
  · rw [sendDatagram_transfers]
    split
    · rw [sendSegments_transfers]; rfl
    · rfl

theorem respond_transfers (r : Response) (s : State) : (respond r s).host.transfers = s.host.transfers := by
  unfold respond
  extract_lets t
  have counted : t.host.transfers = s.host.transfers := rfl
  split
  · split
    · rw [writeResponse_transfers, counted]
    · exact counted
  · exact counted

/-! What the announcements of SHALLOW leave: all that its entry is stated of, but for the flag ADRIFT. -/

/-- The transfers under way, the Blotter, the searches, the count of entries, and every flag but ADRIFT, are as before. -/
structure EntryKeeps (s t : State) : Prop where
  transfers : t.host.transfers = s.host.transfers
  blotter : t.nose.blotter = s.nose.blotter
  searches : t.mem.searches = s.mem.searches
  entries : t.rend.shallowEntries = s.rend.shallowEntries
  flag : ∀ i, i ≠ mAdrift → t.flag i = s.flag i

theorem EntryKeeps.refl (s : State) : EntryKeeps s s := ⟨rfl, rfl, rfl, rfl, fun _ _ => rfl⟩

theorem EntryKeeps.trans {s t u : State} (h : EntryKeeps s t) (k : EntryKeeps t u) : EntryKeeps s u :=
  ⟨k.transfers.trans h.transfers, k.blotter.trans h.blotter, k.searches.trans h.searches, k.entries.trans h.entries,
    fun i hi => (k.flag i hi).trans (h.flag i hi)⟩

theorem EntryKeeps.ite {c : Prop} [Decidable c] {s a b : State} (ha : EntryKeeps s a) (hb : EntryKeeps s b) :
    EntryKeeps s (if c then a else b) := by split <;> assumption

/-- A fold of steps that each keep what the entry is stated of. -/
theorem EntryKeeps.foldl {α : Type} {f : State → α → State} (hf : ∀ s a, EntryKeeps s (f s a)) (l : List α) (s : State) :
    EntryKeeps s (l.foldl f s) := by
  induction l generalizing s with
  | nil => exact .refl s
  | cons a l ih => exact (hf s a).trans (ih _)

theorem HostOnly.entryKeeps {s t : State} (h : HostOnly s t) (ht : t.host.transfers = s.host.transfers) : EntryKeeps s t := by
  unfold HostOnly at h
  exact ⟨ht, by rw [h], by rw [h], by rw [h], fun i _ => by rw [h]; rfl⟩

theorem logEvent_host (cause sub src : Nat) (args : List Nat) (s : State) : HostOnly s (logEvent cause sub src args s) :=
  .trans (t := { s with host := _ }) rfl (raise_host ..)

theorem logEvent_entryKeeps (cause sub src : Nat) (args : List Nat) (s : State) : EntryKeeps s (logEvent cause sub src args s) :=
  (logEvent_host ..).entryKeeps (logEvent_transfers ..)

/-- A log entry about a state that the entry to SHALLOW cannot tell from `s`. -/
theorem EntryKeeps.log {s t : State} (h : EntryKeeps s t) (cause sub src : Nat) (args : List Nat) :
    EntryKeeps s (logEvent cause sub src args t) := h.trans (logEvent_entryKeeps ..)

theorem sendTwin_moor_entryKeeps (kind : Nat) (args : List Nat) (data : Bytes) (s : State) :
    EntryKeeps s (sendTwin kind true args data s) := by
  unfold sendTwin sendMoor
  rw [if_pos rfl]
  split <;> exact ⟨rfl, rfl, rfl, rfl, fun _ _ => rfl⟩

theorem EntryKeeps.sent {s t : State} (h : EntryKeeps s t) (kind : Nat) (args : List Nat) (data : Bytes) :
    EntryKeeps s (sendTwin kind true args data t) := h.trans (sendTwin_moor_entryKeeps ..)

theorem forwardDecision_entryKeeps (args : List Nat) (s : State) : EntryKeeps s (forwardDecision args s) := by
  unfold forwardDecision
  split
  · refine .sent ?_ ..
    exact ⟨rfl, rfl, rfl, rfl, fun _ _ => rfl⟩
  · exact .refl s

theorem abandonWarp_entryKeeps (s : State) : EntryKeeps s (abandonWarp s) := by
  unfold abandonWarp endWarp failWarp twinEvent
  split
  · refine .sent (.log ?_ ..) ..
    exact ⟨rfl, rfl, rfl, rfl, fun _ _ => rfl⟩
  · exact .refl s

/-! A change of a flag. -/

/-- A change of the mode word changes the word, and is logged. -/
theorem setWord_host (w : BitVec 16) (src : Nat) (s : State) : HostOnly { s with power.word := w } (setWord w src s) := by
  unfold setWord
  split
  · next h => subst h; exact .refl s
  · exact logEvent_host ..

theorem setWord_transfers (w : BitVec 16) (src : Nat) (s : State) : (setWord w src s).host.transfers = s.host.transfers := by
  unfold setWord
  split
  · rfl
  · exact logEvent_transfers ..

/-- A new mode word with the same flags but for ADRIFT. -/
theorem EntryKeeps.word {s : State} {w : BitVec 16} (hw : ∀ i, i ≠ mAdrift → w.getLsbD i = s.flag i) (src : Nat) :
    EntryKeeps s (setWord w src s) := by
  have logged := (setWord_host w src s).entryKeeps (setWord_transfers ..)
  exact ⟨logged.transfers, logged.blotter, logged.searches, logged.entries, fun i hi => (logged.flag i hi).trans (hw i hi)⟩

theorem setFlag_adrift_entryKeeps (v : Bool) (src : Nat) (s : State) : EntryKeeps s (setFlag mAdrift v src s) := by
  unfold setFlag
  split
  · exact .refl s
  · exact .word (fun i hi => (getLsbD_withFlag _ _ _ _ (by decide)).trans (if_neg hi)) _

theorem setAdrift_entryKeeps (reason : Nat) (s : State) : EntryKeeps s (setAdrift reason s) := by
  unfold setAdrift twinEvent
  split
  · refine (setFlag_adrift_entryKeeps true srcDevice s).trans (.log ?_ ..)
    exact ⟨rfl, rfl, rfl, rfl, fun _ _ => rfl⟩
  · exact .refl s

/-! The stages of the entry (R101, R379, R381). -/

/-- The flag is set and the entry counted. -/
def shallowMarked (s : State) : State :=
  let t := setFlag mShallow true srcDevice s
  { t with rend.shallowEntries := wrapAdd 32 t.rend.shallowEntries 1, mem.clearing := false, rend.shallowPolicy := true }

/-- The cranes' transfers in progress end, and the Blotter's work. -/
def shallowEnded (s : State) : State :=
  { endTransfers (fun _ => true) .noResource s with nose.blotter := [], nose.blotMask := 0 }

/-- The sweep, the fetchers and the Nose follow, and a pair's other unit is told. -/
def shallowFollowed (s : State) : State :=
  let s := dropWaits (sweepAbort s)
  let s := if s.activeShallow then noseFollow s else setAdrift 1 (noseFollow s)
  let s := if s.flag mStandby then abandonWarp s else s
  forwardDecision [0, 1, s.shallowTick, 0] s

theorem enterShallow_eq {s : State} (hshallow : s.flag mShallow = false) (hsafe : s.flag mSafe = false) :
    enterShallow s =
      shallowFollowed (shallowEnded (dropRings (logEvent 11 3 srcDevice [] (shallowMarked s)))) :=
  if_neg (by simp [hshallow, hsafe])

/-- Out of SAFE and after self-test a flag is set in the mode word (R344, R345). -/
theorem setFlag_eq_setWord {s : State} (hsafe : s.flag mSafe = false) (hword : s.power.word ≠ 0) (i : Nat) (v : Bool)
    (src : Nat) : setFlag i v src s = setWord (withFlag s.power.word i v) src s :=
  if_neg (by simpa [hsafe] using hword)

theorem shallowMarked_frame {s : State} (hsafe : s.flag mSafe = false) (hword : s.power.word ≠ 0) :
    (shallowMarked s).mem.searches = s.mem.searches ∧
    (shallowMarked s).rend.shallowEntries = wrapAdd 32 s.rend.shallowEntries 1 ∧
    ∀ i, (shallowMarked s).flag i = if i = mShallow then true else s.flag i := by
  unfold shallowMarked
  rw [setFlag_eq_setWord hsafe hword, setWord_host]
  exact ⟨rfl, rfl, fun i => getLsbD_withFlag _ _ _ _ (by decide)⟩

theorem dropRings_entryKeeps (s : State) : EntryKeeps s (dropRings s) := by
  unfold dropRings
  refine .foldl (fun t p => .foldl (fun u r => ?_) _ t) _ s
  exact ⟨rfl, rfl, rfl, rfl, fun _ _ => rfl⟩

/-- The answer of each transfer ended leaves what the entry is stated of. -/
theorem endTransfers_entryKeeps (f : Transfer → Bool) (st : Status) (s : State) :
    EntryKeeps { s with host.transfers := s.host.transfers.filter fun t => !f t } (endTransfers f st s) :=
  .foldl (fun s _ => ((updMaster_host ..).trans ((updMaster_host ..).trans (respond_host ..))).entryKeeps
    (by rw [respond_transfers]; rfl)) _ _

theorem shallowEnded_work (s : State) :
    (shallowEnded s).host.transfers = [] ∧ (shallowEnded s).nose.blotter = [] ∧
    (shallowEnded s).mem.searches = s.mem.searches ∧ (shallowEnded s).rend.shallowEntries = s.rend.shallowEntries ∧
    ∀ i, i ≠ mAdrift → (shallowEnded s).flag i = s.flag i := by
  obtain ⟨transfers, _, searches, entries, flag⟩ := endTransfers_entryKeeps (fun _ => true) .noResource s
  exact ⟨transfers.trans (by simp), rfl, searches, entries, flag⟩

theorem sweepAbort_entryKeeps (s : State) : EntryKeeps s (sweepAbort s) := by
  unfold sweepAbort
  split
  · split <;> exact ⟨rfl, rfl, rfl, rfl, fun _ _ => rfl⟩
  · exact .refl s

theorem noseFollow_entryKeeps (s : State) : EntryKeeps s (noseFollow s) := by
  unfold noseFollow
  dsimp only
  split
  · exact .refl s
  · split <;> exact ⟨rfl, rfl, rfl, rfl, fun _ _ => rfl⟩
  · exact ⟨rfl, rfl, rfl, rfl, fun _ _ => rfl⟩

theorem shallowFollowed_entryKeeps (s : State) : EntryKeeps s (shallowFollowed s) := by
  have dropped : EntryKeeps s (dropWaits (sweepAbort s)) := (sweepAbort_entryKeeps s).trans ⟨rfl, rfl, rfl, rfl, fun _ _ => rfl⟩
  have followed := dropped.trans (noseFollow_entryKeeps _)
  refine .trans ?_ (forwardDecision_entryKeeps ..)
  exact .trans (.ite followed (followed.trans (setAdrift_entryKeeps ..))) (.ite (abandonWarp_entryKeeps _) (.refl _))

/-- The entry to SHALLOW out of a mode word that has neither SHALLOW nor SAFE (R101, R379, R381). -/
theorem enterShallow_enters {s : State} (hshallow : s.flag mShallow = false) (hsafe : s.flag mSafe = false)
    (hword : s.power.word ≠ 0) :
    let t := enterShallow s
    t.host.transfers = [] ∧ t.nose.blotter = [] ∧ t.mem.searches = s.mem.searches ∧
    t.rend.shallowEntries = wrapAdd 32 s.rend.shallowEntries 1 ∧
    ∀ i, i ≠ mAdrift → t.flag i = if i = mShallow then true else s.flag i := by
  have marked := shallowMarked_frame hsafe hword
  rw [enterShallow_eq hshallow hsafe]
  generalize shallowMarked s = m at marked ⊢
  have logged : EntryKeeps m (dropRings (logEvent 11 3 srcDevice [] m)) := (logEvent_entryKeeps ..).trans (dropRings_entryKeeps _)
  generalize dropRings (logEvent 11 3 srcDevice [] m) = d at logged ⊢
  have told := shallowFollowed_entryKeeps (shallowEnded d)
  obtain ⟨searches, entries, flag⟩ := marked
  obtain ⟨transfers, blotter, endedSearches, endedEntries, endedFlag⟩ := shallowEnded_work d
  refine ⟨told.transfers.trans transfers, told.blotter.trans blotter, ?_, ?_, fun i hi => ?_⟩
  · rw [told.searches, endedSearches, logged.searches, searches]
  · rw [told.entries, endedEntries, logged.entries, entries]
  · rw [told.flag i hi, endedFlag i hi, logged.flag i hi, flag]

/-- Settles O36: each rung by its branch, and SHALLOW by the stages of its entry. -/
theorem dramRateFollowsFailures : Obligations.DramRateFollowsFailures := by
  refine ⟨fun s => ⟨exec_dramStepDown_lower, exec_dramStepDown_lowest, fun r => exec_dramRateChange_wanted,
    fun hc ha => ⟨exec_rateClimb_pass hc ha, _, exec_rateClimb_fail hc ha, rfl, rfl, rfl, rfl⟩⟩, ?_⟩
  intro s hw ha hr hshallow hsafe hword
  obtain ⟨transfers, blotter, searches, entries, flag⟩ :=
    enterShallow_enters (s := { s with mem.stepWanted := false, mem.searches := [] }) hshallow hsafe hword
  exact ⟨_, exec_dramStepDown_lowest hw ha hr, flag mShallow (by decide), transfers, blotter, searches, entries,
    flag mLive (by decide), flag mDark (by decide)⟩

end Sys2Proof.Machine
end

section
/-!
PROOFS. The upkeep of the DRAM, and what an uncorrectable word does by its place (R99, R107, R369, R373 to R376, Table 13.6).
-/
namespace Sys2Proof.Machine

/-! Refresh, throttling and self-refresh (R373 to R375). -/

theorem exec_dramTempRead {t0 t1 : Int} {s : State} (ha : s.alive = true) :
    exec (.dramTempRead t0 t1) s = .next { s with
      mem.temp0 := t0, mem.temp1 := t1, mem.refresh0 := refreshOf t0, mem.refresh1 := refreshOf t1 } :=
  if_neg (by simp [ha])

theorem exec_hammerThrottle_over {p : Fin 14} {ch : Fin 8} {group count : Nat} {s : State} (ha : s.alive = true)
    (hc : 16384 < count) (hnew : s.mem.throttled.contains (p.val, ch.val, group) = false) :
    exec (.hammerThrottle p ch group count) s = .next (updMemStat (fun t => { t with hammer := wrapAdd 32 t.hammer 1 })
      { s with mem.throttled := s.mem.throttled ++ [(p.val, ch.val, group)] }) := by
  have many : ¬count ≤ 16384 := Nat.not_le.2 hc
  exact if_neg (by simp only [many, ha, hnew]; decide)

theorem exec_hammerThrottle_within (p : Fin 14) (ch : Fin 8) (group : Nat) {count : Nat} (s : State) (hc : count ≤ 16384) :
    exec (.hammerThrottle p ch group count) s = .next s := if_pos (by simp [hc])

section
variable {ch : Fin 8} {idle : Nat} {s : State}

theorem exec_channelSelfRefresh_request (ha : s.alive = true) (hp : s.power.stage < 3) (hi : idle < 1000) :
    exec (.channelSelfRefresh ch idle) s = .next { s with mem.selfRefresh := setBit8 s.mem.selfRefresh ch.val false } :=
  (if_neg (by simp [ha, hp])).trans (if_pos hi)

theorem exec_channelSelfRefresh_enters (ha : s.alive = true) (hp : s.power.stage < 3) (hi : 1000 ≤ idle)
    (hoff : s.mem.selfRefresh.getLsbD ch.val = false) :
    exec (.channelSelfRefresh ch idle) s = .next (updMemStat (fun t => { t with srEntries := wrapAdd 32 t.srEntries 1 })
      { s with mem.selfRefresh := setBit8 s.mem.selfRefresh ch.val true }) :=
  (if_neg (by simp [ha, hp])).trans ((if_neg (Nat.not_lt.2 hi)).trans (if_neg (Bool.eq_false_iff.1 hoff)))

end

/-! What an uncorrectable word of the SRAM does (Table 13.6). -/

theorem sramHit_nearWindow (slot stamp : Nat) (s : State) :
    ∃ line, sramHit (.nearWindow slot stamp) s = { s with rend.near := SMap.put [] s.rend.near slot line } ∧
      ∀ e, e ∈ line ↔ e ∈ SMap.get [] s.rend.near slot ∧ nearAddr slot e.1 ≠ nearAddr slot stamp :=
  ⟨_, rfl, fun _ => List.mem_filter.trans (and_congr_right fun _ => bne_iff_ne)⟩

theorem sramHit_tapTable {slot o : Nat} {k : Tap} {s : State} (h : tapOf s.rend.taps slot o = some k) :
    sramHit (.tapTable slot o) s = { s with rend.taps := putTap s.rend.taps slot o { k with gainA := 0, gainB := 0 } } := by
  unfold sramHit
  dsimp only
  rw [h]

/-- A catch of the channel has passed the sample: it is concealed at once (R230). -/
def caughtPast (c n : Nat) (x : RxBerth) : Bool :=
  x.state != 0 && x.cfg.first ≤ c && c < x.cfg.first + x.cfg.channels &&
    (match x.decided with | some d => decide (n < d) | none => false)

theorem caughtPast_eq_false {c n : Nat} {x : RxBerth}
    (h : x.state = 0 ∨ c < x.cfg.first ∨ x.cfg.first + x.cfg.channels ≤ c ∨ ∀ d, x.decided = some d → d ≤ n) :
    caughtPast c n x = false := by
  unfold caughtPast
  rcases h with h | h | h | h
  · simp [h]
  · simp [Nat.not_le.2 h]
  · simp [Nat.not_lt.2 h]
  · cases hd : x.decided with
    | none => simp
    | some d => simp [h d hd]

/-- A sample that no catch has passed yet is absent (R230). -/
theorem jitterHit_absent {c n : Nat} {s : State} (hn : (SMap.look (SMap.get [] s.net.jitter c) n).isSome = true)
    (hc : ∀ e ∈ s.net.rx, caughtPast c n e.2 = false) :
    jitterHit c n s = { s with net.jitter := SMap.put [] s.net.jitter c (SMap.del (SMap.get [] s.net.jitter c) n) } := by
  unfold jitterHit
  dsimp only
  rw [if_neg (by simp [Option.isSome_iff_ne_none.1 hn])]
  split
  · next e found => exact absurd (List.find?_some found) (Bool.eq_false_iff.1 (hc e (List.mem_of_find?_eq_some found)))
  · rfl

theorem sramHit_staging {q g : Nat} {s : State} (h : ((s.quay q).staged.any fun f => f.granule == g) = true) :
    sramHit (.staging q g) s =
      updQuay q (fun u => loseGranule s g { u with staged := u.staged.filter fun f => f.granule != g }) s := if_pos h

theorem sramHit_nose {s : State} (h : s.nose.dev.state = 1) : sramHit .nose s = skipFrame s := if_pos h

/-! What an uncorrectable word of the DRAM does (R376). -/

/-- The block that is computed next, and whose replay reads are next. -/
def replayBlock (s : State) : Nat := match s.media.computed with | some b => b + 16 | none => 0

theorem dramHit_replay {c : Nat} {r : ReplayChan} {s : State} (h : SMap.look s.rend.replay c = some r) :
    dramHit (.replay c) s = { s with rend.replay := SMap.ins s.rend.replay c { r with
      held := r.held.filter fun g => (r.needs (replayBlock s)).getLast? != some g } } := by
  unfold dramHit
  dsimp only
  rw [h]
  rfl

theorem mem_dramHit_log (n : Nat) (s : State) (e : LogEntry) :
    e ∈ (dramHit (.general n) s).host.log ↔ e ∈ s.host.log ∧ e.lseq ≠ n :=
  List.mem_filter.trans (and_congr_right fun _ => bne_iff_ne)

/-- A frame waiting to be sent is dropped, unless a berth keeps it (R376). -/
theorem dramHit_txFrame {p n : Nat} {k : TxPkt} {s : State} (hk : (s.port p).queued[n]? = some k) (hb : k.berth.isSome = false) :
    dramHit (.txFrame p n) s = updPort p (fun q => frameLeft k { q with queued := q.queued.eraseIdx n }) s := by
  have hk' : (SMap.get {} s.net.ports p).queued[n]? = some k := hk
  unfold dramHit updPort SMap.upd
  simp only [hk', hb, Bool.false_eq_true, if_false]

/-- Settles O37: upkeep and scrubs by their branches, and an uncorrectable word place by place. -/
theorem refreshThrottleAndScrub : Obligations.RefreshThrottleAndScrub := by
  refine ⟨fun s => ⟨fun t0 t1 => exec_dramTempRead, rfl, fun p ch group count ha =>
      ⟨exec_hammerThrottle_over ha, exec_hammerThrottle_within p ch group s⟩,
    fun ch idle ha hp => ⟨exec_channelSelfRefresh_request ha hp, exec_channelSelfRefresh_enters ha hp⟩⟩, fun s ha => ?_,
    fun s => ⟨fun slot stamp => sramHit_nearWindow slot stamp s, fun slot o k => sramHit_tapTable,
      fun c n hn hc => jitterHit_absent hn fun e he => caughtPast_eq_false (hc e he), fun q g => sramHit_staging,
      fun o => rfl, fun h => ⟨_, sramHit_nose h, rfl, rfl⟩, fun m op seq => rfl, fun p r => rfl, ?_, fun i => rfl,
      fun i v => rfl, fun m op seq => rfl, fun n => mem_dramHit_log n s, fun p n k => dramHit_txFrame⟩⟩
  · have up : ¬(!s.alive) = true := by simp [ha]
    exact ⟨fun n => if_neg up, fun n site => if_neg up, fun n l f => if_neg up, fun n l f site => if_neg up⟩
  · rintro c r next h rfl
    exact dramHit_replay h

end Sys2Proof.Machine
end

section
/-!
PROOFS. The fetching of granules: the list of a tick, the window of a block, the end of a fetch and the gating of a Quay (R92, R93,
R95, R105).
-/
namespace Sys2Proof.Machine

/-! Each Quay in its turn takes a new state, which depends on the other Quays in nothing. -/

/-- Quays 0 to n − 1 take the states that `next` gives them, in their order. -/
def stepQuays (next : State → Nat → Quay) (n : Nat) (s : State) : State :=
  (List.range n).foldl (fun st q => updQuay q (fun _ => next st q) st) s

/-- What `next` gives a Quay does not depend on the other Quays. -/
def EachOnItsOwn (next : State → Nat → Quay) : Prop :=
  ∀ (p : Nat) (f : Quay → Quay) (s : State) (q : Nat), q ≠ p → next (updQuay p f s) q = next s q

theorem stepQuays_succ (next : State → Nat → Quay) (n : Nat) (s : State) :
    stepQuays next (n + 1) s = updQuay n (fun _ => next (stepQuays next n s) n) (stepQuays next n s) := by
  simp [stepQuays, List.range_succ]

theorem stepQuays_media (next : State → Nat → Quay) (n : Nat) (s : State) : (stepQuays next n s).media = s.media := by
  induction n with
  | zero => rfl
  | succ n ih => rw [stepQuays_succ]; exact ih

/-- A Quay whose turn has not come still gets what it would have got at first. -/
theorem next_stepQuays {next : State → Nat → Quay} (hnext : EachOnItsOwn next) {n q : Nat} (h : n ≤ q) (s : State) :
    next (stepQuays next n s) q = next s q := by
  induction n with
  | zero => rfl
  | succ n ih => rw [stepQuays_succ, hnext _ _ _ _ (by omega), ih (by omega)]

theorem quay_stepQuays {next : State → Nat → Quay} (hnext : EachOnItsOwn next) {n q : Nat} (h : q < n) (s : State) :
    (stepQuays next n s).quay q = next s q := by
  induction n with
  | zero => omega
  | succ n ih =>
    rw [stepQuays_succ]
    by_cases hq : q = n
    · subst hq
      rw [updQuay_same, next_stepQuays hnext (Nat.le_refl q)]
    · rw [updQuay_other _ _ _ _ hq, ih (by omega)]

/-! The list of a tick (R92). -/

/-- A Quay that runs takes the list of tick k (R92, R105). -/
def takeList (k : Nat) (s : State) (q : Nat) : Quay :=
  if (s.quay q).gated || (s.quay q).draining then s.quay q else { s.quay q with listTick := some k }

theorem takeList_eachOnItsOwn (k : Nat) : EachOnItsOwn (takeList k) := fun p f s q h => by
  simp only [takeList, updQuay_other p f s q h]

theorem takeList_listTick (k : Nat) (s : State) (q : Nat) :
    (takeList k s q).listTick = if (s.quay q).gated || (s.quay q).draining then (s.quay q).listTick else some k := by
  unfold takeList
  split <;> rfl

theorem exec_fetchListHandover {k : Nat} {s : State} (hrun : s.media.running = true) (hlate : s.media.catchL ≤ s.idx + 16)
    (hk : k = floorTo 64 (s.idx + 16 - s.media.catchL)) (hnew : s.media.handed ≠ some k) :
    exec .fetchListHandover s = .next (stepQuays (takeList k) 4 { s with media.handed := some k }) := by
  subst hk
  change execFetchListHandover s = _
  exact if_neg (by simp [hrun, hnew, hlate])

/-! The window of a block (R93). -/

theorem requestBlock_eachOnItsOwn (b : Nat) : EachOnItsOwn (requestBlock · b) := fun p f s q h => by
  simp only [requestBlock, updQuay_other p f s q h]
  rfl

theorem exec_fetchWindowOpen {b : Nat} {s : State} (hrun : s.media.running = true) (hlate : s.media.catchL ≤ s.idx + 16)
    (hb : b = floorTo 16 (s.idx + 16 - s.media.catchL)) (hnew : s.media.windowed ≠ some b) (hfetch : s.noFetch b = false) :
    exec .fetchWindowOpen s = .next (stepQuays (requestBlock · b) 4 (fetchReplay b { s with media.windowed := some b })) := by
  subst hb
  change execFetchWindowOpen s = _
  exact (if_neg (by simp [hrun, hnew, hlate])).trans (if_neg (Bool.eq_false_iff.1 hfetch))

/-! The end of a fetch (R95), and of a Quay's work (R105). -/

theorem exec_granuleFetchDone_staged {q : Fin 4} {tag : Nat} {g : Fetch} {s : State}
    (hg : (s.quay q.val).flight.find? (fun f => f.1 == tag) = some (tag, g)) (hdrain : (s.quay q.val).draining = false)
    (hgate : (s.quay q.val).gated = false) (hfetch : s.noFetch (s.media.windowed.getD 0) = false) (hreads : g.reads ≠ []) :
    exec (.granuleFetchDone q tag false) s = .next (updQuay q.val (fun _ => issueFetches 512 { s.quay q.val with
      flight := (s.quay q.val).flight.filter fun e => e.1 != tag, staged := (s.quay q.val).staged ++ [g]
      stagedPeak := max (s.quay q.val).stagedPeak ((s.quay q.val).staged ++ [g]).length }) s) := by
  change execGranuleFetchDone q tag false s = _
  unfold execGranuleFetchDone
  dsimp only
  rw [hg]
  exact (if_neg (by simp [hdrain, hgate, hfetch, hreads])).trans (if_neg Bool.false_ne_true)

theorem exec_quayGateDone {q : Fin 4} {s : State} (hdrain : (s.quay q.val).draining = true) :
    exec (.quayGateDone q) s = .next (updQuay q.val (fun u => { u with
      gated := true, draining := false, flight := [], waiting := [], staged := [], lost := [], windows := [], listTick := none }) s) :=
  if_pos hdrain

/-- Settles O49: the list and the window Quay by Quay, a fetch and a drain by their own Quay. -/
theorem granulesAreFetched : Obligations.GranulesAreFetched := by
  refine fun s => ⟨fun k hrun hlate hk hnew => ?_, fun b hrun hlate hb hnew hfetch => ?_,
    fun q tag g => exec_granuleFetchDone_staged, fun q => exec_quayGateDone⟩
  · refine ⟨_, exec_fetchListHandover hrun hlate hk hnew, by rw [stepQuays_media], fun q hq => ?_⟩
    rw [quay_stepQuays (takeList_eachOnItsOwn k) hq, takeList_listTick]
    rfl
  · refine ⟨_, exec_fetchWindowOpen hrun hlate hb hnew hfetch, by rw [stepQuays_media]; rfl, fun q hq => ?_⟩
    exact quay_stepQuays (requestBlock_eachOnItsOwn b) hq _

end Sys2Proof.Machine
end

section
/-!
PROOFS. Commands without an apply period of their own that wait all the same, and the change of a proposal: BRIDGE_SET,
PROPOSAL_APPLY, and what an active unit gives a period with its standby (R123, R204, R284).
-/
namespace Sys2Proof.Machine

theorem queues_unowned {c : Cmd} {r : Req} {s : State} (h : queues c r s = true) : ownedBy c.origin r.rank c.op c.payload s = false := by
  unfold queues at h
  simp only [Bool.and_eq_true, Bool.not_eq_true'] at h
  obtain ⟨⟨⟨unowned, -⟩, -⟩, -⟩ := h
  exact unowned

/-- Only writes of the scene are published (R53). -/
theorem publishCmd_unpublished {c : Cmd} (s : State) (hobj : c.op ≠ .objSet) (hair : c.op ≠ .airSet) : publishCmd c s = s :=
  if_neg (by simp [hobj, hair])

/-! BRIDGE_SET (R123). -/

/-- A BRIDGE_SET joins the queue whatever its entry's apply period, and is answered with the one in use. -/
theorem queueReq_bridgeSet {p : Bytes} {r : Req} {at_ : Nat} {settled : Option Nat} {s : State} (hm : maskOf p ≠ 0)
    (hq : queues (waitingCmd .bridgeSet .block (untimedApply r s) p 0 r at_ s) r s = true) :
    queueReq .bridgeSet .block p p 0 r at_ settled s =
      answerReq .bridgeSet r at_ (untimedApply r s) .ok [] (updCmd s.host.nextId (fun c => { c with answered := true })
        (forwardCmd (.master r.master.val) .bridgeSet r.rank (untimedApply r s) p
          { withCmd (waitingCmd .bridgeSet .block (untimedApply r s) p 0 r at_ s) s with host.nextId := s.host.nextId + 1 })) := by
  have unowned : ownedBy (.master r.master.val) r.rank .bridgeSet p s = false := queues_unowned hq
  have period : usedApply .bridgeSet r at_ (settled.getD 0) s = untimedApply r s := rfl
  have atOnce : answeredAtOnce .bridgeSet = true := rfl
  have forwarded : classOf .bridgeSet p {} = .forwarded := by simp [classOf, hm]
  unfold queueReq
  simp only [period, offer_queues hq, unowned, forwarded, atOnce, Bool.not_true, Bool.and_false, Bool.false_eq_true, if_false,
    if_true, beq_self_eq_true]
  rw [publishCmd_unpublished _ (by simp [waitingCmd]) (by simp [waitingCmd])]
  rfl

theorem exec_bridgeSet {r : Req} {s : State} (ha : admits .bridgeSet {} r s = true) (hd : delivered r s = true)
    (hm : maskOf r.payload ≠ 0) :
    exec (.bridgeSet r) s = .next (trimmed r
      (queueReq .bridgeSet .block r.payload r.payload 0 r s.idx (applyPeriod s s.idx r) (taken r s))) := by
  have waits : waitsAs .bridgeSet r.payload = some .block := by simp [waitsAs, timingOf, hm]
  rw [exec_request rfl, accept_admitted ha hd (by decide), actReq_waits (by decide) waits]

/-! PROPOSAL_APPLY (R204). -/

/-- The change of a proposal is what is offered to the queue. -/
theorem actReq_proposalApply {h : StoreHdr} {p change : Bytes} {r : Req} {at_ : Nat} {settled : Option Nat} {s : State}
    (hc : proposalApplied p s = .inr change) :
    actReq .proposalApply h p r at_ settled s =
      queueReq .proposalApply (changeTiming change) p change (getU p 0 4) r at_ settled s := by
  unfold actReq
  dsimp only
  rw [if_pos (by decide), hc]

/-- It joins the queue, and goes to the standby as its own eight bytes. -/
theorem queueReq_proposalApply {t : Timing} {p change : Bytes} {id at_ e : Nat} {r : Req} {s : State}
    (hq : queues (waitingCmd .proposalApply t e change id r at_ s) r s = true) :
    queueReq .proposalApply t p change id r at_ (some e) s =
      forwardCmd (.master r.master.val) .proposalApply r.rank e p
        { withCmd (waitingCmd .proposalApply t e change id r at_ s) s with host.nextId := s.host.nextId + 1 } := by
  have period : usedApply .proposalApply r at_ e s = e := by simp [usedApply, answeredAtOnce]
  have forwarded : classOf .proposalApply change {} = .forwarded := by simp [classOf, isSelect]
  have joins := queueReq_queues (raw := p) (period.symm ▸ hq) (by decide)
  simp only [period, forwarded, beq_self_eq_true, if_true] at joins
  rw [joins, publishCmd_unpublished _ (by simp [waitingCmd]) (by simp [waitingCmd])]
  rfl

/-! Commands that the active unit gives an apply period (R284). -/

/-- The state in which a command of the active has acted as far as it is local: of a TIME_CFG, all but the Heart rate and the catch
lag. -/
def localDone (op : Opcode) (p : Bytes) (s : State) : State :=
  if op = .timeCfg then afterReply s (doTimeCfg (localPart op p) (atBoundary s) (allInEffect s) s) else s

/-- The rest of it, as it waits. -/
def sharedCmd (op : Opcode) (r : Req) (at_ : Nat) (s : State) : Cmd :=
  waitingCmd op .block (untimedApply r s) (forwardPart op r.payload) 0 r at_ (localDone op r.payload s)

/-- The stamp of the excitation of a run that waits (R211). -/
def sharedExcite (op : Opcode) (r : Req) (s : State) : Nat :=
  if op = .sweepRun then
    sweepFirst r.payload (untimedApply r s) (project (localDone op r.payload s) (sweepStart r.payload (untimedApply r s)))
  else 0

/-- The state with it among the commands waiting, its answer given elsewhere, and on its way to the standby. -/
def shared (op : Opcode) (r : Req) (at_ : Nat) (s : State) : State :=
  forwardCmd (.master r.master.val) op r.rank (untimedApply r s) (forwardPart op r.payload)
    (updCmd (sharedCmd op r at_ s).id (fun c => { c with answered := true, select := false, excite := sharedExcite op r s })
      { withCmd (sharedCmd op r at_ s) (localDone op r.payload s) with host.nextId := (localDone op r.payload s).host.nextId + 1 })

/-- The run of a SWEEP_RUN is judged by the state that accepts it. -/
theorem sharedExcite_eq (op : Opcode) (r : Req) (s : State) : sharedExcite op r s =
    if op = .sweepRun then sweepFirst r.payload (untimedApply r s) (project s (sweepStart r.payload (untimedApply r s))) else 0 := by
  by_cases h : op = .sweepRun
  · subst h
    rfl
  · rw [sharedExcite, if_neg h, if_neg h]

/-- How it is answered once it is shared: with what its checks gave. -/
def sharedAnswer (op : Opcode) (r : Req) (at_ : Nat) (hold : Owed) (a : Reply) (s t : State) : State :=
  match a with
  | .done _ body => deliverBody op {} r at_ (untimedApply r s) body s t
  | .owe _ key => park { hold with key := key, apply := untimedApply r s } t
  | _ => answerReq op r at_ (untimedApply r s) .ok [] t

theorem actLater_shares {op : Opcode} {r : Req} {at_ : Nat} {hold : Owed} {a : Reply} {s : State}
    (hstore : op ≠ .storeTransfer) (ha : ∀ st body, a ≠ .refuse st body)
    (hq : queues (sharedCmd op r at_ s) r (localDone op r.payload s) = true) :
    actLater op {} r.payload r at_ hold a s = sharedAnswer op r at_ hold a s (shared op r at_ s) := by
  unfold shared
  rw [sharedExcite_eq]
  have joins := offer_queues hq
  unfold localDone at joins
  unfold actLater
  simp only [beq_iff_eq, if_neg hstore, joins]
  cases a with
  | refuse st body => exact absurd rfl (ha st body)
  | done t body => rfl
  | owe t key => rfl
  | deferred t => rfl

/-- On the active unit the command is checked in the state that its period finds. -/
theorem actReq_later {op : Opcode} {r : Req} {at_ : Nat} {settled : Option Nat} {s : State} (hactive : s.flag mActive = true)
    (hlater : waitsOnActive op r.payload {} = true) (hw : waitsAs op r.payload = none) (hp : op ≠ .proposalApply) :
    actReq op {} r.payload r at_ settled s =
      actLater op {} r.payload r at_ (holdOf op r at_ 0 s) (actNow op {} r.payload r (judgedBy op r s)) s := by
  unfold waitsAs at hw
  unfold actReq
  dsimp only
  rw [if_neg (by simpa using hp), hw]
  dsimp only
  rw [if_pos (by simp [hactive, hlater])]
  rfl

/-- The commands, other than stores, that an active unit gives an apply period (R284). -/
def sharedOps : List Opcode := [.timeCfg, .noseCfg, .pairSet, .policySet, .sweepRun, .pwrPolicy]

theorem sharedOps_ne {op : Opcode} (h : op ∈ sharedOps) : op ≠ .storeTransfer ∧ op ≠ .proposalApply := by
  constructor <;> rintro rfl <;> exact absurd h (by decide)

theorem exec_shared {i : Instr} {op : Opcode} {r : Req} {s : State} {a : Reply} (hi : requestOf i = some (op, {}, r))
    (ho : op ∈ sharedOps) (ha : admits op {} r s = true) (hd : delivered r s = true) (hactive : s.flag mActive = true)
    (hlater : waitsOnActive op r.payload {} = true) (hw : waitsAs op r.payload = none)
    (hq : queues (sharedCmd op r s.idx (taken r s)) r (localDone op r.payload (taken r s)) = true)
    (hn : actNow op {} r.payload r (judgedBy op r (taken r s)) = a) (hok : ∀ st body, a ≠ .refuse st body) :
    exec i s = .next (trimmed r (sharedAnswer op r s.idx (holdOf op r s.idx 0 (taken r s)) a (taken r s)
      (shared op r s.idx (taken r s)))) := by
  obtain ⟨hstore, hproposal⟩ := sharedOps_ne ho
  have active : (taken r s).flag mActive = true := hactive
  rw [exec_request hi, accept_admitted ha hd hstore, actReq_later active hlater hw hproposal, hn, actLater_shares hstore hok hq]

/-- Settles O15: BRIDGE_SET and the change of a proposal join the queue of waiting commands, and so does what an active unit
shares with its standby, which is answered with what its checks give. -/
theorem bridgeAndProposalWait : Obligations.BridgeAndProposalWait := by
  refine ⟨?bridge, ?proposal, ?shared⟩
  case bridge =>
    intro r s ha hd hm n e c hq
    rw [exec_bridgeSet ha hd hm, queueReq_bridgeSet hm hq]
    rfl
  case proposal =>
    intro r s change e ha hd hc he n c hq
    have period : applyPeriod s s.idx r = some e := he
    rw [exec_request rfl, accept_admitted ha hd (by decide), actReq_proposalApply hc, period, queueReq_proposalApply hq]
  case shared =>
    intro i op r s hi hop ha hd hactive hlater hw n apply fwd now c e queued hq
    refine ⟨fun t body hn hb => ?_, fun t key hn => ?_⟩
    · rw [exec_shared hi hop ha hd hactive hlater hw hq hn (by simp)]
      simp only [sharedAnswer, deliverBody, delivered_ret hd, if_neg (Nat.not_lt.2 hb)]
      rfl
    · rw [exec_shared hi hop ha hd hactive hlater hw hq hn (by simp)]
      rfl

end Sys2Proof.Machine
end

section
/-!
PROOFS. The records of local inputs and outputs (R169, R405 to R413): commands that act on this unit alone at acceptance, and what
each writes.
-/
namespace Sys2Proof.Machine

/-! Commands that act at acceptance (R333). -/

/-- A command that acts at acceptance, and has no body to return, is answered OK (R333). -/
theorem exec_acted {i : Instr} {op : Opcode} {r : Req} {s t : State} (hi : requestOf i = some (op, {}, r))
    (hstore : op ≠ .storeTransfer) (hproposal : op ≠ .proposalApply) (ha : admits op {} r s = true) (hd : delivered r s = true)
    (hw : waitsAs op r.payload = none) (hl : actsNow op {} r s = true) (hn : actNow op {} r.payload r (taken r s) = .done t []) :
    exec i s = .next (acted op r s [] t) := by
  rw [exec_request hi, accept_done ha hd hstore hproposal hw hl hn (Nat.zero_le _)]
  rfl

/-- The commands on the records of local inputs and outputs, and on the routes between them. -/
def ioRecordOps : List Opcode := [.anaInCfg, .anaOutCfg, .loopCfg, .tdmCfg, .shortSet]

theorem mem_ioRecordOps {op : Opcode} (h : op ∈ ioRecordOps) :
    op = .anaInCfg ∨ op = .anaOutCfg ∨ op = .loopCfg ∨ op = .tdmCfg ∨ op = .shortSet := by
  simpa only [ioRecordOps, List.mem_cons, List.not_mem_nil, or_false] using h

theorem ioRecordOps_ne {op : Opcode} (h : op ∈ ioRecordOps) : op ≠ .storeTransfer ∧ op ≠ .proposalApply := by
  constructor <;> rintro rfl <;> exact absurd h (by decide)

/-- They wait for no boundary. -/
theorem waitsAs_ioRecord {op : Opcode} (p : Bytes) (h : op ∈ ioRecordOps) : waitsAs op p = none := by
  rcases mem_ioRecordOps h with rfl | rfl | rfl | rfl | rfl <;> rfl

/-- They are of the local class, or reads (Table 10.4). -/
theorem classOf_ioRecord {op : Opcode} (p : Bytes) (h : op ∈ ioRecordOps) : classOf op p {} ≠ .forwarded := by
  unfold classOf
  split
  · decide
  · rcases mem_ioRecordOps h with rfl | rfl | rfl | rfl | rfl <;> exact nofun

/-- An active unit gives them no apply period of its own (R284). -/
theorem actsNow_ioRecord {op : Opcode} (r : Req) (s : State) (h : op ∈ ioRecordOps) : actsNow op {} r s = true := by
  simp [actsNow, waitsOnActive, classOf_ioRecord r.payload h]

/-- A write of one of these records acts on this unit alone, and is answered OK (R333). -/
theorem exec_ioRecord {i : Instr} {op : Opcode} {r : Req} {s t : State} (hi : requestOf i = some (op, {}, r)) (ho : op ∈ ioRecordOps)
    (ha : admits op {} r s = true) (hd : delivered r s = true) (hn : actNow op {} r.payload r (taken r s) = .done t []) :
    exec i s = .next (acted op r s [] t) := by
  obtain ⟨hstore, hproposal⟩ := ioRecordOps_ne ho
  exact exec_acted hi hstore hproposal ha hd (waitsAs_ioRecord _ ho) (actsNow_ioRecord r s ho) hn

/-! What each write does (R405, R408, R410, R413). -/

section Writes
variable {p : Bytes} {s : State}

/-- What ANA_IN_CFG makes of an analogue input. -/
def anaInWritten (p : Bytes) (a : AnaIn) : AnaIn :=
  let m := maskOf p
  let phantom := getU p 6 1 == 1
  { a with
    want := if m.testBit 0 then (if getU p 5 1 = a.gain then none else some (getU p 5 1)) else a.want
    phantom := pick (m.testBit 1) phantom a.phantom
    fault := if m.testBit 1 then false else a.fault
    ramping := if m.testBit 1 && phantom != (a.phantom && !a.fault) then true else a.ramping
    newChannel := if m.testBit 2 then some (getU p 8 2) else a.newChannel }

theorem doAnaInCfg_writes {views : List State} (hm : maskOf p ≠ 0) (hp : checkAnaIn p s views = none) :
    doAnaInCfg p views s = .done (updAnaIn (getU p 4 1) (anaInWritten p) s) [] := by
  unfold doAnaInCfg
  rw [hp]
  exact if_neg hm

/-- The span asked for, if ANA_OUT_CFG selects it. -/
def spanWritten (p : Bytes) (s : State) : State :=
  if (maskOf p).testBit 0 then updAnaOut (getU p 4 1) (wantSpan (getU p 5 1)) s else s

theorem doAnaOutCfg_writes (hm : maskOf p ≠ 0) (hp : anaOutPayloadOk p = true) :
    doAnaOutCfg p s = .done
      (if (maskOf p).testBit 1 then updAnaOut (getU p 4 1) (fun a => { a with hold := getU p 6 1 == 1 }) (spanWritten p s)
        else spanWritten p s) [] := by
  unfold doAnaOutCfg
  rw [if_neg (by simp [hp])]
  exact if_neg hm

/-- What LOOP_CFG makes of a current loop: the target of a loop that is off is 0 mA, of one in mode 1 its value. -/
def loopWritten (p : Bytes) (l : Loop) : Loop :=
  let new := l.write (maskOf p) p
  { new with target := if new.mode = 0 then 0 else if new.mode = 1 then new.value else new.target }

theorem doLoopCfg_writes (hm : maskOf p ≠ 0) (hp : loopPayloadOk p = true) :
    doLoopCfg p s = .done (updLoop (getU p 4 1) (loopWritten p) s) [] := by
  unfold doLoopCfg
  rw [if_neg (by simp [hp])]
  exact if_neg hm

/-- What TDM_CFG makes of a TDM port: its first input channel waits for the block boundary (R413). -/
def tdmWritten (p : Bytes) (t : Tdm) : Tdm :=
  { t.write (maskOf p) p with newFirst := if (maskOf p).testBit 2 then some (getU p 10 2) else t.newFirst }

theorem doTdmCfg_writes {views : List State} (hm : maskOf p ≠ 0) (hp : checkTdm p s views = none) :
    doTdmCfg p views s = .done (updTdm (getU p 4 1) (tdmWritten p) s) [] := by
  unfold doTdmCfg
  rw [hp]
  exact if_neg hm

/-! What SHORT_SET does (R169). -/

/-- A short route whose selected groups are written. -/
def shortWritten (p : Bytes) (k : ShortRoute) : ShortRoute :=
  let m := maskOf p
  { k with
    enabled := pick (m.testBit 0) ((getU p 5 1).testBit 0) k.enabled, input := pick (m.testBit 1) (getU p 6 1) k.input
    output := pick (m.testBit 1) (getU p 7 1) k.output, gain := pick (m.testBit 2) (getI p 8 2) k.gain
    bqEnable := pick (m.testBit 3) (getU p 10 1) k.bqEnable, biquads := pick (m.testBit 3) (bqList p 12 4) k.biquads }

/-- What of a short route ramps when it changes. -/
def shortConnection (k : ShortRoute) : Bool × Nat × Nat × Int := (k.enabled, k.input, k.output, k.gain)

/-- A short route that ramps from what `k` was (assumption 31). -/
def shortRamping (k new : ShortRoute) : ShortRoute :=
  { new with
    fromIn := k.input, fromOut := k.output, fromGain := k.reached, ramp := 0, bqOld := k.bqState
    bqState := if new.input = k.input then k.bqState else [] }

/-- The short route that the payload names. -/
def namedShort (p : Bytes) (s : State) : ShortRoute := SMap.get {} s.rend.shorts (getU p 4 1)

/-- The short route that the payload names becomes `k`. -/
def putShort (p : Bytes) (k : ShortRoute) (s : State) : State :=
  { s with rend.shorts := SMap.put {} s.rend.shorts (getU p 4 1) k }

theorem doShortSet_writes (hm : maskOf p ≠ 0) (hp : recordOk shortFields 4 112 p = true) :
    doShortSet p s =
      let k := namedShort p s
      let new := shortWritten p k
      .done (putShort p (if shortConnection new != shortConnection k then shortRamping k new else new) s) [] := by
  unfold doShortSet
  rw [if_neg (by simp [hp])]
  exact if_neg hm

/-- A change of the connection begins a ramp. -/
theorem doShortSet_moved (hm : maskOf p ≠ 0) (hp : recordOk shortFields 4 112 p = true)
    (hc : shortConnection (shortWritten p (namedShort p s)) ≠ shortConnection (namedShort p s)) :
    doShortSet p s =
      let k := namedShort p s
      .done (putShort p (shortRamping k (shortWritten p k)) s) [] := by
  rw [doShortSet_writes hm hp]
  simp only [bne_iff_ne, ne_eq, hc, not_false_eq_true, if_true]

/-- With the connection as it was, what ramps goes on. -/
theorem doShortSet_unmoved (hm : maskOf p ≠ 0) (hp : recordOk shortFields 4 112 p = true)
    (hc : shortConnection (shortWritten p (namedShort p s)) = shortConnection (namedShort p s)) :
    doShortSet p s = .done (putShort p (shortWritten p (namedShort p s)) s) [] := by
  rw [doShortSet_writes hm hp]
  simp only [hc, bne_self_eq_false, Bool.false_eq_true, if_false]

/-- With only its filters selected, a route is written in nothing else. -/
theorem shortWritten_filters (k : ShortRoute) (h0 : (maskOf p).testBit 0 = false) (h1 : (maskOf p).testBit 1 = false)
    (h2 : (maskOf p).testBit 2 = false) :
    shortWritten p k = { k with
      bqEnable := pick ((maskOf p).testBit 3) (getU p 10 1) k.bqEnable
      biquads := pick ((maskOf p).testBit 3) (bqList p 12 4) k.biquads } := by
  simp only [shortWritten, h0, h1, h2, pick, Bool.false_eq_true, if_false]

end Writes

/-- Settles O20: each acts on this unit alone at acceptance, by what it writes; a short route by whether its connection moves. -/
theorem ioRecordWritesAct : Obligations.IoRecordWritesAct := by
  refine ⟨fun r s hd hm => ⟨fun ha hp => ?anaIn, fun ha hp => ?anaOut, fun ha hp => ?loop, fun ha hp => ?tdm,
    fun ha hp h0 h1 h2 => ?filters⟩, fun r s ha hd hp hm hc => ?moves⟩
  case anaIn => exact exec_ioRecord rfl (by decide) ha hd (doAnaInCfg_writes hm hp)
  case anaOut => exact exec_ioRecord rfl (by decide) ha hd (doAnaOutCfg_writes hm hp)
  case loop => exact exec_ioRecord rfl (by decide) ha hd (doLoopCfg_writes hm hp)
  case tdm => exact exec_ioRecord rfl (by decide) ha hd (doTdmCfg_writes hm hp)
  case filters =>
    have written := fun k => shortWritten_filters (p := r.payload) k h0 h1 h2
    have kept := doShortSet_unmoved (s := taken r s) hm hp (by rw [written]; rfl)
    rw [written] at kept
    exact exec_ioRecord rfl (by decide) ha hd kept
  case moves => exact exec_ioRecord rfl (by decide) ha hd (doShortSet_moved hm hp hc)

end Sys2Proof.Machine
end

section
/-!
PROOFS. Reads of a unit's records (R189, R204, R205, R236, R272).
-/
namespace Sys2Proof.Machine

/-! What each read of a unit answers. -/

/-- BERTH_STAT of a receive berth (R236). -/
theorem doBerthStat_rx {p : Bytes} {s : State} {x : RxBerth} (hp : berthPayloadOk p = true) (hdir : getU p 0 1 = 0)
    (hx : SMap.look s.net.rx (getU p 2 2) = some x) :
    doBerthStat p s = .done s (rxBytes x.cfg (getU p 2 2) ++ rxStatBytes x.stat x.state) := by
  unfold doBerthStat
  rw [if_neg (by simp [hp]), if_pos hdir, hx]

/-- BERTH_STAT of a transmit berth (R236). -/
theorem doBerthStat_tx {p : Bytes} {s : State} {x : TxBerth} (hp : berthPayloadOk p = true) (hdir : getU p 0 1 ≠ 0)
    (hx : SMap.look s.net.tx (getU p 2 2) = some x) :
    doBerthStat p s = .done s (txBytes x.cfg (getU p 2 2) ++ txStatBytes x) := by
  unfold doBerthStat
  rw [if_neg (by simp [hp]), if_neg hdir, hx]

/-- CAPT_READ of up to `k` entries of an input (R272). -/
theorem doCaptRead_entries {i k : Nat} {s : State} (hi : i ≤ 3) (hlo : 1 ≤ k) (hhi : k ≤ 16) :
    doCaptRead (le 1 i ++ le 1 k ++ zeros 6) s =
      .done (updCapt i (fun c => { c with queue := c.queue.drop k }) s) (((s.capt i).queue.take k).flatMap CaptEntry.bytes) := by
  rw [List.append_assoc]
  have input := getU_le_append (n := 1) (v := i) (le 1 k ++ zeros 6) (by omega)
  have count : getU (le 1 i ++ (le 1 k ++ zeros 6)) 1 1 = k :=
    (getU_le_append_right 1 i _ 0 1).trans (getU_le_append _ (by omega))
  have rest : getU (le 1 i ++ (le 1 k ++ zeros 6)) 2 6 = 0 :=
    (getU_le_append_right 1 i _ 1 6).trans (getU_le_append_right 1 k _ 0 6)
  unfold doCaptRead
  rw [input, count, rest]
  exact if_neg (by simp [zeros]; omega)

/-- The fields of a payload that begins with a first record and a count, each of two bytes. -/
theorem getU_first_count {i k : Nat} (q : Bytes) (hi : i < 65536) (hk : k < 65536) :
    getU (le 2 i ++ le 2 k ++ q) 0 2 = i ∧ getU (le 2 i ++ le 2 k ++ q) 2 2 = k ∧
    ∀ off n, getU (le 2 i ++ le 2 k ++ q) (4 + off) n = getU q off n := by
  rw [List.append_assoc]
  refine ⟨getU_le_append _ hi, (getU_le_append_right 2 i _ 0 2).trans (getU_le_append _ hk), fun off n => ?_⟩
  have rest := (getU_le_append_right 2 i (le 2 k ++ q) (2 + off) n).trans (getU_le_append_right 2 k q off n)
  rwa [← Nat.add_assoc] at rest

/-- EST_READ of refresh estimates, without their taps (R189). -/
theorem doEstRead_estimates {i k : Nat} {s : State} (hlo : 1 ≤ k) (hhi : k ≤ 64) (hsum : i + k ≤ 4096) :
    doEstRead (le 2 i ++ le 2 k ++ zeros 4) s = .done s ((List.range k).flatMap fun j => (s.acc (i + j)).est.bytes (i + j)) := by
  obtain ⟨first, count, rest⟩ := getU_first_count (i := i) (k := k) (zeros 4) (by omega) (by omega)
  have options : getU (le 2 i ++ le 2 k ++ zeros 4) 4 1 = 0 := rest 0 1
  have reserved : getU (le 2 i ++ le 2 k ++ zeros 4) 5 3 = 0 := rest 1 3
  have plain : (0 : Nat).testBit 0 = false ∧ (0 : Nat).testBit 1 = false := by decide
  unfold doEstRead
  simp only [first, count, options, reserved]
  rw [if_neg (by simp [zeros]; omega)]
  simp only [plain, Bool.false_eq_true, if_false, List.append_nil, List.flatMap_map]

/-- PROPOSAL_READ of zones' delays (R204). -/
theorem doProposalRead_zones {i k : Nat} {s : State} (hlo : 1 ≤ k) (hhi : k ≤ 64) (hsum : i + k ≤ 64) :
    doProposalRead (zeros 2 ++ le 2 i ++ le 2 k ++ zeros 2) s =
      .done s ((List.range k).flatMap fun j => (SMap.get {} s.nose.proposals (propKey 0 (i + j))).bytes 0 (i + j)) := by
  obtain ⟨-, target, rest⟩ := getU_first_count (i := 0) (k := i) (le 2 k ++ zeros 2) (by omega) (by omega)
  rw [← List.append_assoc] at target rest
  have kind : getU (zeros 2 ++ le 2 i ++ le 2 k ++ zeros 2) 0 1 = 0 := rfl
  have reserved : getU (zeros 2 ++ le 2 i ++ le 2 k ++ zeros 2) 1 1 = 0 := rfl
  have first : getU (zeros 2 ++ le 2 i ++ le 2 k ++ zeros 2) 2 2 = i := target
  have count : getU (zeros 2 ++ le 2 i ++ le 2 k ++ zeros 2) 4 2 = k := (rest 0 2).trans (getU_le_append _ (by omega))
  have tail : getU (zeros 2 ++ le 2 i ++ le 2 k ++ zeros 2) 6 2 = 0 := (rest 2 2).trans (getU_le_append_right 2 k _ 0 2)
  unfold doProposalRead
  rw [kind, reserved, first, count, tail]
  exact if_neg (by simp [zeros]; omega)

/-- HEALTH_READ (R205). -/
theorem doHealthRead_outputs {o k : Nat} {s : State} (hlo : 1 ≤ k) (hhi : k ≤ 64) (hsum : o + k ≤ 512) :
    doHealthRead (le 2 o ++ le 2 k ++ zeros 4) s = .done s ((List.range k).flatMap fun j =>
      (s.health (o + j)).status (o + j) (s.spk (o + j)).health
        (match SMap.look (s.health (o + j)).since 0 with | some t => (s.idx - t) / s.hz | none => 0)) := by
  obtain ⟨first, count, rest⟩ := getU_first_count (i := o) (k := k) (zeros 4) (by omega) (by omega)
  have reserved : getU (le 2 o ++ le 2 k ++ zeros 4) 4 4 = 0 := rest 0 4
  unfold doHealthRead
  rw [first, count, reserved]
  exact if_neg (by simp [zeros]; omega)

/-- Settles O13: each is of class read, and is answered with what it does at acceptance. -/
theorem unitReadsAnswer : Obligations.UnitReadsAnswer := by
  intro r s hd n p
  refine ⟨fun x ha hp hdir hx => ?rx, fun x ha hp hdir hx => ?tx, fun i k ha hp hi hlo hhi => ?capture,
    fun i k ha hp hlo hhi hsum => ?estimates, fun i k ha hp hlo hhi hsum => ?proposals, fun o k ha hp hlo hhi hsum => ?health⟩
  case rx => exact exec_read rfl rfl ha hd rfl rfl (doBerthStat_rx hp hdir hx)
  case tx => exact exec_read rfl rfl ha hd rfl rfl (doBerthStat_tx hp hdir hx)
  case capture => exact exec_read rfl hp ha hd rfl rfl (doCaptRead_entries hi hlo hhi)
  case estimates => exact exec_read rfl hp ha hd rfl rfl (doEstRead_estimates hlo hhi hsum)
  case proposals => exact exec_read rfl hp ha hd rfl rfl (doProposalRead_zones hlo hhi hsum)
  case health => exact exec_read rfl hp ha hd rfl rfl (doHealthRead_outputs hlo hhi hsum)

end Sys2Proof.Machine
end

section
/-!
PROOFS. Records that a unit writes at acceptance (R191, R220, R281, R304, R358), and PORT_CFG (R218, R247).
-/
namespace Sys2Proof.Machine

/-! Commands that write a record of the unit at acceptance. -/

/-- The commands on the records of filters, policies, the pair and ports. -/
def unitRecordOps : List Opcode := [.filterSet, .policySet, .pwrPolicy, .twinCfg, .witnessSet, .portCfg]

theorem mem_unitRecordOps {op : Opcode} (h : op ∈ unitRecordOps) :
    op = .filterSet ∨ op = .policySet ∨ op = .pwrPolicy ∨ op = .twinCfg ∨ op = .witnessSet ∨ op = .portCfg := by
  simpa only [unitRecordOps, List.mem_cons, List.not_mem_nil, or_false] using h

theorem unitRecordOps_ne {op : Opcode} (h : op ∈ unitRecordOps) : op ≠ .storeTransfer ∧ op ≠ .proposalApply := by
  constructor <;> rintro rfl <;> exact absurd h (by decide)

/-- They wait for no boundary. -/
theorem waitsAs_unitRecord {op : Opcode} (p : Bytes) (h : op ∈ unitRecordOps) : waitsAs op p = none := by
  rcases mem_unitRecordOps h with rfl | rfl | rfl | rfl | rfl | rfl <;> rfl

/-- A write of one of these records that acts now is answered OK (R333). -/
theorem exec_unitRecord {i : Instr} {op : Opcode} {r : Req} {s t : State} (hi : requestOf i = some (op, {}, r))
    (ho : op ∈ unitRecordOps) (ha : admits op {} r s = true) (hd : delivered r s = true) (hl : actsNow op {} r s = true)
    (hn : actNow op {} r.payload r (taken r s) = .done t []) : exec i s = .next (acted op r s [] t) := by
  obtain ⟨hstore, hproposal⟩ := unitRecordOps_ne ho
  exact exec_acted hi hstore hproposal ha hd (waitsAs_unitRecord _ ho) hl hn

/-- An active unit gives a period of its own only to commands of the forwarded class (R284). -/
theorem actsNow_of_not_forwarded {op : Opcode} {h : StoreHdr} {r : Req} (s : State) (hc : classOf op r.payload h ≠ .forwarded) :
    actsNow op h r s = true := by
  simp [actsNow, waitsOnActive, hc]

/-- FILTER_SET, TWIN_CFG, WITNESS_SET and PORT_CFG are of the local or the twin class, or reads (Table 10.4). -/
theorem classOf_ownRecord {op : Opcode} (p : Bytes) (h : op ∈ [Opcode.filterSet, .twinCfg, .witnessSet, .portCfg]) :
    classOf op p {} ≠ .forwarded := by
  simp only [List.mem_cons, List.not_mem_nil, or_false] at h
  unfold classOf
  split
  · decide
  · rcases h with rfl | rfl | rfl | rfl <;> exact nofun

/-- A write of one of these acts on this unit alone (R333). -/
theorem exec_ownRecord {i : Instr} {op : Opcode} {r : Req} {s t : State} (hi : requestOf i = some (op, {}, r))
    (ho : op ∈ [Opcode.filterSet, .twinCfg, .witnessSet, .portCfg]) (ha : admits op {} r s = true) (hd : delivered r s = true)
    (hn : actNow op {} r.payload r (taken r s) = .done t []) : exec i s = .next (acted op r s [] t) := by
  have record : op ∈ unitRecordOps :=
    (show [Opcode.filterSet, .twinCfg, .witnessSet, .portCfg] ⊆ unitRecordOps by decide) ho
  exact exec_unitRecord hi record ha hd (actsNow_of_not_forwarded s (classOf_ownRecord _ ho)) hn

/-- A command of another class than the forwarded one reaches no standby (R283). -/
theorem forwardNow_of_not_forwarded {op : Opcode} {h : StoreHdr} {p : Bytes} {r : Req} (s : State)
    (hc : classOf op p h ≠ .forwarded) : forwardNow op h p r s = s := by
  simp [forwardNow, hc]

section Writes
variable {p : Bytes} {s : State}

theorem doFilterSet_writes (hm : maskOf p ≠ 0) (hp : filterPayloadOk p = true) :
    doFilterSet p s = .done (updPort (getU p 4 1) (fun q => { q with filter := q.filter.write (maskOf p) p }) s) [] := by
  unfold doFilterSet
  rw [if_neg (by simp [hp])]
  exact if_neg hm

theorem doPolicySet_writes (hm : maskOf p ≠ 0) (hp : policyPayloadOk p = true) :
    doPolicySet p s = .done { s with nose.policy := s.nose.policy.write (maskOf p) p } [] := by
  unfold doPolicySet
  rw [if_neg (by simp [hp]), if_neg hm]

theorem doPwrPolicy_writes (hm : maskOf p ≠ 0) (hp : powerPayloadOk p = true) :
    doPwrPolicy p s = .done { s with power.policy := s.power.policy.write (maskOf p) p } [] := by
  unfold doPwrPolicy
  rw [if_neg (by simp [hp]), if_neg hm]

theorem doTwinCfg_writes (hm : maskOf p ≠ 0) (hp : twinPayloadOk p = true) :
    doTwinCfg p s = .done { s with twin.newCfg := some ((s.twin.newCfg.getD s.twin.cfg).write (maskOf p) p) } [] := by
  unfold doTwinCfg
  rw [if_neg (by simp [hp]), if_neg hm]

theorem doWitnessSet_writes (hm : maskOf p ≠ 0) (hp : witnessPayloadOk p = true) :
    doWitnessSet p s = .done { s with twin.witness := s.twin.witness.write (maskOf p) p } [] := by
  unfold doWitnessSet
  rw [if_neg (by simp [hp]), if_neg hm]

end Writes

/-! PORT_CFG (R218, R247). -/

section Ports
variable {p : Bytes} {s : State} {views : List State}

/-- The record of the port that a PORT_CFG names, as it stands and as it is written. -/
def portOld (p : Bytes) (s : State) : PortRec := (s.port (getU p 4 1)).cfg
def portNew (p : Bytes) (s : State) : PortRec := (portOld p s).write (maskOf p) p

/-- The port with its new record; a new speed or FEC takes its link down (R218). -/
def portWritten (p : Bytes) (s : State) : State :=
  let w := updPort (getU p 4 1) (fun q => { q with cfg := portNew p s }) s
  if ((portNew p s).speed, (portNew p s).fec) != ((portOld p s).speed, (portOld p s).fec) then linkLost (getU p 4 1) w else w

/-- A port's rings enabled or disabled. -/
def ringsSet (on : Bool) (q : Port) : Port :=
  { q with rx := q.rx.map fun x => { x with enabled := on }, tx := q.tx.map fun x => { x with enabled := on } }

/-- A PORT_CFG that passes its checks: disabled, the port drains; enabled, its rings' sends leave; else it stays as it is. -/
theorem doPortCfg_writes (hm : maskOf p ≠ 0) (hp : checkPortCfg p s views = none) :
    doPortCfg p views s =
      if (portOld p s).enabled && !(portNew p s).enabled then
        .owe (updPort (getU p 4 1) (fun q => { ringsSet false q with draining := true }) (portWritten p s)) (getU p 4 1)
      else if !(portOld p s).enabled && (portNew p s).enabled then
        .done (updPort (getU p 4 1) (fun q => takeSends (ringsSet true q)) (portWritten p s)) []
      else .done (portWritten p s) [] := by
  unfold doPortCfg
  rw [if_neg hm, hp]
  rfl

theorem doPortCfg_kept (hm : maskOf p ≠ 0) (hp : checkPortCfg p s views = none) (hk : (portNew p s).enabled = (portOld p s).enabled) :
    doPortCfg p views s = .done (portWritten p s) [] := by
  rw [doPortCfg_writes hm hp, hk]
  cases (portOld p s).enabled <;> rfl

theorem doPortCfg_enables (hm : maskOf p ≠ 0) (hp : checkPortCfg p s views = none) (hold : (portOld p s).enabled = false)
    (hnew : (portNew p s).enabled = true) :
    doPortCfg p views s = .done (updPort (getU p 4 1) (fun q => takeSends (ringsSet true q)) (portWritten p s)) [] := by
  rw [doPortCfg_writes hm hp, hold, hnew]
  rfl

theorem doPortCfg_disables (hm : maskOf p ≠ 0) (hp : checkPortCfg p s views = none) (hold : (portOld p s).enabled = true)
    (hnew : (portNew p s).enabled = false) :
    doPortCfg p views s =
      .owe (updPort (getU p 4 1) (fun q => { ringsSet false q with draining := true }) (portWritten p s)) (getU p 4 1) := by
  rw [doPortCfg_writes hm hp, hold, hnew]
  rfl

end Ports

/-- A command of another class than the forwarded one, whose work goes on, is answered at its end (R333). -/
theorem exec_owes {i : Instr} {op : Opcode} {r : Req} {s t : State} {key : Nat} (hi : requestOf i = some (op, {}, r))
    (hstore : op ≠ .storeTransfer) (hproposal : op ≠ .proposalApply) (ha : admits op {} r s = true) (hd : delivered r s = true)
    (hw : waitsAs op r.payload = none) (hc : classOf op r.payload {} ≠ .forwarded)
    (hn : actNow op {} r.payload r (taken r s) = .owe t key) :
    exec i s = .next (trimmed r (park (holdOf op r s.idx key (taken r s)) { t with host.nextId := t.host.nextId + 1 })) := by
  rw [exec_request hi, accept_owe ha hd hstore hproposal hw (actsNow_of_not_forwarded s hc) hn, forwardNow_of_not_forwarded _ hc]

/-- Settles O17: each acts at acceptance by what it writes; PORT_CFG by whether its port is enabled before and after. -/
theorem recordAndPortWritesAct : Obligations.RecordAndPortWritesAct := by
  refine ⟨fun r s hd hm => ⟨fun ha hp => ?filter, fun ha hl hp => ?policy, fun ha hl hp => ?power, fun ha hp => ?twin,
    fun ha hp => ?witness⟩, fun r s ha hd hm hp => ?port⟩
  case filter => exact exec_ownRecord rfl (by decide) ha hd (doFilterSet_writes hm hp)
  case policy => exact exec_unitRecord rfl (by decide) ha hd hl (doPolicySet_writes hm hp)
  case power => exact exec_unitRecord rfl (by decide) ha hd hl (doPwrPolicy_writes hm hp)
  case twin => exact exec_ownRecord rfl (by decide) ha hd (doTwinCfg_writes hm hp)
  case witness => exact exec_ownRecord rfl (by decide) ha hd (doWitnessSet_writes hm hp)
  case port =>
    have own := classOf_ownRecord r.payload (op := .portCfg) (by decide)
    refine ⟨fun hk => ?_, fun hold hnew => ?_, fun hold hnew => ?_⟩
    · exact exec_ownRecord rfl (by decide) ha hd (doPortCfg_kept hm hp hk)
    · exact exec_ownRecord rfl (by decide) ha hd (doPortCfg_enables hm hp hold hnew)
    · exact exec_owes rfl (by decide) (by decide) ha hd rfl own (doPortCfg_disables hm hp hold hnew)

end Sys2Proof.Machine
end

section
/-!
PROOFS. Health of the loudspeakers and SWEEP runs (R205 to R214).
-/
namespace Sys2Proof.Machine

/-! The rows of Table 7.12 (R208, R209). -/

section Rows
variable {s : State} {o : Nat}

/-- A condition of Table 7.12 has lasted a number of times the hold. -/
def heldFor (s : State) (o condition times : Nat) : Bool :=
  match SMap.look (s.health o).since condition with
  | some t => t + times * (s.health o).hold * s.hz ≤ s.idx
  | none => false

theorem heldFor_iff {condition times : Nat} : heldFor s o condition times = true ↔
    ∃ t, SMap.look (s.health o).since condition = some t ∧ t + times * (s.health o).hold * s.hz ≤ s.idx := by
  unfold heldFor
  cases SMap.look (s.health o).since condition <;> simp

/-- The health that the conditions held give a loudspeaker, where it changes. -/
def healthNext (s : State) (o : Nat) : Option Nat :=
  if (s.spk o).health ≤ 1 && heldFor s o 1 1 then some 2
  else if (s.spk o).health = 1 && (heldFor s o 2 6 || heldFor s o 3 1) then some 2
  else if (s.spk o).health = 0 && heldFor s o 0 1 then some 1 else none

/-- A change of the Nose waits for its tick. -/
def healthWaits (s : State) (o : Nat) : Bool :=
  s.host.cmds.any fun c => !c.applied && c.origin == .nose && c.units == [⟨.spkSet, o, 6⟩]

/-- The Nose issues the change of an output's health. -/
def issueHealth (v o : Nat) (s : State) : State :=
  issue .nose .spkSet .tick (({ s.spk o with health := v } : SpkRec).bytes 64 o) [⟨.spkSet, o, 6⟩] 0 s

theorem exec_healthEvidenceHold {o : Fin 512} : exec (.healthEvidenceHold o) s =
    match healthNext s o.val with
    | some v =>
      if s.nose.dev.state = 1 && s.decides && !healthWaits s o.val then .next (issueHealth v o.val s) else .next s
    | none => .next s := rfl

theorem exec_healthEvidenceHold_changes {o : Fin 512} {v : Nat} (hv : healthNext s o.val = some v) (hw : healthWaits s o.val = false)
    (hr : s.nose.dev.state = 1) (hd : s.decides = true) : exec (.healthEvidenceHold o) s = .next (issueHealth v o.val s) := by
  rw [exec_healthEvidenceHold, hv]
  simp [hw, hr, hd]

theorem exec_healthEvidenceHold_unchanged {o : Fin 512} (hv : healthNext s o.val = none) : exec (.healthEvidenceHold o) s = .next s := by
  rw [exec_healthEvidenceHold, hv]

/-- A change is issued only by a running Nose that decides, and while none waits. -/
theorem exec_healthEvidenceHold_withheld {o : Fin 512} (h : healthWaits s o.val = true ∨ s.nose.dev.state ≠ 1 ∨ s.decides = false) :
    exec (.healthEvidenceHold o) s = .next s := by
  have withheld : (s.nose.dev.state = 1 && s.decides && !healthWaits s o.val) = false := by
    rcases h with h | h | h <;> simp [h]
  rw [exec_healthEvidenceHold, withheld]
  cases healthNext s o.val <;> rfl

theorem healthNext_suspect (hk : (s.spk o).health = 0) (hany : heldFor s o 0 1 = true) (hopen : heldFor s o 1 1 = false) :
    healthNext s o = some 1 := by
  simp [healthNext, hk, hany, hopen]

theorem healthNext_openOrShort (hk : (s.spk o).health ≤ 1) (hopen : heldFor s o 1 1 = true) :
    healthNext s o = some 2 := by
  simp [healthNext, hk, hopen]

theorem healthNext_suspectFails (hk : (s.spk o).health = 1) (h : heldFor s o 2 6 = true ∨ heldFor s o 3 1 = true) :
    healthNext s o = some 2 := by
  rcases h with h | h <;> simp [healthNext, hk, h]

/-- One FAILED or EXCLUDED stays as it is. -/
theorem healthNext_none (hk : 2 ≤ (s.spk o).health) : healthNext s o = none := by
  have past : ¬ (s.spk o).health ≤ 1 ∧ (s.spk o).health ≠ 1 ∧ (s.spk o).health ≠ 0 := by omega
  simp [healthNext, past]

end Rows

/-! Since when each condition has held (R207, R208). -/

/-- A condition's time runs from when it formed, and ends when it does. -/
def markSince (now : Nat) (m : SMap Nat) (condition : Nat) (formed : Bool) : SMap Nat :=
  if formed then (if (SMap.look m condition).isSome then m else SMap.ins m condition now) else SMap.del m condition

theorem look_markSince_same (now : Nat) (m : SMap Nat) (c : Nat) (formed : Bool) :
    SMap.look (markSince now m c formed) c = if formed then some ((SMap.look m c).getD now) else none := by
  cases formed
  · exact SMap.look_del_same m c
  · cases h : SMap.look m c with
    | none => simp [markSince, h, SMap.look_ins_same]
    | some t => simp [markSince, h]

theorem look_markSince_other (now : Nat) (m : SMap Nat) {c j : Nat} (formed : Bool) (hj : j ≠ c) :
    SMap.look (markSince now m c formed) j = SMap.look m j := by
  unfold markSince
  split
  · split
    · rfl
    · exact SMap.look_ins_other m c j now hj
  · exact SMap.look_del_other m c j hj

/-- Evidence counts from when it forms anew after a host wrote OK (R208). -/
def evidenceCounts (n : Health) (i : Nat) : Bool := n.evidence.testBit i && !n.stale.testBit i

/-- The conditions of Table 7.12: any evidence, a loudspeaker open or short, impedance high or low, impedance evidence with arrival missing. -/
def conditionFormed (n : Health) : Nat → Bool
  | 0 => evidenceCounts n 0 || evidenceCounts n 1 || evidenceCounts n 2 || evidenceCounts n 3
  | 1 => evidenceCounts n 2
  | 2 => evidenceCounts n 0 || evidenceCounts n 1
  | _ => (evidenceCounts n 0 || evidenceCounts n 1 || evidenceCounts n 2) && evidenceCounts n 3

/-- The four conditions are marked in turn. -/
theorem healthEval_since (s : State) (o : Nat) (h : Health) :
    (healthEval s o h).since = [0, 1, 2, 3].foldl (fun m c => markSince s.idx m c (conditionFormed (healthEval s o h) c)) h.since := rfl

theorem look_healthEval_since (s : State) (o : Nat) (h : Health) {c : Nat} (hc : c < 4) :
    SMap.look (healthEval s o h).since c =
      if conditionFormed (healthEval s o h) c then some ((SMap.look h.since c).getD s.idx) else none := by
  rw [healthEval_since]
  simp only [List.foldl_cons, List.foldl_nil]
  obtain rfl | rfl | rfl | rfl : c = 0 ∨ c = 1 ∨ c = 2 ∨ c = 3 := by omega
  all_goals simp [look_markSince_same, look_markSince_other]

/-! The end of learning (R206). -/

/-- The means learned become the references. -/
def learned (h : Health) : Health :=
  { h with learnFrom := none, learn := [], evidence := h.evidence ||| 0x10
           zRef := h.learn.map fun e => (e.1, (clampI 0 65535 (roundAway (100 * e.2.1 / e.2.2))).toNat) }

theorem exec_zRefLearnEnd {s : State} {o : Fin 512} {t : Nat} (ht : (s.health o.val).learnFrom = some t) :
    exec (.zRefLearnEnd o) s = if t + 60 * s.hz ≤ s.idx then .next (updHealth o.val learned s) else .next s := by
  change execZRefLearnEnd o s = _
  unfold execZRefLearnEnd
  rw [ht]
  rfl

/-! What answers and log entries leave. -/

theorem HostOnly.power {s t : State} (h : HostOnly s t) : t.power = s.power := by unfold HostOnly at h; rw [h]
theorem HostOnly.rend {s t : State} (h : HostOnly s t) : t.rend = s.rend := by unfold HostOnly at h; rw [h]
theorem HostOnly.nose {s t : State} (h : HostOnly s t) : t.nose = s.nose := by unfold HostOnly at h; rw [h]
theorem HostOnly.twin {s t : State} (h : HostOnly s t) : t.twin = s.twin := by unfold HostOnly at h; rw [h]

/-! SWEEP runs (R210 to R214). -/

section Sweep
variable {s : State} {r : SweepRun}

theorem exec_sweepExcitationStart (hs : s.nose.sweep = some r) (hx : r.exciting = false) (hv : r.void = false)
    (he : r.excite ≤ s.toCompute + 48 + 15) (hd : othersDown s r.cfg.output = true) :
    exec .sweepExcitationStart s = .next { s with nose.sweep := some { r with exciting := true } } := by
  change Host.Outcome.next (sweepExcite s) = _
  unfold sweepExcite
  rw [hs]
  simp [hx, hv, he, hd]

/-- A fold of steps that write accumulators alone. -/
theorem foldl_accs {α : Type} {f : State → α → State} (hf : ∀ s a, ∃ accs, f s a = { s with nose.accs := accs }) (l : List α)
    (s : State) : ∃ accs, l.foldl f s = { s with nose.accs := accs } := by
  induction l generalizing s with
  | nil => exact ⟨s.nose.accs, rfl⟩
  | cons a l ih =>
    obtain ⟨first, hfirst⟩ := hf s a
    obtain ⟨rest, hrest⟩ := ih (f s a)
    exact ⟨rest, by rw [List.foldl_cons, hrest, hfirst]⟩

/-- The results of a run are accumulators of the pairs (R213). -/
theorem sweepResults_accs (r : SweepRun) (s : State) : ∃ accs, sweepResults r s = { s with nose.accs := accs } := by
  refine foldl_accs (fun u e => ?_) _ s
  dsimp only
  split
  · exact ⟨u.nose.accs, rfl⟩
  · exact ⟨_, rfl⟩

/-- The Nose's state follows what is wanted, and nothing else changes. -/
theorem noseFollow_dev (s : State) : ∃ dev, noseFollow s = { s with nose.dev := dev } := by
  unfold noseFollow
  dsimp only
  split
  · exact ⟨_, rfl⟩
  · split <;> exact ⟨_, rfl⟩
  · exact ⟨_, rfl⟩

/-- The outputs that come back from a run once `r` has ended (R211). -/
def sweepComesBack (r : SweepRun) (s : State) : List (Nat × Nat × Nat) :=
  let v := s.toCompute + 48
  let on := s.nose.sweepBack.filter fun e => v < e.2.1 + e.2.2
  if r.cfg.kind = 2 then on else (r.cfg.output, v, r.cfg.fade) :: on.filter fun e => e.1 != r.cfg.output

/-- A run that completes is logged in a state in which it has ended. -/
theorem sweepFinish_complete (hs : s.nose.sweep = some r) (hv : r.void = false) :
    ∃ accs dev, sweepFinish false s = logEvent 12 2 r.master [r.cfg.output, 0]
      { s with nose.accs := accs, nose.dev := dev, nose.sweep := none, nose.sweepBack := sweepComesBack r s } := by
  obtain ⟨accs, results⟩ := sweepResults_accs r s
  unfold sweepFinish
  simp only [hs, Bool.false_eq_true, if_false, results, hv, Bool.or_false, decide_eq_true_eq]
  obtain ⟨dev, follows⟩ := noseFollow_dev { s with nose.accs := accs, nose.sweep := none, nose.sweepBack := sweepComesBack r s }
  exact ⟨accs, dev, congrArg (logEvent 12 2 r.master [r.cfg.output, 0]) follows⟩

/-- With no mode bits waiting for an event, none take effect. -/
theorem runDeferred_none {event : Nat} (h : s.power.deferred = []) : runDeferred event s = s := by
  have same : { s with power.deferred := s.power.deferred.filter fun e => e.1 != event } = s := by rw [h, List.filter_nil, ← h]
  unfold runDeferred
  rw [same, h]
  exact ite_self s

theorem exec_sweepEnd_complete (hs : s.nose.sweep = some r) (ha : r.aborting = none) (hh : sweepHeard s r ≤ s.heardTo)
    (hd : (sweepFinish false s).power.deferred = []) : exec .sweepEnd s = .next (sweepFinish false s) := by
  have complete : sweepOver s = some false := by simp [sweepOver, hs, ha, hh]
  change execSweepEnd s = _
  unfold execSweepEnd
  rw [complete]
  exact congrArg Host.Outcome.next (runDeferred_none hd)

end Sweep

/-- Settles O52: health by the row of Table 7.12 that holds, conditions by the four marks, and a run by its start and its end. -/
theorem healthAndSweeps : Obligations.HealthAndSweeps := by
  refine ⟨fun o s => ⟨fun hw hr hd => ⟨fun hk hany hopen => ?suspect, fun hk hopen => ?openOrShort, fun hk himp => ?impedance,
    fun hk hboth => ?both⟩, fun hk => ?stays, fun h => ?withheld, ?since, fun t ht hlong => ?learnt, fun t ht hshort => ?learning⟩,
    fun r s hs => ⟨fun hx hv he hd => ?excites, fun ha hv hh hd => ?ends⟩⟩
  case suspect =>
    have notOpen : heldFor s o.val 1 1 = false := Bool.eq_false_iff.2 fun h => hopen (heldFor_iff.1 h)
    exact exec_healthEvidenceHold_changes (healthNext_suspect hk (heldFor_iff.2 hany) notOpen) hw hr hd
  case openOrShort => exact exec_healthEvidenceHold_changes (healthNext_openOrShort hk (heldFor_iff.2 hopen)) hw hr hd
  case impedance => exact exec_healthEvidenceHold_changes (healthNext_suspectFails hk (.inl (heldFor_iff.2 himp))) hw hr hd
  case both => exact exec_healthEvidenceHold_changes (healthNext_suspectFails hk (.inr (heldFor_iff.2 hboth))) hw hr hd
  case stays => exact exec_healthEvidenceHold_unchanged (healthNext_none hk)
  case withheld => exact exec_healthEvidenceHold_withheld h
  case since =>
    intro n formed impedance e he
    simp only [List.mem_cons, List.not_mem_nil, or_false] at he
    rcases he with rfl | rfl | rfl | rfl <;> exact look_healthEval_since s o.val _ (by simp)
  case learnt => rw [exec_zRefLearnEnd ht, if_pos hlong]; rfl
  case learning => rw [exec_zRefLearnEnd ht, if_neg (by omega)]
  case excites => exact exec_sweepExcitationStart hs hx hv he hd
  case ends =>
    obtain ⟨accs, dev, finish⟩ := sweepFinish_complete hs hv
    have kept := logEvent_host 12 2 r.master [r.cfg.output, 0]
      { s with nose.accs := accs, nose.dev := dev, nose.sweep := none, nose.sweepBack := sweepComesBack r s }
    have ended := exec_sweepEnd_complete hs ha hh (by rw [finish, kept.power]; exact hd)
    rw [finish] at ended
    exact ⟨_, ended, congrArg Nose.sweep kept.nose, congrArg Nose.sweepBack kept.nose, kept.rend, kept.power⟩


end Sys2Proof.Machine
end

section
/-!
PROOFS. What the statements of the Nose's configuration and of the runs leave out: NOSE_CFG of a channel that the Heart rate lacks
(R12), and TWIN_WARP in DOZE (R296).
-/
namespace Sys2Proof.Machine

/-! A command at its acceptance. -/

/-- A command that is refused at acceptance changes nothing but its answer (R333, R334). -/
theorem exec_refused {i : Instr} {op : Opcode} {r : Req} {s : State} {st : Status} {body : Bytes} (hi : requestOf i = some (op, {}, r))
    (hstore : op ≠ .storeTransfer) (hproposal : op ≠ .proposalApply) (ha : admits op {} r s = true) (hd : delivered r s = true)
    (hw : waitsAs op r.payload = none) (hl : actsNow op {} r s = true)
    (hn : actNow op {} r.payload r (taken r s) = .refuse st body) : exec i s = .next (finish op r s.idx 0 st body (taken r s)) := by
  have now : ((taken r s).flag mActive && waitsOnActive op r.payload {}) = false := by
    unfold actsNow at hl
    rwa [Bool.not_eq_true'] at hl
  rw [exec_request hi, accept_admitted ha hd hstore]
  unfold waitsAs at hw
  unfold actReq
  dsimp only
  rw [if_neg (by simpa using hproposal), hw]
  simp only [now, Bool.false_eq_true, if_false, hn]
  rfl

/-- Only an active unit forwards (R283). -/
theorem forwardNow_of_not_active {op : Opcode} {h : StoreHdr} {p : Bytes} {r : Req} {s : State} (hs : s.flag mActive = false) :
    forwardNow op h p r s = s := by
  unfold forwardNow forwardCmd
  rw [if_neg (Bool.eq_false_iff.1 hs), ite_self]

/-- A command that has acted, and is not forwarded, changes no more but for its answer. -/
theorem acted_host {op : Opcode} {r : Req} {s n : State} {body : Bytes} (hf : forwardNow op {} r.payload r n = n) :
    HostOnly n (acted op r s body n) := by
  have answered := finish_host op r s.idx (appliedNow op {} r.payload s) .ok body n (by decide)
  unfold acted
  rwa [hf]

/-! NOSE_CFG of a loudspeaker's senses (R12, R205). -/

/-- A sense channel that the Heart rate lacks is refused. -/
theorem doNoseCfg_absentSense {p : Bytes} {s : State} (hp : nosePayloadOk p = true) (hk : kindOf p = 2) (hm : maskOf p ≠ 0)
    (hc : senseOk s.heartNext p = false) : doNoseCfg p s = no .badParam := by
  unfold doNoseCfg
  simp only [hp, hk, hm, hc, Bool.not_true, Bool.not_false, Bool.false_eq_true, if_false, if_true]

/-- NOSE_CFG of the senses of loudspeaker 0: voltage on channel 600, current on channel 0. -/
def farSense : Req := { master := 0, seq := 1, payload := le 4 1 ++ le 1 2 ++ zeros 3 ++ le 2 600 ++ zeros 22 }

/-- A solo unit at 192 kHz, which has 512 channels (Table 1.2), in DARK. -/
def fastUnit : State :=
  { media := { heart := 2 }
    power := { word := BitVec.ofNat 16 (2 ^ mDark) }
    boot := { up := true, postDone := true, postPass := true }
    host := { ready := true } }

/-- The unit refuses it, and its health records are as they were. -/
theorem exec_farSense : ∃ t, exec (.noseCfg farSense) fastUnit = .next t ∧ t.nose = fastUnit.nose := by
  have refused : doNoseCfg farSense.payload (taken farSense fastUnit) = no .badParam :=
    doNoseCfg_absentSense (by decide) (by decide) (by decide) (by decide)
  exact ⟨_, exec_refused rfl (by decide) (by decide) (by decide) (by decide) (by decide) (by decide) refused,
    (finish_host _ _ _ _ _ _ _ (by decide)).nose⟩

/-- The unit as the statement has it: the record of loudspeaker 0 is written. -/
def farWritten : State := updHealth 0 (fun h => h.write (maskOf farSense.payload) farSense.payload) (taken farSense fastUnit)

/-- Refutes O19: its clause on health records has them written whatever channels they name, and NOSE_CFG refuses a sense channel
that does not exist at the Heart rate (R12): `fastUnit`, at 192 kHz, refuses channel 600 of `farSense`. -/
theorem not_noseCommandsAct : ¬ Obligations.NoseCommandsAct := by
  unfold Obligations.NoseCommandsAct
  intro h
  obtain ⟨-, -, health, -⟩ := h farSense fastUnit (by decide) (by decide) (by decide)
  have claimed := health (by decide) (by decide) (by decide) (by decide)
  obtain ⟨t, refused, kept⟩ := exec_farSense
  rw [refused] at claimed
  have answered : t = acted .noseCfg farSense fastUnit [] farWritten := Host.Outcome.next.inj claimed
  have written : HostOnly farWritten t := answered ▸ acted_host (forwardNow_of_not_active (by decide))
  exact absurd (congrArg (fun n => (SMap.get {} n.health 0).vChan) (written.nose.symm.trans kept)) (by decide)

/-! TWIN_WARP in DOZE (R296, Table 12.4 note 16). -/

/-- In DOZE a warp waits until rendering resumes. -/
theorem doTwinWarp_dozing {s : State} (hw : s.twin.warp = none) (hok : warpOk s = true) (hz : s.flag mDoze = true) :
    doTwinWarp (zeros 8) s =
      .done { s with twin.retry := s.flag mStandby || s.twin.retry, twin.asked := s.flag mActive } [] := by
  have start : getU (zeros 8) 0 1 = 0 := rfl
  unfold doTwinWarp
  rw [if_neg (by decide), if_pos start]
  simp [hw, hok, hz]

theorem sendTwin_moor_twin (kind : Nat) (args : List Nat) (data : Bytes) (s : State) :
    (sendTwin kind true args data s).twin = s.twin := by
  unfold sendTwin sendMoor
  rw [if_pos rfl]
  split <;> rfl

/-- A warp that starts runs. -/
theorem startWarp_warp (s : State) : (startWarp s).twin.warp ≠ none := by
  unfold startWarp
  split <;> rw [sendTwin_moor_twin] <;> exact nofun

/-- TWIN_WARP of kind 0. -/
def warpAsked : Req := { master := 0, seq := 1, payload := zeros 8 }

/-- The active unit of a pair in DOZE, with the mooring link up; its standby is ADRIFT and runs the same firmware. -/
def dozingPair : State :=
  { power := { word := BitVec.ofNat 16 (2 ^ mDark + 2 ^ mActive + 2 ^ mDoze) }
    boot := { up := true, postDone := true, postPass := true, straps := { twin := 1 } }
    host := { ready := true }
    twin := { partnerAdrift := true, moorUp := true, partnerFw := fwRelease } }

/-- The conditions of R296 as the active unit sees them. -/
theorem warpOk_active {s : State} (hactive : s.flag mActive = true) (hstandby : s.flag mStandby = false) (hsafe : s.flag mSafe = false)
    (hdrift : s.twin.partnerAdrift = true) (hmoor : s.twin.moorUp = true) (hfw : s.twin.partnerFw = fwRelease)
    (hpartner : s.twin.partnerSafe = false) (hshallow : s.twin.partnerMode.testBit mShallow = false) : warpOk s = true := by
  simp [warpOk, hactive, hstandby, hsafe, hdrift, hmoor, hfw, hpartner, hshallow]

theorem warpOk_dozingPair : warpOk (taken warpAsked dozingPair) = true :=
  warpOk_active (by decide) (by decide) (by decide) rfl rfl rfl rfl (by decide)

/-- The unit answers OK, and no warp runs. -/
theorem exec_warpAsked : ∃ t, exec (.twinWarp warpAsked) dozingPair = .next t ∧ t.twin.warp = none := by
  have waits : doTwinWarp warpAsked.payload (taken warpAsked dozingPair) = _ :=
    doTwinWarp_dozing rfl warpOk_dozingPair (by decide)
  refine ⟨_, exec_acted rfl (by decide) (by decide) (by decide) (by decide) (by decide) (by decide) waits, ?_⟩
  rw [(acted_host rfl).twin]
  rfl

/-- Refutes O22: its clause on TWIN_WARP has the warp started at once, and in DOZE it waits until rendering resumes (Table 12.4
note 16): `dozingPair` meets the conditions of R296 and answers OK, with no warp running. -/
theorem not_runsBegin : ¬ Obligations.RunsBegin := by
  unfold Obligations.RunsBegin
  intro h
  obtain ⟨-, warp, -⟩ := h warpAsked dozingPair (by decide)
  have claimed := warp (by decide) rfl rfl warpOk_dozingPair
  obtain ⟨t, answered, idle⟩ := exec_warpAsked
  rw [answered] at claimed
  rw [Host.Outcome.next.inj claimed, (acted_host rfl).twin] at idle
  exact startWarp_warp _ idle

end Sys2Proof.Machine
end

section
/-!
PROOFS. Where a received frame goes (R217, R219 to R223, R243): counts and drops, berths, watched flows and receive rings.
-/
namespace Sys2Proof.Machine

/-! The tests that a frame meets in turn (R217, R219, R220). -/

/-- The FEC counts that a frame brings, on a port where FEC is on (Table 8.3). -/
def fecCounted (port : Nat) (f : Frame) (s : State) : State :=
  if (s.port port).cfg.fec = 0 then s else updPortStat port (fun t => { t with
    fecCorr := wrapAdd 32 t.fecCorr f.fecCorr, fecUncorr := wrapAdd 32 t.fecUncorr f.fecUncorr }) s

/-- A frame that is not damaged is counted with its bytes. -/
def frameCounted (port : Nat) (f : Frame) (s : State) : State :=
  updPortStat port (fun t => { t with rxFrames := wrapAdd 64 t.rxFrames 1, rxBytes := wrapAdd 64 t.rxBytes f.len })
    (fecCounted port f s)

/-- A frame whose FCS or length is wrong (R217). -/
def damaged (q : Port) (f : Frame) : Bool := !f.fcsOk || f.len < 64 || f.len > frameLimit q.cfg f.tci.isSome

/-- The media pass admits the frame's group (R220). -/
def mediaPassed (port : Nat) (q : Port) (f : Frame) : Bool := port < 2 && q.filter.flags.testBit 0 && inMediaPass f.da

/-- The frame's destination address is admitted (R220). -/
def addressAdmitted (port : Nat) (q : Port) (f : Frame) : Bool :=
  if isBroadcast f.da then q.cfg.bcast else if isGroup f.da then mediaPassed port q f || q.filter.has port f.da
  else q.filter.has port f.da

/-- The frame's group is admitted by the media pass alone (R220). -/
def passedOnly (port : Nat) (q : Port) (f : Frame) : Bool :=
  isGroup f.da && !isBroadcast f.da && mediaPassed port q f && !q.filter.has port f.da

/-- The UDP packet that a frame carries whole. -/
def wholeUdp (f : Frame) : Option Ipv4 := match f.ip with | some ip => if ip.udp && !ip.frag then some ip else none | none => none

/-- The berth that takes a frame, with the packet it takes (R226). -/
def berthOf (s : State) (port : Nat) (f : Frame) : Option (Nat × Ipv4) :=
  match wholeUdp f with
  | some ip => if port < 2 then (matchBerth s port f ip).map fun b => (b, ip) else none
  | none => none

/-- The frame is of a flow that a standby watches (R302). -/
def watchedFrame (s : State) (port : Nat) (f : Frame) : Bool :=
  match wholeUdp f with | some ip => watchedFlow s port ip | none => false

/-- A frame goes to its receive ring; of ring 0, an IGMP query is answered (R221, R244). -/
def toRing (port : Nat) (f : Frame) (s : State) : State :=
  let ring := ringOf s port f
  let whole := ringNeed f ≤ ringRoom s port ring
  let s := ringFrame port ring f (if ring = 3 && port < 2 then some (s.rxStamp port f.time).toNat else none) s
  match f.ip with | some ip => if ring = 0 && whole then answerQuery port ip s else s | none => s

/-- A frame that its address admits goes to its berth, is watched, is dropped, or goes to its ring (R219). -/
def deliverFrame (port : Nat) (only : Bool) (f : Frame) (s : State) : State :=
  match berthOf s port f with
  | some (b, ip) =>
    match SMap.look s.net.rx b with
    | some x => if x.cfg.format < 2 then receiveRtp port b f ip s else receivePgx port b f ip s
    | none => s
  | none =>
    if watchedFrame s port f then watchPacket s
    else if only then updPortStat port (fun t => { t with rxMcast := wrapAdd 32 t.rxMcast 1 }) s
    else toRing port f s

theorem isGroup_of_isBroadcast {da : Nat} (h : isBroadcast da = true) : isGroup da = true := by
  rw [of_decide_eq_true h]
  decide

/-- The counts of FEC leave the port heard. -/
theorem portDeaf_fecCounted (p port : Nat) (f : Frame) (s : State) : portDeaf (fecCounted port f s) p = portDeaf s p := by
  unfold fecCounted
  split <;> rfl

/-- The three drops by address are one test. -/
theorem droppedBy_address {α : Type} (port : Nat) (q : Port) (f : Frame) (drop keep : α) :
    (if !isGroup f.da && !q.filter.has port f.da then drop
      else if isGroup f.da && !isBroadcast f.da && !mediaPassed port q f && !q.filter.has port f.da then drop
      else if isBroadcast f.da && !q.cfg.bcast then drop else keep) = if addressAdmitted port q f then keep else drop := by
  unfold addressAdmitted
  rcases hb : isBroadcast f.da with - | -
  · rcases isGroup f.da with - | -
    · cases q.filter.has port f.da <;> rfl
    · cases mediaPassed port q f <;> cases q.filter.has port f.da <;> rfl
  · rw [isGroup_of_isBroadcast hb]
    cases q.cfg.bcast <;> rfl

/-- FRAME_RECEIVE on a port that is heard, test by test (R219). -/
theorem exec_frameReceive {port : Fin 3} {f : Frame} {s : State} (hd : portDeaf s port.val = false) :
    exec (.frameReceive port f) s = .next (
      if damaged (s.port port.val) f then
        updPortStat port.val (fun t => { t with rxBad := wrapAdd 32 t.rxBad 1 }) (fecCounted port.val f s)
      else if f.etype = 0x8808 then
        updPortStat port.val (fun t => { t with rxPause := wrapAdd 32 t.rxPause 1 }) (frameCounted port.val f s)
      else if addressAdmitted port.val (s.port port.val) f then
        deliverFrame port.val (passedOnly port.val (s.port port.val) f) f (frameCounted port.val f s)
      else updPortStat port.val (fun t => { t with rxDaDrop := wrapAdd 32 t.rxDaDrop 1 }) (frameCounted port.val f s)) := by
  refine congrArg Host.Outcome.next ?_
  rw [← droppedBy_address]
  have heard := (portDeaf_fecCounted port.val port.val f s).trans hd
  unfold receiveFrame
  simp only [hd, Bool.false_or, decide_eq_true_eq]
  change (if portDeaf (fecCounted port.val f s) port.val = true then _ else _) = _
  rw [heard, if_neg (by decide)]
  rfl

section Tests
variable {port : Nat} {q : Port} {f : Frame}

theorem damaged_iff : damaged q f = true ↔ f.fcsOk = false ∨ f.len < 64 ∨ frameLimit q.cfg f.tci.isSome < f.len := by
  unfold damaged
  rw [Bool.or_eq_true, Bool.or_eq_true, Bool.not_eq_true', decide_eq_true_eq, decide_eq_true_eq, or_assoc]

/-- A frame that is neither damaged nor MAC control (R217). -/
def intact (q : Port) (f : Frame) : Prop :=
  f.fcsOk = true ∧ 64 ≤ f.len ∧ f.len ≤ frameLimit q.cfg f.tci.isSome ∧ f.etype ≠ 0x8808

theorem damaged_eq_false (hfcs : f.fcsOk = true) (hmin : 64 ≤ f.len) (hmax : f.len ≤ frameLimit q.cfg f.tci.isSome) :
    damaged q f = false := by
  refine Bool.eq_false_iff.2 fun h => ?_
  rcases damaged_iff.1 h with bad | short | long
  · rw [hfcs] at bad
    exact Bool.noConfusion bad
  · omega
  · omega

theorem mediaPassed_iff : mediaPassed port q f = true ↔ port < 2 ∧ q.filter.flags.testBit 0 = true ∧ inMediaPass f.da = true := by
  unfold mediaPassed
  rw [Bool.and_eq_true, Bool.and_eq_true, decide_eq_true_eq, and_assoc]

/-- A destination address is this unit's, the broadcast address, or a group's (R220). -/
theorem addressAdmitted_iff : addressAdmitted port q f = true ↔
    isGroup f.da = false ∧ q.filter.has port f.da = true ∨
    isGroup f.da = true ∧ f.da = 0xFFFFFFFFFFFF ∧ q.cfg.bcast = true ∨
    isGroup f.da = true ∧ ¬ f.da = 0xFFFFFFFFFFFF ∧ (mediaPassed port q f = true ∨ q.filter.has port f.da = true) := by
  unfold addressAdmitted
  by_cases hb : f.da = 0xFFFFFFFFFFFF
  · have broadcast : isBroadcast f.da = true := decide_eq_true hb
    have group := isGroup_of_isBroadcast broadcast
    simp [broadcast, group, eq_true hb]
  · have narrower : isBroadcast f.da = false := decide_eq_false hb
    rcases isGroup f.da with - | - <;> simp [narrower, hb]

/-- A group that is admitted without being in the filter is admitted by the media pass alone. -/
theorem passedOnly_iff (ha : addressAdmitted port q f = true) : passedOnly port q f = true ↔
    isGroup f.da = true ∧ ¬ f.da = 0xFFFFFFFFFFFF ∧ ¬ q.filter.has port f.da = true := by
  rw [addressAdmitted_iff] at ha
  unfold passedOnly isBroadcast
  simp only [Bool.and_eq_true, Bool.not_eq_true', decide_eq_false_iff_not, Bool.not_eq_true]
  constructor
  · rintro ⟨⟨⟨group, narrower⟩, -⟩, unlisted⟩
    exact ⟨group, narrower, unlisted⟩
  · rintro ⟨group, narrower, unlisted⟩
    simp only [group, narrower, unlisted, Bool.true_eq_false, Bool.false_eq_true, false_and, and_false, or_false, false_or,
      not_false_eq_true, true_and] at ha
    exact ⟨⟨⟨group, narrower⟩, ha⟩, unlisted⟩

theorem wholeUdp_iff {ip : Ipv4} : wholeUdp f = some ip ↔ f.ip = some ip ∧ ip.udp = true ∧ ip.frag = false := by
  unfold wholeUdp
  rcases f.ip with - | i
  · exact ⟨nofun, nofun⟩
  · dsimp only
    rw [Option.ite_none_right_eq_some, Bool.and_eq_true, Bool.not_eq_true', Option.some_inj]
    exact ⟨fun ⟨h, e⟩ => ⟨e, e ▸ h⟩, fun ⟨e, h⟩ => ⟨e ▸ h, e⟩⟩

end Tests

/-! Where an admitted frame goes (R219, R221, R222, R302). -/

section Delivery
variable {port : Nat} {f : Frame} {only : Bool} {s : State}

theorem deliverFrame_berth {ip : Ipv4} {b : Nat} {x : RxBerth} (hw : wholeUdp f = some ip) (hp : port < 2)
    (hm : matchBerth s port f ip = some b) (hx : SMap.look s.net.rx b = some x) :
    deliverFrame port only f s = if x.cfg.format < 2 then receiveRtp port b f ip s else receivePgx port b f ip s := by
  have berth : berthOf s port f = some (b, ip) := by
    unfold berthOf
    rw [hw]
    dsimp only
    rw [if_pos hp, hm]
    rfl
  unfold deliverFrame
  rw [berth]
  dsimp only
  rw [hx]

/-- The frame is for no berth, and of no flow that is watched. -/
structure Unclaimed (s : State) (port : Nat) (f : Frame) : Prop where
  noBerth : ∀ ip, wholeUdp f = some ip → port < 2 → matchBerth s port f ip = none
  unwatched : ∀ ip, wholeUdp f = some ip → watchedFlow s port ip = false

theorem berthOf_unclaimed (h : Unclaimed s port f) : berthOf s port f = none := by
  unfold berthOf
  rcases hw : wholeUdp f with - | ip
  · rfl
  · refine ite_eq_right_iff.2 fun hp => ?_
    rw [h.noBerth ip hw hp]
    rfl

theorem watchedFrame_unclaimed (h : Unclaimed s port f) : watchedFrame s port f = false := by
  unfold watchedFrame
  rcases hw : wholeUdp f with - | ip
  · rfl
  · exact h.unwatched ip hw

theorem deliverFrame_unclaimed (h : Unclaimed s port f) :
    deliverFrame port only f s =
      if only then updPortStat port (fun t => { t with rxMcast := wrapAdd 32 t.rxMcast 1 }) s else toRing port f s := by
  unfold deliverFrame
  rw [berthOf_unclaimed h, watchedFrame_unclaimed h]
  rfl

/-- A frame of another ring than ring 0, or without IPv4, asks for no answer. -/
theorem toRing_unanswered (h : ringOf s port f ≠ 0 ∨ f.ip = none) :
    toRing port f s = ringFrame port (ringOf s port f) f
      (if ringOf s port f = 3 ∧ port < 2 then some (s.rxStamp port f.time).toNat else none) s := by
  unfold toRing
  simp only [Bool.and_eq_true, decide_eq_true_eq]
  rcases hip : f.ip with - | ip
  · rfl
  · have other : ringOf s port f ≠ 0 := h.resolve_right (by simp [hip])
    simp [other]

/-- A frame of ring 0 that its ring takes whole may be an IGMP query (R221). -/
theorem toRing_zero {ip : Ipv4} (hr : ringOf s port f = 0) (hip : f.ip = some ip) :
    toRing port f s =
      if ringNeed f ≤ ringRoom s port 0 then answerQuery port ip (ringFrame port 0 f none s) else ringFrame port 0 f none s := by
  unfold toRing
  simp [hr, hip]

/-! The receive rings (R243, Table 8.4). -/

theorem ringOf_ptpType (h : f.etype = 0x88F7) : ringOf s port f = 3 := by
  unfold ringOf
  simp [h]

theorem ringOf_noIp (h : f.etype ≠ 0x88F7) (hip : f.ip = none) : ringOf s port f = 0 := by
  unfold ringOf
  simp [h, hip]

/-- The ring of a whole UDP packet, by its ports and by whether it is the port's own. -/
theorem ringOf_udp {ip : Ipv4} (h : f.etype ≠ 0x88F7) (hw : wholeUdp f = some ip) :
    ringOf s port f =
      if ip.dport = 319 ∨ ip.dport = 320 then 3
      else if ip.dst = (s.port port).cfg.ipv4 ∧ (s.port port).cfg.ipv4 ≠ 0 then
        if ip.dport = 4470 ∨ ip.dport = 4471 then 2 else 1
      else 0 := by
  obtain ⟨hip, hudp, hfrag⟩ := wholeUdp_iff.1 hw
  unfold ringOf
  simp only [hip, hudp, hfrag]
  by_cases ptp : ip.dport = 319 ∨ ip.dport = 320
  · simp [h, ptp]
  by_cases own : ip.dst = (s.port port).cfg.ipv4 ∧ (s.port port).cfg.ipv4 ≠ 0
  · simp [h, ptp, own]
  · simp [h, ptp, own]

end Delivery

/-- The counts of a frame leave its port's record. -/
theorem frameCounted_cfg (port : Nat) (f : Frame) (s : State) : ((frameCounted port f s).port port).cfg = (s.port port).cfg := by
  unfold frameCounted fecCounted updPortStat
  split <;> simp only [updPort_same]

/-- FRAME_RECEIVE of a frame that is neither damaged nor MAC control goes by its address. -/
theorem exec_frameReceive_intact {port : Fin 3} {f : Frame} {s : State} (hd : portDeaf s port.val = false)
    (hg : intact (s.port port.val) f) :
    exec (.frameReceive port f) s = .next (if addressAdmitted port.val (s.port port.val) f then
        deliverFrame port.val (passedOnly port.val (s.port port.val) f) f (frameCounted port.val f s)
      else updPortStat port.val (fun t => { t with rxDaDrop := wrapAdd 32 t.rxDaDrop 1 }) (frameCounted port.val f s)) := by
  obtain ⟨hfcs, hmin, hmax, he⟩ := hg
  rw [exec_frameReceive hd, damaged_eq_false hfcs hmin hmax, if_neg (by decide), if_neg he]

section Sorting
variable {port : Fin 3} {f : Frame} {s : State}

/-- A frame for which no berth and no watched flow is found. -/
theorem unclaimed_of_none (hb : ∀ ip, ¬ ((f.ip = some ip ∧ ip.udp = true ∧ ip.frag = false) ∧ port.val < 2 ∧
      (matchBerth s port.val f ip).isSome = true))
    (hw : ∀ ip, ¬ ((f.ip = some ip ∧ ip.udp = true ∧ ip.frag = false) ∧ watchedFlow s port.val ip = true)) :
    Unclaimed s port.val f where
  noBerth ip h hp := Option.not_isSome_iff_eq_none.1 fun hm => hb ip ⟨wholeUdp_iff.1 h, hp, hm⟩
  unwatched ip h := Bool.eq_false_iff.2 fun hm => hw ip ⟨wholeUdp_iff.1 h, hm⟩

variable (hd : portDeaf s port.val = false) (hg : intact (s.port port.val) f)
include hd hg

theorem exec_frameReceive_dropped (ha : ¬ addressAdmitted port.val (s.port port.val) f = true) :
    exec (.frameReceive port f) s =
      .next (updPortStat port.val (fun t => { t with rxDaDrop := wrapAdd 32 t.rxDaDrop 1 }) (frameCounted port.val f s)) := by
  rw [exec_frameReceive_intact hd hg, if_neg ha]

variable (ha : addressAdmitted port.val (s.port port.val) f = true)
include ha

theorem exec_frameReceive_berth {ip : Ipv4} {b : Nat} {x : RxBerth} (hw : wholeUdp f = some ip) (hp : port.val < 2)
    (hm : matchBerth (frameCounted port.val f s) port.val f ip = some b)
    (hx : SMap.look (frameCounted port.val f s).net.rx b = some x) :
    exec (.frameReceive port f) s = .next (if x.cfg.format < 2 then receiveRtp port.val b f ip (frameCounted port.val f s)
      else receivePgx port.val b f ip (frameCounted port.val f s)) := by
  rw [exec_frameReceive_intact hd hg, if_pos ha, deliverFrame_berth hw hp hm hx]

variable (hu : Unclaimed (frameCounted port.val f s) port.val f)
include hu

theorem exec_frameReceive_passedOnly (ho : passedOnly port.val (s.port port.val) f = true) :
    exec (.frameReceive port f) s =
      .next (updPortStat port.val (fun t => { t with rxMcast := wrapAdd 32 t.rxMcast 1 }) (frameCounted port.val f s)) := by
  rw [exec_frameReceive_intact hd hg, if_pos ha, deliverFrame_unclaimed hu, if_pos ho]

theorem exec_frameReceive_toRing (ho : ¬ passedOnly port.val (s.port port.val) f = true) :
    exec (.frameReceive port f) s = .next (toRing port.val f (frameCounted port.val f s)) := by
  rw [exec_frameReceive_intact hd hg, if_pos ha, deliverFrame_unclaimed hu, if_neg ho]

end Sorting

/-- Settles O38: the tests of R219 in their order; an admitted frame by whether a berth or a watched flow claims it. -/
theorem framesAreSorted : Obligations.FramesAreSorted := by
  intro port f s hd
  have admitted := addressAdmitted_iff (port := port.val) (q := s.port port.val) (f := f)
  rw [mediaPassed_iff] at admitted
  have cfg := frameCounted_cfg port.val f s
  refine ⟨fun h => ?damaged, fun hfcs hmin hmax h => ?pause, fun hg ha => ?dropped, fun ip b x hg ha hw hp hm hx => ?berth,
    fun hg ha hb hw ho hp => ?passedOnly, fun ring hg ha hb hw ho hr hz => ?ring, fun ip hg ha hb hw ho hr hip => ?ringZero,
    ringOf_ptpType, fun ip he hw => ?udp, ringOf_noIp⟩
  case damaged => rw [exec_frameReceive hd, if_pos (damaged_iff.2 h)]; rfl
  case pause => rw [exec_frameReceive hd, damaged_eq_false hfcs hmin hmax, if_neg (by decide), if_pos h]; rfl
  case dropped => exact exec_frameReceive_dropped hd hg (mt admitted.1 ha)
  case berth =>
    have taken := exec_frameReceive_berth hd hg (admitted.2 ha) (wholeUdp_iff.2 hw) hp hm hx
    refine ⟨fun hf => ?rtp, fun hf => ?pgx⟩
    case rtp => rw [taken, if_pos hf]; rfl
    case pgx => rw [taken, if_neg (Nat.not_lt.2 hf)]; rfl
  case passedOnly =>
    exact exec_frameReceive_passedOnly hd hg (admitted.2 ha) (unclaimed_of_none hb hw) ((passedOnly_iff (admitted.2 ha)).2 ho)
  case ring =>
    have sorted := exec_frameReceive_toRing hd hg (admitted.2 ha) (unclaimed_of_none hb hw) (mt (passedOnly_iff (admitted.2 ha)).1 ho)
    subst hr
    exact sorted.trans (congrArg Host.Outcome.next (toRing_unanswered hz))
  case ringZero =>
    have sorted := exec_frameReceive_toRing hd hg (admitted.2 ha) (unclaimed_of_none hb hw) (mt (passedOnly_iff (admitted.2 ha)).1 ho)
    exact sorted.trans (congrArg Host.Outcome.next (toRing_zero hr hip))
  case udp =>
    have ring := ringOf_udp (s := frameCounted port.val f s) (port := port.val) he (wholeUdp_iff.2 hw)
    rw [cfg] at ring
    refine ⟨fun ptp => ?ptp, fun hown hdst efvex => ?efvex, fun hown hdst h1 h2 h3 h4 => ?own, fun hdst h1 h2 => ?others⟩
    case ptp => exact ring.trans (if_pos ptp)
    case efvex => exact ring.trans (by rw [if_neg (by omega), if_pos ⟨hdst, hown⟩, if_pos efvex])
    case own => exact ring.trans (by rw [if_neg (by omega), if_pos ⟨hdst, hown⟩, if_neg (by omega)])
    case others => exact ring.trans (by rw [if_neg (by omega), if_neg fun h => hdst h.1])

end Sys2Proof.Machine
end

section
/-!
PROOFS. Sends that join a transmit ring and are taken up by the MAC (R243 to R247), and frames that leave their queue (R240, R256).
-/
namespace Sys2Proof.Machine

/-! An element of a list that is changed at its place. -/

theorem setAt_eq_modify {α : Type} (l : List α) (i : Nat) (f : α → α) : setAt l i f = l.modify i f := by
  refine List.ext_getElem? fun n => ?_
  simp only [setAt, List.getElem?_map, List.getElem?_zipIdx, List.getElem?_modify, Nat.zero_add]
  rcases l[n]? with - | a
  · rfl
  · simp [eq_comm]

theorem setAt_setAt {α : Type} (l : List α) (i : Nat) (f g : α → α) :
    setAt (setAt l i f) i g = setAt l i fun a => g (f a) := by
  simp only [setAt_eq_modify, List.modify_modify_eq, Function.comp_def]

theorem getD_setAt_same {α : Type} {l : List α} {i : Nat} (f : α → α) (d : α) (h : i < l.length) :
    (setAt l i f).getD i d = f (l.getD i d) := by
  simp [setAt_eq_modify, List.getD_eq_getElem?_getD, h]

theorem getD_setAt_other {α : Type} {l : List α} {i j : Nat} (f : α → α) (d : α) (h : j ≠ i) :
    (setAt l i f).getD j d = l.getD j d := by
  simp [setAt_eq_modify, List.getD_eq_getElem?_getD, h.symm]

/-- Changes that agree on the element at the place agree. -/
theorem setAt_congr {α : Type} {l : List α} {i : Nat} {f g : α → α} (d : α) (h : f (l.getD i d) = g (l.getD i d)) :
    setAt l i f = setAt l i g := by
  refine List.ext_getElem? fun n => ?_
  simp only [setAt_eq_modify, List.getElem?_modify]
  by_cases hn : i = n
  · subst hn
    rw [List.getD_eq_getElem?_getD] at h
    cases hl : l[i]? with
    | none => rfl
    | some a => simpa [hl] using h
  · simp [hn]

/-- Changes that agree on the port as it stands agree. -/
theorem updPort_congr {p : Nat} {f g : Port → Port} {s : State} (h : f (s.port p) = g (s.port p)) : updPort p f s = updPort p g s :=
  congrArg (fun q => { s with net.ports := SMap.put {} s.net.ports p q }) h

/-! What the MAC takes up (R243, R245 to R247). -/

/-- A ring in which a send is written again, under its number. -/
def rewrites (u : TxSend) (r : TxRing) : TxRing := { r with ring := r.ring.map fun v => if v.id = u.id then u else v }

/-- A port with such a ring. -/
def rewriteSend (ring : Nat) (u : TxSend) (q : Port) : Port := { q with tx := setAt q.tx ring (rewrites u) }

/-- A send whose frames have joined their queue. -/
def queuedSend (frames : Nat) (t : TxSend) : TxSend := { t with taken := true, left := frames }

/-- A send that the MAC refuses: done and error are written back on every descriptor (R245, R246). -/
def refusedSend (t : TxSend) : TxSend :=
  { t with taken := true, descs := t.descs.map fun d => { d with owned := false, done := true, error := true } }

theorem queuedSend_id (frames : Nat) (t : TxSend) : (queuedSend frames t).id = t.id := rfl
theorem refusedSend_id (t : TxSend) : (refusedSend t).id = t.id := rfl

/-- A port that counts a malformed chain. -/
def countLsoErr (q : Port) : Port := { q with stat := { q.stat with lsoErr := wrapAdd 32 q.stat.lsoErr 1 } }

section Taking
variable {q : Port} {ring : Nat}

theorem takeSend_wellFormed {t : TxSend} {fs : List Bytes} (h : chainFrames q.cfg t.descs = some fs) :
    takeSend ring t q = { rewriteSend ring (queuedSend fs.length t) q with
      queued := q.queued ++ sendFrames q.cfg ring t.id t.descs fs } := by
  unfold takeSend
  rw [h]
  rfl

theorem takeSend_malformed {t : TxSend} (h : chainFrames q.cfg t.descs = none) :
    takeSend ring t q = countLsoErr (rewriteSend ring (refusedSend t) q) := by
  unfold takeSend
  rw [h]
  rfl

theorem takeSend_tx (t : TxSend) : ∃ f, (takeSend ring t q).tx = setAt q.tx ring f := by
  rcases hc : chainFrames q.cfg t.descs with - | fs
  · exact ⟨_, congrArg Port.tx (takeSend_malformed hc)⟩
  · exact ⟨_, congrArg Port.tx (takeSend_wellFormed hc)⟩

/-- Taking up a send changes no other ring. -/
theorem takeSend_otherRing (t : TxSend) {i : Nat} (h : i ≠ ring) : (takeSend ring t q).tx.getD i {} = q.tx.getD i {} := by
  obtain ⟨f, hf⟩ := takeSend_tx (q := q) (ring := ring) t
  rw [hf, getD_setAt_other _ _ h]

/-- The sends of one ring that the MAC has not taken up are taken up, if the ring is enabled. -/
def takeRing (q : Port) (ring : Nat) : Port :=
  let r := q.tx.getD ring {}
  if r.enabled then (r.ring.filter fun t => !t.taken).foldl (fun q t => takeSend ring t q) q else q

theorem takeSends_eq (q : Port) : takeSends q = (List.range 6).foldl takeRing q := rfl

/-- Every send of a ring has been taken up. -/
def ringTaken (q : Port) (ring : Nat) : Prop := ∀ t ∈ (q.tx.getD ring {}).ring, t.taken = true

theorem ringTaken_of_all (h : ∀ x ∈ q.tx, ∀ t ∈ x.ring, t.taken = true) (ring : Nat) : ringTaken q ring := by
  unfold ringTaken
  rw [List.getD_eq_getElem?_getD]
  rcases hl : q.tx[ring]? with - | x
  · exact nofun
  · exact h x (List.mem_of_getElem? hl)

/-- No send of the list waits to be taken up. -/
theorem untaken_eq_nil {l : List TxSend} (h : ∀ t ∈ l, t.taken = true) : (l.filter fun t => !t.taken) = [] :=
  List.filter_eq_nil_iff.2 fun t ht => by rw [h t ht]; decide

theorem takeRing_taken (h : ringTaken q ring) : takeRing q ring = q := by
  unfold takeRing
  dsimp only
  rw [untaken_eq_nil h, List.foldl_nil, ite_self]

theorem takeRing_disabled (h : (q.tx.getD ring {}).enabled = false) : takeRing q ring = q :=
  if_neg (Bool.eq_false_iff.1 h)

theorem takeRing_otherRing {i : Nat} (h : i ≠ ring) : (takeRing q ring).tx.getD i {} = q.tx.getD i {} := by
  unfold takeRing
  dsimp only
  split
  · exact List.foldlRecOn (motive := fun u : Port => u.tx.getD i {} = q.tx.getD i {}) _ _ rfl
      fun u hu t _ => (takeSend_otherRing t h).trans hu
  · rfl

theorem foldl_takeRing_taken {l : List Nat} (h : ∀ i ∈ l, ringTaken q i) : l.foldl takeRing q = q :=
  List.foldlRecOn (motive := (· = q)) l takeRing rfl fun _ hu i hi => by rw [hu, takeRing_taken (h i hi)]

/-- With no send of the others waiting, the MAC takes up those of one ring. -/
theorem takeSends_oneRing (hr : ring < 6) (h : ∀ i, i ≠ ring → ringTaken q i) :
    takeSends q = takeRing q ring := by
  obtain ⟨before, after, hsplit⟩ := List.append_of_mem (List.mem_range.2 hr)
  have distinct : (before ++ ring :: after).Nodup := hsplit ▸ List.nodup_range
  rw [List.nodup_append, List.nodup_cons] at distinct
  obtain ⟨-, ⟨notAfter, -⟩, apart⟩ := distinct
  have othersBefore : ∀ i ∈ before, ringTaken q i := fun i hi => h i (apart i hi ring List.mem_cons_self)
  have othersAfter : ∀ i ∈ after, ringTaken (takeRing q ring) i := fun i hi => by
    have other : i ≠ ring := fun he => notAfter (he ▸ hi)
    unfold ringTaken
    rw [takeRing_otherRing other]
    exact h i other
  rw [takeSends_eq, hsplit, List.foldl_append, List.foldl_cons, foldl_takeRing_taken othersBefore, foldl_takeRing_taken othersAfter]

end Taking

/-! A send that joins a ring whose others have been taken up (R243, R245, R247). -/

/-- A ring that makes room for a send and takes it in. -/
def joins (n : Nat) (t : TxSend) (r : TxRing) : TxRing := { r with sends := r.sends + 1, ring := makeRoom n r.ring ++ [t] }

/-- A port with such a ring. -/
def joinRing (ring n : Nat) (t : TxSend) (q : Port) : Port := { q with tx := setAt q.tx ring (joins n t) }

theorem joinRing_tx (ring n : Nat) (t : TxSend) (q : Port) : (joinRing ring n t q).tx = setAt q.tx ring (joins n t) := rfl

theorem mem_of_mem_makeRoom {n : Nat} {t : TxSend} {l : List TxSend} (h : t ∈ makeRoom n l) : t ∈ l := by
  induction l with
  | nil => exact h
  | cons u r ih =>
    unfold makeRoom at h
    dsimp only at h
    split at h
    · exact h
    · split at h
      · exact List.mem_cons_of_mem _ (ih h)
      · exact (List.mem_cons.1 h).elim (fun he => he ▸ List.mem_cons_self) fun hr => List.mem_cons_of_mem _ (ih hr)

section Joining
variable {q : Port} {ring n : Nat} {t : TxSend}

theorem joinRing_sameRing (hl : ring < q.tx.length) :
    (joinRing ring n t q).tx.getD ring {} = joins n t (q.tx.getD ring {}) := by
  rw [joinRing_tx, getD_setAt_same _ _ hl]

/-- A send written again as soon as it has joined is the one that joined. -/
theorem rewriteSend_joinRing {u : TxSend} (hu : u.id = t.id) (hid : ∀ v ∈ (q.tx.getD ring {}).ring, v.id ≠ t.id) :
    rewriteSend ring u (joinRing ring n t q) = joinRing ring n u q := by
  have kept : (makeRoom n (q.tx.getD ring {}).ring).map (fun v => if v.id = t.id then u else v) =
      makeRoom n (q.tx.getD ring {}).ring :=
    (List.map_congr_left fun v hv => if_neg (hid v (mem_of_mem_makeRoom hv))).trans (List.map_id _)
  have same : rewrites u (joins n t (q.tx.getD ring {})) = joins n u (q.tx.getD ring {}) := by
    simp only [rewrites, joins, List.map_append, kept, List.map_cons, List.map_nil, hu, if_true]
  have tx : (rewriteSend ring u (joinRing ring n t q)).tx = (joinRing ring n u q).tx :=
    (setAt_setAt q.tx ring (joins n t) (rewrites u)).trans (setAt_congr {} same)
  exact congrArg (fun tx => { q with tx := tx }) tx

section Taken
variable (hr : ring < 6) (hl : ring < q.tx.length) (ht : ∀ x ∈ q.tx, ∀ u ∈ x.ring, u.taken = true)
include ht

theorem joinRing_othersTaken (i : Nat) (hi : i ≠ ring) : ringTaken (joinRing ring n t q) i := by
  unfold ringTaken
  rw [joinRing_tx, getD_setAt_other _ _ hi]
  exact ringTaken_of_all ht i

include hr hl

/-- On a disabled ring it stays owned by the MAC (R247). -/
theorem takeSends_joinRing_disabled (he : (q.tx.getD ring {}).enabled = false) :
    takeSends (joinRing ring n t q) = joinRing ring n t q := by
  rw [takeSends_oneRing hr (joinRing_othersTaken ht)]
  exact takeRing_disabled (by rw [joinRing_sameRing hl]; exact he)

/-- On an enabled ring the MAC takes it up. -/
theorem takeSends_joinRing_enabled (he : (q.tx.getD ring {}).enabled = true) (hn : t.taken = false) :
    takeSends (joinRing ring n t q) = takeSend ring t (joinRing ring n t q) := by
  have old := untaken_eq_nil fun u hu => ringTaken_of_all ht ring u (mem_of_mem_makeRoom (n := n) hu)
  rw [takeSends_oneRing hr (joinRing_othersTaken ht)]
  unfold takeRing
  dsimp only
  rw [joinRing_sameRing hl, if_pos (show (joins n t _).enabled = true from he)]
  simp only [joins, List.filter_append, old, hn, List.nil_append, List.filter_cons, Bool.not_false, if_true, List.filter_nil,
    List.foldl_cons, List.foldl_nil]

/-- One that is well formed has its frames queued (R245). -/
theorem takeSends_joinRing_wellFormed (he : (q.tx.getD ring {}).enabled = true) (hn : t.taken = false)
    (hid : ∀ v ∈ (q.tx.getD ring {}).ring, v.id ≠ t.id) {fs : List Bytes} (hf : chainFrames q.cfg t.descs = some fs) :
    takeSends (joinRing ring n t q) = { joinRing ring n (queuedSend fs.length t) q with
      queued := q.queued ++ sendFrames q.cfg ring t.id t.descs fs } := by
  rw [takeSends_joinRing_enabled hr hl ht he hn, takeSend_wellFormed (q := joinRing ring n t q) hf,
    rewriteSend_joinRing (queuedSend_id ..) hid]
  rfl

/-- One that is malformed is counted and written back (R246). -/
theorem takeSends_joinRing_malformed (he : (q.tx.getD ring {}).enabled = true) (hn : t.taken = false)
    (hid : ∀ v ∈ (q.tx.getD ring {}).ring, v.id ≠ t.id) (hf : chainFrames q.cfg t.descs = none) :
    takeSends (joinRing ring n t q) = countLsoErr (joinRing ring n (refusedSend t) q) := by
  rw [takeSends_joinRing_enabled hr hl ht he hn, takeSend_malformed (q := joinRing ring n t q) hf,
    rewriteSend_joinRing (refusedSend_id ..) hid]

end Taken
end Joining

/-! TX_DESCRIPTOR_SEND. -/

/-- The send that a chain makes: its descriptors are the MAC's. -/
def sendOf (id : Nat) (chain : List TxDesc) : TxSend :=
  { id := id, descs := chain.map fun d => { d with owned := true, done := false, error := false } }

/-- A chain that the ring has room for joins it, and the MAC takes up what it may (R243). -/
theorem exec_txDescriptorSend {port : Fin 3} {ring : Fin 6} {chain : List TxDesc} {s : State} (hc : chain ≠ [])
    (hb : ringBusy ((s.port port.val).tx.getD ring.val {}) + chain.length ≤ 256) :
    exec (.txDescriptorSend port ring chain) s = .next (updPort port.val (fun q =>
      takeSends (joinRing ring.val chain.length (sendOf ((s.port port.val).tx.getD ring.val {}).sends chain) q)) s) := by
  have room : ¬ (chain.isEmpty || decide (256 < ringBusy ((s.port port.val).tx.getD ring.val {}) + chain.length)) = true := by
    rw [Bool.or_eq_true, decide_eq_true_eq, List.isEmpty_iff]
    exact not_or.2 ⟨hc, Nat.not_lt.2 hb⟩
  refine (congrArg Host.Outcome.next (if_neg room)).trans (congrArg Host.Outcome.next (updPort_congr ?_))
  exact congrArg (fun tx => takeSends { s.port port.val with tx := tx }) (setAt_congr {} rfl)

/-! TX_FRAME_DONE (R240, R256). -/

/-- The stamp that a frame asks for enters the timestamp queue. -/
def stampFrame (p time : Nat) (k : TxPkt) (s : State) : State :=
  match k.tag with
  | some t => if p < 2 then pushTsq p t (s.txStamp p time).toNat s else s
  | none => s

theorem pushTsq_net (p tag stamp : Nat) (s : State) : (pushTsq p tag stamp s).net = s.net := by
  unfold pushTsq
  dsimp only
  split <;> rfl

theorem stampFrame_net (p time : Nat) (k : TxPkt) (s : State) : (stampFrame p time k s).net = s.net := by
  unfold stampFrame
  split
  · split
    · exact pushTsq_net ..
    · rfl
  · rfl

theorem frameLeft_queued (k : TxPkt) (q : Port) : (frameLeft k q).queued = q.queued := by
  unfold frameLeft
  split <;> rfl

theorem frameLeft_stat (k : TxPkt) (q : Port) : (frameLeft k q).stat = q.stat := by
  unfold frameLeft
  split <;> rfl

/-- A port after a frame has left it: the frame is out of its queue, and counted with its bytes without preamble and gap. -/
structure FrameSent (k : TxPkt) (q t : Port) : Prop where
  queued : t.queued = q.queued.erase k
  frames : t.stat.txFrames = wrapAdd 64 q.stat.txFrames 1
  bytes : t.stat.txBytes = wrapAdd 64 q.stat.txBytes (k.wire - 20)

/-- The next frame of a port that is heard leaves it; no other port changes. -/
theorem sendNext_sends {p gap time : Nat} {s : State} {k : TxPkt} (hd : portDeaf s p = false)
    (hk : nextFrame (restCredit s gap (s.port p)) = some k) :
    ∃ q, FrameSent k (s.port p) q ∧ sendNext p gap time s = stampFrame p time k (send (.frame p k) (updPort p (fun _ => q) s)) := by
  unfold sendNext
  simp only [hd, Bool.false_eq_true, if_false, hk]
  exact ⟨frameLeft k _, ⟨frameLeft_queued .., by rw [frameLeft_stat]; rfl, by rw [frameLeft_stat]; rfl⟩, rfl⟩

/-- Settles O39: a send that joins is the only one that waits, so the MAC takes up it or nothing; the frame that the credits choose
leaves. -/
theorem framesAreQueuedAndSent : Obligations.FramesAreQueuedAndSent := by
  refine ⟨fun port ring chain s hl hc hb ht hid => ?send, fun port gap time s k hd hk => ?leaves⟩
  case send =>
    have joined := exec_txDescriptorSend hc hb
    refine ⟨fun he => ?disabled, fun fs he hf => ?queued, fun he hf => ?refused⟩
    all_goals refine joined.trans (congrArg Host.Outcome.next (updPort_congr ?_))
    case disabled => exact takeSends_joinRing_disabled ring.isLt hl ht he
    case queued => exact takeSends_joinRing_wellFormed ring.isLt hl ht he rfl hid hf
    case refused => exact takeSends_joinRing_malformed ring.isLt hl ht he rfl hid hf
  case leaves =>
    obtain ⟨t, sent, after⟩ := sendNext_sends (time := time) hd hk
    have port_eq : ∀ p, (sendNext port.val gap time s).port p = (updPort port.val (fun _ => t) s).port p := fun p => by
      unfold State.port
      rw [after, stampFrame_net, send_net]
    refine ⟨_, rfl, ?_, ?_, ?_, fun p hp => ?_⟩
    · rw [port_eq, updPort_same, sent.queued]
    · rw [port_eq, updPort_same, sent.frames]
    · rw [port_eq, updPort_same, sent.bytes]
    · rw [port_eq, updPort_other _ _ _ _ hp]

end Sys2Proof.Machine
end

section
/-!
PROOFS. The ends of drains, links and mooring lanes (R216, R235, R242, R247, R260, R278, R279, R296).
-/
namespace Sys2Proof.Machine

section Events
variable {s : State}

/-! The ends of drains. -/

/-- The drain of a disabled port answers its PORT_CFG (R247). -/
theorem exec_ringDisableDrainEnd {port : Fin 3} (hd : (s.port port.val).draining = true) :
    exec (.ringDisableDrainEnd port) s =
      .next (settleOwed .portCfg port.val .ok [] (updPort port.val (fun q => { q with draining := false }) s)) :=
  if_pos hd

/-- The end of a receive berth's drain frees its channels and leaves its groups (R235). -/
theorem endRxDrain_closing {b : Nat} {x : RxBerth} (hx : SMap.look s.net.rx b = some x) (hc : x.state = 2) :
    endRxDrain b s = leaveGroups (rxMembers x.cfg) (settleOwed .berthClose b .ok []
      (updRx b (fun x => { x with state := 0 }) (freeSlots x.cfg.first x.cfg.channels s))) := by
  unfold endRxDrain
  rw [hx]
  exact if_neg (not_not_intro hc)

/-- It comes once the latest sample that the berth may take has been caught (R235). -/
theorem exec_berthDrainEnd {b : Fin 256} {x : RxBerth} (hx : SMap.look s.net.rx b.val = some x)
    (ht : x.closeAt + s.media.catchL + 48 ≤ s.idx) : exec (.berthDrainEnd b) s = .next (endRxDrain b.val s) := by
  change execBerthDrainEnd b s = _
  unfold execBerthDrainEnd
  rw [hx]
  exact if_neg (Nat.not_lt.2 ht)

/-- The end of a transmit berth's drain closes it, with no packet in progress (R242). -/
theorem endTxDrain_closing {b : Nat} {x : TxBerth} (hx : SMap.look s.net.tx b = some x) (hc : x.state = 2) :
    endTxDrain b s =
      settleOwed .berthClose (512 + b) .ok [] (updTx b (fun x => { x with state := 0, part := [] }) s) := by
  unfold endTxDrain
  rw [hx]
  exact if_neg (not_not_intro hc)

/-- It comes once the berth's last block is emitted and none of its packets is queued (R242). -/
theorem exec_txBerthDrainEnd {b : Fin 128} {x : TxBerth} {e : Nat} (hx : SMap.look s.net.tx b.val = some x)
    (hq : txQueuedNow s b.val = false) (he : s.media.emitted = some e) (hl : x.closeAt + (if x.cfg.top then 16 else 0) ≤ e) :
    exec (.txBerthDrainEnd b) s = .next (endTxDrain b.val s) := by
  change execTxBerthDrainEnd b s = _
  unfold execTxBerthDrainEnd
  rw [hx]
  simp only [hq, he, Bool.false_or, decide_eq_true_eq, if_neg (Nat.not_lt.2 hl)]

/-! Links (R216, R260, R396). -/

/-- A link comes up on a port that is heard; in SAFE on the control port alone (R396). -/
theorem exec_linkUp {port : Fin 3} (hd : portDeaf s port.val = false) (hs : s.flag mSafe = false ∨ port.val = 2) :
    exec (.linkUp port) s = .next (updPort port.val (fun q => { q with stat := { q.stat with
      link := 3 + (if q.cfg.fec = 0 then 0 else 4), speedNow := q.cfg.speed } }) s) := by
  have heard : (s.flag mSafe && decide (port.val < 2)) = false := by
    rcases hs with hs | hs <;> simp [hs]
  refine if_neg ?_
  rw [hd, heard]
  decide

/-- A link that was up goes down (R260). -/
theorem exec_linkDown {port : Fin 3} (hl : (s.port port.val).stat.link % 2 = 1) :
    exec (.linkDown port) s = .next (portLost port.val 3 true (updPort port.val (fun q => { q with
      stat := { q.stat with link := 0, linkDowns := wrapAdd 32 q.stat.linkDowns 1 } }) s)) := by
  have up : ¬ (s.port port.val).stat.link % 2 = 0 := by omega
  exact congrArg Host.Outcome.next (if_neg up)

/-! Mooring lanes (R278, R279, R296). -/

/-- A lane of a pair locks; a warp that waits for the mooring link begins (R296). -/
theorem exec_mooringLaneLock {lane : Fin 2} (hp : s.isPair = true) (ha : s.alive = true) (hl : looped s (2 + lane.val) 0 = false) :
    exec (.mooringLaneLock lane) s = .next (autoWarp { s with
      twin.lanes := s.twin.lanes ||| BitVec.ofNat 2 (2 ^ lane.val), twin.moorUp := s.heartFresh }) :=
  if_neg (by simp [hp, ha, hl])

end Events

/-- Settles O40: the end of each drain by its berth's or port's state; links and lanes by what each of their events does. -/
theorem drainsLinksAndLanes : Obligations.DrainsLinksAndLanes := by
  refine ⟨fun s => ⟨fun port hd => ?ringEnd, fun b x hx hc ht => ?rxEnd, fun b x e hx hc hq he hl => ?txEnd⟩,
    fun s => ⟨fun port hd hs => ?up, fun port hl => ?down, fun lane hp ha hl => ?lock, fun lane => ?lost⟩⟩
  case ringEnd => exact exec_ringDisableDrainEnd hd
  case rxEnd => rw [exec_berthDrainEnd hx ht, endRxDrain_closing hx hc]
  case txEnd => rw [exec_txBerthDrainEnd hx hq he hl, endTxDrain_closing hx hc]
  case up => exact exec_linkUp hd hs
  case down => exact exec_linkDown hl
  case lock => exact exec_mooringLaneLock hp ha hl
  case lost => rfl

end Sys2Proof.Machine
end

section
/-!
PROOFS. The step and what every step keeps: the mode word, the ring memory, and the bounds (R271, R319, R323, R336, R344); the
state after reset.
-/
namespace Sys2Proof.Machine

/-! What each command keeps. -/

/-- A command that resets nothing keeps the queue, the ring memory's form, the mode word's legality, SAFE and the bounds. -/
theorem exec_keeps {i : Instr} (hr : isReset i = false) (s : State) : KeepsO s (exec i s) := by
  cases i with
  | doorbellReq _ => exact execDoorbellReq_keeps
  | doorbellRsp _ => exact execDoorbellRsp_keeps
  | doorbellChunk _ => exact execDoorbellChunk_keeps
  | doorbellReset _ => exact execDoorbellReset_keeps
  | ringResetDone _ => exact execRingResetDone_keeps
  | irqCauseWrite _ => exact execIrqCauseWrite_keeps
  | irqMaskWrite _ => exact execIrqMaskWrite_keeps
  | registerWrite _ _ _ => exact execRegisterWrite_keeps
  | efvexOpen _ _ _ => exact execEfvexOpen_keeps
  | efvexClose _ _ => exact execEfvexClose_keeps
  | efvexRequest _ _ _ => exact execEfvexRequest_keeps
  | efvexSegmentIn _ _ _ _ => exact execEfvexSegmentIn_keeps
  | efvexIndex _ _ _ _ => exact execEfvexIndex_keeps
  | efvexKeepalive _ _ => exact execEfvexKeepalive_keeps
  | sessionTimeout _ => exact execSessionTimeout_keeps
  | commandSettle => exact execCommandSettle_keeps
  | craneChannelStart => exact execCraneChannelStart_keeps
  | craneTransferDone _ _ => exact execCraneTransferDone_keeps
  | porstNRelease _ _ => cases hr
  | porstNAssert _ => cases hr
  | bootWatchdog _ => cases hr
  | bootLoadDone _ _ => exact execBootLoadDone_keeps
  | vkeepRise => exact execVkeepRise_keeps
  | pgoodFall _ => exact execPgoodFall_keeps
  | wakeNLow _ => exact execWakeNLow_keeps
  | wakeTimer => exact execWakeTimer_keeps
  | pciePerstN _ => exact execPciePerstN_keeps
  | fabricPortReset _ => exact execFabricPortReset_keeps
  | decodeError _ _ => exact execDecodeError_keeps
  | lockstepMismatch => exact execLockstepMismatch_keeps
  | companionLinkLost => exact execCompanionLinkLost_keeps
  | thermalSensorRead _ => exact execThermalSensorRead_keeps
  | tapInstruction _ => exact execTapInstruction_keeps
  | debugUnlock _ => exact execDebugUnlock_keeps
  | frameReceive _ _ => exact execFrameReceive_keeps
  | sceneBusUpdate => exact execSceneBusUpdate_keeps
  | sceneBusAnnouncement => exact execSceneBusAnnouncement_keeps
  | sceneBusAnnounceSend => exact execSceneBusAnnounceSend_keeps
  | peerSilent _ => exact execPeerSilent_keeps
  | sceneBusResend => exact execSceneBusResend_keeps
  | txDescriptorSend _ _ _ => exact execTxDescriptorSend_keeps
  | txFrameDone _ _ _ => exact execTxFrameDone_keeps
  | ringDisableDrainEnd _ => exact execRingDisableDrainEnd_keeps
  | linkDown _ => exact execLinkDown_keeps
  | linkUp _ => exact execLinkUp_keeps
  | mooringLaneLockLoss _ => exact execMooringLaneLockLoss_keeps
  | ptpSync _ _ _ _ _ => exact execPtpSync_keeps
  | ptpDelayResp _ _ _ _ _ _ => exact execPtpDelayResp_keeps
  | ptpAnnounce _ _ => exact execPtpAnnounce_keeps
  | announceTimeout _ => exact execAnnounceTimeout_keeps
  | syncTimeout _ => exact execSyncTimeout_keeps
  | rerouteHoldoffEnd => exact execRerouteHoldoffEnd_keeps
  | phaseStep => exact execPhaseStep_keeps
  | irqLatencyCalibration _ => exact execIrqLatencyCalibration_keeps
  | pllLock _ => exact execPllLock_keeps
  | pllLoss _ _ => exact execPllLoss_keeps
  | pllReferenceReturn _ => exact execPllReferenceReturn_keeps
  | referenceLost => exact execReferenceLost_keeps
  | referenceQualified => exact execReferenceQualified_keeps
  | captureEdge _ _ _ _ => exact execCaptureEdge_keeps
  | triggerEdge _ => exact execTriggerEdge_keeps
  | blockBoundary => exact execBlockBoundary_keeps
  | sceneSnapshot => exact execSceneSnapshot_keeps
  | fetchListHandover => exact execFetchListHandover_keeps
  | fetchWindowOpen => exact execFetchWindowOpen_keeps
  | granuleFetchDone _ _ _ => exact execGranuleFetchDone_keeps
  | catchDeadline _ => exact execCatchDeadline_keeps
  | computeSlot => exact execComputeSlot_keeps
  | emitSlot => exact execEmitSlot_keeps
  | accordFadeEnd _ => exact execAccordFadeEnd_keeps
  | hopFadeEnd _ _ => exact execHopFadeEnd_keeps
  | zeroCrossCut _ _ => exact execZeroCrossCut_keeps
  | zeroCrossFallback _ _ => exact execZeroCrossFallback_keeps
  | routeBindingChange _ => exact execRouteBindingChange_keeps
  | muteRampLengthChange _ => exact execMuteRampLengthChange_keeps
  | berthDrainEnd _ => exact execBerthDrainEnd_keeps
  | txBerthDrainEnd _ => exact execTxBerthDrainEnd_keeps
  | quayGateDone _ => exact execQuayGateDone_keeps
  | noseDrainEnd => exact execNoseDrainEnd_keeps
  | noseFrame => exact execNoseFrame_keeps
  | noseRefresh => exact execNoseRefresh_keeps
  | proposalInterval => exact execProposalInterval_keeps
  | healthEvidenceHold _ => exact execHealthEvidenceHold_keeps
  | zRefLearnEnd _ => exact execZRefLearnEnd_keeps
  | sweepExcitationStart => exact execSweepExcitationStart_keeps
  | sweepEnd => exact execSweepEnd_keeps
  | drydown => exact execDrydown_keeps
  | dozePause => exact execDozePause_keeps
  | dozeResume => exact execDozeResume_keeps
  | p3WakeRestore _ _ _ _ => cases hr
  | pwrEnRaise => exact execPwrEnRaise_keeps
  | p1GateChange => exact execP1GateChange_keeps
  | retrainStep _ _ => exact execRetrainStep_keeps
  | dramSearchStep _ _ => exact execDramSearchStep_keeps
  | dramStepDown => exact execDramStepDown_keeps
  | dramRateChange => exact execDramRateChange_keeps
  | shallowSearch _ _ => exact execShallowSearch_keeps
  | rateClimb _ => exact execRateClimb_keeps
  | dramTempRead _ _ => exact execDramTempRead_keeps
  | hammerWindowReset => exact execHammerWindowReset_keeps
  | hammerThrottle _ _ _ _ => exact execHammerThrottle_keeps
  | channelSelfRefresh _ _ => exact execChannelSelfRefresh_keeps
  | sramScrub _ _ => exact execSramScrub_keeps
  | dramScrub _ _ _ _ => exact execDramScrub_keeps
  | twinHeartbeatSend _ => exact execTwinHeartbeatSend_keeps
  | twinHeartbeat _ _ => exact execTwinHeartbeat_keeps
  | twinCommand _ => exact execTwinCommand_keeps
  | twinManifest _ => exact execTwinManifest_keeps
  | manifestTimeout => exact execManifestTimeout_keeps
  | wantPoint => exact execWantPoint_keeps
  | twinWant _ _ => exact execTwinWant_keeps
  | twinRepair _ => exact execTwinRepair_keeps
  | twinMirror _ => exact execTwinMirror_keeps
  | twinDigest _ _ => exact execTwinDigest_keeps
  | twinCheck _ => exact execTwinCheck_keeps
  | twinWarpData _ _ => exact execTwinWarpData_keeps
  | twinWarpControl _ => exact execTwinWarpControl_keeps
  | warpInputCut => exact execWarpInputCut_keeps
  | warpSlice _ => exact execWarpSlice_keeps
  | warpRejoin => exact execWarpRejoin_keeps
  | warpAbandon => exact execWarpAbandon_keeps
  | twinRelease block => exact execTwinRelease_keeps (_block := block)
  | twinHandOver _ => exact execTwinHandOver_keeps
  | leaseRequest _ _ _ => exact execLeaseRequest_keeps
  | leaseGrant _ epoch _ => exact execLeaseGrant_keeps (_epoch := epoch)
  | leaseRenew => exact execLeaseRenew_keeps
  | leaseExpire => exact execLeaseExpire_keeps
  | mooringSilent => exact execMooringSilent_keeps
  | networkSilent => exact execNetworkSilent_keeps
  | flowsSilent => exact execFlowsSilent_keeps
  | twinClaim => exact execTwinClaim_keeps
  | spanChangeDone _ => exact execSpanChangeDone_keeps
  | inputGainSwitch _ => exact execInputGainSwitch_keeps
  | outputCurrentLimit _ => exact execOutputCurrentLimit_keeps
  | outputLimitRetry _ => exact execOutputLimitRetry_keeps
  | phantomFault _ => exact execPhantomFault_keeps
  | analogueSupplyFault => exact execAnalogueSupplyFault_keeps
  | loopCheck _ _ => exact execLoopCheck_keeps
  | loopSlew _ => exact execLoopSlew_keeps
  | tdmSyncError _ => exact execTdmSyncError_keeps
  | tdmSyncLoss _ => exact execTdmSyncLoss_keeps
  | alarmInput _ _ => exact execAlarmInput_keeps
  | i2cTransferDone _ _ => exact execI2cTransferDone_keeps
  | i2cBusHeld => exact execI2cBusHeld_keeps
  | testLoopEnd _ _ _ => exact execTestLoopEnd_keeps
  | fwStageDone _ => exact execFwStageDone_keeps
  | uartFrame _ => exact execUartFrame_keeps
  | mooringLaneLock _ => exact execMooringLaneLock_keeps
  | vkeepLoss => cases hr
  | analogueSupplyRestored => exact execAnalogueSupplyRestored_keeps
  | phantomRampDone _ => exact execPhantomRampDone_keeps
  | resetBegin _ => cases hr
  | ptpSendInterval _ _ => exact execPtpSendInterval_keeps
  | ptpDelayRequest _ _ _ => exact execPtpDelayRequest_keeps
  | _ => exact accept_keeps (Keeps.refl s)

/-- A reset starts from a state that meets the invariants, and keeps the queue. -/
theorem exec_reset_keepsQ {i : Instr} (hr : isReset i = true) (s : State) : KeepsQ s (exec i s) := by
  unfold isReset at hr
  split at hr
  · exact execPorstNRelease_q
  · exact execPorstNAssert_q
  · exact execBootWatchdog_q
  · exact execResetBegin_q
  · exact execP3WakeRestore_q
  · exact execVkeepLoss_q
  · cases hr

/-- Every command keeps the queue, the ring memory's form, the mode word's legality and the bounds. -/
theorem exec_keepsQ (i : Instr) (s : State) : KeepsQ s (exec i s) := by
  cases hr : isReset i with
  | false => exact (exec_keeps hr s).toQ
  | true => exact exec_reset_keepsQ hr s

/-! What each step keeps. -/

theorem step_of_empty {s : State} (h : s.pending = []) : step s = .next (idle s) := by
  unfold step
  rw [h]

theorem step_of_front {c : Instr} {rest : List Instr} {s : State} (h : s.pending = c :: rest) :
    step s = exec c { s with pending := rest } := by
  unfold step
  rw [h]

/-- Every step keeps the ring memory's form, the mode word's legality and the bounds; the queue is in none of them. -/
theorem step_keeps {s t : State} (h : step s = .next t) :
    (s.memOk → t.memOk) ∧ (s.modeOk → t.modeOk) ∧ (s.boundOk → t.boundOk) := by
  cases hp : s.pending with
  | nil =>
    cases (step_of_empty hp).symm.trans h
    have kept : Keeps s (idle s) := idle_keeps (Keeps.refl s)
    exact ⟨kept.mem, kept.mode, kept.bound⟩
  | cons c rest =>
    have kept := exec_keepsQ c { s with pending := rest }
    rw [← step_of_front hp, h] at kept
    exact kept.2

/-- Settles O4: the ring memory, the mode word and the bounds, by what every step keeps of each. -/
theorem stepKeepsInvariant : Obligations.StepKeepsInvariant := by
  refine ⟨fun s t hinv h => ?_, fun s t hbound h => ?_⟩
  · obtain ⟨hmode, hmem⟩ := hinv
    obtain ⟨mem, mode, -⟩ := step_keeps h
    exact ⟨mode hmode, mem hmem⟩
  · obtain ⟨-, -, bound⟩ := step_keeps h
    exact bound hbound

/-- Settles O1: the queue's front, or the idle step. -/
theorem stepTakesTheFrontCommand : Obligations.StepTakesTheFrontCommand :=
  ⟨fun _ _ _ h => step_of_front h, fun _ h => step_of_empty h⟩

/-- Settles O2: the fields as the reset state lists them. -/
theorem resetState : Obligations.ResetState := by
  unfold Obligations.ResetState
  decide

/-- Settles O3: the mode word is clear, and nothing is listed that the ring memory's form or the bounds speak of. -/
theorem resetMeetsInvariant : Obligations.ResetMeetsInvariant :=
  ⟨⟨.inl rfl, rfl⟩, Nat.zero_le _, nofun, nofun⟩

end Sys2Proof.Machine
end

section
/-!
PROOFS. TIME_CFG and TRIG_SET at acceptance (R252, R265 to R271).
-/
namespace Sys2Proof.Machine

/-! What TIME_CFG does (R252, R265, R271). -/

section TimeCfg
variable {p : Bytes} {near last s : State}

/-- The record of the device that the payload is judged by: the one written last. -/
def timeDevNext (s : State) : TimeDev := s.time.newDev.getD s.time.dev

theorem doTimeCfg_reads (hp : timePayloadOk (timeDevNext s).profile p = true) (hm : maskOf p = 0) :
    doTimeCfg p near last s = .done s (timeBody p s) := by
  unfold doTimeCfg
  rw [timeDevNext] at hp
  rw [if_neg (by simp [hp]), if_pos hm]

/-- What a write of TIME_CFG is refused for, kind by kind: the device's record by its checks, the delay mechanism of the management
port, a PPS reference on a capture input that keeps no rising edge. -/
def timeCfgRefused (p : Bytes) (near last s : State) : Prop :=
  (kindOf p = 0 ∧ checkTimeDev p s near last ≠ none) ∨
  (kindOf p = 1 ∧ ((maskOf p).testBit 0 && indexOf p = 2 && (getU p 8 1).testBit 2) = true) ∨
  (kindOf p = 2 ∧ getU p 8 1 = 2 ∧ (s.captNext 0).edges.testBit 0 = false)

theorem doTimeCfg_writes (hp : timePayloadOk (timeDevNext s).profile p = true) (hm : maskOf p ≠ 0)
    (hr : ¬ timeCfgRefused p near last s) : doTimeCfg p near last s = .done (writeTimeCfg p s) [] := by
  rw [timeDevNext] at hp
  unfold doTimeCfg
  rw [if_neg (by simp [hp]), if_neg hm]
  split
  · next hk =>
    have passed : checkTimeDev p s near last = none := Classical.not_not.1 fun h => hr (.inl ⟨hk, h⟩)
    simp only [passed]
  · next hk => exact if_neg fun h => hr (.inr (.inl ⟨hk, h⟩))
  · next hk => exact if_neg fun h => hr (.inr (.inr ⟨hk, by simpa using h⟩))
  · rfl

/-- The device's record, the Heart rate and the catch lag wait for the next block boundary (R252). -/
theorem writeTimeCfg_device (hk : kindOf p = 0) :
    writeTimeCfg p s =
      let m := (maskOf p).testBit
      let v := { s with
        time.newDev := some ((timeDevNext s).write (maskOf p) p)
        media.newHeart := if m 0 then some (getU p 8 1) else s.media.newHeart
        media.newCatch := if m 1 then some (getU p 10 2) else s.media.newCatch }
      if m 7 then updServo (fun x => { x with setTime := some (getU p 40 8) }) v else v := by
  unfold writeTimeCfg
  rw [hk]
  rfl

/-- A port's or a capture input's write waits for the next block boundary (R252, R271). -/
theorem writeTimeCfg_record (hk : kindOf p = 1 ∨ kindOf p = 3) :
    writeTimeCfg p s = { s with time.newCfgs := s.time.newCfgs ++ [p] } := by
  unfold writeTimeCfg
  rcases hk with hk | hk <;> rw [hk] <;> rfl

theorem writeTimeCfg_reference (hk : kindOf p = 2) : writeTimeCfg p s = { s with time.newRef := some (getU p 8 1) } := by
  unfold writeTimeCfg
  rw [hk]
  rfl

theorem not_refused_record (hk : kindOf p = 1 ∧ ((maskOf p).testBit 0 && indexOf p = 2 && (getU p 8 1).testBit 2) = false ∨
    kindOf p = 3) : ¬ timeCfgRefused p near last s := by
  rintro (⟨h0, -⟩ | ⟨h1, hrefused⟩ | ⟨h2, -⟩)
  · omega
  · rcases hk with ⟨-, hport⟩ | hk
    · exact Bool.eq_false_iff.1 hport hrefused
    · omega
  · omega

theorem not_refused_reference (hk : kindOf p = 2) (hpps : getU p 8 1 = 2 → (s.captNext 0).edges.testBit 0 = true) :
    ¬ timeCfgRefused p near last s := by
  rintro (⟨h0, -⟩ | ⟨h1, -⟩ | ⟨-, hpp, hedge⟩)
  · omega
  · omega
  · exact absurd (hpps hpp) (Bool.eq_false_iff.1 hedge)

theorem not_refused_device (hk : kindOf p = 0) (hc : checkTimeDev p s near last = none) : ¬ timeCfgRefused p near last s := by
  rintro (⟨-, hrefused⟩ | ⟨h1, -⟩ | ⟨h2, -⟩)
  · exact hrefused hc
  · omega
  · omega

end TimeCfg

/-! What TRIG_SET does (R269, R270). -/

section TrigSet
variable {p : Bytes} {s : State}

/-- The trigger that the payload names, and its program as written. -/
def namedTrig (p : Bytes) : Nat := getU p 4 1
def trigWritten (p : Bytes) (s : State) : TrigRec := (s.trig (namedTrig p)).cfg.write (maskOf p) p

theorem doTrigSet_reads (hp : trigPayloadOk p = true) (hm : maskOf p = 0) :
    doTrigSet p s = .done s (trigBody s (namedTrig p)) := by
  unfold doTrigSet
  rw [if_neg (by simp [hp])]
  exact if_pos hm

theorem doTrigSet_ends (hp : trigPayloadOk p = true) (hm : maskOf p ≠ 0) (hnew : (trigWritten p s).mode = 0) :
    doTrigSet p s = .done (updTrig (namedTrig p)
      (fun t => { t with cfg := trigWritten p s, next := none, newNext := none }) s) [] := by
  have several : ¬ ((trigWritten p s).mode = 1 && (firstEdge s (trigWritten p s)).isNone) = true := by simp [hnew]
  unfold doTrigSet
  rw [if_neg (by simp [hp])]
  exact (if_neg hm).trans ((if_neg several).trans (if_pos hnew))

/-- A program that is not off waits for its own first edge; a single edge must still be far enough ahead. -/
theorem doTrigSet_arms (hp : trigPayloadOk p = true) (hm : maskOf p ≠ 0) (hnew : (trigWritten p s).mode ≠ 0)
    (hone : (trigWritten p s).mode = 1 → (firstEdge s (trigWritten p s)).isSome = true) :
    doTrigSet p s = .done (updTrig (namedTrig p)
      (fun t => { t with cfg := trigWritten p s, newNext := firstEdge s (trigWritten p s) }) s) [] := by
  have ahead : ¬ ((trigWritten p s).mode = 1 && (firstEdge s (trigWritten p s)).isNone) = true := by
    intro h
    obtain ⟨one, behind⟩ := Bool.and_eq_true_iff.1 h
    have found := hone (of_decide_eq_true one)
    rw [Option.isNone_iff_eq_none.1 behind] at found
    cases found
  unfold doTrigSet
  rw [if_neg (by simp [hp])]
  exact (if_neg hm).trans ((if_neg ahead).trans (if_neg hnew))

end TrigSet

/-! Both at acceptance. -/

section Requests
variable {r : Req} {s t : State}

/-- TIME_CFG of anything but the device's record is of the local class, or a read (Table 10.4). -/
theorem classOf_timeCfg {p : Bytes} (hk : kindOf p ≠ 0) : classOf .timeCfg p {} ≠ .forwarded := by
  unfold classOf
  split
  · decide
  · simp [hk]

/-- TRIG_SET is of the local class, or a read (Table 10.4). -/
theorem classOf_trigSet (p : Bytes) : classOf .trigSet p {} ≠ .forwarded := by
  unfold classOf
  split
  · decide
  · exact nofun

theorem exec_timeCfg (ha : admits .timeCfg {} r s = true) (hd : delivered r s = true) (hl : actsNow .timeCfg {} r s = true)
    (hm : maskOf r.payload ≠ 0) (hp : timePayloadOk (timeDevNext (taken r s)).profile r.payload = true)
    (hr : ¬ timeCfgRefused r.payload (atBoundary (taken r s)) (allInEffect (taken r s)) (taken r s)) :
    exec (.timeCfg r) s = .next (acted .timeCfg r s [] (writeTimeCfg r.payload (taken r s))) :=
  exec_acted rfl (by decide) (by decide) ha hd rfl hl (doTimeCfg_writes hp hm hr)

theorem exec_timeCfg_record (ha : admits .timeCfg {} r s = true) (hd : delivered r s = true) (hm : maskOf r.payload ≠ 0)
    (hp : timePayloadOk (timeDevNext (taken r s)).profile r.payload = true)
    (hk : kindOf r.payload = 1 ∧ ((maskOf r.payload).testBit 0 && indexOf r.payload = 2 && (getU r.payload 8 1).testBit 2) = false ∨
      kindOf r.payload = 3) :
    exec (.timeCfg r) s = .next (acted .timeCfg r s []
      { taken r s with time.newCfgs := (taken r s).time.newCfgs ++ [r.payload] }) := by
  have own : kindOf r.payload ≠ 0 := by omega
  rw [exec_timeCfg ha hd (actsNow_of_not_forwarded s (classOf_timeCfg own)) hm hp (not_refused_record hk),
    writeTimeCfg_record (hk.imp_left And.left)]

theorem exec_timeCfg_reference (ha : admits .timeCfg {} r s = true) (hd : delivered r s = true) (hm : maskOf r.payload ≠ 0)
    (hp : timePayloadOk (timeDevNext (taken r s)).profile r.payload = true) (hk : kindOf r.payload = 2)
    (hpps : getU r.payload 8 1 = 2 → ((taken r s).captNext 0).edges.testBit 0 = true) :
    exec (.timeCfg r) s = .next (acted .timeCfg r s []
      { taken r s with time.newRef := some (getU r.payload 8 1) }) := by
  have own : kindOf r.payload ≠ 0 := by omega
  rw [exec_timeCfg ha hd (actsNow_of_not_forwarded s (classOf_timeCfg own)) hm hp (not_refused_reference hk hpps),
    writeTimeCfg_reference hk]

theorem exec_trigSet (ha : admits .trigSet {} r s = true) (hd : delivered r s = true)
    (hn : doTrigSet r.payload (taken r s) = .done t []) : exec (.trigSet r) s = .next (acted .trigSet r s [] t) :=
  exec_acted rfl (by decide) (by decide) ha hd rfl (actsNow_of_not_forwarded s (classOf_trigSet _)) hn

end Requests

/-- Settles O18: each kind of TIME_CFG by what it writes, TRIG_SET by whether its new program is off. -/
theorem timeCommandsAct : Obligations.TimeCommandsAct := by
  intro r s hd
  refine ⟨fun ha hp hm hb => ?timeRead, fun ha hl hm hp hk hc => ?device, fun ha hm hp hk => ?record, fun ha hm hp hk hpps => ?reference,
    fun ha hp hm hb => ?trigRead, fun ha hp hm => ⟨fun hnew => ?trigEnds, fun hnew hone => ?trigArms⟩⟩
  case timeRead => exact exec_read rfl rfl ha hd (by simp [classOf, isSelect, hm]) rfl (doTimeCfg_reads hp hm) hb
  case device =>
    rw [exec_timeCfg ha hd hl hm hp (not_refused_device hk hc), writeTimeCfg_device hk]
    rfl
  case record => exact exec_timeCfg_record ha hd hm hp hk
  case reference => exact exec_timeCfg_reference ha hd hm hp hk hpps
  case trigRead => exact exec_read rfl rfl ha hd (by simp [classOf, isSelect, hm]) rfl (doTrigSet_reads hp hm) hb
  case trigEnds => exact exec_trigSet ha hd (doTrigSet_ends hp hm hnew)
  case trigArms => exact exec_trigSet ha hd (doTrigSet_arms hp hm hnew hone)

end Sys2Proof.Machine
end

section
/-!
PROOFS. PTP messages, and the masters of the ports (R251 to R268).
-/
namespace Sys2Proof.Machine

/-! Exchanges that measure (R254 to R258). -/

section Exchanges
variable {s : State} {port : Fin 3}

/-- A Sync on a port whose master counts, once the port's timestamp queue is read, goes to the servo. -/
theorem exec_ptpSync {t1 t2 interval : Nat} {corr : Int} (hon : (readTsq port.val s).ptpOn port.val = true)
    (href : (readTsq port.val s).time.ref = 0) (hm : ((readTsq port.val s).clock port.val).master ≠ none)
    (hp : ((readTsq port.val s).clock port.val).passive = false) (hg : (readTsq port.val s).isGm = false) :
    exec (.ptpSync port t1 t2 corr interval) s =
      let n := readTsq port.val s
      .next (exchange port.val (n.rxStamp port.val t2 - t1 - corr : Int) (n.clock port.val).delay
        ((interval : Int) / 1000000000) n) :=
  if_neg (by simp [hon, href, hp, hg, Option.isNone_iff_eq_none, hm])

/-- The path delay that a response measures, between peers or from end to end, with the departure stamp `own` of the request. -/
def pathDelay (n : State) (p t1 t2 t3 t4 own : Nat) (corr : Int) : Rat :=
  if n.p2p p then ((n.rxStamp p t4 - own - ((t3 : Int) - t2) - corr : Int) : Rat) / 2
  else ((n.rxStamp p t2 - t1 + ((t4 : Int) - own) - corr : Int) : Rat) / 2

/-- A delay response measures with the departure stamp that the timestamp queue gave. -/
theorem exec_ptpDelayResp {t1 t2 t3 t4 own : Nat} {corr : Int} (hon : (readTsq port.val s).ptpOn port.val = true)
    (href : (readTsq port.val s).time.ref = 0) (hown : ((readTsq port.val s).clock port.val).t3 = some own) :
    exec (.ptpDelayResp port t1 t2 t3 t4 corr) s =
      .next (updClock port.val
        (fun c => { c with delay := some (pathDelay (readTsq port.val s) port.val t1 t2 t3 t4 own corr), t3 := none })
        (readTsq port.val s)) := by
  change execPtpDelayResp port t1 t2 t3 t4 corr s = _
  unfold execPtpDelayResp pathDelay
  dsimp only
  rw [if_neg (by simp [hon, href]), if_neg (by simp [hown]), hown]

end Exchanges

/-! Messages that the device sends (R251, R256, R268). -/

section Messages
variable {s : State} {port : Fin 3}

/-- Nothing is sent on a port that runs no PTP, or from which nothing goes out. -/
theorem sends_of_on {n : State} {p : Nat} (hd : portDeaf n p = false) (hon : n.ptpOn p = true) :
    ¬ (!n.ptpOn p || portDeaf n p) = true := by simp [hd, hon]

theorem exec_ptpSendInterval_sync (hd : portDeaf (readTsq port.val s) port.val = false)
    (hon : (readTsq port.val s).ptpOn port.val = true) (hm : (readTsq port.val s).masterOn port.val = true) :
    exec (.ptpSendInterval port 0) s =
      let n := readTsq port.val s
      .next (updClock port.val (fun c => { c with syncTag := some (n.ptpTag port.val) }) (sendEvent port.val 0 n.ptpNs n)) :=
  (if_neg (sends_of_on hd hon)).trans (if_pos hm)

theorem exec_ptpSendInterval_announce (hd : portDeaf (readTsq port.val s) port.val = false)
    (hon : (readTsq port.val s).ptpOn port.val = true) (hm : (readTsq port.val s).masterOn port.val = true) :
    exec (.ptpSendInterval port 1) s =
      let n := readTsq port.val s
      .next (queueOwn port.val 0 (ptpLength n.time.dev.profile 1) 0 (send (n.announceMsg port.val) n)) :=
  (if_neg (sends_of_on hd hon)).trans (if_pos hm)

theorem exec_ptpSendInterval_peerRequest (hd : portDeaf (readTsq port.val s) port.val = false)
    (hon : (readTsq port.val s).ptpOn port.val = true) (hp : (readTsq port.val s).p2p port.val = true) :
    exec (.ptpSendInterval port 2) s =
      let n := readTsq port.val s
      .next (updClock port.val (fun c => { c with reqTag := some (n.ptpTag port.val) }) (sendEvent port.val 5 n.ptpNs n)) :=
  (if_neg (sends_of_on hd hon)).trans (if_pos hp)

theorem exec_ptpSendInterval_request (hd : portDeaf (readTsq port.val s) port.val = false)
    (hon : (readTsq port.val s).ptpOn port.val = true) (hp : (readTsq port.val s).p2p port.val = false)
    (hm : (readTsq port.val s).masterOn port.val = false) (hx : ((readTsq port.val s).clock port.val).master ≠ none)
    (href : (readTsq port.val s).time.ref = 0) :
    exec (.ptpSendInterval port 2) s =
      let n := readTsq port.val s
      .next (updClock port.val (fun c => { c with reqTag := some (n.ptpTag port.val) }) (sendEvent port.val 2 n.ptpNs n)) := by
  have slave : (!(readTsq port.val s).masterOn port.val && ((readTsq port.val s).clock port.val).master.isSome &&
      (readTsq port.val s).time.ref = 0) = true := by
    simp [hm, href, Option.isSome_iff_ne_none, hx]
  exact (if_neg (sends_of_on hd hon)).trans ((if_neg (Bool.eq_false_iff.1 hp)).trans (if_pos slave))

/-- A peer's request is answered with the stamp of its arrival, and the tag of the answer is kept for its follow-up (R251). -/
theorem exec_ptpDelayRequest_peer {t2 : Nat} (hon : s.ptpOn port.val = true) (hp : s.p2p port.val = true) :
    exec (.ptpDelayRequest port true t2) s = .next (updClock port.val
      (fun c => { c with respTags := c.respTags ++ [s.ptpTag port.val] })
      (sendEvent port.val 6 (s.rxStamp port.val t2).toNat s)) :=
  (if_neg (by simp [hon])).trans (if_pos hp)

theorem exec_ptpDelayRequest_master {t2 : Nat} (hon : s.ptpOn port.val = true) (hm : s.masterOn port.val = true)
    (hp : s.p2p port.val = false) :
    exec (.ptpDelayRequest port false t2) s = .next (queueOwn port.val 0 (ptpLength s.time.dev.profile 3) 0
      (send (.ptp port.val 3 (s.rxStamp port.val t2).toNat 0) s)) :=
  (if_neg (by simp [hon])).trans ((if_neg Bool.false_ne_true).trans (if_pos (by simp [hm, hp])))

end Messages

/-- Settles O43: what each message of a port comes to, once the port's timestamp queue is read. -/
theorem ptpExchanges : Obligations.PtpExchanges := by
  refine ⟨fun port s hon href => ⟨fun t1 t2 corr interval hm hp hg => ?sync, fun t1 t2 t3 t4 corr own hp hown => ?endToEnd,
      fun t1 t2 t3 t4 corr own hp hown => ?peers⟩,
    fun port s => ⟨fun hd hon hm => ⟨?sendSync, ?sendAnnounce⟩, fun hd hon hp => ?peerRequest,
      fun hd hon hp hm hx href => ?request, fun t2 hon => ⟨fun hp => ?answerPeer, fun hm hp => ?answerSlave⟩⟩⟩
  case sync => exact exec_ptpSync hon href hm hp hg
  case endToEnd => rw [exec_ptpDelayResp hon href hown, pathDelay, if_neg (Bool.eq_false_iff.1 hp)]
  case peers => rw [exec_ptpDelayResp hon href hown, pathDelay, if_pos hp]
  case sendSync => exact exec_ptpSendInterval_sync hd hon hm
  case sendAnnounce => exact exec_ptpSendInterval_announce hd hon hm
  case peerRequest => exact exec_ptpSendInterval_peerRequest hd hon hp
  case request => exact exec_ptpSendInterval_request hd hon hp hm hx href
  case answerPeer => exact exec_ptpDelayRequest_peer hon hp
  case answerSlave => exact exec_ptpDelayRequest_master hon hm hp

/-! The end of a master (R260, R263, R264). -/

/-- A device that follows no port, and waits for port A, which it stepped away from, to qualify afresh (R264). -/
def awaitingPortA : State := { State.reset with time.servo.rrWait := true }

theorem exec_announceTimeout (port : Fin 3) (s : State) : exec (.announceTimeout port) s = .next (portLost port.val 0 true s) := rfl

/-- The loss of port A's master ends that wait (R264). -/
theorem portLost_awaitingPortA : (portLost 0 0 true awaitingPortA).time.servo.rrWait = false := by decide

/-- Refutes O44: it leaves of the servo all but `conflict` as it was when a port that the servo does not follow loses its master;
but where HOLD lasts until that port qualifies afresh, the loss also ends this wait (`rrWait`; R263, R264). -/
theorem not_mastersComeAndGo : ¬ Obligations.MastersComeAndGo := by
  intro h
  obtain ⟨-, ⟨t, ht, -, -, -, hservo⟩, -⟩ := h 0 awaitingPortA
  cases (exec_announceTimeout 0 awaitingPortA).symm.trans ht
  have waits := congrArg Servo.rrWait (hservo (by decide))
  have ends : false = true := portLost_awaitingPortA.symm.trans waits
  cases ends

end Sys2Proof.Machine
end

section
/-!
PROOFS. Phase steps, the loss and return of references, captures and triggers (R250, R264 to R272, R275, R343).
-/
namespace Sys2Proof.Machine

/-! A phase step (R250). -/

/-- A device for which the servo has asked for a step of 16 periods, with a scene update that came in period 0. -/
def stepAsked : State :=
  { State.reset with
    time.servo.pending := some 8192
    scene.updates := [{ air := true, resend := false, node := 1, apply := 0, rank := 0, pubSeq := 0, arrived := 0, body := [] }] }

theorem exec_phaseStep {n : Int} {s : State} (hn : s.time.servo.pending = some n)
    (ht : s.time.ref = 2 ∨ s.time.servo.setTime = none) : exec .phaseStep s = .next (stepBy n s) := by
  have servoAsks : (if s.time.ref = 2 then none else s.time.servo.setTime) = none := by
    rcases ht with ht | ht <;> simp [ht]
  change execPhaseStep s = _
  unfold execPhaseStep
  simp only [servoAsks, hn]

/-- The step moves the period in which the update came, so that its age goes on. -/
theorem stepBy_stepAsked : (stepBy 8192 stepAsked).scene.updates.map (·.arrived) = [16] := by decide

/-- Refutes O45: it has the scene unit as it was, and a step moves the stamps by which the scene's unit tells how long ago something
was (`moveStamps`; R250). -/
theorem not_phaseStepsMoveC : ¬ Obligations.PhaseStepsMoveC := by
  intro h
  obtain ⟨step, -⟩ := h stepAsked
  obtain ⟨t, ht, -, -, -, -, -, -, -, scene⟩ := step 8192 rfl (.inr rfl)
  cases (exec_phaseStep rfl (.inr rfl)).symm.trans ht
  have same : (stepBy 8192 stepAsked).scene.updates.map (·.arrived) = [0] := by rw [scene]; rfl
  have moved : [16] = [0] := stepBy_stepAsked.symm.trans same
  exact absurd moved (by decide)

/-! What flags, time events and HOLD change. -/

theorem HostOnly.media {s t : State} (h : HostOnly s t) : t.media = s.media := by unfold HostOnly at h; rw [h]
theorem HostOnly.scene {s t : State} (h : HostOnly s t) : t.scene = s.scene := by unfold HostOnly at h; rw [h]
theorem HostOnly.time {s t : State} (h : HostOnly s t) : t.time = s.time := by unfold HostOnly at h; rw [h]
theorem HostOnly.boot {s t : State} (h : HostOnly s t) : t.boot = s.boot := by unfold HostOnly at h; rw [h]

theorem timeEvent_host (sub : Nat) (args : List Nat) (s : State) : HostOnly s (timeEvent sub args s) := logEvent_host ..

/-- A change of a flag changes the mode word at most, and is logged. -/
theorem setFlag_host (i : Nat) (v : Bool) (src : Nat) (s : State) :
    ∃ w, HostOnly { s with power.word := w } (setFlag i v src s) := by
  unfold setFlag
  split
  · exact ⟨s.power.word, .refl s⟩
  · exact ⟨_, setWord_host ..⟩

/-- Outside SAFE and after self-test a flag takes its new value (R344, R345). -/
theorem setFlag_flag {i : Nat} {s : State} (hsafe : s.flag mSafe = false) (hword : s.power.word ≠ 0) (hi : i < 16) (v : Bool)
    (src : Nat) : (setFlag i v src s).flag i = v := by
  rw [setFlag_eq_setWord hsafe hword, State.flag, (setWord_host ..).power]
  exact (getLsbD_withFlag _ _ _ _ hi).trans (if_pos rfl)

/-- The time unit as a change of a flag leaves it. -/
theorem setFlag_time (i : Nat) (v : Bool) (src : Nat) (s : State) : (setFlag i v src s).time = s.time := by
  obtain ⟨w, h⟩ := setFlag_host i v src s
  exact h.time

/-- A time event that goes with a change of COAST tells of a flag that has changed. -/
theorem timeEvent_coast {s : State} (hsafe : s.flag mSafe = false) (hword : s.power.word ≠ 0) (sub : Nat) (args : List Nat) (v : Bool) :
    (timeEvent sub args (setFlag mCoast v srcDevice s)).flag mCoast = v := by
  rw [State.flag, (timeEvent_host ..).power]
  exact setFlag_flag hsafe hword (by decide) v srcDevice

theorem timeEvent_setFlag_time (sub : Nat) (args : List Nat) (i : Nat) (v : Bool) (src : Nat) (s : State) :
    (timeEvent sub args (setFlag i v src s)).time = s.time := by
  rw [(timeEvent_host ..).time, setFlag_time]

section Hold
variable {s : State} {reason n : Nat}

/-- The servo as HOLD finds it: y is frozen at its mean (R260). -/
def heldServo (s : State) : Servo :=
  { s.time.servo with
    state := 4, y := s.time.servo.ybar, strikes := 0, holdFrom := s.idx
    wasGnss := s.time.ref == 2 && s.time.servo.extOk && s.time.dev.gmFlags.testBit 1 }

theorem enterHold_time (h : s.time.servo.state ≠ 4) : (enterHold reason s).time = { s.time with servo := heldServo s } := by
  unfold enterHold
  rw [if_neg h]
  exact timeEvent_setFlag_time ..

theorem enterHold_coast (h : s.time.servo.state ≠ 4) (hsafe : s.flag mSafe = false) (hword : s.power.word ≠ 0) :
    (enterHold reason s).flag mCoast = true := by
  unfold enterHold
  rw [if_neg h]
  exact timeEvent_coast (s := updServo _ s) hsafe hword ..

/-- The servo as it leaves HOLD (R260). -/
def leftServo (n : Nat) (s : State) : Servo :=
  if s.time.servo.state ≠ 4 then { s.time.servo with state := n }
  else { s.time.servo with
    state := n, holdMs := wrapAdd 32 s.time.servo.holdMs ((s.idx - s.time.servo.holdFrom) * 1000 / s.hz), rrWait := false
    wasGnss := false }

theorem leaveHold_time : (leaveHold n s).time = { s.time with servo := leftServo n s } := by
  unfold leaveHold leftServo
  split
  · rfl
  · exact timeEvent_setFlag_time ..

theorem leaveHold_coast (h : s.time.servo.state = 4) (hsafe : s.flag mSafe = false) (hword : s.power.word ≠ 0) :
    (leaveHold n s).flag mCoast = false := by
  unfold leaveHold
  rw [if_neg (Classical.not_not.2 h)]
  exact timeEvent_coast (s := updServo _ s) hsafe hword ..

theorem leftServo_state : (leftServo n s).state = n := by
  unfold leftServo
  split <;> rfl

theorem leftServo_extOk : (leftServo n s).extOk = s.time.servo.extOk := by
  unfold leftServo
  split <;> rfl

end Hold

/-! PLLs and external references (R266, R275). -/

section References
variable {s : State} {p : Fin 8}

/-- The loss of REFCLK25 makes every PLL that it feeds coast, beside the one that tells of it (R275). -/
def refclkGone (p : Fin 8) (s : State) : State :=
  { s with time.coasting := setBit8 s.time.coasting p.val true ||| refclkPlls s, time.servo.refclkLost := true }

theorem exec_pllLoss_refclk (p : Fin 8) (s : State) :
    exec (.pllLoss p true) s = .next (timeEvent 4 [p.val] (setFlag mCoast true srcDevice (refclkGone p s))) := rfl

theorem exec_pllReferenceReturn_alone (h : (s.time.servo.refclkLost && (refclkPlls s).getLsbD p.val) = false) :
    exec (.pllReferenceReturn p) s = .next { s with time.coasting := setBit8 s.time.coasting p.val false } :=
  if_neg (Bool.eq_false_iff.1 h)

theorem exec_pllReferenceReturn_refclk (h : s.time.servo.refclkLost = true) (hp : (refclkPlls s).getLsbD p.val = true) :
    exec (.pllReferenceReturn p) s = .next { s with
      time.coasting := setBit8 s.time.coasting p.val false &&& ~~~(refclkPlls s), time.servo.refclkLost := false } :=
  if_pos (Bool.and_eq_true_iff.2 ⟨h, hp⟩)

theorem exec_referenceLost (h : s.time.ref ∈ [1, 2, 3]) :
    exec .referenceLost s = .next (updServo (fun v => { v with extOk := false }) (enterHold 5 s)) :=
  if_pos (by simpa using h)

theorem exec_referenceQualified (h : s.time.ref ∈ [1, 2, 3]) :
    exec .referenceQualified s = .next (leaveHold 2 (updServo (fun v => { v with extOk := true }) s)) :=
  if_pos (by simpa using h)

end References

/-- Settles O46: PLLs by their bits and the flag that REFCLK25's loss sets; external references by HOLD. -/
theorem referencesHoldAndReturn : Obligations.ReferencesHoldAndReturn := by
  refine ⟨fun p s => ⟨rfl, rfl, ⟨_, exec_pllLoss_refclk p s, ?lostServo, ?lostCoasting, fun hsafe hword => ?lostFlag⟩,
      fun h => exec_pllReferenceReturn_alone (by rw [h]; rfl), exec_pllReferenceReturn_refclk⟩,
    fun s href hsafe hword => ⟨fun hstate => ⟨_, exec_referenceLost href, ?hold⟩, ⟨_, exec_referenceQualified href, ?returned⟩⟩⟩
  case lostServo => rw [timeEvent_setFlag_time]; rfl
  case lostCoasting => rw [timeEvent_setFlag_time]; rfl
  case lostFlag => exact timeEvent_coast (s := refclkGone p s) hsafe hword ..
  case hold =>
    have held := enterHold_time (reason := 5) hstate
    exact ⟨congrArg (·.servo.state) held, rfl, congrArg (·.servo.y) held, enterHold_coast hstate hsafe hword⟩
  case returned =>
    rw [leaveHold_time]
    exact ⟨leftServo_state, leftServo_extOk, fun hstate => leaveHold_coast (s := updServo _ s) hstate hsafe hword⟩

/-! Captures (R271). -/

section Captures
variable {s : State} {i : Fin 4} {rising : Bool} {width time : Nat}

theorem updCapt_congr {i : Nat} {f g : Capture → Capture} (h : f (s.capt i) = g (s.capt i)) : updCapt i f s = updCapt i g s := by
  unfold updCapt SMap.upd
  exact congrArg (fun x => { s with time.capts := SMap.put {} s.time.capts i x }) h

/-- The edge is one that the capture input keeps: it is set to it, and the pulse is no glitch. -/
def edgeKept (c : Capture) (rising : Bool) (width : Nat) : Prop :=
  filterCycles c.filter * 10 ≤ width * 12 ∧ c.edges.testBit (if rising then 0 else 1) = true

/-- An edge kept on an input that is no PPS reference joins the queue while two places are free; the last place takes a marker of
the gap. -/
theorem exec_captureEdge_kept (hk : edgeKept (s.capt i.val) rising width) (hpps : i.val = 0 → s.time.ref ≠ 2)
    {e : CaptEntry} (he : (s.capt i.val).queue.length ≤ 14 ∧
        e = { stamp := time - captureDelay (s.capt i.val).filter, rising := rising, seq := (s.capt i.val).seq } ∨
      (s.capt i.val).queue.length = 15 ∧ e = { stamp := 0, gap := true, count := 1, seq := (s.capt i.val).seq }) :
    exec (.captureEdge i rising width time) s =
      .next (updCapt i.val (fun c => { c with queue := c.queue ++ [e], seq := wrapAdd 16 c.seq 1 }) s) := by
  obtain ⟨hwidth, hedge⟩ := hk
  have notGlitch : ¬ (width * 12 < filterCycles (s.capt i.val).filter * 10 ||
      !((s.capt i.val).edges.testBit (if rising then 0 else 1))) = true := by
    simp only [hedge, Bool.not_true, Bool.or_false, decide_eq_true_eq]
    omega
  have noPps : ¬ (i.val = 0 ∧ rising = true ∧ s.time.ref = 2) := fun ⟨h0, _, h2⟩ => hpps h0 h2
  refine (if_neg notGlitch).trans ((if_neg noPps).trans (congrArg Host.Outcome.next (updCapt_congr ?_)))
  rcases he with ⟨room, rfl⟩ | ⟨last, rfl⟩
  · simp [show (s.capt i.val).queue.length + 2 ≤ 16 by omega]
  · simp [last]

theorem exec_captureEdge_ignored (h : width * 12 < filterCycles (s.capt i.val).filter * 10 ∨
    (s.capt i.val).edges.testBit (if rising then 0 else 1) = false) : exec (.captureEdge i rising width time) s = .next s :=
  if_pos (by simpa using h)

end Captures

/-! Triggers (R269, R270). -/

theorem updTrig_congr {s : State} {i : Nat} {f g : Trigger → Trigger} (h : f (s.trig i) = g (s.trig i)) :
    updTrig i f s = updTrig i g s := by
  unfold updTrig SMap.upd
  exact congrArg (fun x => { s with time.trigs := SMap.put {} s.time.trigs i x }) h

/-- The edge due of the program that runs makes its pulse. -/
theorem exec_triggerEdge_runs {s : State} {i : Fin 4} {k : Nat} (hsafe : s.flag mSafe = false) (hnew : (s.trig i.val).newNext = none)
    (hnext : (s.trig i.val).next = some k) (hdue : edgeAt s (s.trig i.val).running k ≤ s.media.c) :
    exec (.triggerEdge i) s = .next (updTrig i.val (fun t => { t with
      next := edgeAfter t.running k, fired := wrapAdd 32 t.fired 1
      pulse := some (match t.pulse with
        | some x => max x (edgeAt s (s.trig i.val).running k + t.running.width)
        | none => edgeAt s (s.trig i.val).running k + t.running.width) }) s) := by
  change execTriggerEdge i s = _
  unfold execTriggerEdge
  simp only [hsafe, hnew, hnext, hdue, if_true, Bool.false_eq_true, if_false]
  exact congrArg Host.Outcome.next (updTrig_congr rfl)

/-- Settles O47: an edge by whether its input keeps it and has room, a trigger by the edge due. -/
theorem capturesAndTriggers : Obligations.CapturesAndTriggers := by
  refine fun i s => ⟨fun rising width time hwidth hedge hpps => ⟨fun room => ?kept, fun last => ?gap⟩,
    fun rising width time h => exec_captureEdge_ignored h, fun k hsafe hnew hnext hdue => exec_triggerEdge_runs hsafe hnew hnext hdue⟩
  case kept =>
    rw [exec_captureEdge_kept ⟨hwidth, hedge⟩ hpps (.inl ⟨room, rfl⟩)]
    exact congrArg Host.Outcome.next (updCapt_congr rfl)
  case gap =>
    rw [exec_captureEdge_kept ⟨hwidth, hedge⟩ hpps (.inr ⟨last, rfl⟩)]
    exact congrArg Host.Outcome.next (updCapt_congr rfl)

end Sys2Proof.Machine
end

section
/-!
PROOFS. How TIME_CFG, TRIG_SET, wakes, PLLs, references and the pause of DOZE complete (R252, R266, R270, R275, R352, R355 to R358).
-/
namespace Sys2Proof.Machine

/-! TIME_CFG and TRIG_SET complete (R252, R270). -/

section Requests
variable {r : Req} {s : State}

theorem HostOnly.trig {s t : State} (h : HostOnly s t) (i : Nat) : t.trig i = s.trig i := by unfold State.trig; rw [h.time]

/-- A TIME_CFG of anything but the device's record changes no more than it writes, but for its answer. -/
theorem acted_timeCfg_host (hk : kindOf r.payload ≠ 0) (n : State) : HostOnly n (acted .timeCfg r s [] n) :=
  acted_host (forwardNow_of_not_forwarded _ (classOf_timeCfg hk))

theorem acted_trigSet_host (n : State) : HostOnly n (acted .trigSet r s [] n) :=
  acted_host (forwardNow_of_not_forwarded _ (classOf_trigSet _))

/-- TRIG_SET of any program but a single edge writes it into its own trigger, and changes no other. -/
theorem exec_trigSet_writes (ha : admits .trigSet {} r s = true) (hd : delivered r s = true) (hm : maskOf r.payload ≠ 0)
    (hp : trigPayloadOk r.payload = true) (hnew : (trigWritten r.payload (taken r s)).mode ≠ 1) :
    ∃ f : Trigger → Trigger, (∀ x, (f x).cfg = trigWritten r.payload (taken r s)) ∧
      ((trigWritten r.payload (taken r s)).mode = 0 → ∀ x, (f x).next = none) ∧
      exec (.trigSet r) s = .next (acted .trigSet r s [] (updTrig (namedTrig r.payload) f (taken r s))) := by
  by_cases hoff : (trigWritten r.payload (taken r s)).mode = 0
  · exact ⟨_, fun _ => rfl, fun _ _ => rfl, exec_trigSet ha hd (doTrigSet_ends hp hm hoff)⟩
  · exact ⟨_, fun _ => rfl, fun h => absurd h hoff, exec_trigSet ha hd (doTrigSet_arms hp hm hoff fun h => absurd h hnew)⟩

end Requests

/-! Wakes (R353, R356, R357). -/

/-- What is sent to the partner changes the control interface, the network's unit and the pair's. -/
def LinkOnly (s t : State) : Prop := t = { s with host := t.host, net := t.net, twin := t.twin }

theorem LinkOnly.refl (s : State) : LinkOnly s s := rfl
theorem LinkOnly.trans {s t u : State} (h : LinkOnly s t) (k : LinkOnly t u) : LinkOnly s u := by
  unfold LinkOnly at *; rw [k, h]

theorem HostOnly.linkOnly {s t : State} (h : HostOnly s t) : LinkOnly s t := by
  unfold HostOnly at h; unfold LinkOnly; rw [h]

theorem LinkOnly.power {s t : State} (h : LinkOnly s t) : t.power = s.power := by unfold LinkOnly at h; rw [h]
theorem LinkOnly.media {s t : State} (h : LinkOnly s t) : t.media = s.media := by unfold LinkOnly at h; rw [h]
theorem LinkOnly.scene {s t : State} (h : LinkOnly s t) : t.scene = s.scene := by unfold LinkOnly at h; rw [h]
theorem LinkOnly.rend {s t : State} (h : LinkOnly s t) : t.rend = s.rend := by unfold LinkOnly at h; rw [h]
theorem LinkOnly.boot {s t : State} (h : LinkOnly s t) : t.boot = s.boot := by unfold LinkOnly at h; rw [h]

theorem sendTwin_moor_linkOnly (kind : Nat) (args : List Nat) (data : Bytes) (s : State) :
    LinkOnly s (sendTwin kind true args data s) := by
  unfold sendTwin sendMoor
  rw [if_pos rfl]
  split <;> rfl

theorem forwardDecision_linkOnly (args : List Nat) (s : State) : LinkOnly s (forwardDecision args s) := by
  unfold forwardDecision
  split
  · exact .trans (t := { s with twin.sendSeq := wrapAdd 32 s.twin.sendSeq 1 }) rfl (sendTwin_moor_linkOnly ..)
  · exact .refl s

section Wakes
variable {s : State} {k : WakeKind}

/-- The state with a wake recorded (R356). -/
def woken (k : WakeKind) (s : State) : State :=
  { s with power.wake := k, power.wakeReason := wakeCode k, power.nextReason := wakeCode k }

theorem startWake_deep (h : s.power.stage ≠ 2) : startWake k s = woken k s := if_neg h

/-- A wake from P2 fixes the tick at which rendering resumes, and tells the partner. -/
theorem startWake_p2 (h : s.power.stage = 2) :
    LinkOnly { woken k s with power.resumeTick := some s.resumeAt } (startWake k s) := by
  unfold startWake
  dsimp only
  rw [if_pos h]
  exact forwardDecision_linkOnly ..

/-- A wake that starts changes its own fields of the power unit alone. -/
theorem startWake_power (k : WakeKind) (s : State) :
    ∃ tick, (startWake k s).power = { (woken k s).power with resumeTick := tick } := by
  by_cases h : s.power.stage = 2
  · exact ⟨_, (startWake_p2 h).power⟩
  · exact ⟨_, congrArg State.power (startWake_deep h)⟩

theorem wakeUp_starts (hstandby : s.flag mStandby = false) (hwaking : s.waking = false) (hstage : s.power.stage ≠ 1)
    (hwakes : wakesFrom s k s.power.stage = true) : wakeUp k s = startWake k s := by
  unfold wakeUp
  rw [if_neg (by simp [hstandby, hwaking]), if_neg hstage, if_neg (by simp [hwakes])]

/-- A low of a width that is seen (R356, Table 16.12). -/
theorem exec_wakeNLow {ns : Nat} (h : (wakeWidths s).2 ≤ ns) : exec (.wakeNLow ns) s = .next (wakeUp .wakeN s) := if_pos h

theorem exec_wakeTimer (h : s.power.timer ≠ 0) : exec .wakeTimer s = .next (wakeUp .timer s) := if_neg h

theorem wakeWidths_p4 (h : s.power.stage = 4) : (wakeWidths s).2 = 2000000 := by
  unfold wakeWidths
  rw [if_pos h]

theorem wakeWidths_le (h : s.power.stage ≠ 4) : (wakeWidths s).2 ≤ 1003 := by
  unfold wakeWidths wakeFilter
  rw [if_neg h]
  exact Nat.add_le_add_right (Nat.min_le_left ..) 3

/-- A WAKE_N wakes from P2, P3 and P4, the wake timer from P3 and P4 (R356). -/
theorem wakesFrom_wakeN (h : s.power.stage = 2 ∨ s.power.stage = 3 ∨ s.power.stage = 4) :
    wakesFrom s .wakeN s.power.stage = true := by
  rcases h with h | h | h <;> rw [h] <;> rfl

theorem wakesFrom_timer (h : s.power.stage = 3 ∨ s.power.stage = 4) : wakesFrom s .timer s.power.stage = true := by
  rcases h with h | h <;> rw [h] <;> rfl

end Wakes

/-! PLLs and references in every state (R266, R275). -/

theorem getLsbD_setBit8 (w : BitVec 8) (p : Fin 8) (v : Bool) : (setBit8 w p.val v).getLsbD p.val = v := by
  have own : (BitVec.ofNat 8 (2 ^ p.val)).getLsbD p.val = true := by
    rw [BitVec.getLsbD_ofNat, Nat.testBit_two_pow_self]
    simp
  unfold setBit8
  cases v
  · simp only [Bool.false_eq_true, if_false, BitVec.getLsbD_and, BitVec.getLsbD_not, own, Bool.not_true, Bool.and_false]
  · simp only [if_true, BitVec.getLsbD_or, own, Bool.or_true]

/-- HOLD leaves the choice of the reference. -/
theorem enterHold_ref (reason : Nat) (s : State) : (enterHold reason s).time.ref = s.time.ref := by
  by_cases h : s.time.servo.state = 4
  · rw [enterHold, if_pos h]
  · rw [enterHold_time h]

section Plls
variable {s : State} {p : Fin 8}

theorem exec_pllLoss_alone (p : Fin 8) (s : State) :
    exec (.pllLoss p false) s =
      .next (timeEvent 4 [p.val] { s with time.coasting := setBit8 s.time.coasting p.val true }) := rfl

/-- A loss makes the PLL coast, whether or not REFCLK25 is what it has lost (R275). -/
theorem exec_pllLoss_coasts (b : Bool) :
    ∃ t, exec (.pllLoss p b) s = .next t ∧ t.time.coasting.getLsbD p.val = true ∧ t.time.pllLock = s.time.pllLock := by
  cases b with
  | false =>
    refine ⟨_, exec_pllLoss_alone p s, ?_, ?_⟩ <;> rw [(timeEvent_host ..).time]
    exact getLsbD_setBit8 ..
  | true =>
    refine ⟨_, exec_pllLoss_refclk p s, ?_, ?_⟩ <;> rw [timeEvent_setFlag_time]
    · rw [refclkGone, BitVec.getLsbD_or, getLsbD_setBit8, Bool.true_or]
    · rfl

/-- The return of a PLL's reference ends its coasting (R275). -/
theorem exec_pllReferenceReturn_tracks :
    ∃ t, exec (.pllReferenceReturn p) s = .next t ∧ t.time.coasting.getLsbD p.val = false ∧ t.time.pllLock = s.time.pllLock ∧
      t.power = s.power := by
  cases h : s.time.servo.refclkLost && (refclkPlls s).getLsbD p.val with
  | false => exact ⟨_, exec_pllReferenceReturn_alone h, getLsbD_setBit8 .., rfl, rfl⟩
  | true =>
    obtain ⟨hlost, hfed⟩ := Bool.and_eq_true_iff.1 h
    exact ⟨_, exec_pllReferenceReturn_refclk hlost hfed,
      by rw [BitVec.getLsbD_and, getLsbD_setBit8, Bool.false_and], rfl, rfl⟩

theorem exec_reference_other (h : s.time.ref ∉ [1, 2, 3]) :
    exec .referenceLost s = .next s ∧ exec .referenceQualified s = .next s :=
  ⟨if_neg (by simpa using h), if_neg (by simpa using h)⟩

end Plls

/-! The pause of DOZE (R352, R358). -/

theorem setPstate_host (n : Nat) (s : State) : HostOnly { s with power.pstate := n } (setPstate n s) := by
  unfold setPstate
  split
  · next h => subst h; exact .refl s
  · exact logEvent_host ..

/-- Changes of Quays are changes of the Quays alone. -/
theorem foldl_updQuay (f : Nat → Quay → Quay) (l : List Nat) (s : State) :
    ∃ quays, l.foldl (fun s q => updQuay q (f q) s) s = { s with rend.quays := quays } := by
  induction l generalizing s with
  | nil => exact ⟨s.rend.quays, rfl⟩
  | cons q l ih =>
    obtain ⟨quays, h⟩ := ih (updQuay q (f q) s)
    exact ⟨quays, by rw [List.foldl_cons, h]; rfl⟩

theorem gateQuays_quays (on : Bool) (s : State) : ∃ quays, gateQuays on s = { s with rend.quays := quays } :=
  foldl_updQuay _ _ s

section Pause
variable {s : State}

theorem enterP2_power (s : State) : (enterP2 s).power =
    { s.power with stage := 2, p2 := wrapAdd 32 s.power.p2 1, gated := 0x10F, pstate := 2 } := by
  obtain ⟨quays, gated⟩ := gateQuays_quays true (allAsleep s)
  unfold enterP2
  rw [gated, (setPstate_host ..).power]
  rfl

/-- Entering HOLD changes the mode word of the power unit at most. -/
theorem enterHold_power (reason : Nat) (s : State) : ∃ w, (enterHold reason s).power = { s.power with word := w } := by
  unfold enterHold
  split
  · exact ⟨s.power.word, rfl⟩
  · obtain ⟨w, h⟩ := setFlag_host mCoast true srcDevice (updServo (fun _ => heldServo s) s)
    exact ⟨w, (timeEvent_host ..).power.trans h.power⟩

theorem enterP3_power (s : State) : ∃ w, (enterP3 s).power =
    { s.power with word := w, pstate := 3, stage := 3, p3 := wrapAdd 32 s.power.p3 1, timer := s.power.entry.wakeTimer } := by
  obtain ⟨held, hheld⟩ := enterHold_power 3 s
  obtain ⟨w, hcoast⟩ := setFlag_host mCoast true srcDevice (enterHold 3 s)
  have asleep : (setPstate 3 (allAsleep (setFlag mCoast true srcDevice (enterHold 3 s)))).power =
      { s.power with word := w, pstate := 3 } := by
    rw [(setPstate_host ..).power, show (allAsleep (setFlag mCoast true srcDevice (enterHold 3 s))).power = _ from hcoast.power]
    dsimp only
    rw [hheld]
  refine ⟨w, ?_⟩
  unfold enterP3 discardRender
  dsimp only
  rw [asleep]

/-- The state in which the pause chooses: a warp stops, and the choice is kept. -/
def pausing (s : State) : State :=
  { pauseWarp s with power.chosen := choosePower s, power.wake := .none, power.wakeHeld := false }

theorem pausing_power (s : State) :
    (pausing s).power = { s.power with chosen := choosePower s, wake := .none, wakeHeld := false } := by
  unfold pausing pauseWarp
  split <;> rfl

/-- The state chosen, as it is entered. -/
def paused (s : State) : State :=
  if choosePower s = 4 then enterP4 (pausing s) else if choosePower s = 3 then enterP3 (pausing s) else enterP2 (pausing s)

/-- The pause enters the state chosen, and a wake that came meanwhile starts from it (R357). -/
theorem dozePause_paused (hstage : s.power.stage = 1) (hsafe : s.flag mSafe = false) (hdown : allDown s = true) :
    dozePause s = paused s ∨ ∃ k, dozePause s = startWake k (paused s) := by
  have due : ¬ (s.power.stage ≠ 1 || s.flag mSafe || !allDown s) = true := by simp [hstage, hsafe, hdown]
  have entered : dozePause s = match (if s.power.wakeHeld then some s.power.wake else none) with
      | some k => if (paused s).flag mStandby then paused s else startWake k (paused s)
      | none => paused s := if_neg due
  rw [entered]
  split
  · split
    · exact .inl rfl
    · exact .inr ⟨_, rfl⟩
  · exact .inl rfl

/-- What the entry to a state is counted by, and what tells which it is. -/
structure EntryCounted (s t : State) : Prop where
  stage : t.power.stage = choosePower s
  p2 : choosePower s = 2 → t.power.p2 = wrapAdd 32 s.power.p2 1
  p3 : choosePower s = 3 → t.power.p3 = wrapAdd 32 s.power.p3 1
  p4 : choosePower s = 4 → t.power.holdCount = wrapAdd 32 s.power.holdCount 1 ∧ t.power.pwrEn = false

/-- The pause chooses P2, P3 or P4 (R358). -/
theorem choosePower_cases (s : State) : choosePower s = 4 ∨ choosePower s = 3 ∨ choosePower s = 2 := by
  unfold choosePower
  dsimp only
  split
  · exact .inl rfl
  · split
    · exact .inr (.inl rfl)
    · exact .inr (.inr rfl)

theorem paused_counted (s : State) : EntryCounted s (paused s) := by
  have before := pausing_power s
  rcases choosePower_cases s with h | h | h
  · have entered : paused s = enterP4 (pausing s) := if_pos h
    rw [entered]
    have counted : (enterP4 (pausing s)).power.holdCount = wrapAdd 32 (pausing s).power.holdCount 1 := rfl
    rw [before] at counted
    exact ⟨h.symm, by simp [h], by simp [h], fun _ => ⟨counted, rfl⟩⟩
  · have entered : paused s = enterP3 (pausing s) := by simp [paused, h]
    obtain ⟨w, power⟩ := enterP3_power (pausing s)
    rw [before] at power
    rw [entered]
    exact ⟨by rw [power, h], by simp [h], fun _ => by rw [power], by simp [h]⟩
  · have entered : paused s = enterP2 (pausing s) := by simp [paused, h]
    have power := enterP2_power (pausing s)
    rw [before] at power
    rw [entered]
    exact ⟨by rw [power, h], fun _ => by rw [power], by simp [h], by simp [h]⟩

/-- A wake that starts changes none of it. -/
theorem EntryCounted.startWake {s t : State} (h : EntryCounted s t) (k : WakeKind) : EntryCounted s (startWake k t) := by
  obtain ⟨tick, power⟩ := startWake_power k t
  exact ⟨by rw [power]; exact h.stage, fun hc => by rw [power]; exact h.p2 hc, fun hc => by rw [power]; exact h.p3 hc,
    fun hc => by rw [power]; exact h.p4 hc⟩

theorem dozePause_counted (hstage : s.power.stage = 1) (hsafe : s.flag mSafe = false) (hdown : allDown s = true) :
    EntryCounted s (dozePause s) := by
  rcases dozePause_paused hstage hsafe hdown with h | ⟨k, h⟩ <;> rw [h]
  · exact paused_counted s
  · exact (paused_counted s).startWake k

end Pause

end Sys2Proof.Machine
end

section
/-!
PROOFS. The resume of rendering and the wake from P3 (R353, R354), and the statement of all of them (R252, R266, R270, R275, R352 to
R358).
-/
namespace Sys2Proof.Machine

/-! The resume of rendering (R353). -/

section Resume
variable {s : State} {w : Nat}

/-- A mark set for each of some slots reads back. -/
theorem look_foldl_ins {l : List Nat} {m : SMap Nat} {n v : Nat} (h : n ∈ l ∨ SMap.look m n = some v) :
    SMap.look (l.foldl (fun m n => SMap.ins m n v) m) n = some v := by
  induction l generalizing m with
  | nil => exact h.resolve_left List.not_mem_nil
  | cons k l ih =>
    refine ih ?_
    by_cases hk : n = k
    · exact .inr (by rw [hk, SMap.look_ins_same])
    · refine h.imp (fun hn => ?_) fun hn => ?_
      · exact (List.mem_cons.1 hn).resolve_left hk
      · rw [SMap.look_ins_other _ _ _ _ hk, hn]

/-- The flag that a resume restores: LIVE where it was asked for, DARK otherwise (R353). -/
def resumeFlag (s : State) : Nat := if s.power.resume == 1 then mLive else mDark

theorem resumeFlag_eq (s : State) : resumeFlag s = if s.power.resume = 1 then mLive else mDark := by simp [resumeFlag]

/-- The word with DOZE clear and that flag restored. -/
def resumedWord (s : State) : BitVec 16 := setIn (withFlag s.power.word mDoze false) (resumeFlag s)

theorem resumedWord_flags (s : State) :
    (resumedWord s).getLsbD mDoze = false ∧ (resumedWord s).getLsbD (resumeFlag s) = true := by
  unfold resumedWord resumeFlag
  split
  · rw [setIn, if_pos rfl]
    simp (disch := decide) only [getLsbD_withFlag]
    simp [mLive, mDark, mDoze]
  · rw [setIn, if_neg (by decide), if_pos rfl]
    simp (disch := decide) only [getLsbD_withFlag]
    simp [mLive, mDark, mDoze]

/-- The marks of the object slots at the resume (R89, R353). -/
def resumeMarks (w : Nat) (s : State) : SMap Nat :=
  (s.scene.stats.filterMap fun e => e.2.slot).foldl (fun m n => SMap.ins m n (w + 4)) []

theorem look_resumeMarks {e : Nat × ObjStat} {n : Nat} (he : e ∈ s.scene.stats) (hn : e.2.slot = some n) :
    SMap.look (resumeMarks w s) n = some (w + 4) :=
  look_foldl_ins (.inl (List.mem_filterMap.2 ⟨e, he, hn⟩))

/-- What ends a resume: the Quays' engines, the power-state event and the Nose. -/
theorem resumeEnd_frame (s : State) :
    ∃ quays, (noseFollow (setPstate 0 (gateQuays false s))).power = { s.power with pstate := 0 } ∧
      (noseFollow (setPstate 0 (gateQuays false s))).rend = { s.rend with quays := quays } := by
  obtain ⟨quays, gated⟩ := gateQuays_quays false s
  obtain ⟨dev, followed⟩ := noseFollow_dev (setPstate 0 (gateQuays false s))
  rw [followed]
  refine ⟨quays, (setPstate_host ..).power.trans ?_, (setPstate_host ..).rend.trans ?_⟩ <;> rw [gated]

/-- With no mode bits waiting, the resume ends DOZE in the mode that its flag asks for, with both marks of every slot set. -/
theorem dozeResume_frame (hd : s.power.deferred = []) :
    (dozeResume w s).power = { s.power with
      stage := 0, resumeTick := none, wake := .none, lastWake := w, gated := 0, byDrydown := false, resume := 0
      word := resumedWord s, pstate := 0 } ∧
    (dozeResume w s).rend.nearMark = resumeMarks w s ∧ (dozeResume w s).rend.longMark = resumeMarks w s := by
  unfold dozeResume
  extract_lets slots marks quiet out _ _ _ restarted live word _ worded
  have hworded : HostOnly { restarted with power.resume := 0, power.word := word } worded := setWord_host ..
  obtain ⟨quays, power, rend⟩ := resumeEnd_frame worded
  rw [hworded.power] at power
  rw [hworded.rend] at rend
  have calm : (noseFollow (setPstate 0 (gateQuays false worded))).power.deferred = [] := by rw [power]; exact hd
  rw [runDeferred_none calm, runDeferred_none calm, power, rend]
  exact ⟨rfl, rfl, rfl⟩

theorem exec_dozeResume (hw : s.power.resumeTick = some w) (hstage : s.power.stage = 2) (hsafe : s.flag mSafe = false)
    (hlate : s.nextBlock ≤ w + 16) (hdue : w + s.media.catchL + 16 ≤ s.idx) :
    exec .dozeResume s = .next (dozeResume w s) := by
  change execDozeResume s = _
  unfold execDozeResume
  rw [hw]
  exact if_pos (by simp [hstage, hsafe, hlate, hdue])

end Resume

/-! What answers leave, list by list. -/

theorem HostOnly.foldl {α : Type} {f : State → α → State} (hf : ∀ s a, HostOnly s (f s a)) (l : List α) (s : State) :
    HostOnly s (l.foldl f s) := by
  induction l generalizing s with
  | nil => exact .refl s
  | cons a l ih => exact (hf s a).trans (ih _)

theorem flushHeld_host (n m : Nat) (s : State) : HostOnly s (flushHeld n m s) := by
  induction n generalizing s with
  | zero => exact .refl s
  | succ n ih =>
    unfold flushHeld
    split
    · exact .refl s
    · split
      · exact .refl s
      · exact (updMaster_host ..).trans ((writeResponse_host ..).trans (ih _))

theorem readyRings_host (s : State) : HostOnly s (readyRings s) :=
  .foldl (fun _ _ => .ite ((updMaster_host ..).trans (flushHeld_host ..)) (.refl _)) _ _

theorem answerCmd_host (c : Cmd) (st : Status) (body : Bytes) (s : State) : HostOnly s (answerCmd c st body s) := by
  unfold answerCmd
  split
  · exact .ite (.refl s) (respond_host ..)
  · exact .refl s

theorem discardCmds_host (s : State) : HostOnly s (discardCmds s) :=
  .trans (t := { s with host.cmds := s.host.cmds.filter fun c => c.applied }) rfl (.foldl (fun _ _ => answerCmd_host ..) _ _)

theorem endTransfers_host (f : Transfer → Bool) (st : Status) (s : State) : HostOnly s (endTransfers f st s) :=
  .trans (t := { s with host.transfers := s.host.transfers.filter fun t => !f t }) rfl
    (.foldl (fun _ _ => (updMaster_host ..).trans ((updMaster_host ..).trans (respond_host ..))) _ _)

theorem answerOwed_host (o : Owed) (st : Status) (body : Bytes) (s : State) : HostOnly s (answerOwed o st body s) := by
  unfold answerOwed
  exact .ite (.refl s) (.trans (.ite (.refl s) (updMaster_host ..)) (respond_host ..))

theorem settleOwed_host (op : Opcode) (key : Nat) (st : Status) (body : Bytes) (s : State) :
    HostOnly s (settleOwed op key st body s) :=
  .trans (t := { s with host.owed := s.host.owed.filter fun o => !(o.op == op && o.key == key) }) rfl
    (.foldl (fun _ _ => answerOwed_host ..) _ _)

/-! What a boot keeps of the lantern's reason and its count (R385, R391). -/

/-- The wake reason and the count of boots are as before. -/
structure BootKept (s t : State) : Prop where
  reason : t.power.wakeReason = s.power.wakeReason
  boots : t.boot.boots = s.boot.boots

theorem BootKept.refl (s : State) : BootKept s s := ⟨rfl, rfl⟩

theorem BootKept.trans {s t u : State} (h : BootKept s t) (k : BootKept t u) : BootKept s u :=
  ⟨k.reason.trans h.reason, k.boots.trans h.boots⟩

/-- The same, told from the end. -/
theorem BootKept.after {s t u : State} (k : BootKept t u) (h : BootKept s t) : BootKept s u := h.trans k

theorem BootKept.ite {c : Prop} [Decidable c] {s a b : State} (ha : BootKept s a) (hb : BootKept s b) :
    BootKept s (if c then a else b) := by split <;> assumption

theorem HostOnly.bootKept {s t : State} (h : HostOnly s t) : BootKept s t := ⟨by rw [h.power], by rw [h.boot]⟩

theorem logEvent_bootKept (cause sub src : Nat) (args : List Nat) (s : State) : BootKept s (logEvent cause sub src args s) :=
  (logEvent_host ..).bootKept

theorem setWord_bootKept (w : BitVec 16) (src : Nat) (s : State) : BootKept s (setWord w src s) :=
  .trans (t := { s with power.word := w }) ⟨rfl, rfl⟩ (setWord_host ..).bootKept

theorem sendTwin_bootKept (kind : Nat) (moor : Bool) (args : List Nat) (data : Bytes) (s : State) :
    BootKept s (sendTwin kind moor args data s) := by
  obtain ⟨power, boot⟩ := sendTwin_power kind moor args data s
  exact ⟨by rw [power], by rw [boot]⟩

theorem releaseRole_bootKept (s : State) : BootKept s (releaseRole s) := by
  unfold releaseRole
  obtain ⟨w, h⟩ := setFlag_host mActive false srcDevice { s with twin.stopAt := some s.nextEmit }
  have fell : BootKept s (setFlag mActive false srcDevice { s with twin.stopAt := some s.nextEmit }) :=
    .trans (t := { s with twin.stopAt := some s.nextEmit, power.word := w }) ⟨rfl, rfl⟩ h.bootKept
  exact .ite (fell.trans ((sendTwin_bootKept ..).trans (sendTwin_bootKept ..))) (.refl s)

theorem closeAll_bootKept (s : State) : BootKept s (closeAll s) := by
  unfold closeAll
  extract_lets b now
  have answered : HostOnly s now := .foldl (fun _ _ => settleOwed_host ..) _ _
  exact ⟨answered.bootKept.reason, answered.bootKept.boots⟩

theorem gateQuays_bootKept (on : Bool) (s : State) : BootKept s (gateQuays on s) := by
  obtain ⟨quays, h⟩ := gateQuays_quays on s
  rw [h]
  exact ⟨rfl, rfl⟩

theorem noseFollow_bootKept (s : State) : BootKept s (noseFollow s) := by
  obtain ⟨dev, h⟩ := noseFollow_dev s
  rw [h]
  exact ⟨rfl, rfl⟩

theorem setPstate_bootKept (n : Nat) (s : State) : BootKept s (setPstate n s) :=
  .trans (t := { s with power.pstate := n }) ⟨rfl, rfl⟩ (setPstate_host ..).bootKept

/-- Changes accepted and waiting are no matter of the boot. -/
theorem dropWaiting_bootKept (s : State) : BootKept s (dropWaiting s) := ⟨rfl, rfl⟩

theorem enterSafe_bootKept (reason : Nat) (s : State) : BootKept s (enterSafe reason s) := by
  unfold enterSafe
  extract_lets released discarded ended closed safe logged gated told
  have hreleased : BootKept s released := (readyRings_host s).bootKept.trans (releaseRole_bootKept _)
  have hended : BootKept released ended :=
    ((discardCmds_host released).trans ((endTransfers_host ..).trans (endTransfers_host ..))).bootKept
  have hclosed : BootKept ended closed := (dropWaiting_bootKept ended).trans (closeAll_bootKept _)
  have hlogged : BootKept closed logged := (setWord_bootKept ..).trans (logEvent_bootKept ..)
  have htold : BootKept logged told := (noseFollow_bootKept logged).trans ((gateQuays_bootKept ..).trans (setPstate_bootKept ..))
  have entered : BootKept s told := hreleased.trans (hended.trans (hclosed.trans (hlogged.trans htold)))
  exact .ite (.refl s) ⟨entered.reason, entered.boots⟩

theorem failBoot_bootKept (step reason : Nat) (t : SelfTest) (s : State) : BootKept s (failBoot step reason t s) :=
  (enterSafe_bootKept reason _).after ⟨rfl, rfl⟩

theorem loadCreds_bootKept (s : State) : BootKept s (loadCreds s) := by
  unfold loadCreds
  split
  · exact .ite (.refl s) ((logEvent_bootKept ..).after ⟨rfl, rfl⟩)
  · exact .refl s

theorem openDebug_bootKept (s : State) : BootKept s (openDebug s) := (logEvent_bootKept 19 2 srcDevice _ _).after ⟨rfl, rfl⟩

theorem raiseFloor_bootKept (m : Image) (s : State) : BootKept s (raiseFloor m s) := .ite (.refl s) ⟨rfl, rfl⟩

theorem firstWord_bootKept (s : State) : BootKept s (firstWord s) := by
  unfold firstWord twinEvent
  exact .ite ((logEvent_bootKept ..).after ((setWord_bootKept ..).after ⟨rfl, rfl⟩)) (setWord_bootKept ..)

theorem foldl_updAnaOut_bootKept (f : Nat → AnaOut → AnaOut) (l : List Nat) (s : State) :
    BootKept s (l.foldl (fun s o => updAnaOut o (f o) s) s) := by
  induction l generalizing s with
  | nil => exact .refl s
  | cons o l ih => exact (ih (updAnaOut o (f o) s)).after ⟨rfl, rfl⟩

theorem passBoot_bootKept (m : Image) (t : SelfTest) (s : State) : BootKept s (passBoot m t s) := by
  unfold passBoot
  extract_lets reported _ _ _ _ _ ready spanned worded
  have hready : BootKept s ready := ⟨rfl, rfl⟩
  have hspanned : BootKept ready spanned := foldl_updAnaOut_bootKept ..
  have hworded : BootKept spanned worded :=
    (readyRings_host spanned).bootKept.trans ((firstWord_bootKept _).trans (raiseFloor_bootKept ..))
  exact (hready.trans (hspanned.trans hworded)).trans (.ite (enterSafe_bootKept ..) (.refl _))

theorem runImage_bootKept (slot : Nat) (m : Image) (t : SelfTest) (s : State) : BootKept s (runImage slot m t s) := by
  unfold runImage
  extract_lets _ _ _ loaded
  have hloaded : BootKept s loaded := ⟨rfl, rfl⟩
  refine .ite ⟨rfl, rfl⟩ ?_
  split
  · exact hloaded.trans (failBoot_bootKept ..)
  · exact hloaded.trans (passBoot_bootKept ..)

theorem bootFlash_bootKept (watchdog : Bool) (t : SelfTest) (s : State) : BootKept s (bootFlash watchdog t s) := by
  unfold bootFlash
  dsimp only
  split
  · exact (failBoot_bootKept ..).after ⟨rfl, rfl⟩
  · split
    · exact (runImage_bootKept ..).after ⟨rfl, rfl⟩
    · exact ⟨rfl, rfl⟩

theorem logStraps_bootKept (s : State) : BootKept s (logStraps s) := by
  unfold logStraps
  exact .trans (.ite (logEvent_bootKept ..) (.refl s)) (.ite (logEvent_bootKept ..) (.refl _))

/-- A boot counts itself and keeps the wake reason that it was given (R391). -/
theorem bootFrom_counted (straps : Straps) (reason : Nat) (watchdog : Bool) (t : SelfTest) (s : State) :
    (bootFrom straps reason watchdog t s).power.wakeReason = reason ∧
    (bootFrom straps reason watchdog t s).boot.boots = s.boot.boots + 1 := by
  unfold bootFrom
  extract_lets cold _ _ _ _ _ _ _ _ released strapped loaded
  have hstrapped : BootKept released strapped := (logStraps_bootKept (linkLocal released)).after ⟨rfl, rfl⟩
  have hloaded : BootKept strapped loaded :=
    (loadCreds_bootKept _).after (.ite (openDebug_bootKept strapped) (.refl strapped))
  have counted : BootKept released loaded := hstrapped.trans hloaded
  clear_value loaded
  split
  · exact ⟨((failBoot_bootKept ..).after counted).reason, ((failBoot_bootKept ..).after counted).boots⟩
  · split
    · exact ⟨((bootFlash_bootKept ..).after counted).reason, ((bootFlash_bootKept ..).after counted).boots⟩
    · exact ⟨counted.reason, counted.boots⟩

/-! The wake from P3 (R354). -/

section P3
variable {s : State} {kind : WakeKind} {sealed trained : Bool} {st : SelfTest}

theorem report_host (m : Member) (join : Bool) (s : State) : HostOnly s (report m join s) := (queueOwn_host ..).trans (send_host ..)

theorem restoreP3_restores (kind : WakeKind) (s : State) :
    let t := restoreP3 kind s
    t.power.stage = 2 ∧ t.power.wakeReason = wakeCode kind ∧ t.power.resumeTick.isSome = true ∧ t.host.ready = true ∧
    t.boot = s.boot ∧ t.scene = s.scene := by
  have joined : HostOnly s (s.net.members.foldl (fun s m => report m true s) s) := .foldl (fun _ _ => report_host ..) _ _
  exact ⟨rfl, rfl, rfl, rfl, joined.boot, joined.scene⟩

/-- A wake that P3 knows is taken up there. -/
theorem wakeTaken (hstage : s.power.stage = 3) (hwakes : wakesFrom s kind 3 = true) :
    ¬ (s.power.stage ≠ 3 || !(wakesFrom s kind 3 || (kind != .none && s.power.wake == kind))) = true := by
  simp [hstage, hwakes]

theorem exec_p3WakeRestore_restores (hstage : s.power.stage = 3) (hwakes : wakesFrom s kind 3 = true) :
    exec (.p3WakeRestore kind true true st) s = .next (restoreP3 kind s) :=
  (if_neg (wakeTaken hstage hwakes)).trans (if_pos rfl)

/-- With a broken seal, or no working DRAM setting, the device boots cold. -/
theorem exec_p3WakeRestore_boots (hstage : s.power.stage = 3) (hwakes : wakesFrom s kind 3 = true)
    (hbroken : (sealed && trained) = false) :
    exec (.p3WakeRestore kind sealed trained st) s =
      .next { bootFrom s.boot.straps 6 false st { s with power.nextReason := 6 } with
        power.resumeFails := wrapAdd 32 s.power.resumeFails 1 } :=
  (if_neg (wakeTaken hstage hwakes)).trans (if_neg (Bool.eq_false_iff.1 hbroken))

end P3

/-! The parts of the statement. -/

section Parts
variable {s : State}

/-- What a wake leaves behind: its code, in the stage it found. -/
def WakeRecorded (s : State) (code : Nat) (t : State) : Prop :=
  t.power.wakeReason = code ∧ t.power.nextReason = code ∧ t.power.stage = s.power.stage ∧ t.media = s.media ∧ t.scene = s.scene ∧
  t.rend = s.rend ∧ t.boot = s.boot

theorem woken_recorded (k : WakeKind) (s : State) : WakeRecorded s (wakeCode k) (woken k s) :=
  ⟨rfl, rfl, rfl, rfl, rfl, rfl, rfl⟩

/-- A wake that starts is recorded; from P2 with its tick. -/
theorem startWake_recorded (k : WakeKind) (s : State) :
    WakeRecorded s (wakeCode k) (startWake k s) ∧ (s.power.stage = 2 → (startWake k s).power.resumeTick = some s.resumeAt) := by
  by_cases h : s.power.stage = 2
  · have sent := startWake_p2 (k := k) h
    refine ⟨⟨?_, ?_, ?_, sent.media, sent.scene, sent.rend, sent.boot⟩, fun _ => ?_⟩ <;> rw [sent.power] <;> rfl
  · rw [startWake_deep h]
    exact ⟨woken_recorded k s, fun h2 => absurd h2 h⟩

/-- A low on WAKE_N that is seen is recorded in P2, P3 and P4. -/
theorem exec_wakeNLow_recorded {ns : Nat} (hstandby : s.flag mStandby = false) (hwaking : s.waking = false)
    (hstage : s.power.stage = 2 ∨ s.power.stage = 3 ∨ s.power.stage = 4) (hns : (wakeWidths s).2 ≤ ns) :
    ∃ t, exec (.wakeNLow ns) s = .next t ∧ WakeRecorded s 1 t ∧ (s.power.stage = 2 → t.power.resumeTick = some s.resumeAt) := by
  have starts := wakeUp_starts hstandby hwaking (by omega) (wakesFrom_wakeN hstage)
  exact ⟨_, (exec_wakeNLow hns).trans (congrArg Host.Outcome.next starts), startWake_recorded .wakeN s⟩

/-- So is the wake timer in P3 and P4. -/
theorem exec_wakeTimer_recorded (hstandby : s.flag mStandby = false) (hwaking : s.waking = false)
    (hstage : s.power.stage = 3 ∨ s.power.stage = 4) (htimer : s.power.timer ≠ 0) :
    ∃ t, exec .wakeTimer s = .next t ∧ WakeRecorded s 2 t := by
  have starts := wakeUp_starts hstandby hwaking (by omega) (wakesFrom_timer hstage)
  exact ⟨_, (exec_wakeTimer htimer).trans (congrArg Host.Outcome.next starts), (startWake_recorded .timer s).1⟩

/-- The resume as the statement has it. -/
theorem exec_dozeResume_resumes {w : Nat} (hw : s.power.resumeTick = some w) (hstage : s.power.stage = 2)
    (hsafe : s.flag mSafe = false) (hcalm : s.power.deferred = []) (hlate : s.nextBlock ≤ w + 16)
    (hdue : w + s.media.catchL + 16 ≤ s.idx) :
    ∃ t, exec .dozeResume s = .next t ∧ t.power.stage = 0 ∧ t.power.resumeTick = none ∧ t.power.lastWake = w ∧
      t.flag mDoze = false ∧ t.flag (if s.power.resume = 1 then mLive else mDark) = true ∧
      ∀ e ∈ s.scene.stats, ∀ n, e.2.slot = some n →
        SMap.look t.rend.nearMark n = some (w + 4) ∧ SMap.look t.rend.longMark n = some (w + 4) := by
  obtain ⟨power, near, long⟩ := dozeResume_frame (w := w) hcalm
  obtain ⟨doze, mode⟩ := resumedWord_flags s
  refine ⟨_, exec_dozeResume hw hstage hsafe hlate hdue, by rw [power], by rw [power], by rw [power], ?_, ?_, fun e he n hn => ?_⟩
  · rw [State.flag, power]
    exact doze
  · rw [State.flag, power, ← resumeFlag_eq]
    exact mode
  · rw [near, long]
    exact ⟨look_resumeMarks he hn, look_resumeMarks he hn⟩

end Parts

/-- Settles O60: each command by what it writes, and what its answer, its log entries and its word to the partner leave. -/
theorem timeAndWakeCommandsComplete : Obligations.TimeAndWakeCommandsComplete := by
  refine ⟨fun r s ha hd hm hp => ⟨fun hk => ?record, fun hk hpps => ?reference⟩, fun r s ha hd hm hp hnew => ?trigger,
    fun s hstandby hwaking => ⟨fun ns hstage hns => ?wakeP2, fun ns hstage hns => ?wakeP3, fun ns hstage hns => ?wakeP4,
      fun hstage htimer => exec_wakeTimer_recorded hstandby hwaking hstage htimer⟩,
    fun p s => ⟨⟨_, rfl, getLsbD_setBit8 .., getLsbD_setBit8 .., rfl⟩, exec_pllLoss_coasts, exec_pllReferenceReturn_tracks,
      fun href => ⟨_, exec_referenceLost href, rfl, enterHold_ref 5 s⟩, fun href => ⟨_, exec_referenceQualified href, ?qualified⟩,
      exec_reference_other⟩,
    fun s hstage hsafe hdown => ?pause,
    fun w s hw hstage hsafe hcalm hlate hdue => exec_dozeResume_resumes hw hstage hsafe hcalm hlate hdue,
    fun kind st s hstage hwakes => ⟨?restore, fun sealed trained hbroken => ?boot⟩⟩
  case record =>
    have own : kindOf r.payload ≠ 0 := by omega
    have written := exec_timeCfg_record ha hd hm hp (hk.imp_left fun ⟨hk, hi⟩ => ⟨hk, by simp [hi]⟩)
    have kept := acted_timeCfg_host (s := s) own { taken r s with time.newCfgs := (taken r s).time.newCfgs ++ [r.payload] }
    exact ⟨_, written, kept.time, kept.media, kept.power, kept.scene⟩
  case reference =>
    have own : kindOf r.payload ≠ 0 := by omega
    have kept := acted_timeCfg_host (s := s) own { taken r s with time.newRef := some (getU r.payload 8 1) }
    exact ⟨_, exec_timeCfg_reference ha hd hm hp hk hpps, kept.time, kept.media, kept.power, kept.scene⟩
  case trigger =>
    obtain ⟨f, hcfg, hoff, written⟩ := exec_trigSet_writes ha hd hm hp hnew
    have kept := acted_trigSet_host (r := r) (s := s) (updTrig (namedTrig r.payload) f (taken r s))
    refine ⟨_, written, ?_, fun h => ?_, fun j hj => ?_, kept.media, kept.power, kept.scene⟩
    · rw [kept.trig]
      exact (congrArg Trigger.cfg (updTrig_same ..)).trans (hcfg _)
    · rw [kept.trig]
      exact (congrArg Trigger.next (updTrig_same ..)).trans (hoff h _)
    · rw [kept.trig]
      exact updTrig_other _ _ _ _ hj
  case wakeP2 =>
    have seen : (wakeWidths s).2 ≤ ns := Nat.le_trans (wakeWidths_le (by omega)) hns
    obtain ⟨t, ht, recorded, tick⟩ := exec_wakeNLow_recorded hstandby hwaking (.inl hstage) seen
    exact ⟨t, ht, recorded, tick hstage⟩
  case wakeP3 =>
    have seen : (wakeWidths s).2 ≤ ns := Nat.le_trans (wakeWidths_le (by omega)) hns
    obtain ⟨t, ht, recorded, -⟩ := exec_wakeNLow_recorded hstandby hwaking (.inr (.inl hstage)) seen
    exact ⟨t, ht, recorded⟩
  case wakeP4 =>
    have seen : (wakeWidths s).2 ≤ ns := Nat.le_trans (Nat.le_of_eq (wakeWidths_p4 hstage)) hns
    obtain ⟨t, ht, recorded, -⟩ := exec_wakeNLow_recorded hstandby hwaking (.inr (.inr hstage)) seen
    exact ⟨t, ht, recorded⟩
  case qualified =>
    rw [leaveHold_time]
    exact ⟨leftServo_extOk, rfl⟩
  case pause =>
    obtain ⟨stage, p2, p3, p4⟩ := dozePause_counted hstage hsafe hdown
    exact ⟨_, rfl, stage, p2, p3, p4⟩
  case restore => exact ⟨_, exec_p3WakeRestore_restores hstage hwakes, restoreP3_restores kind s⟩
  case boot =>
    obtain ⟨reason, boots⟩ := bootFrom_counted s.boot.straps 6 false st { s with power.nextReason := 6 }
    exact ⟨_, exec_p3WakeRestore_boots hstage hwakes hbroken, reason, rfl, boots⟩

end Sys2Proof.Machine
end

section
/-!
PROOFS. The operations that the rows of a pair are built of (chapter 10): flags of the mode word, records sent to the partner, ADRIFT,
and the start and the end of a warp. What each sets, and what it leaves.
-/
namespace Sys2Proof.Machine

/-! Flags of the mode word (R343, R344). -/

section Flags
variable {s t : State}

theorem flag_of_power (h : t.power = s.power) (i : Nat) : t.flag i = s.flag i := by rw [State.flag, h, State.flag]

/-- A flag that is set is set after self-test (R345). -/
theorem word_ne_zero {i : Nat} (h : s.flag i = true) : s.power.word ≠ 0 := by
  intro hz
  simp [State.flag, hz] at h

theorem setWord_flag (w : BitVec 16) (src : Nat) (s : State) (i : Nat) : (setWord w src s).flag i = w.getLsbD i := by
  rw [State.flag, (setWord_host ..).power]

theorem setWord_twin (w : BitVec 16) (src : Nat) (s : State) : (setWord w src s).twin = s.twin := (setWord_host w src s).twin

/-- Outside SAFE and after self-test a flag takes its new value, and the others keep theirs (R344, R345). -/
theorem setFlag_flags {i : Nat} (hsafe : s.flag mSafe = false) (hword : s.power.word ≠ 0) (hi : i < 16) (v : Bool) (src j : Nat) :
    (setFlag i v src s).flag j = if j = i then v else s.flag j := by
  rw [setFlag_eq_setWord hsafe hword, setWord_flag]
  exact getLsbD_withFlag _ _ _ _ hi

theorem setFlag_twin (i : Nat) (v : Bool) (src : Nat) (s : State) : (setFlag i v src s).twin = s.twin := by
  obtain ⟨w, h⟩ := setFlag_host i v src s
  exact h.twin

theorem twinEvent_host (sub arg : Nat) (s : State) : HostOnly s (twinEvent sub arg s) := logEvent_host ..

theorem noseFollow_power (s : State) : (noseFollow s).power = s.power := by
  obtain ⟨dev, h⟩ := noseFollow_dev s
  rw [h]

theorem noseFollow_twin (s : State) : (noseFollow s).twin = s.twin := by
  obtain ⟨dev, h⟩ := noseFollow_dev s
  rw [h]

end Flags

/-! Records sent to the partner (R279, R280). -/

/-- A record on the mooring link is handed to its engine and takes a sequence number, and nothing else changes. -/
def MoorSent (s t : State) : Prop := t = { s with host.outbox := t.host.outbox, net.serviceSeq := t.net.serviceSeq }

section Sent
variable {s t u : State}

theorem MoorSent.refl (s : State) : MoorSent s s := rfl
theorem MoorSent.trans (h : MoorSent s t) (k : MoorSent t u) : MoorSent s u := by unfold MoorSent at *; rw [k, h]

theorem MoorSent.power (h : MoorSent s t) : t.power = s.power := by unfold MoorSent at h; rw [h]
theorem MoorSent.media (h : MoorSent s t) : t.media = s.media := by unfold MoorSent at h; rw [h]
theorem MoorSent.scene (h : MoorSent s t) : t.scene = s.scene := by unfold MoorSent at h; rw [h]
theorem MoorSent.rend (h : MoorSent s t) : t.rend = s.rend := by unfold MoorSent at h; rw [h]
theorem MoorSent.nose (h : MoorSent s t) : t.nose = s.nose := by unfold MoorSent at h; rw [h]
theorem MoorSent.twin (h : MoorSent s t) : t.twin = s.twin := by unfold MoorSent at h; rw [h]
theorem MoorSent.claims (h : MoorSent s t) : t.host.claims = s.host.claims := by unfold MoorSent at h; rw [h]
theorem MoorSent.rx (h : MoorSent s t) : t.net.rx = s.net.rx := by unfold MoorSent at h; rw [h]
theorem MoorSent.tx (h : MoorSent s t) : t.net.tx = s.net.tx := by unfold MoorSent at h; rw [h]

theorem sendMoor_sent (kind : Nat) (m : MoorHdr → OutMsg) (s : State) : MoorSent s (sendMoor kind m s) := by
  unfold sendMoor
  split
  · exact .refl s
  · rfl

theorem sendTwin_moor_sent (kind : Nat) (args : List Nat) (data : Bytes) (s : State) : MoorSent s (sendTwin kind true args data s) := by
  unfold sendTwin
  rw [if_pos rfl]
  exact sendMoor_sent ..

theorem queuePackets_twin (ps : List (Nat × TxPkt)) (s : State) : (queuePackets ps s).twin = s.twin := by
  unfold queuePackets
  induction ps generalizing s with
  | nil => rfl
  | cons e l ih =>
    refine (ih _).trans ?_
    dsimp only
    split <;> rfl

theorem sendService_twin (service count : Nat) (payload : Bytes) (s : State) : (sendService service count payload s).twin = s.twin := by
  unfold sendService
  dsimp only
  split
  · rfl
  · exact queuePackets_twin ..

/-- A record on either path leaves what the unit knows of the pair. -/
theorem sendTwin_twin (kind : Nat) (moor : Bool) (args : List Nat) (data : Bytes) (s : State) :
    (sendTwin kind moor args data s).twin = s.twin := by
  cases moor with
  | true => exact sendTwin_moor_twin ..
  | false =>
    change (if !s.twinBerths then s else sendService 2 1 (twinBytes kind args data) (send (.twin kind args data none) s)).twin = _
    split
    · rfl
    · exact sendService_twin ..

end Sent

/-! ADRIFT (R285, R295, R308). -/

section Adrift
variable {s : State}

/-- A standby that has gone ADRIFT remains a standby. -/
theorem setAdrift_flags (hstandby : s.flag mStandby = true) (hsafe : s.flag mSafe = false) (reason : Nat) :
    (setAdrift reason s).flag mAdrift = true ∧ ∀ i, i ≠ mAdrift → (setAdrift reason s).flag i = s.flag i := by
  unfold setAdrift
  cases hadrift : s.flag mAdrift with
  | true => simp [hadrift]
  | false =>
    have flags := setFlag_flags hsafe (word_ne_zero hstandby) (i := mAdrift) (by decide) true srcDevice
    simp only [hstandby, Bool.not_false, Bool.and_true, if_true, flag_of_power (twinEvent_host ..).power]
    exact ⟨(flags mAdrift).trans (if_pos rfl), fun i hi => (flags i).trans (if_neg hi)⟩

/-- Of what the unit knows of the pair, going ADRIFT changes its own count. -/
theorem setAdrift_twin (reason : Nat) (s : State) : ∃ n, (setAdrift reason s).twin = { s.twin with stat.adrift := n } := by
  unfold setAdrift
  split
  · refine ⟨wrapAdd 32 s.twin.stat.adrift 1, ?_⟩
    rw [(twinEvent_host ..).twin]
    dsimp only
    rw [setFlag_twin]
  · exact ⟨s.twin.stat.adrift, rfl⟩

end Adrift

/-! The start and the end of a warp (R296, R301). -/

/-- The start of a warp changes what the unit knows of warps, and is sent to the partner. -/
def WarpOnly (s t : State) : Prop := t = { s with
  host.outbox := t.host.outbox, net.serviceSeq := t.net.serviceSeq, twin.warp := t.twin.warp, twin.asked := t.twin.asked
  twin.retry := t.twin.retry, twin.stash := t.twin.stash }

section Start
variable {s t u : State}

theorem WarpOnly.refl (s : State) : WarpOnly s s := rfl
theorem WarpOnly.trans (h : WarpOnly s t) (k : WarpOnly t u) : WarpOnly s u := by unfold WarpOnly at *; rw [k, h]

theorem MoorSent.warpOnly (h : MoorSent s t) : WarpOnly s t := by unfold MoorSent at h; unfold WarpOnly; rw [h]

theorem WarpOnly.power (h : WarpOnly s t) : t.power = s.power := by unfold WarpOnly at h; rw [h]
theorem WarpOnly.twin (h : WarpOnly s t) : t.twin = { s.twin with
    warp := t.twin.warp, asked := t.twin.asked, retry := t.twin.retry, stash := t.twin.stash } := by
  unfold WarpOnly at h; rw [h]

theorem startWarp_warpOnly (s : State) : WarpOnly s (startWarp s) := by
  unfold startWarp
  split <;> refine .trans ?_ (sendTwin_moor_sent ..).warpOnly <;> rfl

theorem startWarp_stash (s : State) : (startWarp s).twin.stash = [] := by
  unfold startWarp
  split <;> rw [sendTwin_moor_twin]

theorem autoWarp_starts_or_waits (s : State) : autoWarp s = startWarp s ∨ autoWarp s = s := by
  unfold autoWarp
  extract_lets wanted
  split
  · exact .inl rfl
  · exact .inr rfl

theorem autoWarp_warpOnly (s : State) : WarpOnly s (autoWarp s) := by
  obtain h | h := autoWarp_starts_or_waits s <;> rw [h]
  · exact startWarp_warpOnly s
  · exact .refl s

theorem autoWarp_stash (hs : s.twin.stash = []) : (autoWarp s).twin.stash = [] := by
  obtain h | h := autoWarp_starts_or_waits s <;> rw [h]
  · exact startWarp_stash s
  · exact hs

/-- What the unit knows of warps once one has failed: it is counted, and its captures are freed (R301). -/
def warpFailed (again : Bool) (s : State) : State :=
  { s with
    twin.warp := none, twin.stash := [], twin.asked := false, twin.retry := again && s.flag mStandby
    twin.stat.warpFails := wrapAdd 32 s.twin.stat.warpFails 1 }

theorem failWarp_host (again : Bool) (s : State) : HostOnly (warpFailed again s) (failWarp again s) := twinEvent_host ..

theorem abandonWarp_running (h : s.twin.warp.isSome = true) : MoorSent (failWarp true s) (abandonWarp s) := by
  unfold abandonWarp endWarp
  rw [if_pos h]
  exact sendTwin_moor_sent ..

theorem abandonWarp_idle (h : s.twin.warp.isSome = false) : abandonWarp s = s := if_neg (by simp [h])

end Start

end Sys2Proof.Machine
end

section
/-!
PROOFS. The roles of a pair: heartbeats, yields, claims, releases and the three signals (R279 to R282, R302 to R310).
-/
namespace Sys2Proof.Machine

/-! Heartbeats (R279 to R282, R308). -/

section Heartbeats
variable {s : State} {hb : Heartbeat}

theorem exec_twinHeartbeatSend_network (hp : s.isPair = true) (ha : s.alive = true) (hb : s.boot.postDone = true)
    (hn : s.twinBerths = true) : exec (.twinHeartbeatSend true) s = .next (sendTwin 0 false [] (heartbeatBytes s.heartbeat) s) :=
  if_neg (by simp [hp, ha, hb, hn])

theorem exec_twinHeartbeatSend_moor (hp : s.isPair = true) (ha : s.alive = true) (hb : s.boot.postDone = true)
    (hl : s.twin.lanes ≠ 0) : exec (.twinHeartbeatSend false) s = .next (sendTwin 0 true [] (heartbeatBytes s.heartbeat) s) :=
  if_neg (by simpa [hp, ha, hb] using hl)

/-- With both lanes locked a heartbeat goes by lane 0, after what was handed to the mooring engine before it. -/
theorem sendTwin_heartbeat_bothLanes (h : s.twin.lanes = 3) (data : Bytes) : sendTwin 0 true [] data s = { s with
    host.outbox := s.host.outbox ++
      [.twin 0 [] data (some ⟨0, (s.peer 0).nodeId, s.media.heart, false, s.idx, SMap.get 0 s.net.serviceSeq 2⟩)]
    net.serviceSeq := SMap.put 0 s.net.serviceSeq 2 (wrapAdd 32 (SMap.get 0 s.net.serviceSeq 2) 1) } := by
  have lane : laneOf s.twin.lanes 0 = some 0 := by rw [h]; rfl
  unfold sendTwin sendMoor
  rw [if_pos rfl, lane, h]
  rfl

theorem exec_twinHeartbeat_heard (hp : s.isPair = true) (ha : s.alive = true) (hd : s.boot.postDone = true) (hl : s.twin.lanes ≠ 0)
    (hu : hb.unit ≠ s.unitCode) : exec (.twinHeartbeat false hb) s =
      .next (autoWarp (if mustYield hb (hearBeat false hb s) then yieldRole (hearBeat false hb s) else hearBeat false hb s)) :=
  if_neg (by simpa [hp, ha, hd, hu] using hl)

/-- What an active unit keeps of a heartbeat on the mooring link, by the partner's role. -/
def heartbeatHeard (hb : Heartbeat) (s : State) : State :=
  { s with
    twin.seenEpoch := hb.epoch, twin.partnerFw := hb.fw, twin.partnerSafe := hb.safe, twin.partnerAdrift := hb.adrift
    twin.partnerMode := hb.mode, twin.lastBeat := some s.idx, twin.moorUp := true
    twin.moorHeard := if hb.active then some s.idx else s.twin.moorHeard }

theorem hearBeat_active (h : s.flag mActive = true) : hearBeat false hb s = heartbeatHeard hb s := by
  unfold hearBeat heartbeatHeard
  cases hb.active <;> exact if_pos (Bool.or_eq_true_iff.2 (.inr h))

theorem mustYield_later (h : s.flag mActive = true) (ha : hb.active = true) (he : s.twin.epoch < hb.epoch) :
    mustYield hb s = true := by simp [mustYield, h, ha, he]

theorem mustYield_standby (ha : hb.active = false) : mustYield hb s = false := by simp [mustYield, ha]

/-- The mode word of a unit that yields. -/
def yieldWord (s : State) : BitVec 16 := withFlag (withFlag s.power.word mActive false) mStandby true

theorem yieldWord_flag (s : State) (i : Nat) :
    (yieldWord s).getLsbD i = if i = mStandby then true else if i = mActive then false else s.flag i := by
  unfold yieldWord
  rw [getLsbD_withFlag _ _ _ _ (by decide), getLsbD_withFlag _ _ _ _ (by decide)]
  rfl

/-- A unit that has given the role up, before it goes ADRIFT. -/
def roleYielded (s : State) : State :=
  setWord (yieldWord s) srcDevice { s with
    twin.stopAt := some s.nextEmit, twin.warp := none, twin.stat.yields := wrapAdd 32 s.twin.stat.yields 1 }

theorem yieldRole_eq (s : State) :
    yieldRole s = noseFollow (setAdrift 7 (twinEvent 2 (roleYielded s).twin.epoch (roleYielded s))) := rfl

/-- A unit that yields stands by, ADRIFT, and counts it (R308). -/
theorem yieldRole_yields (hsafe : s.flag mSafe = false) :
    (yieldRole s).flag mActive = false ∧ (yieldRole s).flag mStandby = true ∧ (yieldRole s).flag mAdrift = true ∧
    (yieldRole s).twin.seenEpoch = s.twin.seenEpoch ∧ (yieldRole s).twin.stat.yields = wrapAdd 32 s.twin.stat.yields 1 := by
  have told := twinEvent_host 2 (roleYielded s).twin.epoch (roleYielded s)
  rw [yieldRole_eq]
  generalize twinEvent 2 (roleYielded s).twin.epoch (roleYielded s) = y at told
  have word (i : Nat) : y.flag i = if i = mStandby then true else if i = mActive then false else s.flag i := by
    rw [flag_of_power told.power, roleYielded, setWord_flag, yieldWord_flag]
  have standby : y.flag mStandby = true := word mStandby
  obtain ⟨adrift, others⟩ := setAdrift_flags standby ((word mSafe).trans hsafe) 7
  obtain ⟨n, known⟩ := setAdrift_twin 7 y
  have kept := told.twin.trans (setWord_twin ..)
  rw [noseFollow_twin, known, kept]
  refine ⟨?_, ?_, ?_, rfl, rfl⟩ <;> rw [flag_of_power (noseFollow_power _)]
  · exact (others mActive (by decide)).trans (word mActive)
  · exact (others mStandby (by decide)).trans standby
  · exact adrift

end Heartbeats

/-! Claims (R303 to R307). -/

section Claims
variable {s : State}

/-- Packets that are placed change the network's records alone. -/
def NetOnly (s t : State) : Prop := t = { s with net := t.net }

theorem NetOnly.refl (s : State) : NetOnly s s := rfl
theorem NetOnly.trans {s t u : State} (h : NetOnly s t) (k : NetOnly t u) : NetOnly s u := by unfold NetOnly at *; rw [k, h]
theorem NetOnly.ite {c : Prop} [Decidable c] {s a b : State} (ha : NetOnly s a) (hb : NetOnly s b) : NetOnly s (if c then a else b) := by
  split <;> assumption
theorem NetOnly.foldl {α : Type} {f : State → α → State} (hf : ∀ s a, NetOnly s (f s a)) (l : List α) (s : State) :
    NetOnly s (l.foldl f s) := by
  induction l generalizing s with
  | nil => exact .refl s
  | cons a l ih => exact (hf s a).trans (ih _)

theorem updRx_net (b : Nat) (f : RxBerth → RxBerth) (s : State) : NetOnly s (updRx b f s) := rfl

theorem concealRange_net (b lo hi : Nat) (s : State) : NetOnly s (concealRange b lo hi s) := by
  unfold concealRange
  split <;> rfl

theorem writeFree_net (b gap : Nat) (cols : List (List Int)) (s : State) : NetOnly s (writeFree b gap cols s) := by
  unfold writeFree
  split
  · exact .refl s
  · exact (concealRange_net ..).trans (.trans (t := { concealRange _ _ _ s with net.jitter := _ }) rfl (updRx_net ..))

theorem placeFree_net (mod b seq : Nat) (cols : List (List Int)) (s : State) : NetOnly s (placeFree mod b seq cols s) := by
  unfold placeFree
  split
  · exact .refl s
  · exact .ite ((writeFree_net ..).trans (updRx_net ..)) (.ite ((writeFree_net ..).trans (updRx_net ..))
      (.ite ((writeFree_net ..).trans ((updRx_net ..).trans (updRx_net ..))) (.ite (updRx_net ..) (updRx_net ..))))

/-- Presence from the unit's own arrivals changes the network's records, besides that it is taken (R303). -/
theorem takeOwn_net (s : State) : NetOnly { s with twin.ownPresence := true } (takeOwn s) := by
  unfold takeOwn
  split
  · next h => simp [NetOnly, ← h]
  · exact .foldl (fun u e => (updRx_net ..).trans (.foldl (fun _ _ => placeFree_net ..) _ _)) _ _

/-- The rules of SHALLOW that end with the role change long marks, and that they are followed. -/
theorem unfollow_frame (s : State) : ∃ marks follow, unfollow s = { s with
    rend.longMark := marks, twin.follow := follow, twin.followAt := none } := by
  unfold unfollow raiseMarks
  split
  · exact ⟨_, _, rfl⟩
  · exact ⟨_, _, rfl⟩

/-- The mode word of a unit that claims. -/
def claimWord (s : State) : BitVec 16 :=
  withFlag (withFlag (withFlag (withFlag s.power.word mActive true) mStandby false) mAdrift false) mLoop false

theorem claimWord_flags (s : State) :
    (claimWord s).getLsbD mActive = true ∧ (claimWord s).getLsbD mStandby = false ∧ (claimWord s).getLsbD mAdrift = false := by
  have four (i : Nat) : (claimWord s).getLsbD i = if i = mLoop then false else if i = mAdrift then false else
      if i = mStandby then false else if i = mActive then true else s.power.word.getLsbD i := by
    unfold claimWord
    rw [getLsbD_withFlag _ _ _ _ (by decide), getLsbD_withFlag _ _ _ _ (by decide), getLsbD_withFlag _ _ _ _ (by decide),
      getLsbD_withFlag _ _ _ _ (by decide)]
  exact ⟨four mActive, four mStandby, four mAdrift⟩

/-- A unit that has taken the role, before its claim is counted. -/
def roleTaken (s : State) : State := stopLoops (unfollow (takeOwn (setWord (claimWord s) srcDevice s)))

theorem roleTaken_frame (s : State) :
    (roleTaken s).power.word = claimWord s ∧ (roleTaken s).media = s.media ∧ (roleTaken s).twin.stat = s.twin.stat := by
  unfold roleTaken stopLoops
  have worded := setWord_host (claimWord s) srcDevice s
  obtain ⟨marks, follow, ended⟩ := unfollow_frame (takeOwn (setWord (claimWord s) srcDevice s))
  rw [ended, takeOwn_net]
  exact ⟨by rw [worded.power], by rw [worded.media], by rw [worded.twin]⟩

/-- A unit that has claimed. -/
def roleClaimed (s : State) : State :=
  { roleTaken s with
    twin.epoch := (max s.twin.epoch s.twin.seenEpoch + 1) % 2 ^ 32
    twin.burstUntil := (roleTaken s).idx + (roleTaken s).msPeriods 8, twin.claimAt := none, twin.stopAt := none
    twin.handOver := none, twin.warp := none, twin.retry := false, twin.released := false
    twin.stat := { (roleTaken s).twin.stat with
      claims := wrapAdd 32 (roleTaken s).twin.stat.claims 1, lastClaim := (roleTaken s).idx
      claimUs := ((roleTaken s).idx - (roleTaken s).twin.lastHeard) * 1000000 / (roleTaken s).hz % 2 ^ 32 } }

theorem claimRole_eq (s : State) : claimRole s = noseFollow (twinEvent 1 (roleClaimed s).twin.epoch (roleClaimed s)) := rfl

/-- A claim takes the role and the next epoch, begins 8 ms of quick heartbeats and is counted (R305). -/
theorem claimRole_claims (s : State) :
    (claimRole s).power.word = claimWord s ∧
    (claimRole s).twin.epoch = (max s.twin.epoch s.twin.seenEpoch + 1) % 2 ^ 32 ∧
    (claimRole s).twin.burstUntil = s.idx + s.msPeriods 8 ∧ (claimRole s).twin.claimAt = none ∧
    (claimRole s).twin.stat.claims = wrapAdd 32 s.twin.stat.claims 1 := by
  obtain ⟨word, media, stat⟩ := roleTaken_frame s
  have now : (roleTaken s).idx = s.idx := by rw [State.idx, media, State.idx]
  have span : (roleTaken s).msPeriods 8 = s.msPeriods 8 := by rw [State.msPeriods, State.hz, media, State.msPeriods, State.hz]
  rw [claimRole_eq, noseFollow_power, noseFollow_twin, (twinEvent_host ..).power, (twinEvent_host ..).twin, roleClaimed, now, span, stat]
  exact ⟨word, rfl, rfl, rfl, rfl⟩

theorem exec_twinClaim_due {n : Nat} (hn : s.twin.claimAt = some n) (hdue : n ≤ s.idx) (hs : s.flag mStandby = true)
    (hm : s.mayClaim = true) : exec .twinClaim s = .next (claimRole s) := by
  change execTwinClaim s = _
  unfold execTwinClaim
  rw [hn]
  simp [Nat.not_lt.2 hdue, hs, hm]

end Claims

/-! Releases and hand-overs (R304, R307, R310). -/

section Releases
variable {s : State}

theorem exec_twinRelease_considered (b : Nat) (hs : s.flag mStandby = true)
    (ha : s.flag mAdrift = false ∨ s.twin.cfg.flags.testBit 1 = true) :
    exec (.twinRelease b) s = .next (considerClaim { s with twin.released := true, twin.claimAt := none }) :=
  if_neg (by rcases ha with ha | ha <;> simp [hs, ha])

/-- After a release the claim waits for the next block boundary alone, with a witness while its lease is held. -/
theorem considerClaim_released (hs : s.flag mStandby = true) (ha : s.flag mAdrift = false ∨ s.twin.cfg.flags.testBit 1 = true)
    (hr : s.twin.released = true) (hc : s.twin.claimAt = none) (hw : s.hasWitness = false ∨ s.twin.lease = true) :
    considerClaim s = { s with twin.claimAt := some (ceilTo 16 s.nextBoundary) } := by
  have claims : (!s.flag mStandby || !(s.twin.released || s.allSilent) || (s.flag mAdrift && !s.twin.cfg.flags.testBit 1) ||
      s.twin.claimAt.isSome) = false := by
    rcases ha with ha | ha <;> simp [hs, ha, hr, hc]
  have held : (s.hasWitness && !s.twin.lease) = false := by
    rcases hw with hw | hw <;> simp [hw]
  have at_once : (if s.unitCode = 1 && !s.hasWitness && !s.twin.released then s.msPeriods s.twin.cfg.bDelay else 0) = 0 :=
    if_neg (by simp [hr])
  unfold considerClaim
  rw [if_neg (by rw [claims]; decide), if_neg (by rw [held]; decide), at_once]
  rfl

/-- Without the lease of its witness the unit waits while a signal is heard (R304). -/
theorem considerClaim_unleased (hw : s.hasWitness = true) (hl : s.twin.lease = false) (hh : s.allSilent = false) :
    considerClaim s = s := by
  unfold considerClaim
  simp [hw, hl, hh]

theorem exec_twinHandOver_arms {stamp : Nat} (ha : s.flag mActive = false) (hr : switchRefused s = false)
    (hh : s.twin.handOver = none) : exec (.twinHandOver stamp) s = .next { s with twin.handOver := some (false, stamp) } := by
  change execTwinHandOver stamp s = _
  unfold execTwinHandOver armHandOver
  simp [ha, hr, hh]

end Releases

/-! The three signals (R302, R303). -/

section Signals
variable {s : State}

/-- When the mooring link goes down, the mode, the time and what was heard of the active stay. -/
theorem moorDown_frame (s : State) : (moorDown s).power = s.power ∧ (moorDown s).media = s.media ∧
    (moorDown s).twin.moorHeard = s.twin.moorHeard ∧ (moorDown s).twin.cfg = s.twin.cfg := by
  unfold moorDown
  split
  · cases hw : s.twin.warp.isSome with
    | false =>
      rw [abandonWarp_idle (by exact hw)]
      exact ⟨rfl, rfl, rfl, rfl⟩
    | true =>
      have sent := abandonWarp_running (s := { s with twin.moorUp := false }) hw
      have failed := failWarp_host true { s with twin.moorUp := false }
      exact ⟨sent.power.trans failed.power, sent.media.trans failed.media,
        by rw [sent.twin, failed.twin]; rfl, by rw [sent.twin, failed.twin]; rfl⟩
  · exact ⟨rfl, rfl, rfl, rfl⟩

theorem exec_mooringSilent_considered (hp : s.isPair = true) (hf : s.heartFresh = false) (hs : s.flag mStandby = true)
    (hm : s.moorHeld = false) : exec .mooringSilent s = .next (considerClaim (aliveElsewhere (takeOwn (moorDown s)))) := by
  obtain ⟨power, media, heard, cfg⟩ := moorDown_frame s
  have standby : (moorDown s).flag mStandby = true := (flag_of_power power _).trans hs
  have silent : (moorDown s).moorHeld = false := by
    rw [State.moorHeld, State.idx, media, heard, cfg]
    exact hm
  change execMooringSilent s = _
  unfold execMooringSilent
  simp [hp, hf, standby, silent]

end Signals

/-- Settles O55: heartbeats by what is sent and what is heard; claims, releases and silences by what each considers. -/
theorem pairRolesSettle : Obligations.PairRolesSettle := by
  refine ⟨fun s hp ha hd => ⟨fun hn => exec_twinHeartbeatSend_network hp ha hd hn, fun hl => ?bothLanes,
      fun hb hl hu hactive hsafe hpa he => ?yields, fun hb hl hu hactive hps => ?standbyHeard⟩,
    fun s => ⟨fun n hn hdue hs hm => ?claims, fun b hs ha => ⟨fun hw => ?released, fun hw hl hh => ?unleased⟩,
      fun stamp ha hr hh => exec_twinHandOver_arms ha hr hh, fun hp hf hs hm => exec_mooringSilent_considered hp hf hs hm,
      fun h => ?net, fun h => ?netHeld, fun h => ?flows, fun h => ?flowsHeld⟩⟩
  case bothLanes =>
    have locked : s.twin.lanes ≠ 0 := by rw [hl]; decide
    exact (exec_twinHeartbeatSend_moor hp ha hd locked).trans (congrArg Host.Outcome.next (sendTwin_heartbeat_bothLanes hl _))
  case yields =>
    have heard := exec_twinHeartbeat_heard hp ha hd hl hu
    rw [hearBeat_active hactive, if_pos (mustYield_later (s := heartbeatHeard hb s) hactive hpa he)] at heard
    obtain ⟨active, standby, adrift, epoch, yields⟩ := yieldRole_yields (s := heartbeatHeard hb s) hsafe
    have warp := autoWarp_warpOnly (yieldRole (heartbeatHeard hb s))
    refine ⟨_, heard, (flag_of_power warp.power _).trans active, (flag_of_power warp.power _).trans standby,
      (flag_of_power warp.power _).trans adrift, ?_, ?_⟩
    · rw [warp.twin]
      exact epoch
    · rw [warp.twin]
      exact yields
  case standbyHeard =>
    have heard := exec_twinHeartbeat_heard hp ha hd hl hu
    rw [hearBeat_active hactive, mustYield_standby hps, if_neg Bool.false_ne_true] at heard
    have warp := autoWarp_warpOnly (heartbeatHeard hb s)
    refine ⟨_, heard, warp.power, ?_⟩
    rw [warp.twin]
    exact ⟨rfl, rfl, if_neg (by simp [hps]), rfl⟩
  case claims =>
    obtain ⟨word, epoch, burst, claimAt, claims⟩ := claimRole_claims s
    obtain ⟨active, standby, adrift⟩ := claimWord_flags s
    rw [← word] at active standby adrift
    exact ⟨_, exec_twinClaim_due hn hdue hs hm, active, standby, adrift, epoch, burst, claimAt, claims⟩
  case released =>
    exact (exec_twinRelease_considered b hs ha).trans (congrArg Host.Outcome.next (considerClaim_released hs ha rfl rfl hw))
  case unleased =>
    exact (exec_twinRelease_considered b hs ha).trans (congrArg Host.Outcome.next (considerClaim_unleased hw hl hh))
  case net => exact congrArg Host.Outcome.next (if_neg (by simp [h]))
  case netHeld => exact congrArg Host.Outcome.next (if_pos h)
  case flows => exact congrArg Host.Outcome.next (if_neg (by simp [h]))
  case flowsHeld => exact congrArg Host.Outcome.next (if_pos h)

end Sys2Proof.Machine
end

section
/-!
PROOFS. The leases of a witness, as granted, kept, renewed and lost (R304, R307).
-/
namespace Sys2Proof.Machine

/-! The witness (R304). -/

section Witness
variable {s : State} {pair epoch : Nat} {u : Fin 2}

/-- The witness may grant: the lease is the same holder's, or has expired for a millisecond, or there is room for another pair. -/
def leaseFree (pair : Nat) (u : Fin 2) (s : State) : Bool :=
  match s.twin.leases.find? fun l => l.pair == pair with
  | some l => l.holder == u.val || decide (l.expiry + s.msPeriods 1 ≤ s.idx)
  | none => decide (s.twin.leases.length < 64)

theorem leaseFree_of (h : match s.twin.leases.find? fun l => l.pair == pair with
    | some l => l.holder = u.val ∨ l.expiry + s.msPeriods 1 ≤ s.idx | none => s.twin.leases.length < 64) :
    leaseFree pair u s = true := by
  unfold leaseFree
  split at h <;> simpa using h

theorem exec_leaseRequest_granted (hb : s.twinBerths = true) (hs : s.twin.witness.serve = true) (hd : s.boot.postDone = true)
    (hsafe : s.flag mSafe = false) (hup : s.twin.servedFrom + s.msPeriods (s.twin.witness.leaseMs + 1) ≤ s.idx)
    (hf : leaseFree pair u s = true) :
    exec (.leaseRequest pair u epoch) s =
      .next (sendTwin 13 false [pair, u.val, epoch, s.idx + s.msPeriods s.twin.witness.leaseMs] [] { s with
        twin.leases := (s.twin.leases.filter fun l => l.pair != pair) ++
          [⟨pair, u.val, epoch, s.idx + s.msPeriods s.twin.witness.leaseMs⟩] }) := by
  refine if_neg ?_
  change ¬ (!s.twinBerths || !s.twin.witness.serve || !leaseFree pair u s || !s.boot.postDone || s.flag mSafe ||
    decide (s.idx < s.twin.servedFrom + s.msPeriods (s.twin.witness.leaseMs + 1))) = true
  simp [hb, hs, hd, hsafe, hf, Nat.not_lt.2 hup]

end Witness

/-! The holder (R304, R307). -/

section Holder
variable {s : State}

theorem exec_leaseGrant_kept {h : Fin 2} {epoch expiry : Nat} (hp : s.isPair = true) (hb : s.twinBerths = true)
    (hw : s.hasWitness = true) (hu : h.val = s.unitCode) (he : s.idx < expiry) :
    exec (.leaseGrant h epoch expiry) s = .next (considerClaim { s with twin.lease := true, twin.leaseEnd := expiry }) :=
  if_neg (by simp [hp, hb, hw, hu, Nat.not_le.2 he])

theorem exec_leaseRenew_active (hw : s.hasWitness = true) (ha : s.flag mActive = true) :
    exec .leaseRenew s = .next (sendTwin 12 false [s.pairId, s.unitCode, s.twin.epoch] [] s) := by
  change execLeaseRenew s = _
  unfold execLeaseRenew
  simp only [hw, ha, Bool.not_true, Bool.false_eq_true, if_false, if_true]
  rfl

/-- The state in which a lease has run out. -/
def leaseLost (s : State) : State := { s with twin.lease := false, twin.leaseEnd := 0 }

theorem exec_leaseExpire_active (hl : s.twin.lease = true) (he : s.twin.leaseEnd ≤ s.idx) (ha : s.flag mActive = true) :
    exec .leaseExpire s = .next (noseFollow (setFlag mStandby true srcDevice (releaseRole (leaseLost s)))) := by
  change execLeaseExpire s = _
  unfold execLeaseExpire
  rw [if_neg (by simp [hl, Nat.not_lt.2 he])]
  exact congrArg Host.Outcome.next (if_pos ha)

/-- A release leaves what the unit knows of the pair, but for the block from which it stops sending (R307). -/
theorem releaseRole_twin (ha : s.flag mActive = true) : (releaseRole s).twin = { s.twin with stopAt := some s.nextEmit } := by
  unfold releaseRole
  rw [if_pos ha]
  dsimp only
  rw [sendTwin_twin, sendTwin_twin, setFlag_twin]

/-- A release clears ACTIVE and no other flag. -/
theorem releaseRole_flags (ha : s.flag mActive = true) (hsafe : s.flag mSafe = false) (i : Nat) :
    (releaseRole s).flag i = if i = mActive then false else s.flag i := by
  rw [State.flag, (releaseRole_word ha hsafe).1]
  exact getLsbD_withFlag _ _ _ _ (by decide)

end Holder

/-- Settles O56: the witness by its tests, the holder by what a grant, a renewal and an expiry do. -/
theorem leasesAreKept : Obligations.LeasesAreKept := by
  refine fun s => ⟨fun pair u epoch hb hs hd hsafe hup hf => exec_leaseRequest_granted hb hs hd hsafe hup (leaseFree_of hf),
    fun h epoch expiry hp hb hw hu he => exec_leaseGrant_kept hp hb hw hu he, exec_leaseRenew_active,
    fun hl he ha hsafe hmode => ?expires⟩
  have flags := releaseRole_flags (s := leaseLost s) ha hsafe
  have word : (releaseRole (leaseLost s)).power.word ≠ 0 := by
    rcases hmode with h | h
    · exact word_ne_zero (i := mLive) ((flags mLive).trans h)
    · exact word_ne_zero (i := mDark) ((flags mDark).trans h)
  have stands := setFlag_flags ((flags mSafe).trans hsafe) word (i := mStandby) (by decide) true srcDevice
  refine ⟨_, exec_leaseExpire_active hl he ha, ?_, ?_, ?_⟩
  · rw [noseFollow_twin, setFlag_twin, releaseRole_twin (s := leaseLost s) ha]
    rfl
  · exact (flag_of_power (noseFollow_power _) _).trans ((stands mActive).trans (flags mActive))
  · exact (flag_of_power (noseFollow_power _) _).trans (stands mStandby)

end Sys2Proof.Machine
end

section
/-!
PROOFS. The standby follows the active: commands and decisions, manifests and wants, repairs and mirrors (R284 to R290, R310).
-/
namespace Sys2Proof.Machine

/-! Commands and decisions (R285, R290, R310). -/

section Commands
variable {s : State}

theorem exec_twinCommand_decision {q apply : Nat} {d : Decision} (hf : s.follows = true) (ha : apply ≠ 0)
    (hw : beforeWarp s apply = false) (ht : tooLate (noteSeq q s) (if d.ofTick then .tick else .block) apply = false) :
    exec (.twinCommand (.decision q apply d)) s =
      .next { noteSeq q s with twin.decisions := (noteSeq q s).twin.decisions ++ [(apply, d)] } := by
  have received : receiveDecision apply d (noteSeq q s) =
      { noteSeq q s with twin.decisions := (noteSeq q s).twin.decisions ++ [(apply, d)] } := by
    unfold receiveDecision
    rw [if_neg ha, ht, if_neg Bool.false_ne_true]
  refine congrArg Host.Outcome.next ((if_neg ?_).trans received)
  simp [hf, hw]

/-- A command record other than a TWIN_SWITCH, taken with its sequence by a standby that follows. -/
theorem exec_twinCommand_taken {f : Forward} (hf : s.follows = true) (ho : f.op ≠ .twinSwitch) :
    exec (.twinCommand (.command f)) s = .next (
      if beforeWarp (noteSeq f.fseq s) f.apply || asksOnly f.op f.payload then noteSeq f.fseq s
      else match standbyPayload f (noteSeq f.fseq s) with
        | some p => queueForward f p (noteSeq f.fseq s)
        | none => noteSeq f.fseq s) := by
  refine congrArg Host.Outcome.next ((if_neg (by simpa using ho)).trans (if_neg ?_))
  simp [hf]

theorem exec_twinCommand_early {f : Forward} (hf : s.follows = true) (ho : f.op ≠ .twinSwitch)
    (hw : beforeWarp (noteSeq f.fseq s) f.apply = true) : exec (.twinCommand (.command f)) s = .next (noteSeq f.fseq s) := by
  rw [exec_twinCommand_taken hf ho, if_pos (by simp [hw])]

theorem exec_twinCommand_queued {f : Forward} {p : Bytes} (hf : s.follows = true) (ho : f.op ≠ .twinSwitch)
    (hw : beforeWarp (noteSeq f.fseq s) f.apply = false) (ha : asksOnly f.op f.payload = false)
    (hp : standbyPayload f (noteSeq f.fseq s) = some p) :
    exec (.twinCommand (.command f)) s = .next (queueForward f p (noteSeq f.fseq s)) := by
  rw [exec_twinCommand_taken hf ho, if_neg (by simp [hw, ha]), hp]

/-- A switch that the standby passes on starts the hand-over on the active (R310; the record and the stamp are choices of the model,
assumptions 54 and 42). -/
theorem exec_twinCommand_switch {f : Forward} (ho : f.op = .twinSwitch) (hm : s.moored = true) (ha : s.flag mActive = true)
    (hr : switchRefused s = false) (hh : s.twin.handOver = none) :
    exec (.twinCommand (.command f)) s = .next (sendTwin 11 true [ceilTo 16 (max f.apply s.rTen) + 48] []
      { s with twin.handOver := some (true, ceilTo 16 (max f.apply s.rTen) + 48) }) := by
  have starts : ¬ (!s.moored || !s.flag mActive || switchRefused s || s.twin.handOver.isSome) = true := by
    simp [hm, ha, hr, hh]
  refine congrArg Host.Outcome.next ((if_pos (by simpa using ho)).trans ((if_neg starts).trans ?_))
  unfold startHandOver armHandOver
  rw [ha]

end Commands

/-! Manifests and wants (R234, R286 to R288). -/

section Presence
variable {s : State}

theorem exec_twinManifest_obeyed {m : Manifest} (hf : s.follows = true) (ho : s.twin.ownPresence = false)
    (hr : s.media.running = true) (hnew : ∀ d, s.twin.decided = some d → d < m.block) :
    ∃ t, exec (.twinManifest m) s = .next t ∧ t.twin.manifest = some m ∧ t.twin.decided = some m.block ∧ t.twin.wanted = [] ∧
      t.twin.manNose = m.nose ∧ t.twin.manSilent = m.silent := by
  have fresh : (match s.twin.decided with | some d => decide (m.block ≤ d) | none => false) = false := by
    cases hd : s.twin.decided with
    | none => rfl
    | some d => exact decide_eq_false (Nat.not_le.2 (hnew d hd))
  have obeys : ¬ (!s.follows || s.twin.ownPresence || !s.media.running ||
      (match s.twin.decided with | some d => decide (m.block ≤ d) | none => false)) = true := by
    simp [hf, ho, hr, fresh]
  exact ⟨_, congrArg Host.Outcome.next (if_neg obeys), rfl, rfl, rfl, rfl, rfl⟩

/-- The absent runs among the samples that block `b` requires (R288). -/
def wantsOf (b : Nat) (s : State) : List Sys2Proof.Want :=
  (caughtBerths b s).flatMap fun e => (runsOf (absentOf s e.2.1 e.2.2.1 e.2.2.2)).map fun r => ⟨e.1, r.1, r.2⟩

theorem exec_wantPoint_wants (hf : s.follows = true) (ho : s.twin.ownPresence = false) (hr : s.media.running = true)
    (hc : s.media.catchL + 8 ≤ s.idx) (hw : wantsOf (floorTo 16 (s.idx - s.media.catchL - 8)) s ≠ []) :
    exec .wantPoint s = .next (sendTwin 3 true (floorTo 16 (s.idx - s.media.catchL - 8) ::
      (wantsOf (floorTo 16 (s.idx - s.media.catchL - 8)) s).flatMap fun w => [w.berth, w.first, w.count]) []
      { s with twin.wanted := wantsOf (floorTo 16 (s.idx - s.media.catchL - 8)) s }) := by
  have due : ¬ (!s.follows || s.twin.ownPresence || !s.media.running || decide (s.idx < s.media.catchL + 8)) = true := by
    simp [hf, ho, hr, hc]
  refine congrArg Host.Outcome.next ((if_neg due).trans (if_neg (mt List.isEmpty_iff.1 hw)))

theorem exec_manifestTimeout_missed {b : Nat} (hb : s.media.caught = some b) (ha : s.awaits b = true)
    (hr : s.media.running = true) (hc : s.media.computed ≠ some b) :
    exec .manifestTimeout s = .next (ownBlock b { s with twin.stat.manifestMiss := wrapAdd 32 s.twin.stat.manifestMiss 1 }) := by
  change execManifestTimeout s = _
  unfold execManifestTimeout
  rw [hb]
  exact congrArg Host.Outcome.next (if_pos (by simp [ha, hr, hc]))

theorem exec_twinWant_answered {block : Nat} {wants : List Want} (hm : s.moored = true) (ha : s.flag mActive = true)
    (hc : s.media.caught ≠ some block) : exec (.twinWant block wants) s = .next (sendRepairs wants s) :=
  congrArg Host.Outcome.next (if_neg (by simp [hm, ha, hc]))

end Presence

/-! Repairs (R288). -/

section Repairs
variable {x : RxBerth} {n : Nat} {m : SMap (SMap Slot)}

/-- One sample of a repair fills its place if the channel is the berth's and the place is absent. -/
def repairSample (x : RxBerth) (n : Nat) (j : SMap (SMap Slot)) (v : Int × Nat) : SMap (SMap Slot) :=
  if v.2 < x.cfg.channels && (SMap.look (SMap.get [] j (x.cfg.first + v.2)) n).isNone then
    SMap.put [] j (x.cfg.first + v.2) (SMap.ins (SMap.get [] j (x.cfg.first + v.2)) n { value := v.1 })
  else j

theorem writeRepair_eq (x : RxBerth) (n : Nat) (row : List Int) (m : SMap (SMap Slot)) :
    writeRepair x n row m = row.zipIdx.foldl (repairSample x n) m := rfl

theorem repairSample_fills {v : Int} {i : Nat} (hi : i < x.cfg.channels)
    (ha : SMap.look (SMap.get [] m (x.cfg.first + i)) n = none) :
    SMap.look (SMap.get [] (repairSample x n m (v, i)) (x.cfg.first + i)) n = some { value := v } := by
  unfold repairSample
  rw [if_pos (by simp [hi, ha]), SMap.get_put_same]
  exact SMap.look_ins_same ..

theorem repairSample_otherChannel {v : Int × Nat} {c : Nat} (hc : c ≠ x.cfg.first + v.2) :
    SMap.get [] (repairSample x n m v) c = SMap.get [] m c := by
  unfold repairSample
  split
  · exact SMap.get_put_other _ _ _ _ _ hc
  · rfl

theorem repairSample_otherPlace (v : Int × Nat) (c : Nat) {p : Nat} (hp : p ≠ n) :
    SMap.look (SMap.get [] (repairSample x n m v) c) p = SMap.look (SMap.get [] m c) p := by
  by_cases hc : c = x.cfg.first + v.2
  · subst hc
    unfold repairSample
    split
    · rw [SMap.get_put_same]
      exact SMap.look_ins_other _ _ _ _ hp
    · rfl
  · rw [repairSample_otherChannel hc]

theorem foldl_repairSample_otherChannel {c : Nat} (l : List (Int × Nat)) (hc : ∀ v ∈ l, c ≠ x.cfg.first + v.2) :
    SMap.get [] (l.foldl (repairSample x n) m) c = SMap.get [] m c := by
  induction l generalizing m with
  | nil => rfl
  | cons v l ih =>
    exact (ih fun w hw => hc w (List.mem_cons_of_mem _ hw)).trans (repairSample_otherChannel (hc v List.mem_cons_self))

theorem foldl_repairSample_otherPlace (l : List (Int × Nat)) (c : Nat) {p : Nat} (hp : p ≠ n) :
    SMap.look (SMap.get [] (l.foldl (repairSample x n) m) c) p = SMap.look (SMap.get [] m c) p := by
  induction l generalizing m with
  | nil => rfl
  | cons v l ih => exact ih.trans (repairSample_otherPlace v c hp)

/-- The samples of a row stand for the channels from the `k`th on, each for its own. -/
theorem foldl_repairSample_fills {row : List Int} {k j : Nat} {v : Int} (hv : row[j]? = some v) (hj : k + j < x.cfg.channels)
    (ha : SMap.look (SMap.get [] m (x.cfg.first + (k + j))) n = none) :
    SMap.look (SMap.get [] ((row.zipIdx k).foldl (repairSample x n) m) (x.cfg.first + (k + j))) n = some { value := v } := by
  induction row generalizing k j m with
  | nil => simp at hv
  | cons w row ih =>
    rw [List.zipIdx_cons, List.foldl_cons]
    cases j with
    | zero =>
      obtain rfl : w = v := by simpa using hv
      have later : ∀ e ∈ row.zipIdx (k + 1), x.cfg.first + (k + 0) ≠ x.cfg.first + e.2 := fun e he => by
        have := List.le_snd_of_mem_zipIdx he
        omega
      rw [foldl_repairSample_otherChannel _ later]
      exact repairSample_fills hj ha
    | succ j =>
      have next : k + (j + 1) = k + 1 + j := by omega
      rw [next] at hj ha ⊢
      refine ih (by simpa using hv) hj ?_
      rw [repairSample_otherChannel (by simp only; omega)]
      exact ha

/-- A repair fills the places that were absent (R288). -/
theorem writeRepair_fills {row : List Int} {j : Nat} {v : Int} (hv : row[j]? = some v) (hj : j < x.cfg.channels)
    (ha : SMap.look (SMap.get [] m (x.cfg.first + j)) n = none) :
    SMap.look (SMap.get [] (writeRepair x n row m) (x.cfg.first + j)) n = some { value := v } := by
  have filled := foldl_repairSample_fills (k := 0) hv (by simpa using hj) (by simpa using ha)
  rwa [Nat.zero_add] at filled

/-- A repair of a period changes that period's places of the row's channels alone. -/
theorem writeRepair_others {row : List Int} {c p : Nat} (h : c < x.cfg.first ∨ x.cfg.first + row.length ≤ c ∨ p ≠ n) :
    SMap.look (SMap.get [] (writeRepair x n row m) c) p = SMap.look (SMap.get [] m c) p := by
  rw [writeRepair_eq]
  by_cases hp : p = n
  · rw [foldl_repairSample_otherChannel _ fun e he => ?_]
    have := List.snd_lt_of_mem_zipIdx he
    omega
  · exact foldl_repairSample_otherPlace _ c hp

/-- A repair in time is written period by period, and is not counted (R288). -/
theorem exec_twinRepair_inTime {rep : Repair} {s : State} (hf : s.follows = true) (hx : SMap.look s.net.rx rep.berth = some x)
    (hlo : x.decided.getD 0 ≤ rep.first) : exec (.twinRepair rep) s = .next { s with
      net.jitter := rep.samples.zipIdx.foldl (fun j r => writeRepair x (rep.first + r.2) r.1 j) s.net.jitter } := by
  have rows : rep.samples.zipIdx.filter (fun r => decide (x.decided.getD 0 ≤ rep.first + r.2)) = rep.samples.zipIdx :=
    List.filter_eq_self.2 fun r _ => by
      simp only [decide_eq_true_eq]
      omega
  change execTwinRepair rep s = _
  unfold execTwinRepair
  rw [hf, hx]
  simp only [rows, Nat.not_lt.2 hlo, decide_false, Bool.and_false, Bool.false_and, Bool.not_true, Bool.false_eq_true, if_false]

end Repairs

/-! Mirrors (R289). -/

/-- A mirror of a single sample is taken as received where none stood. -/
theorem exec_twinMirror_sample {m : Mirror} {v : Int} {s : State} (hf : s.follows = true)
    (hl : (s.localChannels.any fun e => e.1 == m.channel) = true) (hm : m.samples = [v])
    (ha : SMap.look (SMap.get [] s.net.jitter m.channel) m.first = none) :
    exec (.twinMirror m) s = .next { s with
      net.jitter := SMap.put [] s.net.jitter m.channel (SMap.ins (SMap.get [] s.net.jitter m.channel) m.first { value := v })
      twin.mirrors := SMap.ins s.twin.mirrors m.channel (m.first + 1, 1, true) } := by
  change execTwinMirror m s = _
  unfold execTwinMirror
  simp [hf, hl, hm, ha]

/-- Settles O57: each row by what its record comes to, and a repair by the samples it writes. -/
theorem standbyFollows : Obligations.StandbyFollows := by
  refine ⟨fun s => ⟨fun hf => ⟨fun q apply d ha hw ht => exec_twinCommand_decision hf ha hw ht,
      fun f p ho => ⟨exec_twinCommand_early hf ho, fun hw ha hp => exec_twinCommand_queued hf ho hw ha hp⟩,
      fun m ho hr hnew => exec_twinManifest_obeyed hf ho hr hnew, fun b hr ho hc hb hw => ?wants,
      fun rep x hx hlo => ?repairs, fun m v hl hm ha => exec_twinMirror_sample hf hl hm ha⟩,
    fun f ho hm ha hr hh => exec_twinCommand_switch ho hm ha hr hh,
    fun b hb ha hr hc => exec_manifestTimeout_missed hb ha hr hc,
    fun block wants hm ha hc => exec_twinWant_answered hm ha hc⟩,
    fun rep x row j v s hf hx hlo hrow hv hj ha => ?fills⟩
  case wants =>
    subst hb
    exact exec_wantPoint_wants hf ho hr hc hw
  case repairs => exact ⟨_, exec_twinRepair_inTime hf hx hlo, rfl⟩
  case fills =>
    have written := exec_twinRepair_inTime hf hx hlo
    rw [hrow] at written
    exact ⟨_, written, writeRepair_fills hv hj ha, fun c n => writeRepair_others⟩

end Sys2Proof.Machine
end

section
/-!
PROOFS. Digests and check records of a pair, compared when both sides have theirs (R290, R294, R295).
-/
namespace Sys2Proof.Machine

/-! Digests (R294, R295). -/

section Digests
variable {s : State} {b x y : Nat}

/-- The state in which the partner's digest of a block stands beside this unit's. -/
def digestHeld (block crc : Nat) (s : State) : State :=
  { s with twin.partner := SMap.ins (s.twin.partner.filter fun e => e.1 + 1024 ≥ block) block crc }

theorem exec_twinDigest_compared {block crc : Nat} (hm : s.moored = true) :
    exec (.twinDigest block crc) s = .next (compareDigest block (digestHeld block crc s)) :=
  congrArg Host.Outcome.next (if_neg (by simp [hm]))

/-- The state with the two digests of block `b` taken out to be compared. -/
def digestsTaken (b : Nat) (s : State) : State :=
  { s with twin.digests := SMap.del s.twin.digests b, twin.partner := SMap.del s.twin.partner b }

/-- The state in which the digests of block `b` have been found to differ. -/
def digestMissed (b : Nat) (s : State) : State :=
  logEvent 16 6 srcDevice [s.twin.epoch, b % 2 ^ 32] { digestsTaken b s with
    twin.stat.mismatches := wrapAdd 32 s.twin.stat.mismatches 1, twin.missRun := s.twin.missRun + 1 }

theorem digestMissed_power (b : Nat) (s : State) : (digestMissed b s).power = s.power := (logEvent_host ..).power

theorem digestMissed_counts (b : Nat) (s : State) :
    (digestMissed b s).twin.stat.mismatches = wrapAdd 32 s.twin.stat.mismatches 1 ∧
    (digestMissed b s).twin.missRun = s.twin.missRun + 1 := by
  unfold digestMissed
  rw [(logEvent_host ..).twin]
  exact ⟨rfl, rfl⟩

/-- The state in which the digests of block `b` have been found equal. -/
def digestMatched (b : Nat) (s : State) : State :=
  { digestsTaken b s with
    twin.stat.digestsOk := wrapAdd 32 s.twin.stat.digestsOk 1, twin.missRun := 0
    twin.warp := s.twin.warp.map fun w =>
      if w.phase = 5 then { w with equal := w.equal + 1, phase := if w.equal + 1 = 16 then 6 else 5 } else w }

/-- A warp in phase 5 verifies block `b`. -/
def verifies (b : Nat) (s : State) : Bool :=
  match s.twin.warp with | some w => w.phase == 5 && w.since ≤ b | none => false

theorem compareDigest_held (hx : SMap.look s.twin.digests b = some x) (hy : SMap.look s.twin.partner b = some y) :
    compareDigest b s =
      if !s.flag mStandby || (s.flag mAdrift && !verifies b s) then digestsTaken b s
      else if x = y then digestMatched b s
      else if verifies b s then abandonWarp (digestMissed b s)
      else if 2 ≤ (digestMissed b s).twin.missRun then setAdrift 2 { digestMissed b s with twin.missRun := 0 } else digestMissed b s := by
  unfold compareDigest
  rw [hx, hy]
  rfl

section Compared
variable (hx : SMap.look s.twin.digests b = some x) (hy : SMap.look s.twin.partner b = some y)
  (hs : s.flag mStandby = true) (ha : s.flag mAdrift = false)
include hx hy hs ha

/-- A standby in step counts equal digests. -/
theorem compareDigest_equal (he : x = y) : compareDigest b s = digestMatched b s := by
  rw [compareDigest_held hx hy, if_neg (by simp [hs, ha]), if_pos he]

variable (hw : s.twin.warp = none)
include hw

/-- A standby in step counts different digests, and the second in a row sets ADRIFT. -/
theorem compareDigest_differs (hd : x ≠ y) : compareDigest b s =
    if 2 ≤ (digestMissed b s).twin.missRun then setAdrift 2 { digestMissed b s with twin.missRun := 0 } else digestMissed b s := by
  rw [compareDigest_held hx hy, if_neg (by simp [hs, ha]), if_neg hd, if_neg (by simp [verifies, hw])]

theorem compareDigest_differs_mismatches (hd : x ≠ y) :
    (compareDigest b s).twin.stat.mismatches = wrapAdd 32 s.twin.stat.mismatches 1 := by
  obtain ⟨mismatches, -⟩ := digestMissed_counts b s
  rw [compareDigest_differs hx hy hs ha hw hd]
  split
  · obtain ⟨n, known⟩ := setAdrift_twin 2 { digestMissed b s with twin.missRun := 0 }
    rw [known]
    exact mismatches
  · exact mismatches

theorem compareDigest_differs_first (hd : x ≠ y) (hr : s.twin.missRun = 0) :
    (compareDigest b s).twin.missRun = 1 ∧ (compareDigest b s).power = s.power := by
  obtain ⟨-, run⟩ := digestMissed_counts b s
  rw [compareDigest_differs hx hy hs ha hw hd, if_neg (by omega)]
  exact ⟨by rw [run, hr], digestMissed_power b s⟩

theorem compareDigest_differs_second (hsafe : s.flag mSafe = false) (hd : x ≠ y) (hr : s.twin.missRun = 1) :
    (compareDigest b s).flag mAdrift = true ∧ (compareDigest b s).flag mStandby = true := by
  obtain ⟨-, run⟩ := digestMissed_counts b s
  have flags := flag_of_power (digestMissed_power b s)
  obtain ⟨adrift, others⟩ :=
    setAdrift_flags (s := { digestMissed b s with twin.missRun := 0 }) ((flags mStandby).trans hs) ((flags mSafe).trans hsafe) 2
  rw [compareDigest_differs hx hy hs ha hw hd, if_pos (by omega)]
  exact ⟨adrift, (others mStandby (by decide)).trans ((flags mStandby).trans hs)⟩

end Compared

end Digests

/-! Check records (R290). -/

section Checks
variable {s : State} {c : Check}

/-- The state in which the active's check record stands beside this unit's counts. -/
def checkHeld (c : Check) (s : State) : State :=
  { s with
    twin.checks := SMap.ins s.twin.checks (2 * c.tick + 1) c.counts
    twin.activeChecks := SMap.ins (s.twin.activeChecks.filter fun e => e.1 + 512 ≥ c.tick) c.tick c.counts }

theorem exec_twinCheck_waits (hf : s.follows = true) (hk : s.media.snapped = none) :
    exec (.twinCheck c) s = .next (checkHeld c s) := by
  refine congrArg Host.Outcome.next ((if_neg ?_).trans (if_neg ?_)) <;> simp [hf, hk]

theorem exec_twinCheck_compared {k : Nat} (hf : s.follows = true) (hk : s.media.snapped = some k) (hc : c.tick ≤ k) :
    exec (.twinCheck c) s = .next (compareCheck c.tick (checkHeld c s)) := by
  refine congrArg Host.Outcome.next ((if_neg ?_).trans (if_pos ?_)) <;> simp [hf, hk, hc]

/-- Counts that differ from the active's set ADRIFT. -/
theorem compareCheck_differs {k : Nat} {mine theirs : List (Nat × Nat)} (hs : s.flag mStandby = true) (hsafe : s.flag mSafe = false)
    (ht : SMap.look s.twin.checks (2 * k + 1) = some theirs) (hm : SMap.look s.twin.checks (2 * k) = some mine)
    (hd : mine ≠ theirs) : (compareCheck k s).flag mAdrift = true ∧ (compareCheck k s).flag mStandby = true := by
  unfold compareCheck
  simp only [ht, hm]
  rw [if_neg (by simpa using hd)]
  obtain ⟨adrift, others⟩ := setAdrift_flags (s := { s with
    twin.checks := SMap.del (SMap.del s.twin.checks (2 * k)) (2 * k + 1) }) hs hsafe 3
  exact ⟨adrift, (others mStandby (by decide)).trans hs⟩

end Checks

end Sys2Proof.Machine
end

section
/-!
PROOFS. The warp (R296 to R301): what each segment, each control record and each event of a warp does.
-/
namespace Sys2Proof.Machine

section Warps
variable {s : State} {w : Warp}

theorem moored_of_follows (h : s.follows = true) : s.moored = true := (Bool.and_eq_true_iff.1 h).1
theorem standby_of_follows (h : s.follows = true) : s.flag mStandby = true := (Bool.and_eq_true_iff.1 h).2

/-- Records of the partner are not taken in SAFE. -/
theorem safe_of_moored (h : s.moored = true) : s.flag mSafe = false := by
  unfold State.moored at h
  simpa using (Bool.and_eq_true_iff.1 h).2

theorem updWarp_running (hw : s.twin.warp = some w) (f : Warp → Warp) : updWarp f s = { s with twin.warp := some (f w) } := by
  unfold updWarp
  rw [hw]
  rfl

theorem updWarp_same (hw : s.twin.warp = some w) {f : Warp → Warp} (hf : f w = w) : updWarp f s = s := by
  rw [updWarp_running hw, hf, ← hw]

/-! Segments of the image (R297 to R300). -/

/-- The state in which the bytes of a segment have been counted. -/
def segCounted (bytes : Nat) (w : Warp) (s : State) : State := { s with twin.warp := some { w with done := w.done + bytes } }

theorem exec_twinWarpData_taken {seg : WarpSeg} {bytes : Nat} (hw : s.twin.warp = some w) (hf : s.follows = true)
    (ha : w.active = false) {t : State} (ht : takeSeg seg w (segCounted bytes w s) = t) :
    exec (.twinWarpData seg bytes) s = .next (sendTwin 9 true [3, w.done + bytes, t.rend.storeVersion] [] t) := by
  change execTwinWarpData seg bytes s = _
  unfold execTwinWarpData
  rw [hw]
  refine congrArg Host.Outcome.next ((if_neg (by simp [hf, ha])).trans ?_)
  rw [updWarp_running hw]
  change sendTwin 9 true [3, w.done + bytes, (takeSeg seg w (segCounted bytes w s)).rend.storeVersion] []
    (takeSeg seg w (segCounted bytes w s)) = _
  rw [ht]

theorem takeSeg_loaded {seg : WarpSeg} (hw : waits w seg = false) (htap : ∀ n o t, seg ≠ .tap n o t) (hctl : ∀ c, seg ≠ .control c)
    (s : State) : takeSeg seg w s = loadSeg seg w s := by
  unfold takeSeg
  split
  · next c => exact absurd rfl (hctl c)
  · next => exact absurd hw (by simp [waits])
  · next n o t => exact absurd rfl (htap n o t)
  · exact if_neg (by simp [hw])

theorem takeSeg_kept {seg : WarpSeg} (hw : waits w seg = true) (hin : ∀ c r n, seg ≠ .inChain c r n) (s : State) :
    takeSeg seg w s = { s with twin.stash := s.twin.stash ++ [seg] } := by
  unfold takeSeg
  split
  · next => exact absurd hw (by simp [waits])
  · next c r n => exact absurd rfl (hin c r n)
  · next => exact absurd hw (by simp [waits])
  · exact if_pos hw

/-- An input chain's state waits with its run count for the input cut (R298). -/
theorem takeSeg_inputChain {v : Warp} (hv : s.twin.warp = some v) (c : Nat) (r : InChain) (n : Nat) (w : Warp) :
    takeSeg (.inChain c r n) w s =
      { s with twin.warp := some { v with chains := SMap.ins v.chains c r, runs := SMap.put 0 v.runs c n } } :=
  updWarp_running hv _

/-- The control state brings its own records, and takes away what it does not name (R297; assumption 41). -/
theorem loadControl_loads (c : ImageControl) (w : Warp) (s : State) :
    let t := loadControl c w s
    t.power.deferred = c.deferred ∧ t.power.resume = c.resume ∧ t.nose.sweep = c.sweep ∧
    (∀ x ∈ t.rend.xpoints, (6, 65536 * x.source + x.dest) ∈ c.keys) ∧
    (∀ d ∈ t.host.claims, (7, 2 * d.id + bit d.zone) ∈ c.keys) ∧ (∀ e ∈ t.net.rx, (8, e.1) ∈ c.keys) ∧
    (∀ e ∈ t.net.tx, (9, e.1) ∈ c.keys) ∧ (∀ e ∈ t.nose.anchors, (15, e.1) ∈ c.keys) := by
  have named {α : Type} (key : α → Nat × Nat) {l : List α} {x : α} (h : x ∈ l.filter fun x => c.keys.contains (key x)) :
      key x ∈ c.keys := List.contains_iff_mem.1 (List.mem_filter.1 h).2
  exact ⟨rfl, rfl, rfl, fun _ => named fun x : Xpoint => (6, 65536 * x.source + x.dest),
    fun _ => named fun d : Claim => (7, 2 * d.id + bit d.zone), fun _ => named fun e : Nat × RxBerth => (8, e.1),
    fun _ => named fun e : Nat × TxBerth => (9, e.1), fun _ => named fun e : Nat × _ => (15, e.1)⟩

/-! Control records (R296, R301, Table 10.9). -/

section Control
variable (hm : s.moored = true)
include hm

theorem exec_twinWarpControl_start {x n v : Nat} (ha : s.flag mActive = false) (hs : s.flag mStandby = true)
    (hd : s.flag mAdrift = true) : exec (.twinWarpControl (.start x n v)) s = .next (sendTwin 9 true [3, 0, s.rend.storeVersion] []
      { s with twin.warp := some { tick := x, total := n, theirs := some v }, twin.retry := false, twin.stash := [] }) :=
  congrArg Host.Outcome.next ((if_neg (by simp [hm])).trans ((if_neg (by simp [ha])).trans (if_pos (by simp [hs, hd]))))

theorem exec_twinWarpControl_phase {n : Nat} (hs : s.flag mStandby = true) :
    exec (.twinWarpControl (.phase n)) s = .next (updWarp (fun w => { w with phase := n }) s) :=
  congrArg Host.Outcome.next ((if_neg (by simp [hm])).trans (if_pos hs))

theorem exec_twinWarpControl_slice {k : Nat} {outs : List Nat} (hs : s.flag mStandby = true) :
    exec (.twinWarpControl (.slice k outs)) s = .next (nameSlice k outs s) :=
  congrArg Host.Outcome.next ((if_neg (by simp [hm])).trans (if_pos hs))

/-- The first acknowledgement tells the standby's replay-store version, and with it the total is known (assumption 55). -/
theorem exec_twinWarpControl_ack {n v : Nat} (ha : s.flag mActive = true) :
    exec (.twinWarpControl (.ack n v)) s = .next (updWarp (fun w => if w.theirs.isSome then w
      else { w with theirs := some v, total := w.total + storeBytes { w with theirs := some v } s }) s) :=
  congrArg Host.Outcome.next ((if_neg (by simp [hm])).trans (if_pos ha))

theorem exec_twinWarpControl_abandon {again : Bool} (hw : s.twin.warp = some w) :
    exec (.twinWarpControl (.abandon again)) s = .next (failWarp again s) :=
  congrArg Host.Outcome.next ((if_neg (by simp [hm])).trans (if_neg (by simp [hw])))

theorem exec_twinWarpControl_rejoin (hw : s.twin.warp = some w) (ha : s.flag mActive = true) :
    exec (.twinWarpControl .rejoin) s = .next (twinEvent 3 s.twin.epoch { s with
      twin.warp := none, twin.stash := [], twin.stat.warps := wrapAdd 32 s.twin.stat.warps 1 }) :=
  congrArg Host.Outcome.next ((if_neg (by simp [hm])).trans (if_neg (by simp [hw, ha])))

end Control

/-! Cuts and slices (R298, R300). -/

/-- The active captures its inputs at the tick's block. -/
theorem exec_warpInputCut_captures (hw : s.twin.warp = some w) (hm : s.moored = true) (hc : w.cut = false) (ht : w.tick ≠ 0)
    (ha : w.active = true) (hp : w.phase = 1) (hb : s.toCompute = w.tick) :
    exec .warpInputCut s = .next (sendTwin 9 true [1, 2] [] { s with
      twin.warp := some { w with phase := 2, cut := true, chains := s.rend.inChains, runs := runCounts s.toCompute s } }) := by
  change Host.Outcome.next (inputCut s.toCompute s) = _
  unfold inputCut
  rw [hw]
  refine congrArg Host.Outcome.next ((if_neg (by simp [hm, hc, ht])).trans ((if_pos ha).trans ((if_neg (by simp [hp, hb])).trans ?_)))
  rw [updWarp_running hw]

/-- The segments sent for a slice leave the slices named, and the records of the scene and of the rendering. -/
structure SlicesKept (s t : State) : Prop where
  sliced : t.twin.warp.map Warp.sliced = s.twin.warp.map Warp.sliced
  rend : t.rend = s.rend
  scene : t.scene = s.scene

theorem SlicesKept.refl (s : State) : SlicesKept s s := ⟨rfl, rfl, rfl⟩
theorem SlicesKept.trans {s t u : State} (h : SlicesKept s t) (k : SlicesKept t u) : SlicesKept s u :=
  ⟨k.sliced.trans h.sliced, k.rend.trans h.rend, k.scene.trans h.scene⟩

theorem MoorSent.slicesKept {s t : State} (h : MoorSent s t) : SlicesKept s t := ⟨by rw [h.twin], h.rend, h.scene⟩

theorem sendSeg_slicesKept (bytes : Nat) (seg : WarpSeg) (s : State) : SlicesKept s (sendSeg bytes seg s) := by
  unfold sendSeg
  refine (sendMoor_sent 8 (fun h => .warp seg bytes h) s).slicesKept.trans ⟨?_, rfl, rfl⟩
  exact Option.map_map ..

theorem sendSegs_slicesKept (l : List WarpSeg) (s : State) : SlicesKept s (sendSegs l s) := by
  unfold sendSegs
  induction l generalizing s with
  | nil => exact .refl s
  | cons x l ih => exact (sendSeg_slicesKept (segBytes x) x s).trans (ih _)

/-- The tap records of a slice's outputs. -/
def sliceTaps (outs : List Nat) (s : State) : List WarpSeg :=
  ((tapList s.rend.taps).filter fun e => outs.contains e.2.1).map fun e => .tap e.1 e.2.1 e.2.2

/-- The active names a slice that meets the rules for a tick after those of the slices before, and sends its tap records (R300). -/
theorem exec_warpSlice_names {outputs : List (Fin 512)} (hw : s.twin.warp = some w) (hm : s.moored = true) (ha : w.active = true)
    (h3 : 3 ≤ w.phase) (h4 : w.phase ≤ 4) (ht : w.tick < s.rend.tapTick.getD 0)
    (hl : ∀ l ∈ w.slices, l.tick < s.rend.tapTick.getD 0) (ho : ∀ o ∈ outputs, o.val ∉ w.sliced)
    (hok : sliceOk s w (outputs.map Fin.val) = true) :
    exec (.warpSlice outputs) s = .next (sendSegs (sliceTaps (outputs.map Fin.val) s)
      (sendTwin 9 true (2 :: s.rend.tapTick.getD 0 :: outputs.map Fin.val) []
        (nameSlice (s.rend.tapTick.getD 0) (outputs.map Fin.val) s))) := by
  have later : (w.slices.any fun l => decide (s.rend.tapTick.getD 0 ≤ l.tick)) = false :=
    List.any_eq_false.2 fun l h => by simpa using hl l h
  have unnamed : ((outputs.map Fin.val).any w.sliced.contains) = false :=
    List.any_eq_false.2 fun o h => by
      obtain ⟨k, hk, rfl⟩ := List.mem_map.1 h
      simpa using ho k hk
  change execWarpSlice outputs s = _
  unfold execWarpSlice
  simp only [hw, hm, ha, later, unnamed, hok, Nat.not_lt.2 h3, Nat.not_lt.2 h4, Nat.not_le.2 ht, decide_false, Bool.not_true,
    Bool.or_false, Bool.false_eq_true, if_false, if_true]
  rfl

/-! The end of a warp (R296, R301). -/

/-- The state in which a warp has brought the standby back, its flag aside. -/
def warpDone (s : State) : State :=
  { s with
    twin.warp := none, twin.retry := false, twin.stash := [], twin.missRun := 0
    twin.stat.warps := wrapAdd 32 s.twin.stat.warps 1 }

theorem exec_warpRejoin_done (hw : s.twin.warp = some w) (hp : w.phase = 6) (hs : s.flag mStandby = true) :
    exec .warpRejoin s = .next (sendTwin 9 true [5] []
      (twinEvent 3 (setFlag mAdrift false srcDevice (warpDone s)).twin.epoch (setFlag mAdrift false srcDevice (warpDone s)))) := by
  change execWarpRejoin s = _
  unfold execWarpRejoin
  simp only [hw]
  exact congrArg Host.Outcome.next (if_neg (by simp [hp, hs]))

theorem exec_warpAbandon_running (hw : s.twin.warp = some w) : exec .warpAbandon s = .next (autoWarp (abandonWarp s)) :=
  congrArg Host.Outcome.next (if_pos (by simp [hw]))

end Warps

/-- Settles O58: digests and checks by whether the two sides agree; a warp segment by segment, record by record, event by event. -/
theorem digestsAndWarp : Obligations.DigestsAndWarp := by
  refine ⟨fun s => ⟨fun block crc hm => exec_twinDigest_compared hm, fun block crc mine hf ha hw hx => ?digests,
      fun c hf hk => exec_twinCheck_waits hf hk, fun c k mine hf hk hc hmine hd => ?check⟩,
    fun w s hw => ⟨
      fun seg bytes hf ha hwt htap hctl => exec_twinWarpData_taken hw hf ha (takeSeg_loaded hwt htap hctl _),
      fun seg bytes hf ha hwt hin => exec_twinWarpData_taken hw hf ha (takeSeg_kept hwt hin _),
      fun c r n bytes hf ha => exec_twinWarpData_taken hw hf ha (takeSeg_inputChain (s := segCounted bytes w s) rfl c r n w),
      fun c bytes hf ha => ?control,
      fun x n v hm hactive hs hadrift => exec_twinWarpControl_start hm hactive hs hadrift,
      fun n hm hs => ?phase, fun k outs hm hs => ?slice, fun n v hm ha => ⟨fun ht => ?ackKnown, fun ht => ?ackFirst⟩,
      fun again hm => ?abandoned, fun hm ha => ?rejoined,
      fun hm hc ht ha hp hb => exec_warpInputCut_captures hw hm hc ht ha hp hb,
      fun outputs hm ha h3 h4 ht hl ho hok => ?names, fun hp hs hsafe => ?rejoins, ?abandons⟩⟩
  case digests =>
    have hs := standby_of_follows hf
    have hy : SMap.look (digestHeld block crc s).twin.partner block = some crc := SMap.look_ins_same ..
    refine ⟨_, exec_twinDigest_compared (moored_of_follows hf), fun he => ?_,
      compareDigest_differs_mismatches (s := digestHeld block crc s) hx hy hs ha hw,
      compareDigest_differs_first (s := digestHeld block crc s) hx hy hs ha hw,
      compareDigest_differs_second (s := digestHeld block crc s) hx hy hs ha hw (safe_of_moored (moored_of_follows hf))⟩
    rw [compareDigest_equal (s := digestHeld block crc s) hx hy hs ha he]
    exact ⟨rfl, rfl, rfl⟩
  case check =>
    refine ⟨_, exec_twinCheck_compared hf hk hc, compareCheck_differs (s := checkHeld c s) (standby_of_follows hf)
      (safe_of_moored (moored_of_follows hf)) (SMap.look_ins_same ..) ((SMap.look_ins_other _ _ _ _ ?_).trans hmine) hd⟩
    omega
  case control =>
    have loads : takeSeg (.control c) w (segCounted bytes w s) = loadControl c w (segCounted bytes w s) := rfl
    have sent := sendTwin_moor_sent 9 [3, w.done + bytes, (loadControl c w (segCounted bytes w s)).rend.storeVersion] []
      (loadControl c w (segCounted bytes w s))
    refine ⟨_, exec_twinWarpData_taken hw hf ha loads, ?_⟩
    rw [sent.power, sent.nose, sent.rend, sent.claims, sent.rx, sent.tx]
    exact loadControl_loads c w _
  case phase => exact (exec_twinWarpControl_phase hm hs).trans (congrArg Host.Outcome.next (updWarp_running hw _))
  case slice => exact (exec_twinWarpControl_slice hm hs).trans (congrArg Host.Outcome.next (updWarp_running hw _))
  case ackKnown => exact (exec_twinWarpControl_ack hm ha).trans (congrArg Host.Outcome.next (updWarp_same hw (if_pos ht)))
  case ackFirst =>
    refine (exec_twinWarpControl_ack hm ha).trans (congrArg Host.Outcome.next ((updWarp_running hw _).trans ?_))
    rw [if_neg (by simp [ht])]
  case abandoned =>
    refine ⟨_, exec_twinWarpControl_abandon hm hw, ?_⟩
    rw [(failWarp_host again s).twin]
    exact ⟨rfl, rfl, rfl⟩
  case rejoined =>
    refine ⟨_, exec_twinWarpControl_rejoin hm hw ha, ?_⟩
    rw [(twinEvent_host ..).twin]
    exact ⟨rfl, rfl⟩
  case names =>
    have sent := (sendTwin_moor_sent 9 (2 :: s.rend.tapTick.getD 0 :: outputs.map Fin.val) []
      (nameSlice (s.rend.tapTick.getD 0) (outputs.map Fin.val) s)).slicesKept.trans
        (sendSegs_slicesKept (sliceTaps (outputs.map Fin.val) s) _)
    refine ⟨_, exec_warpSlice_names hw hm ha h3 h4 ht hl ho hok, sent.sliced.trans ?_, sent.rend, sent.scene⟩
    rw [nameSlice, updWarp_running hw]
    rfl
  case rejoins =>
    have clear := setFlag_flags (s := warpDone s) hsafe (word_ne_zero (i := mStandby) hs) (i := mAdrift) (by decide) false srcDevice mAdrift
    have told := twinEvent_host 3 (setFlag mAdrift false srcDevice (warpDone s)).twin.epoch (setFlag mAdrift false srcDevice (warpDone s))
    refine ⟨_, exec_warpRejoin_done hw hp hs, ?_, ?_⟩
    · rw [flag_of_power (sendTwin_moor_sent ..).power, flag_of_power told.power]
      exact clear
    · rw [sendTwin_moor_twin, told.twin, setFlag_twin]
      exact ⟨rfl, rfl⟩
  case abandons =>
    have ended : (abandonWarp s).twin = (warpFailed true s).twin := by
      rw [(abandonWarp_running (by simp [hw])).twin, (failWarp_host true s).twin]
    refine ⟨_, exec_warpAbandon_running hw, ?_, autoWarp_stash (by rw [ended]; rfl)⟩
    rw [(autoWarp_warpOnly _).twin, ended]
    rfl

end Sys2Proof.Machine
end

section
/-!
PROOFS. What holds of every step and every command: the rules of the mode word (R344), SAFE until a reset (R394), and that each
command answers a next state and leaves the queue (R333).
-/
namespace Sys2Proof.Machine

/-! The mode word. -/

/-- The rules of R344, flag by flag, of a word that obeys them. -/
theorem wordOk_rules {p : Bool} {w : BitVec 16} (h : wordOk p w = true) :
    (w.getLsbD mSafe = false → w.getLsbD mLive ≠ w.getLsbD mDark) ∧
    ¬ (w.getLsbD mActive = true ∧ w.getLsbD mStandby = true) ∧
    (p = false → w.getLsbD mActive = false ∧ w.getLsbD mStandby = false) ∧
    (w.getLsbD mAdrift = true → w.getLsbD mStandby = true) ∧
    (w.getLsbD mDoze = true → w.getLsbD mDark = true ∧ w.getLsbD mLive = false) ∧
    (w.getLsbD mSafe = true → w = BitVec.ofNat 16 (2 ^ mSafe)) := by
  unfold wordOk at h
  simp only [Bool.and_eq_true, Bool.not_eq_true', Bool.or_eq_true, Bool.and_eq_false_iff, Bool.or_eq_false_iff] at h
  obtain ⟨⟨⟨⟨mode, roles⟩, solo⟩, adrift⟩, doze⟩ := h
  refine ⟨fun hs => ?_, fun ⟨ha, hb⟩ => ?_, fun hp => ?_, fun ha => ?_, fun hd => ?_, fun hs => ?_⟩
  · simpa [hs] using mode
  · simp [ha, hb] at roles
  · exact solo.resolve_left (by simp [hp])
  · exact adrift.resolve_left (by simp [ha])
  · exact doze.resolve_left (by simp [hd])
  · simpa [hs] using mode

/-- Settles O5: every step keeps the mode word legal, and a legal word has the flags of R344. -/
theorem modeWordStaysLegal : Obligations.ModeWordStaysLegal := by
  intro s t ⟨hmode, _⟩ h hword
  obtain ⟨-, mode, -⟩ := step_keeps h
  exact wordOk_rules ((mode hmode).resolve_left hword)

/-- Settles O6: a command that resets nothing keeps SAFE, and the idle step leaves the mode word. -/
theorem safeLeftOnlyByReset : Obligations.SafeLeftOnlyByReset := by
  intro s t hs h hreset
  cases hp : s.pending with
  | nil =>
    cases (step_of_empty hp).symm.trans h
    exact (idle_keeps (Keeps.refl s)).safe hs
  | cons c rest =>
    have kept := exec_keeps (hreset c rest hp) { s with pending := rest }
    rw [← step_of_front hp, h] at kept
    exact kept.safe hs

/-! Every command completes. -/

/-- A meaning answers a next state. -/
def Completes (o : Host.Outcome State Fault Refusal) : Prop := ∃ t, o = .next t

theorem Completes.next (t : State) : Completes (.next t) := ⟨t, rfl⟩

theorem Completes.ite {c : Prop} [Decidable c] {a b : Host.Outcome State Fault Refusal} (ha : Completes a) (hb : Completes b) :
    Completes (if c then a else b) := by split <;> assumption

/-- Every branch of every meaning answers a next state. -/
theorem exec_completes (i : Instr) (s : State) : Completes (exec i s) := by
  cases i
  case porstNRelease | bootWatchdog | bootLoadDone | vkeepRise | pgoodFall | wakeTimer | pciePerstN | lockstepMismatch |
    companionLinkLost | debugUnlock | sceneBusAnnounceSend | peerSilent | ringDisableDrainEnd | linkUp | ptpSync |
    pllReferenceReturn | referenceLost | referenceQualified | fetchListHandover | zeroCrossFallback | muteRampLengthChange |
    quayGateDone | noseDrainEnd | noseRefresh | proposalInterval | pwrEnRaise | dramTempRead | hammerThrottle |
    twinHeartbeatSend | twinHeartbeat | twinRelease | twinHandOver | leaseRequest | leaseGrant | leaseExpire | mooringSilent |
    outputCurrentLimit | phantomFault | analogueSupplyFault | loopCheck | loopSlew | tdmSyncLoss | mooringLaneLock | vkeepLoss |
    resetBegin => exact .ite (.next _) (.next _)
  case porstNAssert | wakeNLow | channelSelfRefresh => exact .ite (.next _) (.ite (.next _) (.ite (.next _) (.next _)))
  case fabricPortReset => exact .ite (.next _) (.ite (.next _) (.ite (.next _) (.ite (.next _) (.ite (.next _) (.ite (.next _)
    (.next _))))))
  case decodeError | thermalSensorRead | ptpDelayResp | fetchWindowOpen | noseFrame | p3WakeRestore | p1GateChange |
    dramStepDown | shallowSearch | rateClimb | tdmSyncError => exact .ite (.next _) (.ite (.next _) (.next _))
  case craneTransferDone | sceneBusAnnouncement | sceneBusResend | ptpAnnounce | rerouteHoldoffEnd | phaseStep | captureEdge |
    triggerEdge | granuleFetchDone | hopFadeEnd | berthDrainEnd | txBerthDrainEnd | healthEvidenceHold | zRefLearnEnd |
    sweepEnd | drydown | dozeResume | retrainStep | dramSearchStep | dramRateChange | sramScrub | dramScrub | twinClaim |
    spanChangeDone | i2cTransferDone | i2cBusHeld | testLoopEnd | fwStageDone | ptpSendInterval | ptpDelayRequest =>
    dsimp only [exec, execCraneTransferDone, execSceneBusAnnouncement, execSceneBusResend, execPtpAnnounce,
      execRerouteHoldoffEnd, execPhaseStep, execCaptureEdge, execTriggerEdge, execGranuleFetchDone, execHopFadeEnd,
      execBerthDrainEnd, execTxBerthDrainEnd, execHealthEvidenceHold, execZRefLearnEnd, execSweepEnd, execDrydown,
      execDozeResume, execRetrainStep, execDramSearchStep, execDramRateChange, execSramScrub, execDramScrub, execTwinClaim,
      execSpanChangeDone, execI2cTransferDone, execI2cBusHeld, execTestLoopEnd, execFwStageDone, execPtpSendInterval,
      execPtpDelayRequest]
    repeat' split
    all_goals exact .next _
  all_goals exact .next _

/-- Settles O7: the queue by what every command keeps, the next state branch by branch. -/
theorem everyCommandCompletes : Obligations.EveryCommandCompletes := by
  refine ⟨fun c s t h => ?_, exec_completes⟩
  have kept := exec_keepsQ c s
  rw [h] at kept
  exact kept.1

end Sys2Proof.Machine
end

section
/-!
PROOFS. Requests at their acceptance: admitted ones act (R320, R333), duplicates repeat their answer (R331), SAFE refuses (R338),
and collisions between masters go by rank (R335).
-/
namespace Sys2Proof.Machine

/-- Settles O8: an admitted request acts on the state in which it is accepted. -/
theorem requestActs : Obligations.RequestActs := fun _ _ _ _ s hi ho ha hd => by
  rw [exec_request hi s, accept_admitted ha hd ho]

section Acceptance
variable {op : Opcode} {h : StoreHdr} {r : Req} {s : State}

/-- A duplicate is answered again, if it has an answer, and does nothing else (R331). -/
theorem accept_duplicate (hserving : s.serving = true) (hstage : s.power.stage < 3)
    (hseq : r.seq ∈ (s.master r.master.val).seqs) : accept op h r s = repeatAnswer r.master.val r.seq s :=
  (if_neg (by simp [hserving, hstage])).trans (if_pos (by simpa using hseq))

/-- What the mode or the role refuses is answered REFUSED_MODE (R283, R338). -/
theorem accept_refusedMode (hserving : s.serving = true) (hstage : s.power.stage < 3)
    (hseq : r.seq ∉ (s.master r.master.val).seqs) (hmaster : s.hasMaster r.master.val = true)
    (hnewer : s.enforced = true → seqNewer s r.master.val r.seq = true) (hauth : authOk s op r h = true)
    (hmode : modeRefuses op r.payload h s = true) :
    accept op h r s = checkFailRun r.master.val (answerReq op r s.idx 0 .refusedMode []
      (updMaster r.master.val (fun x => { x with unanswered := x.unanswered + 1 }) s)) := by
  unfold accept
  extract_lets m owing
  rw [if_neg (by simp [hserving, hstage]), if_neg (by simpa using hseq)]
  have fresh : ¬ (owing.enforced && !seqNewer owing m r.seq) = true := by
    rw [seqNewer_taken, show owing.enforced = s.enforced from rfl]
    cases he : s.enforced
    · simp
    · simp [m, hnewer he]
  have present : ¬ (!owing.hasMaster m) = true := by
    change ¬ (!s.hasMaster r.master.val) = true
    simp [hmaster]
  have trusted : ¬ (!authOk owing op r h) = true := by
    change ¬ (!authOk s op r h) = true
    simp [hauth]
  exact (if_neg present).trans ((if_neg fresh).trans ((if_neg trusted).trans (if_pos hmode)))

end Acceptance

/-- In SAFE a command that SAFE does not accept is refused for its mode (R338). -/
theorem modeRefuses_safe {op : Opcode} {p : Bytes} {h : StoreHdr} {s : State} (hsafe : s.flag mSafe = true)
    (hop : safeAccepts op p h = false) : modeRefuses op p h s = true := by
  unfold modeRefuses
  simp [hsafe, hop]

/-- A ready interface serves requests. -/
theorem serving_of_ready {s : State} (h : s.host.ready = true) : s.serving = true := by
  unfold State.serving
  simp [h]

/-- Settles O9: the duplicate rule comes before every other. -/
theorem duplicateRequestRepeatsAnswer : Obligations.DuplicateRequestRepeatsAnswer := by
  intro i op h r s hi hready hstage hseq
  rw [exec_request hi s, accept_duplicate (serving_of_ready hready) hstage hseq]
  rfl

/-- Settles O10: a request that passes every other test meets the mode. -/
theorem safeRefusesOthers : Obligations.SafeRefusesOthers := by
  intro i op h r s hi hsafe hready hstage hseq hmaster hnewer hauth hop
  rw [exec_request hi s, accept_refusedMode (serving_of_ready hready) hstage hseq hmaster hnewer hauth (modeRefuses_safe hsafe hop)]

/-! Arbitration between masters (R335). -/

/-- Of two elements the fold keeps the one that wins over the other. -/
def keepWinner (best : Option Cmd) (c : Cmd) : Option Cmd :=
  match best with
  | none => some c
  | some b => if winsOver c b then some c else some b

/-- What takes part in the collision over a unit: commands in effect together that set it (R335). -/
def rivalsOf (cs : List Cmd) (e : Nat) (u : UnitKey) : List Cmd :=
  cs.filter fun c => c.effect == e && !c.applied && !c.resend && c.units.contains u

/-- The last accepted of each sender. -/
def lastOfSender (rivals : List Cmd) : List Cmd :=
  rivals.filter fun c => !rivals.any fun d => d.origin == c.origin && c.id < d.id

theorem unitWinner_eq (cs : List Cmd) (e : Nat) (u : UnitKey) :
    unitWinner cs e u = (lastOfSender (rivalsOf cs e u)).foldl keepWinner none := rfl

theorem mem_rivalsOf {cs : List Cmd} {e : Nat} {u : UnitKey} {c : Cmd} :
    c ∈ rivalsOf cs e u ↔ c ∈ cs ∧ c.effect = e ∧ c.applied = false ∧ c.resend = false ∧ u ∈ c.units := by
  simp [rivalsOf, and_assoc]

theorem mem_lastOfSender {rivals : List Cmd} {c : Cmd} :
    c ∈ lastOfSender rivals ↔ c ∈ rivals ∧ ∀ d ∈ rivals, d.origin = c.origin → d.id ≤ c.id := by
  simp [lastOfSender]

/-- A master's command outranks another master's: by rank, on equal rank by the lower number (R335). -/
def outranks (a b : Cmd) (m n : Nat) : Prop := b.rank < a.rank ∨ a.rank = b.rank ∧ m < n

theorem winsOver_masters {a b : Cmd} {m n : Nat} (ha : a.origin = .master m) (hb : b.origin = .master n) (hmn : m ≠ n) :
    winsOver a b = true ↔ outranks a b m n := by
  simp [winsOver, ha, hb, hmn, outranks]

theorem outranks_of_not {a b : Cmd} {m n : Nat} (hmn : m ≠ n) (h : ¬ outranks a b m n) : outranks b a n m := by
  unfold outranks at *
  omega

theorem outranks_trans {a b c : Cmd} {m n k : Nat} (h : outranks a b m n) (g : outranks b c n k) : outranks a c m k := by
  unfold outranks at *
  omega

/-- `w` outranks `c` if another master sent it. -/
def beats (w c : Cmd) : Prop := ∀ m n, c.origin = .master m → w.origin = .master n → m ≠ n → outranks w c n m

theorem beats_of_same {w c : Cmd} (h : w.origin = c.origin) : beats w c := by
  intro m n hc hw hmn
  rw [h, hc] at hw
  exact absurd (Origin.master.inj hw) hmn

/-- Of two masters' commands the fold keeps the one that beats the other. -/
theorem keepWinner_beats {b d : Cmd} (hb : ∃ n, b.origin = .master n) (hd : ∃ m, d.origin = .master m) (hne : b.origin ≠ d.origin) :
    keepWinner (some b) d = some d ∧ beats d b ∨ keepWinner (some b) d = some b ∧ beats b d := by
  obtain ⟨n, hn⟩ := hb
  obtain ⟨m, hm⟩ := hd
  have hmn : m ≠ n := fun e => hne (by rw [hn, hm, e])
  have wins := winsOver_masters hm hn hmn
  by_cases hw : winsOver d b = true
  · refine .inl ⟨if_pos hw, fun n' m' hn' hm' _ => ?_⟩
    cases hn.symm.trans hn'
    cases hm.symm.trans hm'
    exact wins.1 hw
  · refine .inr ⟨if_neg hw, fun m' n' hm' hn' _ => ?_⟩
    cases hn.symm.trans hn'
    cases hm.symm.trans hm'
    exact outranks_of_not hmn (hw ∘ wins.2)

theorem beats_trans {a b c : Cmd} (hb : ∃ k, b.origin = .master k) (hab : beats a b) (hbc : beats b c) (hna : a.origin ≠ b.origin)
    (hnc : b.origin ≠ c.origin) : beats a c := by
  obtain ⟨k, hk⟩ := hb
  intro m n hm hn _
  exact outranks_trans (hab k n hk hn fun e => hna (by rw [hk, hn, e])) (hbc m k hm hk fun e => hnc (by rw [hk, hm, e]))

/-- Of commands of different masters, the fold leaves one that beats the others. -/
theorem foldl_keepWinner_beats {l : List Cmd} {b w : Cmd} (hmasters : ∀ c ∈ b :: l, ∃ m, c.origin = .master m)
    (hone : (b :: l).Pairwise fun c d => c.origin ≠ d.origin) (hw : l.foldl keepWinner (some b) = some w) :
    w ∈ b :: l ∧ ∀ c ∈ b :: l, beats w c := by
  induction l generalizing b with
  | nil =>
    cases hw
    exact ⟨List.mem_cons_self, fun c hc => beats_of_same (by rw [List.mem_singleton.1 hc])⟩
  | cons d l ih =>
    obtain ⟨hbl, hdl⟩ := List.pairwise_cons.1 hone
    obtain ⟨hdrest, hl⟩ := List.pairwise_cons.1 hdl
    have hbd : b.origin ≠ d.origin := hbl d List.mem_cons_self
    /- `x` is kept of `b` and `d`, and `y` is not. -/
    have step : ∀ x y, (x = d ∧ y = b ∨ x = b ∧ y = d) → keepWinner (some b) d = some x → beats x y →
        w ∈ b :: d :: l ∧ ∀ c ∈ b :: d :: l, beats w c := by
      intro x y hxy hk hbeats
      have hx : x ∈ b :: d :: l := by rcases hxy with ⟨rfl, -⟩ | ⟨rfl, -⟩ <;> simp
      have hne : x.origin ≠ y.origin := by
        rcases hxy with ⟨rfl, rfl⟩ | ⟨rfl, rfl⟩
        · exact hbd.symm
        · exact hbd
      have hxl : ∀ c ∈ l, x.origin ≠ c.origin := by
        rcases hxy with ⟨rfl, -⟩ | ⟨rfl, -⟩
        · exact hdrest
        · exact fun c hc => hbl c (List.mem_cons_of_mem _ hc)
      have hsub : ∀ c ∈ x :: l, c ∈ b :: d :: l := by
        intro c hc
        rcases List.mem_cons.1 hc with rfl | hc
        · exact hx
        · exact List.mem_cons_of_mem _ (List.mem_cons_of_mem _ hc)
      rw [List.foldl_cons, hk] at hw
      obtain ⟨hmem, hall⟩ := ih (fun c hc => hmasters c (hsub c hc)) (List.pairwise_cons.2 ⟨hxl, hl⟩) hw
      refine ⟨hsub w hmem, fun c hc => ?_⟩
      by_cases hcy : c = y
      · subst hcy
        rcases List.mem_cons.1 hmem with rfl | hwl
        · exact hbeats
        · exact beats_trans (hmasters x hx) (hall x List.mem_cons_self) hbeats (hxl w hwl).symm hne
      · refine hall c ?_
        rcases hxy with ⟨rfl, rfl⟩ | ⟨rfl, rfl⟩ <;> simp_all
    rcases keepWinner_beats (hmasters b List.mem_cons_self) (hmasters d (by simp)) hbd with ⟨hk, hbeats⟩ | ⟨hk, hbeats⟩
    · exact step d b (.inl ⟨rfl, rfl⟩) hk hbeats
    · exact step b d (.inr ⟨rfl, rfl⟩) hk hbeats

/-- The last accepted of each sender come from different senders. -/
theorem pairwise_lastOfSender {l : List Cmd} (hid : (l.map Cmd.id).Nodup) :
    (lastOfSender l).Pairwise fun c d => c.origin ≠ d.origin := by
  have hpair : (lastOfSender l).Pairwise fun c d => c.id ≠ d.id :=
    List.Pairwise.sublist List.filter_sublist (List.pairwise_map.1 hid)
  refine hpair.imp_of_mem fun hc hd hne horigin => hne ?_
  obtain ⟨hcl, hclast⟩ := mem_lastOfSender.1 hc
  obtain ⟨hdl, hdlast⟩ := mem_lastOfSender.1 hd
  exact le_antisymm (hdlast _ hcl horigin) (hclast _ hdl horigin.symm)

/-- The winner is among the last accepted of each master, and beats the others of them (R335). -/
theorem unitWinner_beats {cs : List Cmd} {e : Nat} {u : UnitKey} {w : Cmd} (hid : (cs.map Cmd.id).Nodup)
    (hmasters : ∀ c ∈ cs, ∃ m, c.origin = .master m) (hw : unitWinner cs e u = some w) :
    w ∈ lastOfSender (rivalsOf cs e u) ∧ ∀ c ∈ lastOfSender (rivalsOf cs e u), beats w c := by
  have hrivals : ((rivalsOf cs e u).map Cmd.id).Nodup := hid.sublist (List.filter_sublist.map _)
  have hone := pairwise_lastOfSender hrivals
  have hall : ∀ c ∈ lastOfSender (rivalsOf cs e u), ∃ m, c.origin = .master m := fun c hc =>
    hmasters c (mem_rivalsOf.1 (mem_lastOfSender.1 hc).1).1
  rw [unitWinner_eq] at hw
  cases hl : lastOfSender (rivalsOf cs e u) with
  | nil =>
    rw [hl] at hw
    cases hw
  | cons b l =>
    rw [hl] at hw hone hall
    exact foldl_keepWinner_beats hall hone hw

/-- Settles O59: the winner is the last accepted of its master, and beats the last accepted of every other. -/
theorem collisionsGoByRank : Obligations.CollisionsGoByRank := by
  intro cs e u w hid hmasters hw rival
  obtain ⟨hlast, hbeats⟩ := unitWinner_beats hid hmasters hw
  obtain ⟨hwin, hnewest⟩ := mem_lastOfSender.1 hlast
  refine ⟨mem_rivalsOf.1 hwin, fun c hc horigin => hnewest c (mem_rivalsOf.2 hc) horigin, fun c m n hc hm hn hmn hlastc => ?_⟩
  have hmem : c ∈ lastOfSender (rivalsOf cs e u) :=
    mem_lastOfSender.2 ⟨mem_rivalsOf.2 hc, fun d hd horigin => hlastc d (mem_rivalsOf.1 hd) horigin⟩
  exact (hbeats c hmem m n hm hn hmn).imp_right fun ⟨hrank, hlt⟩ => ⟨hrank.symm, hlt⟩

end Sys2Proof.Machine
end

section
/-!
PROOFS. Boots, PORST_N and the lantern: what starts a boot (R340, R389 to R391), the resets of PORST_N (R422, R430), and the
lantern's events (R355, R423).
-/
namespace Sys2Proof.Machine

/-- Settles O28: the guard of each starting command, passed or not. -/
theorem bootsStartTheDevice : Obligations.BootsStartTheDevice := by
  intro s
  refine ⟨fun straps t hup hvkeep hpwr => ?_, fun straps t hoff => ?_, fun t hdue => ?_, fun t hstalled hslot => ?_,
    fun img t hload hsafe harrived => ?_⟩
  · exact if_neg (by simp [hup, hvkeep, hpwr])
  · exact if_pos (by rcases hoff with h | h <;> simp [h])
  · exact if_pos hdue
  · refine (if_neg (by simp [hstalled])).trans ?_
    rw [if_pos hslot]
    rfl
  · exact if_neg (by simp [hload, hsafe, harrived])

/-- Settles O30: the widths of PORST_N and the lantern's guards. -/
theorem resetAndLantern : Obligations.ResetAndLantern := by
  refine ⟨fun ns s hstage => ⟨fun hshort => ?_, fun hlong => ?_⟩, fun s => ⟨fun hoff => ?_, fun hon => ?_, fun ns hlong hpwr => ?_,
    fun ns hshort => ?_, fun hstage hwake => ?_⟩⟩
  · exact if_pos (by simp [hshort])
  · refine (if_neg (by simp [hstage]; omega)).trans ((if_pos hlong).trans ?_)
    simp [resetDevice, coldState]
  · exact if_neg (by simp [hoff])
  · exact ⟨_, if_neg (by simp [hon]), rfl, rfl, rfl, rfl, rfl, rfl, rfl, rfl, rfl, rfl⟩
  · refine (if_neg (by omega)).trans ?_
    rw [if_pos hpwr]
  · exact if_pos hshort
  · exact if_pos (by simp [hstage, hwake])

end Sys2Proof.Machine
end

section
/-!
PROOFS. Idle blocks and drydown (R351, R359), and the DRAM's searches (R377, R379, R382).
-/
namespace Sys2Proof.Machine

/-! P1 gating. -/

/-- A fold whose steps change the Quays alone changes the Quays alone. -/
theorem foldl_quays {α : Type} {f : State → α → State} (hf : ∀ s a, ∃ quays, f s a = { s with rend.quays := quays })
    (l : List α) (s : State) : ∃ quays, l.foldl f s = { s with rend.quays := quays } := by
  induction l generalizing s with
  | nil => exact ⟨s.rend.quays, rfl⟩
  | cons a l ih =>
    obtain ⟨first, h⟩ := hf s a
    obtain ⟨quays, k⟩ := ih (f s a)
    exact ⟨quays, by rw [List.foldl_cons, k, h]⟩

/-- A Quay is written, if a condition of the state holds. -/
theorem updQuay_if (c : Bool) (q : Nat) (f : Quay → Quay) (s : State) :
    ∃ quays, (if c then updQuay q f s else s) = { s with rend.quays := quays } := by
  cases c
  · exact ⟨s.rend.quays, rfl⟩
  · exact ⟨_, rfl⟩

/-- The choice between P0 and P1 sets the power state and writes the log at most. -/
theorem trimState_host (s : State) : ∃ n, HostOnly { s with power.pstate := n } (trimState s) := by
  unfold trimState
  split
  · exact ⟨s.power.pstate, .refl s⟩
  · exact ⟨_, setPstate_host _ s⟩

/-- Quays, what is gated, the power state and the control interface's record are all that changes. -/
def GatesOnly (s t : State) : Prop := ∃ quays gated banks n,
  HostOnly { s with rend.quays := quays, power.gated := gated, power.banks := banks, power.pstate := n } t

/-- Ungating is gating's own business. -/
theorem ungateNeeded_gatesOnly (s : State) : GatesOnly s (ungateNeeded s) := by
  unfold ungateNeeded
  split
  · exact ⟨s.rend.quays, s.power.gated, s.power.banks, s.power.pstate, .refl s⟩
  · extract_lets g t
    obtain ⟨quays, ht⟩ : ∃ quays, t = { s with rend.quays := quays } := foldl_quays (fun s q => updQuay_if _ q _ s) _ s
    clear_value t
    subst ht
    obtain ⟨n, h⟩ := trimState_host { { s with rend.quays := quays } with
      power.gated := g, power.banks := s.power.banks &&& idleBanks { s with rend.quays := quays } }
    exact ⟨quays, g, _, n, h⟩

/-- With the policy's gating on, in P0, what is gated is what is idle (R351). -/
theorem exec_p1GateChange_gates {s : State} (hstage : s.power.stage = 0) (hsafe : s.flag mSafe = false)
    (hpost : s.boot.postDone = true) (hpolicy : s.power.policy.flags.testBit 0 = true) :
    ∃ t quays n, exec .p1GateChange s = .next t ∧
      HostOnly { s with rend.quays := quays, power.gated := idleBlocks s, power.banks := idleBanks s, power.pstate := n } t := by
  obtain ⟨quays, gated, banks, n, hungated⟩ := ungateNeeded_gatesOnly s
  obtain ⟨drained, hdrained⟩ : ∃ quays, (List.range 4).foldl (fun t q =>
      if (idleBlocks s).getLsbD q && !t.power.gated.getLsbD q then updQuay q (fun u => { u with draining := true, waiting := [] }) t
      else t) (ungateNeeded s) = { ungateNeeded s with rend.quays := quays } :=
    foldl_quays (fun t q => updQuay_if _ q _ t) _ _
  have hbanks : ∀ u quays, HostOnly { s with
      rend.quays := quays, power.gated := gated, power.banks := banks, power.pstate := n } u → idleBanks u = idleBanks s :=
    fun u _ h => by
      unfold HostOnly at h
      rw [h]
      rfl
  have hkept : HostOnly { s with rend.quays := drained, power.gated := gated, power.banks := banks, power.pstate := n }
      { ungateNeeded s with rend.quays := drained } := by
    unfold HostOnly at hungated ⊢
    rw [hungated]
  obtain ⟨m, htrim⟩ := trimState_host { { ungateNeeded s with rend.quays := drained } with
    power.gated := idleBlocks s, power.banks := idleBanks { ungateNeeded s with rend.quays := drained } }
  refine ⟨_, drained, m, (if_neg (by simp [hstage, hsafe, hpost])).trans (if_neg (by simp [hpolicy])), ?_⟩
  rw [hdrained]
  rw [hbanks _ _ hkept] at htrim ⊢
  unfold HostOnly at hkept htrim ⊢
  rw [htrim, hkept]

/-- Settles O34: what is gated in P0 by the policy's flag, and the block of a drydown that has lasted. -/
theorem idleBlocksGateAndDry : Obligations.IdleBlocksGateAndDry := by
  intro s
  refine ⟨fun hstage hsafe hpost hpolicy => ?_, fun hstage hsafe hpost hpolicy => ?_, fun i hfrom hdecides hat hcounts htime => ?_⟩
  · exact (if_neg (by simp [hstage, hsafe, hpost])).trans (if_pos (by simp [hpolicy]))
  · obtain ⟨t, quays, n, h, only⟩ := exec_p1GateChange_gates hstage hsafe hpost hpolicy
    have power := only.power
    exact ⟨t, h, by rw [power], by rw [power], only.scene, by rw [power]⟩
  · change execDrydown s = _
    unfold execDrydown
    rw [hfrom]
    exact if_pos (by simp [hdecides, hat, hcounts, htime])

/-! Retraining and searches. -/

/-- One increment of a setting towards the centre of its margin (R377). -/
def stepTowards (c v : Int) : Int := if v < c then v + 1 else if c < v then v - 1 else v

section Training
variable {ch : Fin 8} {s : State}

/-- A retraining step of a device that trains: counted, with the spread in force, and then by the measurement (R276, R377). -/
theorem exec_retrainStep (centre : Option Int) (halive : s.alive = true) (hpost : s.boot.postDone = true)
    (hshallow : s.flag mShallow = false) :
    let t := { s with mem.stat.retrainSteps := wrapAdd 64 s.mem.stat.retrainSteps 1, time.spreadDram := s.time.dev.spreadDram }
    exec (.retrainStep ch centre) s = if (SMap.look s.mem.searches ch.val).isSome then .next t
      else match centre with
      | some c => .next { t with mem.settings := SMap.upd 0 s.mem.settings ch.val (stepTowards c) }
      | none => .next { t with
          mem.stat.searches := wrapAdd 32 s.mem.stat.searches 1
          mem.searches := SMap.ins s.mem.searches ch.val 0, mem.degraded := setBit8 s.mem.degraded ch.val true } := by
  refine (if_neg (by simp [halive, hpost, hshallow])).trans ?_
  cases centre <;> rfl

/-- A search in progress goes on, ends with a setting, or fails at its 64th point (R377, R379). -/
theorem exec_dramSearchStep {n : Nat} (found : Option Int) (hsearch : SMap.look s.mem.searches ch.val = some n) :
    exec (.dramSearchStep ch found) s = match found with
      | some v => .next { s with
          mem.searches := SMap.del s.mem.searches ch.val, mem.degraded := setBit8 s.mem.degraded ch.val false
          mem.settings := SMap.put 0 s.mem.settings ch.val v }
      | none => if n + 1 < 64 then .next { s with mem.searches := SMap.ins s.mem.searches ch.val (n + 1) }
        else .next { s with
          mem.stat.searchFails := wrapAdd 32 s.mem.stat.searchFails 1, mem.searches := SMap.del s.mem.searches ch.val
          mem.stepWanted := true } := by
  change execDramSearchStep ch found s = _
  unfold execDramSearchStep
  rw [hsearch]
  cases found <;> rfl

end Training

/-- Settles O35: the branches of a retraining step, of a search step and of SHALLOW's search. -/
theorem dramSearchesFollowTraining : Obligations.DramSearchesFollowTraining := by
  refine ⟨fun ch s => ⟨fun c halive hpost hshallow hnone => ?_, fun c halive hpost hshallow hsome => ?_,
    fun halive hpost hshallow hnone => ?_, fun n hsearch => ⟨fun v => ?_, fun hlow => ?_, fun hhigh => ?_⟩⟩,
    fun pass pattern s hshallow hclearing halive hloops => ?_⟩
  · refine ⟨_, (exec_retrainStep (some c) halive hpost hshallow).trans (if_neg (by simp [hnone])), ?_, fun k hk => ?_, rfl⟩
    · exact SMap.get_upd_same 0 s.mem.settings ch.val (stepTowards c)
    · exact SMap.get_upd_other 0 s.mem.settings ch.val k _ hk
  · exact (exec_retrainStep c halive hpost hshallow).trans (if_pos hsome)
  · exact (exec_retrainStep none halive hpost hshallow).trans (if_neg (by simp [hnone]))
  · exact exec_dramSearchStep (some v) hsearch
  · exact (exec_dramSearchStep none hsearch).trans (if_pos (by omega))
  · exact (exec_dramSearchStep none hsearch).trans (if_neg (by omega))
  · have guard : ¬ (!s.flag mShallow || s.mem.clearing || !s.alive || (s.boot.loops.any fun l => l.iface == 6)) = true := by
      simpa [hshallow, hclearing, halive] using hloops
    cases h : pass && pattern
    · exact ⟨_, (if_neg guard).trans (if_neg (by simp [h])), rfl, rfl, hclearing, rfl⟩
    · exact ⟨_, (if_neg guard).trans (if_pos h), rfl, rfl, rfl, rfl⟩

end Sys2Proof.Machine
end

section
/-!
PROOFS. What events and answers leave of the control interface's record (R318 to R321, R326), and where an answer is written (R319).
-/
namespace Sys2Proof.Machine

/-! Events and answers. -/

/-- An answer leaves every record but those of `HostOnly`, and of the interface's own the commands, the transfers and the claims. -/
structure Told (s t : State) : Prop where
  only : HostOnly s t
  cmds : t.host.cmds = s.host.cmds
  transfers : t.host.transfers = s.host.transfers
  claims : t.host.claims = s.host.claims

theorem Told.refl (s : State) : Told s s := ⟨.refl s, rfl, rfl, rfl⟩

theorem Told.trans {s t u : State} (h : Told s t) (k : Told t u) : Told s u :=
  ⟨h.only.trans k.only, k.cmds.trans h.cmds, k.transfers.trans h.transfers, k.claims.trans h.claims⟩

theorem Told.ite {c : Prop} [Decidable c] {s a b : State} (ha : Told s a) (hb : Told s b) : Told s (if c then a else b) := by
  split <;> assumption

theorem Told.foldl {α : Type} {f : State → α → State} (hf : ∀ s a, Told s (f s a)) (l : List α) (s : State) :
    Told s (l.foldl f s) := by
  induction l generalizing s with
  | nil => exact .refl s
  | cons a l ih => exact (hf s a).trans (ih _)

/-- A message or a cause leaves the ring memory too, and of a master all but the causes due to it and its datagram number. -/
structure Signalled (s t : State) : Prop extends Told s t where
  mem : t.host.mem = s.host.mem
  master : ∀ j, ∃ due seq, t.master j = { s.master j with dueCauses := due, dseq := seq }

theorem Signalled.refl (s : State) : Signalled s s := ⟨.refl s, rfl, fun _ => ⟨_, _, rfl⟩⟩

theorem Signalled.trans {s t u : State} (h : Signalled s t) (k : Signalled t u) : Signalled s u := by
  refine ⟨h.toTold.trans k.toTold, k.mem.trans h.mem, fun j => ?_⟩
  obtain ⟨due, seq, hj⟩ := h.master j
  obtain ⟨due', seq', kj⟩ := k.master j
  exact ⟨due', seq', by rw [kj, hj]⟩

theorem Signalled.ite {c : Prop} [Decidable c] {s a b : State} (ha : Signalled s a) (hb : Signalled s b) :
    Signalled s (if c then a else b) := by split <;> assumption

/-- A change that leaves the masters alone. -/
theorem Signalled.of {s t : State} (h : Told s t) (hm : t.host.mem = s.host.mem) (hs : t.host.masters = s.host.masters) :
    Signalled s t := ⟨h, hm, fun j => ⟨(s.master j).dueCauses, (s.master j).dseq, by unfold State.master; rw [hs]⟩⟩

theorem updMaster_told (m : Nat) (f : Master → Master) (s : State) : Told s (updMaster m f s) := ⟨rfl, rfl, rfl, rfl⟩

theorem queueOwn_signalled (port queue len dscp : Nat) (s : State) : Signalled s (queueOwn port queue len dscp s) := by
  unfold queueOwn
  exact .ite (.refl s) (.of ⟨rfl, rfl, rfl, rfl⟩ rfl rfl)

theorem sendMsix_signalled (i : Nat) (s : State) : Signalled s (sendMsix i s) := by
  obtain ⟨_, _, _, h⟩ := sendMsix_msixOnly i s
  rw [h]
  exact .of ⟨rfl, rfl, rfl, rfl⟩ rfl rfl

theorem noteEvent_signalled (i : Nat) (s : State) : Signalled s (noteEvent i s) := by
  refine ⟨⟨rfl, rfl, rfl, rfl⟩, rfl, fun j => ?_⟩
  unfold noteEvent State.master SMap.get
  dsimp only
  rw [look_map _ (by intro e; split <;> rfl)]
  cases SMap.look s.host.masters j with
  | none => exact ⟨_, _, rfl⟩
  | some v =>
    rw [Option.map_some, Option.getD_some, Option.getD_some]
    dsimp only
    split
    · exact ⟨_, _, rfl⟩
    · exact ⟨_, _, rfl⟩

theorem raise_signalled (i : Nat) (s : State) : Signalled s (raise i s) := by
  unfold raise
  have set : Signalled s { s with host.irqCause := s.host.irqCause ||| BitVec.ofNat 32 (2 ^ i) } := .of ⟨rfl, rfl, rfl, rfl⟩ rfl rfl
  have sent := set.trans (.ite (c := (!s.host.irqCause.getLsbD i && s.host.irqMask.getLsbD i) = true) (sendMsix_signalled i _) (.refl _))
  exact .ite (sent.trans (noteEvent_signalled ..)) sent

theorem sendDatagram_signalled (m kind off : Nat) (d : Bytes) (s : State) : Signalled s (sendDatagram m kind off d s) := by
  unfold sendDatagram
  dsimp only
  split
  · exact .refl s
  · have counted : ∀ q, Signalled s (send q (updMaster m (fun x => { x with dseq := (x.dseq + 1) % 2 ^ 32 }) s)) := by
      refine fun q => ⟨⟨rfl, rfl, rfl, rfl⟩, rfl, fun j => ?_⟩
      change ∃ due seq, (updMaster m (fun x => { x with dseq := (x.dseq + 1) % 2 ^ 32 }) s).master j = _
      by_cases h : j = m
      · subst h
        exact ⟨_, _, updMaster_same ..⟩
      · exact ⟨_, _, updMaster_other m _ s j h⟩
    exact .ite (counted _) ((counted _).trans (queueOwn_signalled ..))

theorem sendSegments_signalled (n m off : Nat) (p : Bytes) (s : State) : Signalled s (sendSegments n m off p s) := by
  induction n generalizing off p s with
  | zero => exact .refl s
  | succ n ih =>
    unfold sendSegments
    exact .ite (.refl s) ((sendDatagram_signalled ..).trans (ih ..))

theorem logEvent_signalled (cause sub src : Nat) (args : List Nat) (s : State) : Signalled s (logEvent cause sub src args s) := by
  unfold logEvent
  extract_lets e cap oldest full lost kept text
  refine .trans ?_ (raise_signalled cause _)
  exact .of ⟨rfl, rfl, rfl, rfl⟩ rfl rfl

theorem setWord_signalled (w : BitVec 16) (src : Nat) (s : State) : Signalled { s with power.word := w } (setWord w src s) := by
  unfold setWord
  split
  · next h => subst h; exact .refl s
  · exact logEvent_signalled ..

theorem setPstate_signalled (n : Nat) (s : State) : Signalled { s with power.pstate := n } (setPstate n s) := by
  unfold setPstate
  split
  · next h => subst h; exact .refl s
  · exact logEvent_signalled ..

/-! Where an answer is written (R319, R321). -/

/-- The answer's body goes to the bulk region. -/
def bulky (r : Response) : Bool := !r.crane && r.body.length > 192

/-- Place of the entry that an answer takes in its master's ring. -/
def entryPlace (r : Response) (s : State) : Nat := rspRing r.master + 256 * ((s.master r.master).rspTail % 64)

/-- The ring memory with an answer's entry, and its bulk data at `o` of the bulk region. -/
def writtenMem (r : Response) (o : Nat) (s : State) : List Host.Cell :=
  let mem := writeBytes s.host.mem (entryPlace r s) (responseBytes s r o)
  if bulky r then writeBytes mem (rspBulk r.master + o) r.body else mem

/-- What a master's record keeps of an answer written. -/
def filed (r : Response) (o : Nat) (x : Master) : Master :=
  { x with
    rspTail := (x.rspTail + 1) % 128,
    bulk := if bulky r then x.bulk ++ [(x.rspTail, o, r.body.length)] else x.bulk,
    answers := if x.seqs.contains r.seq && !r.repeated then (x.answers.filter fun a => a.seq != r.seq) ++ [r] else x.answers }

/-- An answer is written and filed, and then signalled to its master (R319). -/
theorem writeResponse_signalled (r : Response) (o : Nat) (s : State) :
    Signalled (updMaster r.master (filed r o) { s with host.mem := writtenMem r o s }) (writeResponse r o s) :=
  .ite (raise_signalled ..) (.trans (.ite (sendSegments_signalled ..) (.refl _)) (sendDatagram_signalled ..))

theorem writeResponse_told (r : Response) (o : Nat) (s : State) : Told s (writeResponse r o s) :=
  .trans (t := updMaster r.master (filed r o) { s with host.mem := writtenMem r o s }) ⟨rfl, rfl, rfl, rfl⟩
    (writeResponse_signalled r o s).toTold

/-- A master's count of what it is owed, and of failed authentications (R320, R330). -/
def settled (r : Response) (x : Master) : Master :=
  if r.repeated then x else { x with unanswered := x.unanswered - 1, failRun := if r.status = .authFail then x.failRun + 1 else 0 }

theorem settled_frame (r : Response) (x : Master) :
    ∃ owed run, settled r x = { x with unanswered := owed, failRun := run } := by
  unfold settled
  split <;> exact ⟨_, _, rfl⟩

theorem settled_held (r : Response) (x : Master) : (settled r x).held = x.held := by
  obtain ⟨_, _, h⟩ := settled_frame r x
  rw [h]

/-- The counts do not decide whether an answer can be written. -/
theorem canWrite_settled (r : Response) (s : State) : canWrite (updMaster r.master (settled r) s) r = canWrite s r := by
  unfold canWrite State.rspStream
  obtain ⟨_, _, h⟩ := settled_frame r (s.master r.master)
  rw [updMaster_same, h]
  rfl

/-- An answer waits in order behind the answers held. -/
def holdAnswer (r : Response) (s : State) : State := updMaster r.master (fun x => { x with held := x.held ++ [r] }) s

theorem respond_eq (r : Response) (s : State) :
    let t := updMaster r.master (settled r) s
    respond r s = if (s.master r.master).held.isEmpty then
      match canWrite s r with
      | some o => writeResponse r o t
      | none => holdAnswer r t
    else holdAnswer r t := by
  intro t
  have held : (t.master r.master).held = (s.master r.master).held := by rw [updMaster_same, settled_held]
  rw [← held, ← canWrite_settled r s]
  rfl

theorem respond_writes {r : Response} {o : Nat} {s : State} (hheld : (s.master r.master).held = []) (hroom : canWrite s r = some o) :
    respond r s = writeResponse r o (updMaster r.master (settled r) s) := by
  rw [respond_eq, hheld, hroom]
  rfl

theorem respond_holds {r : Response} {s : State} (h : (s.master r.master).held ≠ [] ∨ canWrite s r = none) :
    respond r s = holdAnswer r (updMaster r.master (settled r) s) := by
  rw [respond_eq]
  split
  · next hheld =>
    rw [h.resolve_left fun hne => hne (List.isEmpty_iff.1 hheld)]
  · rfl

theorem respond_told (r : Response) (s : State) : Told s (respond r s) := by
  rw [respond_eq]
  have held : Told s (holdAnswer r (updMaster r.master (settled r) s)) := ⟨rfl, rfl, rfl, rfl⟩
  refine .ite ?_ held
  split
  · exact (updMaster_told r.master (settled r) s).trans (writeResponse_told ..)
  · exact held

/-! Bytes of an answer. -/

theorem readBytes_eq {mem : List Host.Cell} {a : Nat} {p : Bytes} (h : ∀ i (hi : i < p.length), readByte mem (a + i) = p[i]) :
    readBytes mem a p.length = p := by
  unfold readBytes
  refine List.ext_getElem (by simp) fun i hi _ => ?_
  simp [h i (by simpa using hi)]

theorem readBytes_writeBytes (mem : List Host.Cell) (a : Nat) (p : Bytes) : readBytes (writeBytes mem a p) a p.length = p :=
  readBytes_eq fun i hi => readByte_writeBytes_inside mem a i p hi

theorem length_zeros (n : Nat) : (zeros n).length = n := List.length_replicate

theorem length_padTo {n : Nat} {p : Bytes} (h : p.length ≤ n) : (padTo n p).length = n := by
  rw [padTo, List.length_append, length_zeros]
  omega

/-- An answer's entry takes 256 bytes (Table 11.11). -/
theorem length_responseBytes {s : State} {r : Response} {o : Nat} (h : r.crane = true → r.body.length ≤ 192) :
    (responseBytes s r o).length = 256 := by
  have data : (padTo 192 (if bulky r then [] else r.body)).length = 192 := by
    refine length_padTo ?_
    cases hb : bulky r with
    | true => simp
    | false =>
      cases hc : r.crane with
      | true => simpa using h hc
      | false => simpa [bulky, hc] using hb
  unfold responseBytes
  extract_lets bulk head body tag
  have htag : tag.length = 32 := by
    unfold tag
    split
    · split
      · exact length_slice ..
      · exact length_zeros 32
    · exact length_zeros 32
  have hhead : head.length = 32 := by simp [head]
  have hbody : body.length = 192 := data
  rw [List.length_append, List.length_append, hhead, htag, hbody]

/-- A master's entry lies below every bulk region (Table 11.2). -/
theorem entryPlace_below (r : Response) (s : State) : entryPlace r s + 256 ≤ rspBulk r.master := by
  unfold entryPlace rspRing rspBulk
  omega

section Written
variable {r : Response} {o : Nat} {s : State}

theorem writtenMem_bulky (h : bulky r = true) : writtenMem r o s =
    writeBytes (writeBytes s.host.mem (entryPlace r s) (responseBytes s r o)) (rspBulk r.master + o) r.body := if_pos h

theorem writtenMem_short (h : bulky r = false) :
    writtenMem r o s = writeBytes s.host.mem (entryPlace r s) (responseBytes s r o) := if_neg (by simp [h])

theorem readByte_writtenMem_entry {i : Nat} (hi : i < 256) :
    readByte (writtenMem r o s) (entryPlace r s + i) =
      readByte (writeBytes s.host.mem (entryPlace r s) (responseBytes s r o)) (entryPlace r s + i) := by
  cases hb : bulky r with
  | true =>
    have below := entryPlace_below r s
    rw [writtenMem_bulky hb, readByte_writeBytes_outside _ _ _ _ (.inl (by omega))]
  | false => rw [writtenMem_short hb]

theorem readBytes_writtenMem_entry (hcrane : r.crane = true → r.body.length ≤ 192) :
    readBytes (writtenMem r o s) (entryPlace r s) 256 = responseBytes s r o := by
  have len := length_responseBytes (s := s) (o := o) hcrane
  have read := readBytes_eq (mem := writtenMem r o s) (a := entryPlace r s) (p := responseBytes s r o) fun i hi => by
    rw [readByte_writtenMem_entry (by omega), readByte_writeBytes_inside _ _ _ _ hi]
  rwa [len] at read

theorem readBytes_writtenMem_bulk : readBytes (writtenMem r o s) (rspBulk r.master + o) (if bulky r then r.body.length else 0) =
    r.body.take (if bulky r then r.body.length else 0) := by
  cases hb : bulky r with
  | true => rw [writtenMem_bulky hb, if_pos rfl, readBytes_writeBytes, List.take_length]
  | false => rfl

theorem readByte_writtenMem_other {i : Nat} (hcrane : r.crane = true → r.body.length ≤ 192)
    (hentry : i < entryPlace r s ∨ entryPlace r s + 256 ≤ i)
    (hbulk : i < rspBulk r.master + o ∨ rspBulk r.master + o + (if bulky r then r.body.length else 0) ≤ i) :
    readByte (writtenMem r o s) i = readByte s.host.mem i := by
  have entry : readByte (writeBytes s.host.mem (entryPlace r s) (responseBytes s r o)) i = readByte s.host.mem i :=
    readByte_writeBytes_outside _ _ _ _ (by rwa [length_responseBytes hcrane])
  cases hb : bulky r with
  | true =>
    rw [hb, if_pos rfl] at hbulk
    rw [writtenMem_bulky hb, readByte_writeBytes_outside _ _ _ _ hbulk, entry]
  | false => rw [writtenMem_short hb, entry]

end Written

/-- An answer to a window master touches no port. -/
theorem writeResponse_net {r : Response} (o : Nat) (s : State) (hr : r.master < 4) : (writeResponse r o s).net = s.net :=
  (congrArg State.net (if_pos hr)).trans (raise_net ..)

/-- Settles O11: what the ring memory reads after an answer written, and what an answer held leaves. -/
theorem answersGoToTheRing : Obligations.AnswersGoToTheRing := by
  refine ⟨fun a o s _ hcrane _ hheld hroom => ?_, fun a s h => ?_⟩
  · intro t tail n
    have place : entryPlace a (updMaster a.master (settled a) s) = rspRing a.master + 256 * (tail % 64) := by
      obtain ⟨_, _, same⟩ := settled_frame a (s.master a.master)
      rw [entryPlace, updMaster_same, same]
    have ht : t = writeResponse a o (updMaster a.master (settled a) s) := respond_writes hheld hroom
    have sent := writeResponse_signalled a o (updMaster a.master (settled a) s)
    rw [← ht] at sent
    have mem : t.host.mem = writtenMem a o (updMaster a.master (settled a) s) := sent.mem
    have only : t = { s with host := t.host, net.ports := t.net.ports } := respond_host a s
    refine ⟨?_, ?_, ?_, fun i hentry hbulk => ?_, only, fun hwindow => ?_⟩
    · rw [mem, ← place]
      exact readBytes_writtenMem_entry hcrane
    · rw [mem]
      exact readBytes_writtenMem_bulk
    · obtain ⟨_, _, hmaster⟩ := sent.master a.master
      obtain ⟨_, _, same⟩ := settled_frame a (s.master a.master)
      rw [hmaster, updMaster_same]
      change (((updMaster a.master (settled a) s).master a.master).rspTail + 1) % 128 = (tail + 1) % 128
      rw [updMaster_same, same]
    · rw [mem, ← place] at *
      exact readByte_writtenMem_other hcrane hentry hbulk
    · have net : t.net = s.net := by rw [ht, writeResponse_net o _ hwindow]; rfl
      rw [only]
      dsimp only
      rw [net]
  · rw [respond_holds h]
    obtain ⟨_, _, same⟩ := settled_frame a (s.master a.master)
    refine ⟨?_, rfl, rfl⟩
    rw [holdAnswer, updMaster_same, updMaster_same, same]

end Sys2Proof.Machine
end

section
/-!
PROOFS. The entry to SAFE and what brings it about (R394, R395), and the mode word that self-test sets (R345).
-/
namespace Sys2Proof.Machine

/-! Records that a stop leaves. -/

/-- What self-test has found, and the straps, are as before. -/
structure PostKept (s t : State) : Prop where
  straps : t.boot.straps = s.boot.straps
  passed : t.boot.postPass = s.boot.postPass
  done : t.boot.postDone = s.boot.postDone

theorem PostKept.refl (s : State) : PostKept s s := ⟨rfl, rfl, rfl⟩

theorem PostKept.trans {s t u : State} (h : PostKept s t) (k : PostKept t u) : PostKept s u :=
  ⟨k.straps.trans h.straps, k.passed.trans h.passed, k.done.trans h.done⟩

/-- So are self-test's report and the memory's counts. -/
structure ReportKept (s t : State) : Prop extends PostKept s t where
  report : t.boot.report = s.boot.report
  stat : t.mem.stat = s.mem.stat

theorem ReportKept.refl (s : State) : ReportKept s s := ⟨.refl s, rfl, rfl⟩

theorem ReportKept.trans {s t u : State} (h : ReportKept s t) (k : ReportKept t u) : ReportKept s u :=
  ⟨h.toPostKept.trans k.toPostKept, k.report.trans h.report, k.stat.trans h.stat⟩

theorem ReportKept.ite {c : Prop} [Decidable c] {s a b : State} (ha : ReportKept s a) (hb : ReportKept s b) :
    ReportKept s (if c then a else b) := by split <;> assumption

/-- Of the boot and memory records a change leaves everything. -/
theorem ReportKept.of {s t : State} (hboot : t.boot = s.boot) (hmem : t.mem = s.mem) : ReportKept s t :=
  ⟨⟨by rw [hboot], by rw [hboot], by rw [hboot]⟩, by rw [hboot], by rw [hmem]⟩

theorem HostOnly.mem {s t : State} (h : HostOnly s t) : t.mem = s.mem := by unfold HostOnly at h; rw [h]
theorem HostOnly.tx {s t : State} (h : HostOnly s t) : t.net.tx = s.net.tx := by unfold HostOnly at h; rw [h]
theorem HostOnly.reportKept {s t : State} (h : HostOnly s t) : ReportKept s t := .of h.boot h.mem

theorem queuePackets_mem (ps : List (Nat × TxPkt)) (s : State) : (queuePackets ps s).mem = s.mem := by
  unfold queuePackets
  induction ps generalizing s with
  | nil => rfl
  | cons e l ih =>
    refine (ih _).trans ?_
    dsimp only
    split <;> rfl

theorem sendService_mem (service count : Nat) (payload : Bytes) (s : State) : (sendService service count payload s).mem = s.mem := by
  unfold sendService
  dsimp only
  split
  · rfl
  · exact queuePackets_mem ..

/-- A record on either path leaves the memory's record. -/
theorem sendTwin_mem (kind : Nat) (moor : Bool) (args : List Nat) (data : Bytes) (s : State) :
    (sendTwin kind moor args data s).mem = s.mem := by
  cases moor with
  | true =>
    have sent := sendTwin_moor_sent kind args data s
    unfold MoorSent at sent
    rw [sent]
  | false =>
    change (if !s.twinBerths then s else sendService 2 1 (twinBytes kind args data) (send (.twin kind args data none) s)).mem = _
    split
    · rfl
    · exact sendService_mem ..

theorem sendTwin_reportKept (kind : Nat) (moor : Bool) (args : List Nat) (data : Bytes) (s : State) :
    ReportKept s (sendTwin kind moor args data s) := .of (sendTwin_power ..).2 (sendTwin_mem ..)

theorem releaseRole_reportKept (s : State) : ReportKept s (releaseRole s) := by
  unfold releaseRole
  obtain ⟨w, h⟩ := setFlag_host mActive false srcDevice { s with twin.stopAt := some s.nextEmit }
  have fell : ReportKept s (setFlag mActive false srcDevice { s with twin.stopAt := some s.nextEmit }) :=
    .of h.boot h.mem
  exact .ite (fell.trans ((sendTwin_reportKept ..).trans (sendTwin_reportKept ..))) (.refl s)

/-! What a stop ends (R394). -/

theorem answerOwed_told (o : Owed) (st : Status) (body : Bytes) (s : State) : Told s (answerOwed o st body s) := by
  unfold answerOwed
  exact .ite (.refl s) (.trans (.ite (.refl s) (updMaster_told ..)) (respond_told ..))

theorem settleOwed_told (op : Opcode) (key : Nat) (st : Status) (body : Bytes) (s : State) : Told s (settleOwed op key st body s) :=
  .trans (t := { s with host.owed := s.host.owed.filter fun o => !(o.op == op && o.key == key) }) ⟨rfl, rfl, rfl, rfl⟩
    (.foldl (fun _ _ => answerOwed_told ..) _ _)

theorem answerCmd_told (c : Cmd) (st : Status) (body : Bytes) (s : State) : Told s (answerCmd c st body s) := by
  unfold answerCmd
  split
  · exact .ite (.refl s) (respond_told ..)
  · exact .refl s

/-- Commands not in effect are gone; the rest of it is answers. -/
theorem discardCmds_told (s : State) : Told { s with host.cmds := s.host.cmds.filter fun c => c.applied } (discardCmds s) :=
  .foldl (fun _ _ => answerCmd_told ..) _ _

/-- The transfers named are gone; the rest of it is answers. -/
theorem endTransfers_told (f : Transfer → Bool) (st : Status) (s : State) :
    Told { s with host.transfers := s.host.transfers.filter fun t => !f t } (endTransfers f st s) :=
  .foldl (fun s _ => (updMaster_told _ _ s).trans ((updMaster_told ..).trans (respond_told ..))) _ _

/-- Nothing of a stopped unit's work waits or runs: no command, no transfer, no transmit berth, no SWEEP run, no warp. -/
structure Stopped (s : State) : Prop where
  cmds : ∀ c ∈ s.host.cmds, c.applied = true
  transfers : s.host.transfers = []
  tx : ∀ e ∈ s.net.tx, e.2.state = 0
  sweep : s.nose.sweep = none
  warp : s.twin.warp = none

/-- Answers and events start nothing. -/
theorem Stopped.told {s t : State} (h : Stopped s) (k : Told s t) : Stopped t :=
  ⟨by rw [k.cmds]; exact h.cmds, k.transfers.trans h.transfers, by rw [k.only.tx]; exact h.tx, by rw [k.only.nose]; exact h.sweep,
    by rw [k.only.twin]; exact h.warp⟩

/-- The answers of a stop: commands not in effect, and every transfer, are gone. -/
def answerAll (s : State) : State :=
  endTransfers (fun t => t.out) .busy (endTransfers (fun t => !t.out) .superseded (discardCmds s))

theorem answerAll_told (s : State) :
    Told { s with host.cmds := s.host.cmds.filter fun c => c.applied, host.transfers := [] } (answerAll s) := by
  have discarded := discardCmds_told s
  have inward := endTransfers_told (fun t => !t.out) .superseded (discardCmds s)
  have outward := endTransfers_told (fun t => t.out) .busy (endTransfers (fun t => !t.out) .superseded (discardCmds s))
  refine ⟨?_, ?_, ?_, ?_⟩
  · exact .trans (t := s) rfl (discarded.only.trans (inward.only.trans outward.only))
  · exact outward.cmds.trans (inward.cmds.trans discarded.cmds)
  · refine outward.transfers.trans ?_
    have left : (endTransfers (fun t => !t.out) .superseded (discardCmds s)).host.transfers =
      (discardCmds s).host.transfers.filter fun t => !!t.out := inward.transfers
    simp [left]
  · exact outward.claims.trans (inward.claims.trans discarded.claims)

theorem answerAll_reportKept (s : State) : ReportKept s (answerAll s) := by
  obtain ⟨only, -, -, -⟩ := answerAll_told s
  exact .of only.boot only.mem

theorem dropWaiting_reportKept (s : State) : ReportKept s (dropWaiting s) := ⟨⟨rfl, rfl, rfl⟩, rfl, rfl⟩

/-- With the berths closed, nothing is left. -/
theorem closeAll_stopped (s : State) : Stopped (closeAll (dropWaiting (answerAll s))) := by
  have answered := answerAll_told s
  unfold closeAll
  extract_lets b now
  have settled : Told (dropWaiting (answerAll s)) now := .foldl (fun _ _ => settleOwed_told ..) _ _
  refine ⟨?_, ?_, fun e he => ?_, settled.only.nose ▸ rfl, settled.only.twin ▸ rfl⟩
  · intro c hc
    have left : now.host.cmds = s.host.cmds.filter fun c => c.applied := settled.cmds.trans answered.cmds
    change c ∈ now.host.cmds at hc
    rw [left] at hc
    exact (List.mem_filter.1 hc).2
  · exact settled.transfers.trans answered.transfers
  · obtain ⟨_, _, rfl⟩ := List.mem_map.1 he
    rfl

theorem closeAll_reportKept (s : State) : ReportKept s (closeAll s) := by
  unfold closeAll
  extract_lets b now
  have answered : HostOnly s now := .foldl (fun _ _ => settleOwed_host ..) _ _
  exact .of answered.boot answered.mem

/-! The entry to SAFE (R394). -/

/-- SAFE with a reason: its word, its report, and nothing under way. -/
structure SafeEntered (reason : Nat) (s t : State) : Prop where
  stopped : Stopped t
  post : PostKept s t
  word : t.power.word = BitVec.ofNat 16 (2 ^ mSafe)
  stage : t.power.stage = 0
  running : t.media.running = false
  ready : t.host.ready = true
  report : ∃ i, t.boot.report = { s.boot.report with
    result := if s.boot.postPass then 3 else 2, reason := reason, faultIndex := i }
  stat : t.mem.stat = s.mem.stat

/-- The word SAFE, its log entry, the Nose and the Quays, and the power state. -/
theorem safeWord_kept {s : State} (reason : Nat) (hs : Stopped s) :
    let t := setPstate 0 (gateQuays true (noseFollow (logEvent 9 0 srcDevice [reason]
      (setWord (BitVec.ofNat 16 (2 ^ mSafe)) srcDevice s))))
    Stopped t ∧ ReportKept s t ∧ t.power.word = BitVec.ofNat 16 (2 ^ mSafe) := by
  have worded := setWord_signalled (BitVec.ofNat 16 (2 ^ mSafe)) srcDevice s
  have logged := worded.trans (logEvent_signalled 9 0 srcDevice [reason] _)
  obtain ⟨dev, followed⟩ := noseFollow_dev (logEvent 9 0 srcDevice [reason] (setWord (BitVec.ofNat 16 (2 ^ mSafe)) srcDevice s))
  obtain ⟨quays, gated⟩ := gateQuays_quays true (noseFollow (logEvent 9 0 srcDevice [reason]
    (setWord (BitVec.ofNat 16 (2 ^ mSafe)) srcDevice s)))
  have told := setPstate_signalled 0 (gateQuays true (noseFollow (logEvent 9 0 srcDevice [reason]
    (setWord (BitVec.ofNat 16 (2 ^ mSafe)) srcDevice s))))
  rw [gated, followed] at told ⊢
  have first : Stopped { s with power.word := BitVec.ofNat 16 (2 ^ mSafe) } := ⟨hs.cmds, hs.transfers, hs.tx, hs.sweep, hs.warp⟩
  obtain ⟨cmds, transfers, tx, sweep, warp⟩ := first.told logged.toTold
  have stopped := fun h => Stopped.told h told.toTold
  refine ⟨stopped ⟨cmds, transfers, tx, sweep, warp⟩, .of ?_ ?_, ?_⟩
  · exact told.only.boot.trans logged.only.boot
  · exact told.only.mem.trans logged.only.mem
  · rw [told.only.power]
    exact congrArg Power.word logged.only.power

theorem enterSafe_entered {s : State} (reason : Nat) (hsafe : s.flag mSafe = false) : SafeEntered reason s (enterSafe reason s) := by
  unfold enterSafe
  extract_lets released discarded ended closed worded logged gated told
  rw [if_neg (by simp [hsafe])]
  have hreleased : ReportKept s released := (readyRings_host s).reportKept.trans (releaseRole_reportKept _)
  have hended : ReportKept s ended := hreleased.trans (answerAll_reportKept released)
  have hclosed : ReportKept s closed := hended.trans ((dropWaiting_reportKept ended).trans (closeAll_reportKept _))
  obtain ⟨stopped, kept, word⟩ := safeWord_kept reason (closeAll_stopped released)
  obtain ⟨post, report, stat⟩ := hclosed.trans (show ReportKept closed told from kept)
  refine ⟨⟨stopped.cmds, stopped.transfers, stopped.tx, stopped.sweep, stopped.warp⟩, ⟨post.straps, post.passed, post.done⟩,
    word, rfl, rfl, rfl, ⟨if told.boot.postPass then told.idx else 0, ?_⟩, stat⟩
  rw [← report, ← post.passed]

/-- The entry to SAFE in the words of the statement. -/
theorem SafeEntered.entered {r : Nat} {s t : State} (h : SafeEntered r s t) :
    t.power.word = BitVec.ofNat 16 (2 ^ mSafe) ∧ t.boot.report.reason = r ∧
    t.boot.report.result = (if s.boot.postPass then 3 else 2) ∧ t.media.running = false ∧ t.host.ready = true ∧
    t.power.stage = 0 ∧ (∀ c ∈ t.host.cmds, c.applied = true) ∧ t.host.transfers = [] ∧ (∀ e ∈ t.net.tx, e.2.state = 0) ∧
    t.nose.sweep = none ∧ t.twin.warp = none := by
  obtain ⟨i, report⟩ := h.report
  exact ⟨h.word, by rw [report], by rw [report], h.running, h.ready, h.stage, h.stopped.cmds, h.stopped.transfers, h.stopped.tx,
    h.stopped.sweep, h.stopped.warp⟩

/-- A fault with an address reports it. -/
theorem fatalFault_entered {s : State} (reason addr master : Nat) (hsafe : s.flag mSafe = false) :
    SafeEntered reason { s with boot.report := { s.boot.report with faultAddr := addr, faultMaster := master } }
      (fatalFault reason addr master s) := by
  unfold fatalFault
  rw [if_neg (by simp [hsafe])]
  exact enterSafe_entered reason hsafe

theorem fatalFault_reported {s : State} (reason addr master : Nat) (hsafe : s.flag mSafe = false) :
    (fatalFault reason addr master s).boot.report.faultAddr = addr ∧
    (fatalFault reason addr master s).boot.report.faultMaster = master ∧
    (fatalFault reason addr master s).mem.stat = s.mem.stat := by
  have entered := fatalFault_entered reason addr master hsafe
  obtain ⟨i, report⟩ := entered.report
  exact ⟨by rw [report], by rw [report], entered.stat⟩

/-- The scrubber's counts, with an uncorrectable word. -/
def scrubCounted (k : Nat) (s : State) : State :=
  updMemStat (fun t => { t with sramUe := wrapAdd 32 t.sramUe 1 }) (updMemStat (fun t => { t with sramCe := wrapAdd 32 t.sramCe k }) s)

/-- An uncorrectable word that is fatal is counted, reported with its address, and enters SAFE (R369). -/
theorem exec_sramScrub_fatal {s : State} {k addr : Nat} {site : SramSite} (halive : s.alive = true) (hsafe : s.flag mSafe = false)
    (hsite : ∀ n, sramHit site n = fatalFault 0x0B addr 255 n) :
    ∃ t, exec (.sramScrub k (some site)) s = .next t ∧ SafeEntered 0x0B { scrubCounted k s with
        boot.report := { s.boot.report with faultAddr := addr, faultMaster := 255 } } t := by
  have scrubbed : exec (.sramScrub k (some site)) s = .next (sramHit site (scrubCounted k s)) := if_neg (by simp [halive])
  exact ⟨_, scrubbed, hsite _ ▸ fatalFault_entered (s := scrubCounted k s) 0x0B addr 255 hsafe⟩

/-- A boundary-scan instruction that takes the pins enters SAFE (R401). -/
theorem exec_tapInstruction_pins {s : State} {i : TapInstr} (hup : s.boot.up = true) (hsafe : s.flag mSafe = false)
    (hi : i ∈ [TapInstr.extest, .clamp, .highz, .extestPulse, .extestTrain]) :
    ∃ t, exec (.tapInstruction i) s = .next t ∧ SafeEntered 0x0E { s with boot.tap := i } t := by
  have taken : exec (.tapInstruction i) s = .next (enterSafe 0x0E { s with boot.tap := i }) := by
    change execTapInstruction i s = _
    unfold execTapInstruction
    simp only [List.mem_cons, List.not_mem_nil, or_false] at hi
    rcases hi with rfl | rfl | rfl | rfl | rfl <;> simp [hup]
  exact ⟨_, taken, enterSafe_entered 0x0E hsafe⟩

/-- The other instructions of the test access port (R401). -/
theorem exec_tapInstruction_up {s : State} (hup : s.boot.up = true) :
    exec (.tapInstruction .bypass) s = .next { s with boot.tap := .bypass } ∧
    exec (.tapInstruction .trst) s = .next { s with boot.tap := .idcode } ∧
    exec (.tapInstruction .idcode) s = .next (send (.tdo ((List.range 32).map idcode.testBit)) { s with boot.tap := .idcode }) ∧
    exec (.tapInstruction .samplePreload) s =
      .next (send (.tdo ((List.range Config.scanCells).map fun k => Config.freeNat (s.media.fresh + k) % 2 == 1))
        { s with boot.tap := .samplePreload, media.fresh := s.media.fresh + Config.scanCells }) := by
  have up : ¬ (!s.boot.up) = true := by simp [hup]
  exact ⟨congrArg _ (if_neg up), congrArg _ (if_neg up), congrArg _ (if_neg up), congrArg _ (if_neg up)⟩

/-- Settles O31: each fault by the entry to SAFE that it is. -/
theorem fatalFaultsEnterSafe : Obligations.FatalFaultsEnterSafe := by
  refine ⟨fun s hsafe => ⟨fun halive => ?lockstep, fun halive hpost => ?companion, fun temp halive hhot htemp => ?thermal,
    fun p addr halive hp htarget => ?decode, fun addr halive htarget => ?debugger, fun k w halive => ?sram,
    fun i hi hup => ?pins⟩, fun s => ⟨fun temp halive hcool => ?cool, fun hup => ?tap⟩⟩
  case lockstep => exact ⟨_, if_pos halive, (enterSafe_entered 0x09 hsafe).entered⟩
  case companion =>
    exact ⟨_, if_pos (by simp [halive, hpost, hsafe]), (enterSafe_entered (s := { s with
      boot.report := { s.boot.report with test := { s.boot.report.test with dieLink := false } } }) 0x0C hsafe).entered⟩
  case thermal =>
    refine ⟨_, (if_neg (by simp [halive])).trans (if_pos (by simp [hhot, htemp])), ?_⟩
    exact (enterSafe_entered (s := { s with boot.hot := decide (temp > 125) }) 0x0D hsafe).entered
  case decode =>
    let n := updMemStat (fun t => { t with decodeErrors := wrapAdd 32 t.decodeErrors 1 }) s
    obtain ⟨addressed, mastered, counted⟩ := fatalFault_reported (s := n) 0x0A (addr % 2 ^ 36) p.val hsafe
    refine ⟨_, (if_neg (by simp [halive, htarget])).trans (if_neg hp), ?_, addressed, mastered, congrArg MemStat.decodeErrors counted⟩
    exact (fatalFault_entered (s := n) 0x0A (addr % 2 ^ 36) p.val hsafe).entered
  case debugger => exact (if_neg (by simp [halive, htarget])).trans (if_pos rfl)
  case sram =>
    obtain ⟨t, ht, tEntered⟩ := exec_sramScrub_fatal (k := k) (site := .quaymaster w) halive hsafe fun _ => rfl
    obtain ⟨u, hu, uEntered⟩ := exec_sramScrub_fatal (k := k) (site := .general w) halive hsafe fun _ => rfl
    obtain ⟨i, tReport⟩ := tEntered.report
    obtain ⟨j, uReport⟩ := uEntered.report
    exact ⟨⟨t, ht, tEntered.entered, by rw [tReport], congrArg MemStat.sramUe tEntered.stat⟩,
      u, hu, uEntered.entered, by rw [uReport], congrArg MemStat.sramUe uEntered.stat⟩
  case pins =>
    obtain ⟨t, ht, entered⟩ := exec_tapInstruction_pins hup hsafe hi
    exact ⟨t, ht, entered.entered⟩
  case cool =>
    refine (if_neg (by simp [halive])).trans (if_neg ?_)
    rcases hcool with h | h <;> simp [h]
  case tap =>
    obtain ⟨bypass, trst, shifted, sampled⟩ := exec_tapInstruction_up hup
    exact ⟨bypass, trst, shifted, _, by simp, sampled⟩

end Sys2Proof.Machine
end

section
/-!
PROOFS. The mode word that self-test sets (R345), step by step of a boot (R388 to R391, R394).
-/
namespace Sys2Proof.Machine

/-- What self-test has found, the straps, and the mode word are as before. -/
structure WordKept (s t : State) : Prop extends PostKept s t where
  word : t.power.word = s.power.word

theorem WordKept.refl (s : State) : WordKept s s := ⟨.refl s, rfl⟩

theorem WordKept.trans {s t u : State} (h : WordKept s t) (k : WordKept t u) : WordKept s u :=
  ⟨h.toPostKept.trans k.toPostKept, k.word.trans h.word⟩

theorem WordKept.ite {c : Prop} [Decidable c] {s a b : State} (ha : WordKept s a) (hb : WordKept s b) :
    WordKept s (if c then a else b) := by split <;> assumption

/-- A change whose records of boot and power are the old ones. -/
theorem HostOnly.wordKept {s t : State} (h : HostOnly s t) : WordKept s t := by
  have boot := h.boot
  exact ⟨⟨by rw [boot], by rw [boot], by rw [boot]⟩, by rw [h.power]⟩

/-- The word that a finished self-test leaves, of a unit whose straps do not ask for SAFE (R345). -/
def SelfTested (s : State) : Prop :=
  s.boot.postDone = true → s.boot.straps.safe = false → s.power.word = BitVec.ofNat 16 (
    if s.boot.postPass then (if s.isPair then 2 ^ mDark + 2 ^ mStandby + 2 ^ mAdrift else 2 ^ mDark) else 2 ^ mSafe)

/-- Self-test is not over. -/
theorem SelfTested.unfinished {s : State} (h : s.boot.postDone = false) : SelfTested s := fun hdone => by simp [h] at hdone

/-- What a failed step writes before the entry to SAFE. -/
def stepFailed (step : Nat) (t : SelfTest) (s : State) : State :=
  let s := reportStep step t { s with boot.postDone := true, boot.postPass := false, boot.loading := false }
  { s with boot.report := { s.boot.report with step := step } }

theorem failBoot_eq (step reason : Nat) (t : SelfTest) (s : State) :
    failBoot step reason t s = enterSafe reason (stepFailed step t s) := rfl

theorem failBoot_selfTested {s : State} (step reason : Nat) (t : SelfTest) (hsafe : s.flag mSafe = false) :
    SelfTested (failBoot step reason t s) := by
  intro _ _
  have entered := enterSafe_entered (s := stepFailed step t s) reason hsafe
  rw [failBoot_eq, entered.word, entered.post.passed]
  rfl

/-- The first word of a unit that passed (R345). -/
theorem firstWord_sets (s : State) : PostKept s (firstWord s) ∧
    (firstWord s).power.word = BitVec.ofNat 16 (if s.isPair then 2 ^ mDark + 2 ^ mStandby + 2 ^ mAdrift else 2 ^ mDark) := by
  unfold firstWord
  split
  · have worded := setWord_host (BitVec.ofNat 16 (2 ^ mDark + 2 ^ mStandby + 2 ^ mAdrift)) srcDevice
      { s with twin.ownPresence := true, twin.stat.adrift := wrapAdd 32 s.twin.stat.adrift 1 }
    have kept := (worded.trans (twinEvent_host 0 (Config.adriftReason 8 % 2 ^ 32) _)).wordKept
    exact ⟨⟨kept.straps, kept.passed, kept.done⟩, kept.word⟩
  · have kept := (setWord_host (BitVec.ofNat 16 (2 ^ mDark)) srcDevice s).wordKept
    exact ⟨⟨kept.straps, kept.passed, kept.done⟩, kept.word⟩

theorem raiseFloor_wordKept (m : Image) (s : State) : WordKept s (raiseFloor m s) := .ite (.refl s) ⟨⟨rfl, rfl, rfl⟩, rfl⟩

theorem foldl_updAnaOut_io (f : Nat → AnaOut → AnaOut) (l : List Nat) (s : State) :
    ∃ outs, l.foldl (fun s o => updAnaOut o (f o) s) s = { s with io.anaOut := outs } := by
  induction l generalizing s with
  | nil => exact ⟨s.io.anaOut, rfl⟩
  | cons o l ih =>
    obtain ⟨outs, h⟩ := ih (updAnaOut o (f o) s)
    exact ⟨outs, by rw [List.foldl_cons, h]; rfl⟩

theorem isPair_of_straps {s t : State} (h : t.boot.straps = s.boot.straps) : t.isPair = s.isPair := by
  rw [State.isPair, h, State.isPair]

theorem passBoot_selfTested (m : Image) (t : SelfTest) (s : State) : SelfTested (passBoot m t s) := by
  unfold passBoot
  extract_lets reported _ _ _ _ _ ready spanned worded
  obtain ⟨outs, hspanned⟩ : ∃ outs, spanned = { ready with io.anaOut := outs } := foldl_updAnaOut_io ..
  have hready := (readyRings_host spanned).wordKept
  obtain ⟨first, word⟩ := firstWord_sets (readyRings spanned)
  have floor : WordKept (firstWord (readyRings spanned)) worded := raiseFloor_wordKept m _
  have kept := hready.toPostKept.trans (first.trans floor.toPostKept)
  clear_value spanned worded
  subst hspanned
  split
  · next hstraps =>
    intro _ hclear
    have same : (enterSafe 0x08 worded).boot.straps = worded.boot.straps := by
      by_cases hsafe : worded.flag mSafe = true
      · rw [enterSafe, if_pos hsafe]
      · exact (enterSafe_entered 0x08 (Bool.eq_false_iff.2 hsafe)).post.straps
    simp [← same, hclear] at hstraps
  · intro _ _
    rw [floor.word, word, kept.passed, isPair_of_straps hready.straps, isPair_of_straps kept.straps]
    rfl

theorem runImage_selfTested {s : State} (slot : Nat) (m : Image) (t : SelfTest) (hsafe : s.flag mSafe = false)
    (hdone : s.boot.postDone = false) : SelfTested (runImage slot m t s) := by
  unfold runImage
  extract_lets _ _ _ loaded
  split
  · exact .unfinished hdone
  · split
    · exact failBoot_selfTested _ _ t hsafe
    · exact passBoot_selfTested m t loaded

theorem bootFlash_selfTested {s : State} (watchdog : Bool) (t : SelfTest) (hsafe : s.flag mSafe = false)
    (hdone : s.boot.postDone = false) : SelfTested (bootFlash watchdog t s) := by
  unfold bootFlash
  dsimp only
  split
  · exact failBoot_selfTested _ _ t hsafe
  · split
    · exact runImage_selfTested _ _ t hsafe hdone
    · exact .unfinished hdone

theorem logStraps_host (s : State) : HostOnly s (logStraps s) := by
  unfold logStraps
  exact .trans (.ite (logEvent_host ..) (.refl s)) (.ite (logEvent_host ..) (.refl _))

theorem openDebug_wordKept (s : State) : WordKept s (openDebug s) := by
  have logged := (logEvent_host 19 2 srcDevice [srcDevice, 3, 0] { s with boot.debugOpen := true, host.cred := none }).wordKept
  exact ⟨⟨logged.straps, logged.passed, logged.done⟩, logged.word⟩

theorem loadCreds_host (s : State) : HostOnly s (loadCreds s) := by
  unfold loadCreds
  split
  · exact .ite (.refl s) (.trans (t := { s with host.cred := _ }) rfl (logEvent_host ..))
  · exact .refl s

theorem linkLocal_wordKept (s : State) : WordKept s (linkLocal s) := ⟨⟨rfl, rfl, rfl⟩, rfl⟩

/-- A boot starts its self-test with no flag set, and without a finding (R391). -/
theorem bootFrom_selfTested (straps : Straps) (reason : Nat) (watchdog : Bool) (t : SelfTest) (s : State) :
    SelfTested (bootFrom straps reason watchdog t s) := by
  unfold bootFrom
  extract_lets cold _ _ _ _ _ _ _ _ released strapped loaded
  have hstrapped : WordKept released strapped := (linkLocal_wordKept released).trans (logStraps_host _).wordKept
  have hloaded : WordKept strapped loaded :=
    .trans (.ite (openDebug_wordKept strapped) (.refl strapped)) (loadCreds_host _).wordKept
  have kept := hstrapped.trans hloaded
  have hsafe : loaded.flag mSafe = false := by
    rw [State.flag, kept.word, show released.power.word = 0 from rfl]
    simp
  have hdone : loaded.boot.postDone = false := kept.done
  clear_value loaded
  split
  · exact failBoot_selfTested _ _ t hsafe
  · split
    · exact bootFlash_selfTested watchdog t hsafe hdone
    · exact .unfinished hdone

/-- A reset that boots leaves the word of its self-test. -/
theorem exec_reset_selfTested {c : Instr} {s n : State} (h : exec c s = .next n) (hreset : isReset c = true)
    (hboots : n.boot.boots ≠ s.boot.boots) : SelfTested n := by
  cases c
  case porstNRelease straps t =>
    change execPorstNRelease straps t s = _ at h
    unfold execPorstNRelease at h
    split at h
    · cases h; exact absurd rfl hboots
    · cases h
      exact bootFrom_selfTested _ _ _ _ _
  case porstNAssert ns =>
    change execPorstNAssert ns s = _ at h
    unfold execPorstNAssert at h
    dsimp only at h
    split at h
    · cases h; exact absurd rfl hboots
    · split at h
      · cases h; exact absurd rfl hboots
      · split at h <;> (cases h; exact absurd rfl hboots)
  case bootWatchdog t =>
    change execBootWatchdog t s = _ at h
    unfold execBootWatchdog at h
    split at h
    · cases h; exact absurd rfl hboots
    · cases h
      exact bootFrom_selfTested _ _ _ _ _
  case resetBegin t =>
    change execResetBegin t s = _ at h
    unfold execResetBegin at h
    split at h
    · cases h
      exact bootFrom_selfTested _ _ _ _ _
    · cases h; exact absurd rfl hboots
  case p3WakeRestore kind sealed trained t =>
    change execP3WakeRestore kind sealed trained t s = _ at h
    unfold execP3WakeRestore at h
    split at h
    · cases h; exact absurd rfl hboots
    · split at h
      · obtain ⟨-, -, -, -, boot, -⟩ := restoreP3_restores kind s
        cases h
        exact absurd (congrArg Boot.boots boot) hboots
      · cases h
        exact bootFrom_selfTested s.boot.straps 6 false t { s with power.nextReason := 6 }
  case vkeepLoss =>
    change execVkeepLoss s = _ at h
    unfold execVkeepLoss at h
    dsimp only at h
    split at h <;> (cases h; exact absurd rfl hboots)
  all_goals exact absurd hreset Bool.false_ne_true

/-- So does the image that a loader has brought. -/
theorem exec_bootLoadDone_selfTested {img : Image} {t : SelfTest} {s n : State} (h : exec (.bootLoadDone img t) s = .next n)
    (hdone : s.boot.postDone = false) (hsafe : s.flag mSafe = false) : SelfTested n := by
  change execBootLoadDone img t s = _ at h
  unfold execBootLoadDone at h
  split at h
  · cases h
    exact .unfinished hdone
  · cases h
    split
    · exact runImage_selfTested _ _ t hsafe hdone
    · exact failBoot_selfTested _ _ t hsafe

/-- Settles O29: what a boot's self-test leaves, whatever began it. -/
theorem selfTestSetsModeWord : Obligations.SelfTestSetsModeWord := by
  intro c s n h began
  rcases began with ⟨hreset, hboots⟩ | ⟨⟨img, t, rfl⟩, -, hdone, hsafe⟩
  · exact exec_reset_selfTested h hreset hboots
  · exact exec_bootLoadDone_selfTested h hdone hsafe

end Sys2Proof.Machine
end

section
/-!
PROOFS. Wakes, pauses and resumes as the statement of the power states has them (R352 to R358).
-/
namespace Sys2Proof.Machine

/-! Wakes (R355 to R357). -/

section Wakes
variable {s : State} {ns : Nat}

/-- Outside P4 a low on WAKE_N is filtered. -/
theorem wakeWidths_filter (h : s.power.stage ≠ 4) : wakeWidths s = (wakeFilter, wakeFilter + 3) := if_neg h

theorem wakeWidths_lantern (h : s.power.stage = 4) : wakeWidths s = (1000000, 2000000) := if_pos h

/-- A low below the first width is rejected. -/
theorem exec_wakeNLow_short (h : ns < (wakeWidths s).1) (hle : (wakeWidths s).1 ≤ (wakeWidths s).2) :
    exec (.wakeNLow ns) s = .next s :=
  (if_neg (by omega)).trans (if_pos h)

/-- A unit that stands by, or is already waking, ignores a wake. -/
theorem wakeUp_ignored {k : WakeKind} (h : s.flag mStandby = true ∨ s.waking = true) : wakeUp k s = s :=
  if_pos (by simpa using h)

/-- From P2 a wake has its tick, which the active of a pair forwards. -/
theorem startWake_ticks {k : WakeKind} (h : s.power.stage = 2) :
    startWake k s = forwardDecision [2, s.resumeAt] { woken k s with power.resumeTick := some s.resumeAt } := if_pos h

/-- A wake that is seen starts as `startWake` says. -/
theorem exec_wakeNLow_starts (hstandby : s.flag mStandby = false) (hwaking : s.waking = false)
    (hstage : s.power.stage = 2 ∨ s.power.stage = 3 ∨ s.power.stage = 4) (hns : (wakeWidths s).2 ≤ ns) :
    exec (.wakeNLow ns) s = .next (startWake .wakeN s) := by
  rw [exec_wakeNLow hns, wakeUp_starts hstandby hwaking (by omega) (wakesFrom_wakeN hstage)]

theorem exec_wakeTimer_starts (hstandby : s.flag mStandby = false) (hwaking : s.waking = false)
    (hstage : s.power.stage = 3 ∨ s.power.stage = 4) (htimer : s.power.timer ≠ 0) :
    exec .wakeTimer s = .next (woken .timer s) := by
  rw [exec_wakeTimer htimer, wakeUp_starts hstandby hwaking (by omega) (wakesFrom_timer hstage), startWake_deep (by omega)]

/-- During the entry to a state the first wake is held (R357). -/
theorem wakeUp_held (hstandby : s.flag mStandby = false) (hwaking : s.waking = false) (hstage : s.power.stage = 1)
    (hheld : s.power.wakeHeld = false) :
    wakeUp .wakeN s = { s with power.wakeHeld := true, power.wake := .wakeN } := by
  unfold wakeUp
  rw [if_neg (by simp [hstandby, hwaking]), if_pos hstage]
  exact if_neg (by simp [hheld])

end Wakes

/-! The pause (R352, R358). -/

/-- With no wake held the pause is the entry to the state chosen. -/
theorem exec_dozePause_paused {s : State} (hsafe : s.flag mSafe = false) (hstage : s.power.stage = 1) (hdown : allDown s = true)
    (hheld : s.power.wakeHeld = false) : exec .dozePause s = .next (paused s) := by
  have due : ¬ (s.power.stage ≠ 1 || s.flag mSafe || !allDown s) = true := by simp [hstage, hsafe, hdown]
  have entered : dozePause s = match (if s.power.wakeHeld then some s.power.wake else none) with
      | some k => if (paused s).flag mStandby then paused s else startWake k (paused s)
      | none => paused s := if_neg due
  rw [hheld] at entered
  exact congrArg Host.Outcome.next entered

/-! The straps through a boot (R340, R354). -/

/-- The straps are as before. -/
def StrapsKept (s t : State) : Prop := t.boot.straps = s.boot.straps

theorem enterSafe_straps (reason : Nat) (s : State) : StrapsKept s (enterSafe reason s) := by
  by_cases hsafe : s.flag mSafe = true
  · rw [enterSafe, if_pos hsafe]
    exact rfl
  · exact (enterSafe_entered reason (Bool.eq_false_iff.2 hsafe)).post.straps

theorem failBoot_straps (step reason : Nat) (t : SelfTest) (s : State) : StrapsKept s (failBoot step reason t s) :=
  enterSafe_straps reason (stepFailed step t s)

theorem passBoot_straps (m : Image) (t : SelfTest) (s : State) : StrapsKept s (passBoot m t s) := by
  unfold passBoot
  extract_lets reported _ _ _ _ _ ready spanned worded
  obtain ⟨outs, hspanned⟩ : ∃ outs, spanned = { ready with io.anaOut := outs } := foldl_updAnaOut_io ..
  have same : spanned.boot.straps = s.boot.straps := by rw [hspanned]; rfl
  have kept : worded.boot.straps = spanned.boot.straps :=
    ((readyRings_host spanned).wordKept.toPostKept.trans
      ((firstWord_sets _).1.trans (raiseFloor_wordKept m _).toPostKept)).straps
  clear_value worded
  split
  · exact (enterSafe_straps 0x08 worded).trans (kept.trans same)
  · exact kept.trans same

theorem runImage_straps (slot : Nat) (m : Image) (t : SelfTest) (s : State) : StrapsKept s (runImage slot m t s) := by
  unfold runImage
  extract_lets _ _ _ loaded
  split
  · exact rfl
  · split
    · exact failBoot_straps _ _ t loaded
    · exact passBoot_straps m t loaded

theorem bootFlash_straps (watchdog : Bool) (t : SelfTest) (s : State) : StrapsKept s (bootFlash watchdog t s) := by
  unfold bootFlash StrapsKept
  dsimp only
  split
  · exact (failBoot_straps 2 0x02 t _ : _ = _)
  · split
    · exact (runImage_straps _ _ t _ : _ = _)
    · rfl

/-- A boot has the straps it was given. -/
theorem bootFrom_straps (straps : Straps) (reason : Nat) (watchdog : Bool) (t : SelfTest) (s : State) :
    (bootFrom straps reason watchdog t s).boot.straps = straps := by
  unfold bootFrom
  extract_lets cold _ _ _ _ _ _ _ _ released strapped loaded
  have hstrapped : WordKept released strapped := (linkLocal_wordKept released).trans (logStraps_host _).wordKept
  have hloaded : WordKept strapped loaded :=
    .trans (.ite (openDebug_wordKept strapped) (.refl strapped)) (loadCreds_host _).wordKept
  have kept : loaded.boot.straps = straps := (hstrapped.trans hloaded).straps
  clear_value loaded
  split
  · exact (failBoot_straps _ _ t loaded).trans kept
  · split
    · exact (bootFlash_straps watchdog t loaded).trans kept
    · exact kept

/-- Settles O33: each wake by its stage and width, the pause by the state it chooses, and the wake from P3 by its seal. -/
theorem powerStatesChange : Obligations.PowerStatesChange := by
  refine ⟨fun s hstandby hwaking => ⟨fun ns hstage hns => ?p2, fun ns hstage hns => ?p4, fun ns hstage hns => ?p4short,
      fun ns hstage hns => ?short, fun hstage htimer => exec_wakeTimer_starts hstandby hwaking (.inr hstage) htimer,
      fun hstage htimer => exec_wakeTimer_starts hstandby hwaking (.inl hstage) htimer⟩,
    fun s => ⟨fun hignores => ⟨fun ns hfilter hlantern => ?ignored, ?timer⟩, fun ns hstandby hwaking hstage hheld hns => ?held⟩,
    fun s hsafe => ⟨fun hstage hdown hchosen hheld => ?pause2, fun hstage hdown hchosen hheld => ?pause3,
      fun hstage hdown hchosen hheld => ?pause4, fun w hw hstage hlate hdue => exec_dozeResume hw hstage hsafe hlate hdue⟩,
    fun kind t s hstage hwakes => ⟨exec_p3WakeRestore_restores hstage hwakes, fun sealed trained hbroken => ?boot⟩⟩
  case p2 =>
    rw [exec_wakeNLow_starts hstandby hwaking (.inl hstage) (by rw [wakeWidths_filter (by omega)]; exact hns), startWake_ticks hstage]
    rfl
  case p4 =>
    rw [exec_wakeNLow_starts hstandby hwaking (.inr (.inr hstage)) (by rw [wakeWidths_lantern hstage]; exact hns),
      startWake_deep (by omega)]
    rfl
  case p4short =>
    have widths := wakeWidths_lantern hstage
    exact exec_wakeNLow_short (by rw [widths]; exact hns) (by rw [widths]; decide)
  case short =>
    have widths := wakeWidths_filter (s := s) (by omega)
    exact exec_wakeNLow_short (by rw [widths]; exact hns) (by rw [widths]; exact Nat.le_add_right ..)
  case ignored =>
    have wide : (wakeWidths s).2 ≤ ns := by
      unfold wakeWidths
      split
      · exact hlantern
      · exact hfilter
    rw [exec_wakeNLow wide, wakeUp_ignored hignores]
  case timer =>
    by_cases htimer : s.power.timer = 0
    · exact if_pos htimer
    · rw [exec_wakeTimer htimer, wakeUp_ignored hignores]
  case held => rw [exec_wakeNLow hns, wakeUp_held hstandby hwaking hstage hheld]
  case pause2 =>
    rw [exec_dozePause_paused hsafe hstage hdown hheld, paused, if_neg (by omega), if_neg (by omega), pausing, hchosen]
  case pause3 =>
    rw [exec_dozePause_paused hsafe hstage hdown hheld, paused, if_neg (by omega), if_pos hchosen, pausing, hchosen]
  case pause4 =>
    rw [exec_dozePause_paused hsafe hstage hdown hheld, paused, if_pos hchosen, pausing, hchosen]
  case boot =>
    obtain ⟨reason, boots⟩ := bootFrom_counted s.boot.straps 6 false t { s with power.nextReason := 6 }
    exact ⟨_, exec_p3WakeRestore_boots hstage hwakes hbroken, rfl, boots, reason, bootFrom_straps ..⟩

end Sys2Proof.Machine
end

section
/-!
PROOFS. Doorbells (R319 to R325) and Efvex sessions (R326, R327, R397): what the reset of a ring and the end of a session leave.
-/
namespace Sys2Proof.Machine

/-! What the reset of a master's ring leaves to the others (R325). -/

/-- No transfer is the master's. -/
def NoTransferOf (m : Nat) (s : State) : Prop := ∀ x ∈ s.host.transfers, x.req.master.val ≠ m

/-- Work for other masters: the master's record, the claims, the commands and the boot's record are as before, and every transfer has
its owner. -/
structure Spares (m : Nat) (s t : State) : Prop where
  master : t.master m = s.master m
  claims : t.host.claims = s.host.claims
  cmds : t.host.cmds = s.host.cmds
  owners : t.host.transfers.map (fun x => x.req.master) = s.host.transfers.map (fun x => x.req.master)
  scene : t.scene = s.scene
  power : t.power = s.power
  media : t.media = s.media
  boot : t.boot = s.boot

section Spared
variable {m : Nat} {s t u : State}

theorem Spares.refl (m : Nat) (s : State) : Spares m s s := ⟨rfl, rfl, rfl, rfl, rfl, rfl, rfl, rfl⟩

theorem Spares.trans (h : Spares m s t) (k : Spares m t u) : Spares m s u :=
  ⟨k.master.trans h.master, k.claims.trans h.claims, k.cmds.trans h.cmds, k.owners.trans h.owners, k.scene.trans h.scene,
    k.power.trans h.power, k.media.trans h.media, k.boot.trans h.boot⟩

theorem Spares.ite {c : Prop} [Decidable c] {a b : State} (ha : Spares m s a) (hb : Spares m s b) :
    Spares m s (if c then a else b) := by split <;> assumption

/-- Messages and answers that leave the master's record. -/
theorem Told.spares (h : Told s t) (hm : t.master m = s.master m) : Spares m s t :=
  ⟨hm, h.claims, h.cmds, by rw [h.transfers], h.only.scene, h.only.power, h.only.media, h.only.boot⟩

theorem Spares.noTransferOf (h : Spares m s t) (hs : NoTransferOf m s) : NoTransferOf m t := by
  intro x hx
  have hmem : x.req.master ∈ s.host.transfers.map fun x => x.req.master := h.owners ▸ List.mem_map_of_mem hx
  obtain ⟨y, hy, hxy⟩ := List.mem_map.1 hmem
  exact hxy ▸ hs y hy

theorem updMaster_spares {j : Nat} (f : Master → Master) (h : j ≠ m) (s : State) : Spares m s (updMaster j f s) :=
  (updMaster_told j f s).spares (updMaster_other j f s m h.symm)

theorem updTransfer_spares (id : Nat) {f : Transfer → Transfer} (hf : ∀ x, (f x).req = x.req) (s : State) :
    Spares m s (updTransfer id f s) := by
  refine ⟨rfl, rfl, rfl, ?_, rfl, rfl, rfl, rfl⟩
  unfold updTransfer
  rw [List.map_map]
  refine List.map_congr_left fun x _ => ?_
  dsimp only [Function.comp]
  split
  · rw [hf]
  · rfl

/-- A window master's cause is no session's (R327). -/
theorem raise_spares {i : Nat} (h : i < 4) (s : State) : Spares m s (raise i s) := by
  refine (raise_signalled i s).toTold.spares ?_
  unfold raise
  dsimp only
  rw [if_neg (by omega)]
  split
  · obtain ⟨_, _, _, sent⟩ := sendMsix_msixOnly i { s with host.irqCause := s.host.irqCause ||| BitVec.ofNat 32 (2 ^ i) }
    rw [sent]
    rfl
  · rfl

theorem queueOwn_master (port queue len dscp : Nat) (s : State) : (queueOwn port queue len dscp s).master m = s.master m := by
  unfold queueOwn
  split <;> rfl

theorem sendDatagram_spares {j : Nat} (kind off : Nat) (d : Bytes) (h : j ≠ m) (s : State) :
    Spares m s (sendDatagram j kind off d s) := by
  refine (sendDatagram_signalled j kind off d s).toTold.spares ?_
  have counted : (updMaster j (fun x => { x with dseq := (x.dseq + 1) % 2 ^ 32 }) s).master m = s.master m :=
    updMaster_other j _ s m h.symm
  unfold sendDatagram
  dsimp only
  split
  · rfl
  · split
    · exact counted
    · exact (queueOwn_master ..).trans counted

theorem sendSegments_spares {j : Nat} (n off : Nat) (p : Bytes) (h : j ≠ m) (s : State) :
    Spares m s (sendSegments n j off p s) := by
  induction n generalizing off p s with
  | zero => exact .refl m s
  | succ n ih =>
    unfold sendSegments
    exact .ite (.refl m s) ((sendDatagram_spares 5 off _ h s).trans (ih ..))

theorem chkMoved_spares {j : Nat} (h : j ≠ m) (s : State) : Spares m s (chkMoved j s) := by
  unfold chkMoved
  split
  · next hj => exact raise_spares hj s
  · exact sendDatagram_spares _ _ _ h s

theorem transfer_owner {id : Nat} {x : Transfer} (hs : NoTransferOf m s) (hx : s.transfer id = some x) : x.req.master.val ≠ m :=
  hs x (List.mem_of_find?_eq_some hx)

theorem pumpOut_spares (n id : Nat) (hs : NoTransferOf m s) : Spares m s (pumpOut n id s) := by
  induction n generalizing s with
  | zero => exact .refl m s
  | succ n ih =>
    unfold pumpOut
    split
    · exact .refl m s
    · next x hx =>
      have owner := transfer_owner hs hx
      refine .ite (.refl m s) ?_
      extract_lets data _ written counted signalled
      have hwritten : Spares m s written := ⟨rfl, rfl, rfl, rfl, rfl, rfl, rfl, rfl⟩
      have hcounted : Spares m s counted := hwritten.trans (updMaster_spares _ owner written)
      have hsignalled : Spares m s signalled := hcounted.trans (by
        unfold signalled
        split
        · next hlow => exact raise_spares hlow counted
        · exact sendSegments_spares _ _ _ owner counted)
      have hsent := hsignalled.trans (updTransfer_spares id (f := fun t => { t with sent := t.sent + 1 }) (fun _ => rfl) signalled)
      exact hsent.trans (ih (hsent.noTransferOf hs))

theorem pumpIn_spares (n id : Nat) (hs : NoTransferOf m s) : Spares m s (pumpIn n id s) := by
  induction n generalizing s with
  | zero => exact .refl m s
  | succ n ih =>
    unfold pumpIn
    split
    · exact .refl m s
    · next x hx =>
      have owner := transfer_owner hs hx
      refine .ite (.refl m s) ?_
      extract_lets data counted signalled
      have hsignalled : Spares m s signalled := (updMaster_spares _ owner s).trans (chkMoved_spares owner counted)
      have htaken := hsignalled.trans
        (updTransfer_spares id (f := fun t => { t with sent := t.sent + 1, data := t.data ++ data }) (fun _ => rfl) signalled)
      exact htaken.trans (ih (htaken.noTransferOf hs))

theorem beginTransfer_spares {x : Transfer} (ch : Nat) (hx : x.req.master.val ≠ m) (hs : NoTransferOf m s) :
    Spares m s (beginTransfer x ch s) := by
  unfold beginTransfer
  extract_lets placed j moved zeroed told
  have hplaced : Spares m s placed := updTransfer_spares x.id (f := fun t => { t with channel := some ch }) (fun _ => rfl) s
  have hzeroed : Spares m s zeroed := hplaced.trans (updMaster_spares _ hx placed)
  have htold : Spares m s told := hzeroed.trans (.ite (chkMoved_spares hx zeroed) (.refl m zeroed))
  refine .ite hplaced (.ite ?_ ?_)
  · exact htold.trans (pumpOut_spares 8 x.id (htold.noTransferOf hs))
  · exact htold.trans (pumpIn_spares 8 x.id (htold.noTransferOf hs))

theorem startTransfer_spares (hs : NoTransferOf m s) : Spares m s (startTransfer s) := by
  unfold startTransfer
  dsimp only
  split
  · next x _ hx => exact beginTransfer_spares _ (hs x (List.mem_of_find?_eq_some hx)) hs
  · exact .refl m s

theorem forwardCmd_spares (o : Origin) (op : Opcode) (rank apply : Nat) (p : Bytes) (s : State) :
    Spares m s (forwardCmd o op rank apply p s) := by
  unfold forwardCmd
  split
  · have sent := sendTwin_moor_sent 1 [s.twin.sendSeq, originNumber o, rank, apply, op.code] p
      { s with twin.sendSeq := wrapAdd 32 s.twin.sendSeq 1 }
    unfold MoorSent at sent
    rw [sent]
    exact ⟨rfl, rfl, rfl, rfl, rfl, rfl, rfl, rfl⟩
  · exact .refl m s

theorem Spares.foldl {α : Type} {f : State → α → State} (hf : ∀ s a, Spares m s (f s a)) (l : List α) (s : State) :
    Spares m s (l.foldl f s) := by
  induction l generalizing s with
  | nil => exact .refl m s
  | cons a l ih => exact (hf s a).trans (ih _)

end Spared

/-- A master's record once its ring is resetting (R325). -/
def ringCleared (x : Master) : Master :=
  { x with ready := false, resetting := true, held := [], bulk := [], chunk := none, unanswered := 0, rung := false }

/-- An owed answer of the master that will not go out. -/
def dropOwed (m : Nat) (o : Owed) : Owed := if o.master = m then { o with dropped := true } else o

/-- What the reset drops of the master's, before other masters go on. -/
def ringDropped (m : Nat) (s : State) : State :=
  let t := updMaster m ringCleared { s with host.transfers := s.host.transfers.filter fun t => t.req.master.val != m }
  { t with
    host.cmds := t.host.cmds.map fun c => if c.origin = .master m then { c with answered := true } else c
    host.owed := t.host.owed.map (dropOwed m), io.i2c := t.io.i2c.map (dropOwed m)
    boot.staging := t.boot.staging.map fun x => (x.1, x.2.1, dropOwed m x.2.2)
    boot.loops := t.boot.loops.map fun l => { l with owed := dropOwed m l.owed, stop := l.stop.map (dropOwed m) }
    host.claims := t.host.claims.filter fun c => c.master != m }

theorem ringDropped_noTransferOf (m : Nat) (s : State) : NoTransferOf m (ringDropped m s) := by
  intro x hx
  have kept : x ∈ s.host.transfers.filter fun t => t.req.master.val != m := hx
  simpa using (List.mem_filter.1 kept).2

theorem resetRing_spares (m : Nat) (s : State) : Spares m (ringDropped m s) (resetRing m s) := by
  have told := Spares.foldl (m := m) (f := fun s (c : Claim) =>
    forwardCmd (.master m) .objClaim c.rank s.rTen (le 1 (bit c.zone) ++ le 1 1 ++ le 2 c.id ++ zeros 4) s)
    (fun s c => forwardCmd_spares ..) (s.host.claims.filter fun c => c.master == m) (ringDropped m s)
  exact told.trans (startTransfer_spares (told.noTransferOf (ringDropped_noTransferOf m s)))

/-- The reset of a ring leaves the master nothing in it, nothing claimed and nothing owed (R325). -/
structure RingReset (m : Nat) (s t : State) : Prop where
  master : t.master m = ringCleared (s.master m)
  transfers : NoTransferOf m t
  claims : ∀ c ∈ t.host.claims, c.master ≠ m
  cmds : ∀ c ∈ t.host.cmds, c.origin = .master m → c.answered = true
  scene : t.scene = s.scene
  power : t.power = s.power
  media : t.media = s.media

theorem resetRing_resets (m : Nat) (s : State) : RingReset m s (resetRing m s) := by
  have spared := resetRing_spares m s
  refine ⟨?_, spared.noTransferOf (ringDropped_noTransferOf m s), fun c hc => ?_, fun c hc horigin => ?_, spared.scene, spared.power,
    spared.media⟩
  · rw [spared.master]
    exact updMaster_same m ringCleared { s with host.transfers := _ }
  · rw [spared.claims] at hc
    simpa using (List.mem_filter.1 hc).2
  · rw [spared.cmds] at hc
    obtain ⟨d, -, rfl⟩ := List.mem_map.1 hc
    by_cases h : d.origin = .master m
    · rw [if_pos h]
    · rw [if_neg h] at horigin
      exact absurd horigin h

/-- Settles O25: each doorbell's own action, and the reset by what it leaves. -/
theorem doorbellsActOnTheirRing : Obligations.DoorbellsActOnTheirRing := by
  intro m s hup hm
  have heard : (s.windowUp && m.val < 4) = true := by simp [hup, hm]
  refine ⟨congrArg Host.Outcome.next (if_pos heard), congrArg Host.Outcome.next (if_pos heard),
    congrArg Host.Outcome.next (if_pos heard), ?_, fun hreset => congrArg Host.Outcome.next (if_pos hreset)⟩
  have reset := resetRing_resets m.val s
  have master := reset.master
  have taken : exec (.doorbellReset m) s = .next (resetRing m.val s) := congrArg Host.Outcome.next (if_pos heard)
  exact ⟨_, taken, by rw [master]; rfl, by rw [master]; rfl, by rw [master]; rfl, by rw [master]; rfl,
    by rw [master]; rfl, reset.transfers, reset.claims, reset.cmds, reset.scene, reset.power, reset.media⟩

/-! Sessions (R326, R327). -/

section Sessions
variable {m : Nat} {p : Peer} {h : DgramHdr} {n : Nat} {f : State → State} {s : State}

/-- A datagram of the session's peer acts on the session refreshed. -/
theorem fromPeer_heard (hplain : plainDenied s p = false) (hears : s.hears m p h n = true) (hpeer : (s.master m).peer = some p) :
    fromPeer m p h n f s = f (hearDgram m h s) :=
  (if_neg (by simp [hplain])).trans ((if_neg (by simp [hears])).trans (if_pos hpeer))

/-- A datagram of anyone else is not taken. -/
theorem fromPeer_other (hplain : plainDenied s p = false) (hpeer : (s.master m).peer ≠ some p) : fromPeer m p h n f s = s := by
  unfold fromPeer
  rw [if_neg (by simp [hplain]), if_neg hpeer, ite_self]

/-- A datagram that the device does not hear is not taken. -/
theorem fromPeer_unheard (hplain : plainDenied s p = false) (hears : s.hears m p h n = false) : fromPeer m p h n f s = s :=
  (if_neg (by simp [hplain])).trans (if_pos (by simp [hears]))

/-- A header with another magic, or with reserved bytes set, is dropped (assumption 56). -/
theorem hears_badHeader (hbad : h.magic ≠ 0x4576 ∨ h.reserved ≠ 0) : s.hears m p h n = false := by
  have bad : h.ok n = false := by
    unfold DgramHdr.ok
    rcases hbad with hb | hb <;> simp [hb]
  simp [State.hears, bad]

/-- An open for a free master binds it, with fresh indices (R327). -/
theorem openSession_free (mask : Nat) (hopen : s.boot.debugOpen = false) (hfree : (s.master m).peer = none) :
    openSession m p h mask s = updMaster m (fun x => { x with
      peer := some p, eventMask := mask, dseq := 0, dueCauses := [], failRun := 0
      reqHead := 0, reqTail := 0, rspHead := 0, rspTail := 0, chkDev := 0, chkHost := 0, bulk := [], ringErr := false
      ready := !x.resetting }) (hearDgram m h s) := by
  unfold openSession
  rw [if_neg (by simp [hopen]), hfree]

theorem putRequest_entry {e : Bytes} (he : e.length = 256) (s : State) :
    putRequest m e s = serve (updMaster m (fun x => { x with reqTail := (x.reqTail + 1) % 128, rung := true })
      { s with host.mem := writeBytes s.host.mem (reqRing m + 256 * ((s.master m).reqTail % 64)) e }) := if_neg (by simp [he])

theorem putSegment_inside {o : Nat} {d : Bytes} (hd : d.length ≤ 1024) (hend : o + d.length ≤ 16384) (ho : o < 16384) (s : State) :
    putSegment m o d s = { s with host.mem := writeBytes s.host.mem (reqBulk m + o) d } := by
  unfold putSegment
  rw [Nat.mod_eq_of_lt ho]
  exact if_neg (by simp; omega)

/-- The end of a session: no peer, no claim, nothing waiting, and a ring that resets (R325, R327). -/
theorem endSession_ends (m : Nat) (s : State) :
    (endSession m s).master m = ringCleared { s.master m with peer := none, eventMask := 0, dueCauses := [], failRun := 0 } ∧
    NoTransferOf m (endSession m s) ∧ (∀ c ∈ (endSession m s).host.claims, c.master ≠ m) ∧
    (endSession m s).scene = s.scene ∧ (endSession m s).power = s.power := by
  have reset := resetRing_resets m (updMaster m (fun x => { x with peer := none, eventMask := 0, dueCauses := [], failRun := 0 }) s)
  exact ⟨reset.master.trans (congrArg ringCleared (updMaster_same ..)), reset.transfers, reset.claims, reset.scene, reset.power⟩

end Sessions

/-! Datagrams over the UART (R397). -/

/-- The UART is no plain port. -/
theorem plainDenied_uart (s : State) : plainDenied s uartPeer = false := by simp [plainDenied, uartPeer]

section Uart
variable {d : UartDatagram} {s : State} (hopen : s.uartOpen = true) (hmaster : d.master = 7)
  (hears : s.hears 7 uartPeer d.hdr d.data.length = true)
include hopen hmaster hears

theorem exec_uartFrame_open (hkind : d.kind = 0) (hlen : d.data.length = 4) :
    exec (.uartFrame d) s = .next (openSession 7 uartPeer d.hdr (unLe d.data) s) := by
  refine congrArg Host.Outcome.next ((if_neg (by simp [hopen, hmaster, hears])).trans ?_)
  rw [hkind]
  exact if_pos hlen

theorem exec_uartFrame_request (hkind : d.kind = 2) (hpeer : (s.master 7).peer = some uartPeer) :
    exec (.uartFrame d) s = .next (putRequest 7 d.data (hearDgram 7 d.hdr s)) := by
  refine congrArg Host.Outcome.next ((if_neg (by simp [hopen, hmaster, hears])).trans ?_)
  rw [hkind]
  exact fromPeer_heard (plainDenied_uart s) hears hpeer

end Uart

/-- Settles O27: a session's datagrams by who sends them, its end, and the UART's. -/
theorem sessionsFollowTheirPeer : Obligations.SessionsFollowTheirPeer := by
  refine ⟨fun m p h s hplain => ⟨fun hears hfree hopen mask => ?opens, fun hpeer => ?heard, fun q hpeer hq => ?other,
      fun hbad => ?bad, fun hpeer hsilent => ?silent⟩,
    fun m p h s hears hplain hpeer => ?ended,
    fun d s hopen hmaster hears => ⟨fun hkind hlen => ?uartOpen, fun hkind hpeer => ?uartRequest⟩⟩
  case opens =>
    refine congrArg Host.Outcome.next ((if_neg (by simp [hplain])).trans ((if_neg (by simp [hears])).trans ?_))
    exact openSession_free mask.toNat hopen hfree
  case heard =>
    refine ⟨fun hears => ?_, fun hears => ?_, fun e hears he => ?_, fun o d hears hd hend ho => ?_, fun hears head tail => ?_⟩
    · exact congrArg Host.Outcome.next (fromPeer_heard (f := id) hplain hears hpeer)
    · exact congrArg Host.Outcome.next (fromPeer_heard (f := endSession m.val) hplain hears hpeer)
    · exact congrArg Host.Outcome.next ((fromPeer_heard hplain hears hpeer).trans (putRequest_entry he _))
    · exact congrArg Host.Outcome.next ((fromPeer_heard hplain hears hpeer).trans (putSegment_inside hd hend ho _))
    · exact congrArg Host.Outcome.next (fromPeer_heard (f := putIndex m.val head.toNat tail.toNat) hplain hears hpeer)
  case other =>
    have notPeer : (s.master m.val).peer ≠ some p := by rw [hpeer]; exact fun e => hq (Option.some.inj e)
    exact ⟨congrArg Host.Outcome.next (fromPeer_other hplain notPeer), congrArg Host.Outcome.next (fromPeer_other hplain notPeer),
      fun e => congrArg Host.Outcome.next (fromPeer_other hplain notPeer)⟩
  case bad =>
    refine ⟨congrArg Host.Outcome.next (fromPeer_unheard hplain (hears_badHeader hbad)),
      congrArg Host.Outcome.next (fromPeer_unheard hplain (hears_badHeader hbad)),
      fun e => congrArg Host.Outcome.next (fromPeer_unheard hplain (hears_badHeader hbad)), fun mask => ?_⟩
    exact congrArg Host.Outcome.next ((if_neg (by simp [hplain])).trans (if_pos (by simp [hears_badHeader hbad])))
  case silent => exact congrArg Host.Outcome.next (if_pos (by simp [hpeer, hsilent]))
  case ended =>
    obtain ⟨master, transfers, claims, scene, power⟩ := endSession_ends m.val (hearDgram m.val h s)
    have closed : exec (.efvexClose m ⟨p, h⟩) s = .next (endSession m.val (hearDgram m.val h s)) :=
      congrArg Host.Outcome.next (fromPeer_heard hplain hears hpeer)
    refine ⟨_, closed, ?_, ?_, ?_, ?_, claims, transfers, scene, power⟩ <;> rw [master] <;> rfl
  case uartOpen => exact exec_uartFrame_open hopen hmaster hears hkind hlen
  case uartRequest => exact exec_uartFrame_request hopen hmaster hears hkind hpeer

end Sys2Proof.Machine
end

section
/-!
PROOFS. SYS_RESET and OBJ_CLAIM (R336, R340), GPIO_SET (R415 to R417), and the events of field service (R366, R398 to R402).
-/
namespace Sys2Proof.Machine

/-! Resets and claims (R336, R340). -/

/-- A request that acts on its acceptance, with a body that the entry or the bulk region takes, is answered OK with it. -/
theorem exec_answered {i : Instr} {op : Opcode} {r : Req} {s t : State} {body : Bytes} (hi : requestOf i = some (op, {}, r))
    (hstore : op ≠ .storeTransfer) (hproposal : op ≠ .proposalApply) (ha : admits op {} r s = true) (hd : delivered r s = true)
    (hw : waitsAs op r.payload = none) (hl : actsNow op {} r s = true) (hn : actNow op {} r.payload r (taken r s) = .done t body)
    (hbody : body.length ≤ 4096) : exec i s = .next (acted op r s body t) := by
  rw [exec_request hi, accept_done ha hd hstore hproposal hw hl hn hbody]
  rfl

/-- SYS_RESET is no forwarded command. -/
theorem exec_sysReset {r : Req} {s t : State} (ha : admits .sysReset {} r s = true) (hd : delivered r s = true)
    (hn : doSysReset r.payload (taken r s) = .done t []) : exec (.sysReset r) s = .next (acted .sysReset r s [] t) :=
  exec_acted rfl (by decide) (by decide) ha hd rfl (actsNow_of_not_forwarded s (by
    unfold classOf
    split
    · decide
    · exact nofun)) hn

theorem doSysReset_device (s : State) : doSysReset (zeros 8) s = .done (releaseRole { s with host.resetDue := true }) [] :=
  (if_neg (by decide)).trans (if_pos (by decide))

theorem doSysReset_counters (s : State) : doSysReset (le 1 1 ++ zeros 7) s = .done { s with host.clearDue := true } [] :=
  (if_neg (by decide)).trans (if_neg (by decide))

/-- An OBJ_CLAIM's payload (Table 11.14). -/
def claimPayload (zone : Bool) (k id : Nat) : Bytes := le 1 (bit zone) ++ le 1 k ++ le 2 id ++ zeros 4

theorem claimPayload_fields (zone : Bool) {k id : Nat} (hk : k < 256) (hid : id < 65536) :
    (claimPayload zone k id).length = 8 ∧ getU (claimPayload zone k id) 0 1 = bit zone ∧ getU (claimPayload zone k id) 1 1 = k ∧
    getU (claimPayload zone k id) 2 2 = id ∧ getU (claimPayload zone k id) 4 4 = 0 := by
  have hzone : bit zone < 256 := by cases zone <;> decide
  have parts : claimPayload zone k id = le 1 (bit zone) ++ (le 1 k ++ (le 2 id ++ zeros 4)) := by
    simp only [claimPayload, List.append_assoc]
  refine ⟨by simp [claimPayload, zeros], ?_, ?_, ?_, ?_⟩ <;> rw [parts]
  · exact getU_le_append _ (by simpa using hzone)
  · rw [getU_le_append_right 1 _ _ 0 1]
    exact getU_le_append _ (by simpa using hk)
  · rw [getU_le_append_right 1 _ _ 1 2, getU_le_append_right 1 _ _ 0 2]
    exact getU_le_append _ (by simpa using hid)
  · rw [getU_le_append_right 1 _ _ 3 4, getU_le_append_right 1 _ _ 2 4, getU_le_append_right 2 _ _ 0 4]
    decide

section Claims
variable {zone : Bool} {id m rank : Nat} {s : State}

/-- The claim on a zone or an object. -/
def claimOn (zone : Bool) (id : Nat) (s : State) : Option Claim := s.host.claims.find? fun c => c.zone == zone && c.id == id

/-- The claims on everything else. -/
def otherClaims (zone : Bool) (id : Nat) (s : State) : List Claim :=
  s.host.claims.filter fun c => !(c.zone == zone && c.id == id)

/-- A unit that can be claimed: a zone, or an object (Table 11.14). -/
def claimable (zone : Bool) (id : Nat) : Prop := if zone then id ≤ 63 else 1 ≤ id ∧ id ≤ 65535

/-- OBJ_CLAIM of kind 0: a claim that is free, the master's own, or of a lower rank. -/
def takeClaim (zone : Bool) (id m rank : Nat) (s : State) : Reply :=
  let mine : Bool := match claimOn zone id s with | some c => c.master == m || c.rank < rank | none => true
  let t := { s with host.claims := otherClaims zone id s ++ [⟨zone, id, m, rank⟩] }
  if !mine then no .owned
  else if (claimOn zone id s).isNone && s.host.claims.length ≥ 1024 then no .noResource
  else .done t (claimBody t zone id)

/-- OBJ_CLAIM of kind 1: the master's own claim goes. -/
def releaseClaim (zone : Bool) (id m : Nat) (s : State) : Reply :=
  let t := { s with host.claims := otherClaims zone id s }
  match claimOn zone id s with
  | some c => if c.master = m then .done t (claimBody t zone id) else no .notFound
  | none => no .notFound

/-- A well-formed OBJ_CLAIM takes, releases or asks (R336). -/
theorem doObjClaim_wellFormed {k : Nat} (hk : k ≤ 2) (hid : claimable zone id) :
    doObjClaim (claimPayload zone k id) m rank s = match (generalizing := false) k with
      | 0 => takeClaim zone id m rank s
      | 1 => releaseClaim zone id m s
      | _ => .done s (claimBody s zone id) := by
  have hid' : id < 65536 := by unfold claimable at hid; split at hid <;> omega
  obtain ⟨hlen, hzone, hkind, hname, hrest⟩ := claimPayload_fields zone (k := k) (by omega) hid'
  have hbit : (bit zone == 1) = zone := by cases zone <;> decide
  have hsmall : ¬ bit zone > 1 := by cases zone <;> decide
  unfold doObjClaim
  rw [hlen, hzone, hkind, hname, hrest, hbit]
  refine (if_neg ?_).trans ?_
  · unfold claimable at hid
    cases zone with
    | false =>
      simp only [Bool.false_eq_true, if_false] at hid ⊢
      simp [bit]
      omega
    | true =>
      simp only [if_true] at hid ⊢
      simp [bit]
      omega
  · rfl

end Claims

/-- A claim that nobody else of the same rank or a higher one holds is taken. -/
theorem takeClaim_free {zone : Bool} {id m rank : Nat} {s : State}
    (h : match claimOn zone id s with | some c => c.master = m ∨ c.rank < rank | none => s.host.claims.length < 1024) :
    let t := { s with host.claims := otherClaims zone id s ++ [⟨zone, id, m, rank⟩] }
    takeClaim zone id m rank s = .done t (claimBody t zone id) := by
  intro t
  unfold takeClaim
  cases hheld : claimOn zone id s with
  | none =>
    rw [hheld] at h
    exact (if_neg (by simp)).trans (if_neg (by simpa using h))
  | some c =>
    rw [hheld] at h
    exact (if_neg (by rcases h with h | h <;> simp [h])).trans (if_neg (by simp))

/-- A master's own claim is released. -/
theorem releaseClaim_own {zone : Bool} {id m : Nat} {s : State}
    (h : match claimOn zone id s with | some c => c.master = m | none => False) :
    let t := { s with host.claims := otherClaims zone id s }
    releaseClaim zone id m s = .done t (claimBody t zone id) := by
  intro t
  unfold releaseClaim
  cases hheld : claimOn zone id s with
  | none =>
    rw [hheld] at h
    exact h.elim
  | some c =>
    rw [hheld] at h
    exact if_pos h

theorem length_claimBody (s : State) (zone : Bool) (id : Nat) : (claimBody s zone id).length = 8 := by
  unfold claimBody
  split <;> simp [zeros]

/-- OBJ_CLAIM acts on its acceptance, on an active unit too (R284, R336). -/
theorem exec_objClaim {r : Req} {s t : State} {body : Bytes} (ha : admits .objClaim {} r s = true) (hd : delivered r s = true)
    (hn : doObjClaim r.payload r.master.val r.rank (taken r s) = .done t body) (hbody : body.length = 8) :
    exec (.objClaim r) s = .next (acted .objClaim r s body t) :=
  exec_answered rfl (by decide) (by decide) ha hd rfl (by simp [actsNow, waitsOnActive]) hn (by omega)

/-- Settles O16: the two kinds of reset, and a claim taken, released and asked for. -/
theorem resetAndClaimsAct : Obligations.ResetAndClaimsAct := by
  refine ⟨fun r s ha hd => ⟨fun hp => ?device, fun hp => ?counters⟩, fun r s zone id ha hd hid => ⟨fun hp hfree => ?take,
    fun hp hmine => ?release, fun hp => ?ask⟩⟩
  case device => exact exec_sysReset ha hd (hp ▸ doSysReset_device _)
  case counters => exact exec_sysReset ha hd (hp ▸ doSysReset_counters _)
  case take =>
    refine exec_objClaim ha hd ?_ (length_claimBody ..)
    rw [hp]
    exact (doObjClaim_wellFormed (k := 0) (by decide) hid).trans (takeClaim_free hfree)
  case release =>
    refine exec_objClaim ha hd ?_ (length_claimBody ..)
    rw [hp]
    exact (doObjClaim_wellFormed (k := 1) (by decide) hid).trans (releaseClaim_own hmine)
  case ask =>
    refine exec_objClaim ha hd ?_ (length_claimBody ..)
    rw [hp]
    exact doObjClaim_wellFormed (k := 2) (by decide) hid

/-! GPIO_SET (R415 to R417, R426). -/

section Gpio
variable {p : Bytes} {check : Bytes → Option Status} {r : Req} {s t : State}

theorem doGpioSet_pin (hk : kindOf p = 0) (hm : maskOf p ≠ 0) (hp : recordOk pinFields 5 16 p = true) :
    doGpioSet p check s = .done (updPin (indexOf p) (rewritePin (maskOf p) p) s) [] := by
  unfold doGpioSet
  rw [hk]
  exact (if_neg (by simp [hp])).trans (if_neg hm)

theorem doGpioSet_plan (hk : kindOf p = 1) (hp : planOk p = true) (hon : planPart check (slice p 16 (getU p 8 2)) = none)
    (hoff : planPart check (slice p (16 + getU p 8 2) (getU p 10 2)) = none) :
    doGpioSet p check s = .done { s with io.plans := SMap.upd {} s.io.plans (indexOf p) fun x =>
      { x with assertP := slice p 16 (getU p 8 2), releaseP := slice p (16 + getU p 8 2) (getU p 10 2) } } [] := by
  unfold doGpioSet
  rw [hk]
  refine (if_neg (by simp [hp])).trans ?_
  dsimp only
  rw [hon, hoff]

theorem doGpioSet_uart (hk : kindOf p = 2) (hp : uartOk p = true) :
    doGpioSet p check s = .done { s with io.uart := ⟨getU p 8 4, getU p 12 1⟩ } [] := by
  unfold doGpioSet
  rw [hk]
  exact if_neg (by simp [hp])

theorem doGpioSet_i2c (hk : kindOf p = 3) (hp : i2cOk p = true) (hfree : s.io.i2c = none) : doGpioSet p check s = .owe s 0 := by
  unfold doGpioSet
  rw [hk]
  exact (if_neg (by simp [hp])).trans (if_neg (by simp [hfree]))

theorem doGpioSet_pads (hk : kindOf p = 4) (hm : maskOf p ≠ 0) (hp : padPayloadOk p = true) :
    doGpioSet p check s = .done { s with io.pads := SMap.put (padDefault (indexOf p)) s.io.pads (indexOf p) (getU p 8 1) } [] := by
  unfold doGpioSet
  rw [hk]
  exact (if_neg (by simp [hp])).trans (if_neg hm)

/-- GPIO_SET is of the local class, or a read (Table 10.4). -/
theorem classOf_gpioSet (p : Bytes) : classOf .gpioSet p {} ≠ .forwarded := by
  unfold classOf
  split
  · decide
  · exact nofun

theorem exec_gpioSet (ha : admits .gpioSet {} r s = true) (hd : delivered r s = true)
    (hn : doGpioSet r.payload (checkPlan (taken r s)) (taken r s) = .done t []) :
    exec (.gpioSet r) s = .next (acted .gpioSet r s [] t) :=
  exec_acted rfl (by decide) (by decide) ha hd rfl (actsNow_of_not_forwarded s (classOf_gpioSet _)) hn

/-- The answer of an I2C transfer waits for its end. -/
theorem park_gpioSet {o : Owed} (ho : o.op = .gpioSet) : park o s = { s with io.i2c := some o } := by
  unfold park
  rw [ho]

end Gpio

/-- Settles O21: each kind of record. -/
theorem gpioSetActs : Obligations.GpioSetActs := by
  intro r s ha hd
  refine ⟨fun hk hm hp => ?_, fun hk hp hon hoff => ?_, fun hk hp => ?_, fun hk hp hfree => ?_, fun hk hm hp => ?_⟩
  · exact exec_gpioSet ha hd (doGpioSet_pin hk hm hp)
  · exact exec_gpioSet ha hd (doGpioSet_plan hk hp hon hoff)
  · exact exec_gpioSet ha hd (doGpioSet_uart hk hp)
  · rw [exec_owes rfl (by decide) (by decide) ha hd rfl (classOf_gpioSet _) (doGpioSet_i2c hk hp hfree), park_gpioSet rfl]
  · exact exec_gpioSet ha hd (doGpioSet_pads hk hm hp)

/-! Field service (R366, R398 to R402). -/

section Service
variable {s : State} {slot : Nat} {o : Owed}

/-- A staged credential block is answered OK (R398). -/
theorem exec_fwStageDone_creds (programmed : Bool) (h : s.boot.staging = some (1, slot, o)) :
    exec (.fwStageDone programmed) s = .next (trimSeqs o.master (answerOwed o .ok [] { s with
      boot.staging := none, boot.creds := SMap.ins s.boot.creds slot (credBlockOf (o.payload.drop 8))
      boot.staged := SMap.ins s.boot.staged 1 slot })) := by
  change execFwStageDone programmed s = _
  unfold execFwStageDone
  rw [h]
  rfl

/-- A staged image is answered by whether it was programmed whole and passes (R388, R398). -/
theorem exec_fwStageDone_image (programmed : Bool) (h : s.boot.staging = some (0, slot, o)) (hbad : badFlag s.bootRec slot = false) :
    exec (.fwStageDone programmed) s =
      .next (if programmed && imagePasses { s with boot.staging := none } { data := o.payload.drop 8 } then
        trimSeqs o.master (answerOwed o .ok [] { s with
          boot.staging := none, boot.images := SMap.ins s.boot.images slot { data := o.payload.drop 8 }
          boot.staged := SMap.ins s.boot.staged 0 slot })
        else checkFailRun o.master (answerOwed o .authFail [] { s with boot.staging := none })) := by
  have hgood : badFlag (State.bootRec { s with boot.staging := none }) slot = false := hbad
  change execFwStageDone programmed s = _
  unfold execFwStageDone
  rw [h]
  dsimp only
  rw [if_neg (by decide), hgood]
  split <;> rfl

/-- One that was not programmed whole fails, whatever its slot's flag (R330). -/
theorem exec_fwStageDone_unprogrammed (h : s.boot.staging = some (0, slot, o)) : exec (.fwStageDone false) s =
    .next (checkFailRun o.master (answerOwed o .authFail [] { s with boot.staging := none })) := by
  change execFwStageDone false s = _
  unfold execFwStageDone
  rw [h]
  rfl

/-- A loopback that has run its time, or stops with no one waiting for the stop, ends with its result (R400). -/
theorem exec_testLoopEnd_due {iface index : Nat} {res : LoopResult} {l : Loopback}
    (h : (s.boot.loops.find? fun l => l.iface == iface && l.index == index) = some l)
    (hdue : l.stopping = true ∨ l.duration ≤ (s.idx - l.start) * 1000 / s.hz) (hstop : l.stop = none) :
    exec (.testLoopEnd iface index res) s =
      .next (answerOwed l.owed .ok (loopResult l res (min ((s.idx - l.start) * 1000 / s.hz) l.duration))
        { s with boot.loops := s.boot.loops.filter fun k => !(k.iface == iface && k.index == index) }) := by
  change execTestLoopEnd iface index res s = _
  unfold execTestLoopEnd
  rw [h]
  dsimp only
  rw [if_neg (by rcases hdue with h | h <;> simp [h]), hstop]

/-- A port of a fabric that runs is reset by its number (Table 13.3). -/
theorem exec_fabricPortReset_alive {p : PortReset} (halive : s.alive = true) : exec (.fabricPortReset p) s =
    if 2 ≤ p.port.val && p.port.val ≤ 5 then .next (updQuay (p.port.val - 2) (fun u => { u with flight := [] }) s)
    else if p.port.val = 7 then .next (endTransfers (fun t => t.channel == some p.channel) .busy s)
    else if p.port.val = 8 then .next (match p.write with | some e => cutWrite e.1 e.2 s | none => s)
    else if 9 ≤ p.port.val && p.port.val ≤ 11 then
      .next (match p.frame with | some e => cutFrame (p.port.val - 9) e.1 e.2 s | none => s)
    else if p.port.val = 12 then .next (if s.twin.lanes = 0 then abandonWarp s else s)
    else .next s := if_neg (by simp [halive])

end Service

/-- Settles O32: each event of field service, and each port by its number. -/
theorem fieldServiceEvents : Obligations.FieldServiceEvents := by
  intro s
  refine ⟨fun token hup hdbg hshut hvalid => if_pos (by simp [hup, hdbg, hshut, hvalid]),
    fun p slot o h => exec_fwStageDone_creds p h, fun slot o h hbad => exec_fwStageDone_image true h hbad,
    fun slot o h => exec_fwStageDone_unprogrammed h, fun iface index res l h hdue hstop => exec_testLoopEnd_due h hdue hstop,
    fun halive hpcie => if_pos (by simp [halive, hpcie]), rfl, fun p halive => ⟨fun hlo hhi => ?quay, fun h7 => ?crane,
      fun a bytes h8 hw => ?bus, fun b n hlo hhi hf => ?frame⟩⟩
  case quay => exact (exec_fabricPortReset_alive halive).trans (if_pos (by simp [hlo, hhi]))
  case crane =>
    rw [exec_fabricPortReset_alive halive, if_neg (by simp [h7]), if_pos h7]
  case bus =>
    rw [exec_fabricPortReset_alive halive, if_neg (by simp [h8]), if_neg (by omega), if_pos h8, hw]
  case frame =>
    rw [exec_fabricPortReset_alive halive, if_neg (by simp; omega), if_neg (by omega), if_neg (by omega), if_pos (by simp [hlo, hhi]), hf]

end Sys2Proof.Machine
end

section
/-!
PROOFS. TEST_LOOP whose master's session ends as it is accepted (R330, R400): the answer that the test would owe is dropped.
-/
namespace Sys2Proof.Machine

/-! A state that waits for nothing, as it is expected at the next block boundary. -/

theorem projectFrom_noCmds {f : Cmd → Bool} {s : State} (h : s.host.cmds = []) : projectFrom f s = (s, s.toCompute) := by
  unfold projectFrom inOrder
  rw [h, List.filter_nil, List.mergeSort_nil]
  rfl

theorem atBoundary_noCmds {s : State} (h : s.host.cmds = []) :
    atBoundary s = ageTo s.toCompute (max s.toCompute (ceilTo 16 (s.idx + 1))) s := by
  unfold atBoundary project projectTo
  rw [projectFrom_noCmds h]

/-! The end of a session (R325, R330). -/

/-- The answers that the master's loopbacks owe do not go out. -/
theorem resetRing_loops (m : Nat) (s : State) : ∀ l ∈ (resetRing m s).boot.loops, l.owed.master = m → l.owed.dropped = true := by
  intro l hl howner
  rw [(resetRing_spares m s).boot] at hl
  obtain ⟨k, -, rfl⟩ := List.mem_map.1 hl
  change (dropOwed m k.owed).master = m at howner
  change (dropOwed m k.owed).dropped = true
  unfold dropOwed at howner ⊢
  by_cases h : k.owed.master = m
  · rw [if_pos h]
  · rw [if_neg h] at howner
    exact absurd howner h

/-- Sixteen failed authentications in a row end the session of a network master. -/
theorem checkFailRun_loops {m : Nat} {s : State} (hm : 4 ≤ m) (hrun : 16 ≤ (s.master m).failRun) :
    ∀ l ∈ (checkFailRun m s).boot.loops, l.owed.master = m → l.owed.dropped = true := by
  unfold checkFailRun
  rw [if_pos (by simp [hm, hrun])]
  exact resetRing_loops m _

theorem trimSeqs_failRun (m : Nat) (s : State) : ((trimSeqs m s).master m).failRun = (s.master m).failRun := by
  unfold trimSeqs
  rw [updMaster_same]

/-! The test asked for. -/

/-- A start of a loopback in the modes it needs, of an interface that no test holds, owes its answer. -/
theorem doTestLoop_starts {p : Bytes} {at_ s : State} (hp : testLoopOk p = true) (hloop : at_.flag mLoop = true)
    (hdark : loopDark (getU p 0 1) = true → at_.flag mDark = true) (hstart : getU p 7 1 ≠ 1) (hnone : s.boot.loops = []) :
    ∃ l, doTestLoop p at_ s = .owe (openLoop (getU p 0 1) { s with boot.loops := [l] }) 0 := by
  unfold doTestLoop
  dsimp only
  rw [if_neg (by simp [hp]), if_neg (by simpa [hloop] using hdark), if_neg hstart, hnone]
  exact ⟨_, if_neg (by simp)⟩

/-- TEST_LOOP of the UART, for 1 ms. -/
def loopAsked : Req := { master := 4, seq := 1, payload := le 1 5 ++ zeros 5 ++ le 1 5 ++ zeros 1 ++ le 4 1 ++ zeros 12 }

/-- A unit in LOOPBACK that has counted sixteen failed authentications of master 4. -/
def failedMaster : State :=
  { power := { word := BitVec.ofNat 16 (2 ^ mDark + 2 ^ mLoop) }
    boot := { up := true, postDone := true, postPass := true }
    host := { ready := true, masters := [(4, { failRun := 16 })] } }

theorem failedMaster_loopback : (atBoundary (taken loopAsked failedMaster)).flag mLoop = true := by
  rw [atBoundary_noCmds rfl]
  decide

theorem classOf_testLoop (p : Bytes) : classOf .testLoop p {} ≠ .forwarded := by
  unfold classOf
  exact ne_of_beq_false rfl

/-- The unit starts the test, and then ends the session: no answer is owed to the master any more. -/
theorem exec_loopAsked : ∃ t, exec (.testLoop loopAsked) failedMaster = .next t ∧
    ∀ l ∈ t.boot.loops, l.owed.master = 4 → l.owed.dropped = true := by
  obtain ⟨l, starts⟩ := doTestLoop_starts (p := loopAsked.payload) (s := taken loopAsked failedMaster) (by decide)
    failedMaster_loopback (by decide) (by decide) rfl
  refine ⟨_, exec_owes rfl (by decide) (by decide) (by decide) (by decide) rfl (classOf_testLoop _) starts, ?_⟩
  refine checkFailRun_loops (m := 4) (by decide) ?_
  rw [show loopAsked.master.val = 4 from rfl, trimSeqs_failRun]
  exact Nat.le_refl 16

/-- Refutes O23: its clause on TEST_LOOP has the answer owed to the end of the test, and the check of R330 that follows every
acceptance ends the session of a master with sixteen failed authentications in a row, which drops what it is owed (R325):
`failedMaster` accepts `loopAsked`, and the answer of the test it starts is dropped. The clause holds of states whose master has
fewer than sixteen, but the statement asks that of none. -/
theorem not_fieldServiceActs : ¬ Obligations.FieldServiceActs := by
  unfold Obligations.FieldServiceActs
  intro h
  obtain ⟨testLoop, -, -⟩ := h loopAsked failedMaster (by decide)
  obtain ⟨t, claimed, l, hl, -, -, -, -, -, owed⟩ :=
    testLoop (by decide) (by decide) failedMaster_loopback (by decide) (by decide) rfl
  obtain ⟨u, ended, dropped⟩ := exec_loopAsked
  cases Host.Outcome.next.inj (claimed.symm.trans ended)
  have gone := dropped l hl (by rw [owed]; rfl)
  rw [owed] at gone
  exact Bool.false_ne_true gone

end Sys2Proof.Machine
end

section
/-!
PROOFS. Analogue inputs and outputs (R405 to R409, R418, R424).
-/
namespace Sys2Proof.Machine

/-- What holds of the default, and of all that `f` gives, holds of every value of a table changed throughout. -/
theorem get_mapVals_of {α β : Type} [DecidableEq β] {d : β} {f : Nat → α → β} {P : β → Prop} (hd : P d) (hf : ∀ k x, P (f k x))
    (m : List (Nat × α)) (k : Nat) : P (SMap.get d (SMap.mapVals d f m) k) := by
  unfold SMap.get
  cases h : SMap.look (SMap.mapVals d f m) k with
  | none => exact hd
  | some v => exact SMap.all_mapVals (P := fun _ => True) (fun _ _ => trivial) (fun k x _ => hf k x) _ (SMap.mem_of_look h)

/-! Outputs (R407 to R409). -/

section Outputs
variable {o : Nat} {s : State}

/-- An update of an output is told by what it makes of the output's record. -/
theorem updAnaOut_congr {f g : AnaOut → AnaOut} (h : f (s.anaOut o) = g (s.anaOut o)) : updAnaOut o f s = updAnaOut o g s := by
  unfold updAnaOut SMap.upd
  exact congrArg (fun x => { s with io.anaOut := SMap.put {} s.io.anaOut o x }) h

/-- The end of a change to span v: the span is in force, and one that waits begins its ramp (R408). -/
def spanTaken (v : Nat) (a : AnaOut) : AnaOut :=
  let w := a.waiting
  let a := { a with spanNow := v, change := none, waiting := none, ramp := .steady }
  match w with
  | some x => if x = v then a else { a with change := some x, ramp := .span 0 }
  | none => a

theorem exec_spanChangeDone_taken {o : Fin 8} {v : Nat} (h : (s.anaOut o.val).change = some v) :
    exec (.spanChangeDone o) s = .next (updAnaOut o.val (spanTaken v) s) := by
  change execSpanChangeDone o s = _
  unfold execSpanChangeDone
  rw [h]
  rfl

theorem spanTaken_last {v : Nat} {a : AnaOut} (h : a.waiting = none) :
    spanTaken v a = { a with spanNow := v, change := none, waiting := none, ramp := .steady } := by
  unfold spanTaken
  rw [h]

theorem spanTaken_next {v x : Nat} {a : AnaOut} (h : a.waiting = some x) (hx : x ≠ v) :
    spanTaken v a = { a with spanNow := v, change := some x, waiting := none, ramp := .span 0 } := by
  unfold spanTaken
  rw [h]
  exact if_neg hx

/-- The return from the current limit (R408, R409). -/
def limitRetried (a : AnaOut) : AnaOut :=
  if !a.limit then a
  else match a.waiting with
    | some v =>
      if v = a.spanNow then { a with limit := false, waiting := none, ramp := .back 0 }
      else { a with limit := false, waiting := none, change := some v, ramp := .span 1920 }
    | none => { a with limit := false, ramp := .back 0 }

theorem exec_outputLimitRetry {f : AnaOut → AnaOut} {o : Fin 8} (h : limitRetried (s.anaOut o.val) = f (s.anaOut o.val)) :
    exec (.outputLimitRetry o) s = .next (updAnaOut o.val f s) :=
  congrArg Host.Outcome.next (updAnaOut_congr (f := limitRetried) h)

theorem limitRetried_back {a : AnaOut} (hlimit : a.limit = true) (h : a.waiting = none) :
    limitRetried a = { a with limit := false, ramp := .back 0 } := by
  unfold limitRetried
  rw [if_neg (by simp [hlimit]), h]

theorem limitRetried_span {a : AnaOut} {v : Nat} (hlimit : a.limit = true) (h : a.waiting = some v) (hv : v ≠ a.spanNow) :
    limitRetried a = { a with limit := false, waiting := none, change := some v, ramp := .span 1920 } := by
  unfold limitRetried
  rw [if_neg (by simp [hlimit]), h]
  exact if_neg hv

theorem limitRetried_unlimited {a : AnaOut} (hlimit : a.limit = false) : limitRetried a = a := if_pos (by simp [hlimit])

/-- An output at its current limit (R409). -/
def limited (fall : DieRamp) (a : AnaOut) : AnaOut := { a with limit := true, change := none, waiting := none, ramp := fall }

/-- At the limit an output's state is 2, the limit's bit alone (Table 15.3). -/
theorem limited_state {fall : DieRamp} {a : AnaOut} (h : a.supply = false) : (limited fall a).state = 2 := by
  simp [limited, AnaOut.state, h, bit]

theorem exec_outputCurrentLimit {o : Fin 8} (hlimit : (s.anaOut o.val).limit = false) (hsupply : (s.anaOut o.val).supply = false)
    (hwritten : (s.anaOut o.val).written = true) :
    let fall := DieRamp.limit (if (s.anaOut o.val).change.isSome then 384 else 0)
    exec (.outputCurrentLimit o) s = .next (logEvent 18 0 srcDevice [1, o.val, 2] (updAnaOut o.val (limited fall) s)) := by
  intro fall
  have state : ((updAnaOut o.val (limited fall) s).anaOut o.val).state = 2 := by
    rw [updAnaOut_same]
    exact limited_state hsupply
  rw [← state]
  exact if_neg (by simp [hlimit, hsupply, hwritten])

end Outputs

/-- The ramps at the samples where they begin, rest and end (Table 15.4, R409). -/
theorem dieRamp_words (w : Int) :
    (DieRamp.span 0).word 0 w = w ∧ (DieRamp.span 1920).word 0 w = 0 ∧ (DieRamp.span 2687).word 0 w = 0 ∧
    (DieRamp.span 4608).word 0 w = w ∧ (DieRamp.limit 384).word 0 w = 0 ∧ (DieRamp.back 0).word 0 w = 0 := by
  simp [DieRamp.word, DieRamp.weight]

/-! Supply faults (R424). -/

/-- An output whose supply is gone: at 0 V at once. -/
def unsupplied (a : AnaOut) : AnaOut :=
  { a with supply := true, limit := false, change := none, waiting := none, ramp := .steady, short := []
           words := a.words.map fun _ => 0 }

theorem anaOut_foldl_other {f : AnaOut → AnaOut} {l : List Nat} {o : Nat} (ho : o ∉ l) (s : State) :
    (l.foldl (fun s o => updAnaOut o f s) s).anaOut o = s.anaOut o := by
  induction l generalizing s with
  | nil => rfl
  | cons k l ih =>
    obtain ⟨hne, hl⟩ := not_or.1 (mt List.mem_cons.2 ho)
    rw [List.foldl_cons, ih hl, updAnaOut_other _ _ _ _ hne]

/-- One update of each output of a list is that update of each. -/
theorem anaOut_foldl {f : AnaOut → AnaOut} {l : List Nat} (hl : l.Nodup) {o : Nat} (ho : o ∈ l) (s : State) :
    (l.foldl (fun s o => updAnaOut o f s) s).anaOut o = f (s.anaOut o) := by
  induction l generalizing s with
  | nil => simp at ho
  | cons k l ih =>
    obtain ⟨hk, hl'⟩ := List.nodup_cons.1 hl
    rw [List.foldl_cons]
    rcases List.mem_cons.1 ho with rfl | ho'
    · rw [anaOut_foldl_other hk, updAnaOut_same]
    · rw [ih hl' ho', updAnaOut_other _ _ _ _ fun (h : o = k) => hk (h ▸ ho')]

/-- The outputs without their supply. -/
def outputsLost (s : State) : State := (List.range 8).foldl (fun s o => updAnaOut o unsupplied s) s

/-- Phantom power and the loops' current without it. -/
def feedsLost (s : State) : State :=
  { s with
    io.supplyFault := true
    io.anaIn := SMap.mapVals {} (fun _ (a : AnaIn) => { a with phantom := false, ramping := false }) s.io.anaIn
    io.loops := SMap.mapVals {} (fun _ (l : Loop) => { l with out := 0, latched := l.configured }) s.io.loops }

theorem feedsLost_anaOut (o : Nat) (s : State) : (feedsLost s).anaOut o = s.anaOut o := rfl

/-- What a supply fault writes, before its log entry. -/
def supplyLost (s : State) : State := feedsLost (outputsLost s)

theorem exec_analogueSupplyFault {s : State} (h : s.io.supplyFault = false) :
    exec .analogueSupplyFault s = .next (localFault 1 0 ((supplyLost s).anaOut 0).state (supplyLost s)) :=
  if_neg (by simp [h])

theorem supplyLost_anaOut {o : Nat} (ho : o < 8) (s : State) : (supplyLost s).anaOut o = unsupplied (s.anaOut o) := by
  rw [supplyLost, feedsLost_anaOut, outputsLost, anaOut_foldl List.nodup_range (List.mem_range.2 ho)]

/-- It is a matter of the local inputs and outputs alone. -/
theorem supplyLost_io (s : State) : ∃ io, supplyLost s = { s with io := io } := by
  obtain ⟨outs, h⟩ := foldl_updAnaOut_io (fun _ => unsupplied) (List.range 8) s
  rw [supplyLost, outputsLost, h]
  exact ⟨_, rfl⟩

theorem supplyLost_phantom (i : Nat) (s : State) : ((supplyLost s).anaIn i).phantom = false :=
  get_mapVals_of (f := fun _ (a : AnaIn) => { a with phantom := false, ramping := false }) (P := fun a => a.phantom = false) rfl
    (fun _ _ => rfl) _ i

theorem supplyLost_loop (l : Nat) (s : State) : ((supplyLost s).loop l).out = 0 :=
  get_mapVals_of (f := fun _ (l : Loop) => { l with out := 0, latched := l.configured }) (P := fun a => a.out = 0) rfl
    (fun _ _ => rfl) _ l

theorem HostOnly.io {s t : State} (h : HostOnly s t) : t.io = s.io := by unfold HostOnly at h; rw [h]

/-- Settles O53: inputs and outputs by what each event makes of a record, and the supply's faults by what they make of all. -/
theorem analogueInputsAndOutputs : Obligations.AnalogueInputsAndOutputs := by
  refine ⟨fun i s => ⟨rfl, rfl, fun hphantom hfault => if_neg (by simp [hphantom, hfault])⟩, fun o s =>
    ⟨fun v hv hw => ?last, fun v x hv hw hx => ?next, fun hlimit hsupply hwritten => exec_outputCurrentLimit hlimit hsupply hwritten,
      fun hlimit hw => ?back, fun v hlimit hw hv => ?retried, fun hlimit => ?unlimited, dieRamp_words, fun hfault => ?lost, ?restored⟩⟩
  case last => exact (exec_spanChangeDone_taken hv).trans (congrArg Host.Outcome.next (updAnaOut_congr (spanTaken_last hw)))
  case next => exact (exec_spanChangeDone_taken hv).trans (congrArg Host.Outcome.next (updAnaOut_congr (spanTaken_next hw hx)))
  case back => exact exec_outputLimitRetry (limitRetried_back hlimit hw)
  case retried => exact exec_outputLimitRetry (limitRetried_span hlimit hw hv)
  case unlimited => exact exec_outputLimitRetry (limitRetried_unlimited hlimit)
  case lost =>
    have only : HostOnly (supplyLost s) (localFault 1 0 ((supplyLost s).anaOut 0).state (supplyLost s)) := logEvent_host ..
    obtain ⟨t, ht⟩ : ∃ t, t = localFault 1 0 ((supplyLost s).anaOut 0).state (supplyLost s) := ⟨_, rfl⟩
    rw [← ht] at only
    obtain ⟨io, kept⟩ := supplyLost_io s
    have out : t.anaOut o.val = unsupplied (s.anaOut o.val) := by
      rw [State.anaOut, only.io]
      exact supplyLost_anaOut o.isLt s
    refine ⟨t, ht ▸ exec_analogueSupplyFault hfault, ?_, by rw [out]; rfl, by rw [out]; rfl, fun w hw => ?_, ?_, fun l => ?_, ?_, ?_⟩
    · rw [only.io]
      rfl
    · rw [out] at hw
      obtain ⟨_, _, rfl⟩ := List.mem_map.1 hw
      rfl
    · rw [State.anaIn, only.io]
      exact supplyLost_phantom o.val s
    · rw [State.loop, only.io]
      exact supplyLost_loop l s
    · rw [only.scene, kept]
    · rw [only.rend, kept]
  case restored =>
    refine ⟨_, rfl, rfl, ?_, rfl⟩
    exact get_mapVals_of (d := ({} : AnaOut)) (f := fun _ (a : AnaOut) => { a with supply := false }) (P := fun a => a.supply = false) rfl
      (fun _ _ => rfl) _ o.val

end Sys2Proof.Machine
end
